-- ==== Sys2Proof/Word.lean ====
section
/-! DEFINITION. The word types of the KV7 (spec 00 R7, R8) and their plainest arithmetic. -/

namespace Sys2Proof

abbrev Byte := BitVec 8
abbrev Dword := BitVec 64

/-- Bits [hi:lo] of a natural number read as a bit pattern (R7). -/
def natBits (x hi lo : Nat) : Nat := (x >>> lo) % 2 ^ (hi + 1 - lo)

/-- Bit i of a natural number read as a bit pattern. -/
def natBit (x i : Nat) : Bool := x.testBit i

/-- Round a natural number up to a multiple of m. -/
def roundUp (x m : Nat) : Nat := (x + m - 1) / m * m

/-- The integer that a w-bit pattern denotes in two's complement. -/
def toSigned (w x : Nat) : Int := if x < 2 ^ (w - 1) then x else (x : Int) - 2 ^ w

/-- The w-bit pattern of an integer, wrapped (R46). -/
def wrap (w : Nat) (x : Int) : Nat := (x % (2 ^ w : Int)).toNat

end Sys2Proof
end

