-- ==== Sys2Proof/Syntax.lean ====
section
/-! DEFINITION. The operations of the KV7: the 128-bit slot-word instructions of R75 and R87, and the steps of the hardware
and the host that spec/opcode_table.json lists beside them. An instruction carries its decoded slot word; a step of the
hardware or the host has no word in the spec and carries what it acts on. -/

namespace Sys2Proof

/-- The sixteen type codes (R45, R48), in the order of their codes. -/
inductive Ty where
  | b32 | b64 | s32 | s64 | n32 | n64 | s16 | n16 | s8 | n8 | f16 | bf16 | f32 | f64 | h2 | bh2
  deriving DecidableEq, Repr

/-- Predicate modes (R77); 0b11 is an illegal configuration word. -/
inductive PredMode where
  | none | ifTrue | ifFalse
  deriving DecidableEq, Repr

/-- Thread constants (R37), in the order of their values. -/
inductive ThreadConst where
  | tid | tidx | tidy | tidz | wgid | wgdim | lane | gsize | gmask | coreid | clusterid | slot | iter | depth | grpcount | param
  deriving DecidableEq, Repr

/-- Operand specifiers (R79). -/
inductive Src where
  | token
  | pool (index : BitVec 10)
  | const (c : ThreadConst)
  | absent
  deriving DecidableEq, Repr

/-- The ports of a slot (R77, R81). For a scale destination a is S0 and b is S1 (R165). -/
inductive PortId where
  | a | b | c | p
  deriving DecidableEq, Repr

/-- Edge-island ports (R82). -/
inductive IslandPort where
  | mxa | mxb | mxsa | mxsb
  | sp (n : BitVec 4)
  deriving DecidableEq, Repr

/-- Destinations (R81). -/
inductive Dst where
  | none
  | port (elem : BitVec 7) (slot : BitVec 4) (p : PortId)
  | island (p : IslandPort)
  | stacks (n : BitVec 7)
  deriving DecidableEq, Repr

/-- The fields of a slot word after its opcode (R75). MOD, XF and IMM are read by each class as R80, R84 and R85 give; the
named readings stand below. -/
structure SlotWord where
  ty : Ty
  mod : BitVec 4
  pm : PredMode
  a : Src
  b : Src
  c : Src
  d0 : Dst
  d1 : Dst
  xf : BitVec 6
  imm : BitVec 32
  deriving DecidableEq, Repr

/-- Access kinds of a fault record (R363), in the order of their codes. -/
inductive AccessKind where
  | none | read | write | rmw | engineRead | engineWrite | inStream | outStream | configFetch | walk | scrub
  deriving DecidableEq, Repr

/-- How a BAR 0 register is accessed (R392): the dword or one of its words. -/
inductive RegAccess where
  | dword | low | high
  deriving DecidableEq, Repr

/-- The answer to an ATS translation request (R377): a page with its place and permissions, or no translation. -/
inductive AtsAnswer where
  | page (busAddr sizeLog : Nat) (rd wr : Bool)
  | noTranslation
  deriving DecidableEq, Repr

/-- The answer to a page request (R377). -/
inductive PriAnswer where
  | success | invalidRequest | responseFailure
  deriving DecidableEq, Repr

/-- Pre-emption depths (R383). -/
inductive PreemptDepth where
  | launch | workgroup | load
  deriving DecidableEq, Repr

/-- An access of the host or of a peer device (R391, R194): a size is in bytes. -/
inductive MemOp where
  | read (size : Nat)
  | write (bytes : List Byte)
  | fetchAdd (size value : Nat)
  | swap (size value : Nat)
  | cas (size expected new : Nat)
  | atom (op : BitVec 4) (ty : Ty) (value : Nat)   -- an operation of R191, which another device asks for
  | ticket                                         -- a request to the ordering point (R432), at no address
  deriving DecidableEq, Repr

/-- What an owner command asks (R424). -/
inductive OwnerOp where
  | program (slot : Nat) (digest : List Byte)
  | revoke (slot : Nat)
  deriving DecidableEq, Repr

/-- An owner command: the slot whose key signs it, that public key and the signature (R424). -/
structure OwnerCmd where
  signer : Nat
  modulus : Nat
  exponent : Nat
  op : OwnerOp
  signature : Nat
  deriving DecidableEq, Repr

/-- One constructor per row of spec/opcode_table.json; the rows without operands stand last. -/
inductive Instr where
  | add (w : SlotWord)
  | sub (w : SlotWord)
  | mul (w : SlotWord)
  | mulh (w : SlotWord)
  | mad (w : SlotWord)
  | div (w : SlotWord)
  | rem (w : SlotWord)
  | neg (w : SlotWord)
  | abs (w : SlotWord)
  | min (w : SlotWord)
  | max (w : SlotWord)
  | and (w : SlotWord)
  | or (w : SlotWord)
  | xor (w : SlotWord)
  | not (w : SlotWord)
  | shl (w : SlotWord)
  | shr (w : SlotWord)
  | sar (w : SlotWord)
  | rol (w : SlotWord)
  | ror (w : SlotWord)
  | clz (w : SlotWord)
  | ctz (w : SlotWord)
  | popc (w : SlotWord)
  | brev (w : SlotWord)
  | bfx (w : SlotWord)
  | bfi (w : SlotWord)
  | cmp (w : SlotWord)
  | sel (w : SlotWord)
  | sext (w : SlotWord)
  | zext (w : SlotWord)
  | addc (w : SlotWord)
  | subb (w : SlotWord)
  | lea (w : SlotWord)
  | mov (w : SlotWord)
  | const (w : SlotWord)
  | fadd (w : SlotWord)
  | fsub (w : SlotWord)
  | fmul (w : SlotWord)
  | ffma (w : SlotWord)
  | fneg (w : SlotWord)
  | fabs (w : SlotWord)
  | fmin (w : SlotWord)
  | fmax (w : SlotWord)
  | fcmp (w : SlotWord)
  | fcvt (w : SlotWord)
  | fcvti (w : SlotWord)
  | icvtf (w : SlotWord)
  | frnd (w : SlotWord)
  | fdiv (w : SlotWord)
  | frcp (w : SlotWord)
  | fsqrt (w : SlotWord)
  | frsq (w : SlotWord)
  | fexp2 (w : SlotWord)
  | flog2 (w : SlotWord)
  | fsin (w : SlotWord)
  | fcos (w : SlotWord)
  | fclass (w : SlotWord)
  | fscale (w : SlotWord)
  | ffrexp (w : SlotWord)
  | fsign (w : SlotWord)
  | fpmodeImm (w : SlotWord)
  | fpmodeVal (w : SlotWord)
  | hadd2 (w : SlotWord)
  | hmul2 (w : SlotWord)
  | hfma2 (w : SlotWord)
  | fdot2 (w : SlotWord)
  | ecatch (w : SlotWord)
  | bmax (w : SlotWord)
  | bscale (w : SlotWord)
  | bquant (w : SlotWord)
  | bdequant (w : SlotWord)
  | bpack (w : SlotWord)
  | bunpack (w : SlotWord)
  | bdot (w : SlotWord)
  | bsfwd (w : SlotWord)
  | entry (w : SlotWord)
  | lvr (w : SlotWord)
  | lvw (w : SlotWord)
  | fan (w : SlotWord)
  | steer (w : SlotWord)
  | mergeFirst (w : SlotWord)
  | mergeJoin (w : SlotWord)
  | sink (w : SlotWord)
  | lhead (w : SlotWord)
  | lsparse (w : SlotWord)
  | ltail (w : SlotWord)
  | lexit (w : SlotWord)
  | br (w : SlotWord)
  | jmp (w : SlotWord)
  | brx (w : SlotWord)
  | call (w : SlotWord)
  | ret (w : SlotWord)
  | exit (w : SlotWord)
  | barSync (w : SlotWord)
  | barArrive (w : SlotWord)
  | barWait (w : SlotWord)
  | gate (w : SlotWord)
  | release (w : SlotWord)
  | trap (w : SlotWord)
  | ld (w : SlotWord)
  | st (w : SlotWord)
  | atom (w : SlotWord)
  | cas (w : SlotWord)
  | cas2 (w : SlotWord)
  | fence (w : SlotWord)
  | sptest (w : SlotWord)
  | spcastTo (w : SlotWord)
  | spcastFrom (w : SlotWord)
  | pref (w : SlotWord)
  | gth (w : SlotWord)
  | sct (w : SlotWord)
  | mtld (w : SlotWord)
  | mtst (w : SlotWord)
  | shfl (w : SlotWord)
  | lpush (w : SlotWord)
  | vote (w : SlotWord)
  | gscan (w : SlotWord)
  | gred (w : SlotWord)
  | gbcast (w : SlotWord)
  | gmatch (w : SlotWord)
  | xbegin (w : SlotWord)
  | xround (w : SlotWord)
  | xsegred (w : SlotWord)
  | xend (w : SlotWord)
  | mxop (w : SlotWord)
  | mxzero (w : SlotWord)
  | mxld (w : SlotWord)
  | mxrd (w : SlotWord)
  | mxst (w : SlotWord)
  | mxrel (w : SlotWord)
  | mxinfo (w : SlotWord)
  | cpy (w : SlotWord)
  | cpyms (w : SlotWord)
  | cpysm (w : SlotWord)
  | cpyss (w : SlotWord)
  | cpymc (w : SlotWord)
  | sget (w : SlotWord)
  | sput (w : SlotWord)
  | sclose (w : SlotWord)
  | chdone (w : SlotWord)
  | ewait (w : SlotWord)
  | agcfg (w : SlotWord)
  | recalloc (w : SlotWord)
  | recw (w : SlotWord)
  | recrd (w : SlotWord)
  | recemit (w : SlotWord)
  | recinfo (w : SlotWord)
  | nop (w : SlotWord)
  | rdclk (w : SlotWord)
  | rdctr (w : SlotWord)
  | sysrd (w : SlotWord)
  | syswr (w : SlotWord)
  | brk (w : SlotWord)
  | hint (w : SlotWord)
  | fltrd (w : SlotWord)
  | fltrdClr (w : SlotWord)
  | faultedDrained (core thread : Nat)
  | admitWorkgroup (launch cluster : Nat)
  | gangSnapshot (core : Nat)
  | tokenArrival (core index : Nat)
  | elementIssue (core elem : Nat)
  | creditReturn (core index : Nat)
  | loopIssue (core elem slot : Nat)
  | tagStarve (core index : Nat)
  | matrixAccept (core : Nat)
  | matrixExecuteComplete (core : Nat)
  | accExhausted (core : Nat)
  | engineOperationComplete (core transfer : Nat)
  | copyBurst (core transfer : Nat)
  | remoteUnreachable (device : Nat)
  | pinWatchdog (core : Nat)
  | waitWatchdog (core index : Nat)
  | switchBegin (core : Nat)
  | flip (core : Nat)
  | decodeStart (core : Nat)
  | decodeReady (core : Nat)
  | configCacheFill (core : Nat)
  | validateKernel (core launch : Nat)
  | tileRequestService (core bank : Nat)
  | cacheFill (core line mask : Nat)
  | l2Store (core addr width : Nat) (value : BitVec 64)
  | gets (die line mask : Nat)
  | getm (die line mask : Nat)
  | putm (die line mask : Nat)
  | puts (die line mask : Nat)
  | invalidation (die line mask : Nat)
  | backInvalidationSnoop (die line half : Nat)
  | hostHalfRequest (line half : Nat)
  | patrolScrub (line : Nat)
  | tableWalk (core ctx va : Nat) (kind : AccessKind)
  | atsResponse (die ctx va : Nat) (answer : AtsAnswer)
  | priResponse (ctx va : Nat) (answer : PriAnswer)
  | atsInvalidateRequest (pasid va : Nat) (all : Bool)
  | fqResume (seq : BitVec 32)
  | fqRdWrite (seq : BitVec 32)
  | fqStatRead (acc : RegAccess)
  | xltInv (value : BitVec 64)
  | dqPush (value : BitVec 64)
  | dqPop (acc : RegAccess)
  | dqStatClear (value : BitVec 64)
  | loadPreempt (launch : Nat)
  | workgroupPreempt (launch : Nat)
  | launchPreempt (queue : Nat)
  | restore (launch : Nat)
  | quantumExpiry (queue : Nat)
  | notify (queue : Nat) (index : BitVec 64)
  | qctlEnable (queue : Nat)
  | qctlDisable (queue : Nat)
  | packetHeaderPoll (queue : Nat)
  | packetNop (queue : Nat)
  | packetLaunch (queue : Nat)
  | packetGraph (queue : Nat)
  | packetCopy (queue : Nat)
  | packetWaitsig (queue : Nat)
  | packetBarrierAnd (queue : Nat)
  | packetRetire (queue : Nat)
  | launchComplete (launch : Nat)
  | eventToken (index : Nat)
  | firmwareTimer (timer : Nat)
  | hevStatRead (acc : RegAccess)
  | lmbGo (value : BitVec 64)
  | lmbStatRead (acc : RegAccess)
  | fenceCore (unit : Nat) (reason : Nat)
  | fenceCluster (unit : Nat) (reason : Nat)
  | fenceStack (unit : Nat) (reason : Nat)
  | fencePort (unit : Nat) (reason : Nat)
  | functionReady (bit : Nat)
  | bootCmd (value : BitVec 64)
  | ownerCommand (cmd : OwnerCmd)
  | attCmd (value : BitVec 64)
  | thermalCrossing (sensor lid jmax : Nat) (up : Bool)
  | thermalShutdown (sensor lid jmax : Nat) (junction : Bool)
  | muwinPortState (port state peer lanes : Nat)
  | mwpStatRead (port : Nat) (acc : RegAccess)
  | flitReplay (port : Nat)
  | scTicket (core index : Nat)
  | launcherTick (die : Nat)
  | recordPoolExhausted (core index : Nat)
  | graphComplete (launch : Nat)
  | graphPreempt (launch : Nat) (depth : PreemptDepth)
  | registerWrite (offset size : Nat) (value : Option (BitVec 64))
  | hostBar2Access (offset : Nat) (op : MemOp)
  | muwinPeerAccess (addr : Nat) (op : MemOp)
  | thermalSensorLost (sensor : Nat)
  | deferredRecordWrite
  | xltInvDone
  | pageRelease
  | coldReset
  | warmReset
  | quoteComplete
  | governorTick
  | powerLoss
  | eventTokenRetry
  deriving DecidableEq, Repr

end Sys2Proof
end

