-- ==== Sys2Proof/Config.lean ====
section
/-! DEFINITION. What an implementation or its maker fixes, and the free values: constants without a body, which no proof can
evaluate (notes/assumptions 1, 3, 9, 10, 11). -/

namespace Sys2Proof.Config

/-- Cores of the package (R2). -/
def cores : Nat := 320
/-- Thread slots of a core (R13). -/
def threadSlots : Nat := 8192
/-- Dwords of the stacks of a core (R3). -/
def stackDwords : Nat := 131072
/-- Accumulator slots of a core (R3). -/
def accSlots : Nat := 128
/-- Bytes of a memory tile (R286). -/
def tileBytes : Nat := 32768
/-- First address beyond device memory (R295). -/
def devBytes : Nat := 2 ^ 39

/-- Which of the enabled activities happens next (log 1). -/
opaque schedule : Nat → Nat
/-- How many fabric cycles pass at a step (log 3). -/
opaque stepCycles : Nat → Nat
/-- A byte of a record that nothing has written (R256: undefined until written). -/
opaque freeByte : Nat → BitVec 8
/-- Silicon stepping, DEV_ID.STEP, for which R393 gives no reset value (log 9). -/
opaque stepping : BitVec 16

/-- A signed firmware image as the boot ROM reads it (R423): the slot it names, the public key it carries, its body and the
signature as a number. -/
structure Image where
  slot : Nat
  modulus : Nat
  exponent : Nat
  body : List Byte
  signature : Nat
  deriving DecidableEq, Repr

/-- A key slot (R423): digest and fuses. -/
structure KeySlot where
  digest : List Byte
  programmed : Bool
  revoked : Bool
  deriving DecidableEq, Repr, Inhabited

/-- How the ROM finds key, body and signature in the bytes of an image: the spec gives no layout (log 10). -/
opaque parseImage : List Byte → Option Image
/-- The later boot stages of a flash, 0 to 3 in the order of R427: hart firmware, event program, HBM training code, link firmware; the
spec gives no layout (log 10). -/
opaque laterStage : List Byte → Nat → Option Image
/-- The four later stages: one that the flash does not hold is missing. -/
def laterStages (flash : List Byte) : List (Option Image) := (List.range 4).map (laterStage flash)
/-- The bytes that a signature on an owner command covers (R424 gives no layout, log 10). -/
opaque ownerMessage : OwnerOp → List Byte
/-- A fused key slot as the part was made (R423, log 10). -/
opaque fusedSlot : Nat → KeySlot
/-- The three key slots: slot 0 is the vendor's, slots 1 and 2 are the owner's (R423). -/
def fusedSlots : List KeySlot := (List.range 3).map fusedSlot
/-- The board's firmware flash as the board was made (R419, R426, log 10). -/
opaque flash : List Byte
/-- Fields of the identity certificate that the spec leaves to its maker, in DER: 0 the serial number, 1 the issuer, 2 the validity, 3 the
subject, 4 the extensions (R428, log 10). -/
opaque certField : Nat → List Byte
/-- Modulus of the vendor key (R428, log 10). -/
opaque vendorModulus : Nat
/-- Private exponent of the vendor key (R428, log 10). -/
opaque vendorExponent : Nat
/-- Public exponent of the device identity key (R428, log 10). -/
opaque identityPublic : Nat
/-- Boot count before the first cold reset that the model sees (R428, log 10). -/
opaque bootCount : BitVec 64
/-- Modulus of the device identity key (R428, log 10). -/
opaque identityModulus : Nat
/-- Private exponent of the device identity key, never readable (R428, log 10). -/
opaque identityExponent : Nat
/-- The bytes of a public key that a slot's digest covers, from modulus and exponent (R423 gives no layout, log 10). -/
opaque keyBytes : Nat → Nat → List Byte
/-- The bytes of the fuse state that MEAS5 measures (R427 gives no layout, log 10). -/
opaque fuseBytes : List KeySlot → List Byte
/-- What the host port negotiates when its link comes up: bits [23:6] of HOSTCAP (R393, log 18). -/
opaque hostLink : BitVec 64
/-- BAR 2 is sized to 512 GiB (R391, log 18). -/
opaque bar2Full : Bool
/-- The memory map that the firmware selects at boot is die-partitioned (R303, log 12). -/
opaque diePartitioned : Bool
/-- Pairs of event kinds that the event program matches beyond NOTIFY with ROOM (R409, log 11). -/
opaque eventPair : Nat → Nat → Bool
/-- Whether the host completes atomic operations of a width in bits, whatever HOSTCAP says (R393, log 18). -/
opaque hostCompletes : Nat → Bool
/-- Data of a dword that an overlapping copy may take from before or after itself (R240, log 14). -/
opaque overlapChoice : Nat → Bool

/-- What a task leaves in a control hart: by step and hart, the value at a place of its register file (R408; log 77). -/
opaque hartValue : Nat → Nat → Nat → BitVec 64
/-- What the harts have written to control SRAM by a step: byte addresses and bytes (R408; log 77). -/
opaque sramWrites : Nat → List (Nat × Byte)
/-- Whether the task of a hart ends at a step (R410; log 77). -/
opaque taskEnds : Nat → Nat → Bool
/-- Whether the hub die fails its self-test at a boot of a number (R418; log 77). -/
opaque hubTestFails : BitVec 64 → Bool

/-- What can go wrong with stored bits (R183, R286, R304, R362): nothing, a burst of HBM that can no longer be corrected, an error of a
page that was corrected, a dword of a memory tile, a live value in the stacks, an accumulator element, a dword in a die slice, a load
in a configuration cache. -/
inductive Decay where
  | none
  | burst (n : Nat)
  | corrected (page : Nat)
  | tile (core dword : Nat)
  | stack (core thread lv : Nat)
  | acc (core elem : Nat)
  | slice (die dword : Nat)
  | config (core index : Nat)
  deriving DecidableEq, Repr, Inhabited

/-- What goes wrong at a step (log 74). -/
opaque decays : Nat → Decay

end Sys2Proof.Config
end

