-- ==== Sys2Proof/Machine/Fields.lean ====
section
/-! DEFINITION. The named readings of types and of the class fields MOD, XF and IMM of a slot word (spec 02 R45, R48, R54;
03 R80, R84, R85, R89). -/

namespace Sys2Proof

/-- Codes of the types (R45, R48). -/
def Ty.code : Ty → Nat
  | .b32 => 0 | .b64 => 1 | .s32 => 2 | .s64 => 3 | .n32 => 4 | .n64 => 5 | .s16 => 6 | .n16 => 7
  | .s8 => 8 | .n8 => 9 | .f16 => 10 | .bf16 => 11 | .f32 => 12 | .f64 => 13 | .h2 => 14 | .bh2 => 15

/-- All types in the order of their codes. -/
def Ty.all : List Ty := [.b32, .b64, .s32, .s64, .n32, .n64, .s16, .n16, .s8, .n8, .f16, .bf16, .f32, .f64, .h2, .bh2]

/-- The type of a code. -/
def Ty.ofCode (n : Nat) : Ty := (Ty.all[n % 16]?).getD .b32

/-- Width in bits (R45, R48); a packed pair is 32 bits. -/
def Ty.width : Ty → Nat
  | .b32 | .s32 | .n32 | .f32 | .h2 | .bh2 => 32
  | .b64 | .s64 | .n64 | .f64 => 64
  | .s16 | .n16 | .f16 | .bf16 => 16
  | .s8 | .n8 => 8

/-- Access width in bytes (R180). -/
def Ty.bytes (t : Ty) : Nat := t.width / 8

/-- The .s types. -/
def Ty.signed : Ty → Bool
  | .s8 | .s16 | .s32 | .s64 => true
  | _ => false

/-- The .b types. -/
def Ty.isBits : Ty → Bool
  | .b32 | .b64 => true
  | _ => false

/-- The IEEE formats, packed pairs left out. -/
def Ty.isFloat : Ty → Bool
  | .f16 | .bf16 | .f32 | .f64 => true
  | _ => false

/-- Packed pairs. -/
def Ty.isPacked : Ty → Bool
  | .h2 | .bh2 => true
  | _ => false

/-- The element type of a packed pair, and any other type itself (R48). -/
def Ty.elem : Ty → Ty
  | .h2 => .f16
  | .bh2 => .bf16
  | t => t

/-- Type set AR (R114). -/
def Ty.ar : List Ty := [.s8, .n8, .s16, .n16, .s32, .n32, .s64, .n64]
/-- Type set SG (R114). -/
def Ty.sg : List Ty := [.s8, .s16, .s32, .s64]
/-- Type set BT (R114). -/
def Ty.bt : List Ty := [.b32, .b64]
/-- Type set W (R114). -/
def Ty.wset : List Ty := [.s32, .n32, .s64, .n64]
/-- Type set FS (R149). -/
def Ty.fs : List Ty := [.f16, .bf16, .f32, .f64]
/-- Type set FT (R149). -/
def Ty.ft : List Ty := [.f16, .bf16, .f32]
/-- Type set FP2 (R149). -/
def Ty.fp2 : List Ty := [.h2, .bh2]

/-- Values of the thread constants (R37), in order. -/
def ThreadConst.all : List ThreadConst :=
  [.tid, .tidx, .tidy, .tidz, .wgid, .wgdim, .lane, .gsize, .gmask, .coreid, .clusterid, .slot, .iter, .depth, .grpcount, .param]

/-- The value that names a thread constant (R37). -/
def ThreadConst.code : ThreadConst → Nat
  | .tid => 0 | .tidx => 1 | .tidy => 2 | .tidz => 3 | .wgid => 4 | .wgdim => 5 | .lane => 6 | .gsize => 7
  | .gmask => 8 | .coreid => 9 | .clusterid => 10 | .slot => 11 | .iter => 12 | .depth => 13 | .grpcount => 14 | .param => 15

/-- Access-kind codes of a fault record (R363). -/
def AccessKind.code : AccessKind → Nat
  | .none => 0 | .read => 1 | .write => 2 | .rmw => 3 | .engineRead => 4 | .engineWrite => 5 | .inStream => 6
  | .outStream => 7 | .configFetch => 8 | .walk => 9 | .scrub => 10

/-- Rounding modes (R18, R54). -/
inductive Rm where
  | rne | rtz | rup | rdn | rna
  deriving DecidableEq, Repr

/-- What a rounding MOD selects (R54): the latch, or a mode; and saturation. -/
structure Rounding where
  static : Option Rm
  sat : Bool
  deriving DecidableEq, Repr

/-- Rounding-mode codes of the FP mode byte and of MOD (R18, R54). -/
def Rm.ofCode : Nat → Option Rm
  | 1 => some .rne | 2 => some .rtz | 3 => some .rup | 4 => some .rdn | 5 => some .rna
  | _ => none

/-- MOD as a rounding mode (R54): none for 0x6, 0x7, 0xE and 0xF. -/
def roundingOfMod (m : BitVec 4) : Option Rounding :=
  let k := m.toNat % 8
  let sat := decide (8 ≤ m.toNat)
  if k = 0 then some ⟨none, sat⟩ else (Rm.ofCode k).map (fun r => ⟨some r, sat⟩)

/-- Memory orderings (R85). -/
inductive Ordering3 where
  | rlx | acq | rel | ar
  deriving DecidableEq, Repr

/-- Scopes (R85, R268), narrowest first. -/
inductive Scope where
  | thread | wg | cl | dev | dom | sys
  deriving DecidableEq, Repr

/-- Scope codes of XF[3:1], with none as thread scope (R85, R268). -/
def Scope.code : Scope → Nat
  | .thread => 0 | .wg => 1 | .cl => 2 | .dev => 3 | .dom => 4 | .sys => 5

/-- Address spaces of IMM[2:0] (R178). -/
inductive Space where
  | x | g | p | s | c
  deriving DecidableEq, Repr

namespace SlotWord

/-- XF[5:4] of the memory class (R85). -/
def ordering (w : SlotWord) : Ordering3 :=
  match natBits w.xf.toNat 5 4 with
  | 1 => .acq | 2 => .rel | 3 => .ar | _ => .rlx

/-- XF[3:1] of the memory class (R85). -/
def scope (w : SlotWord) : Scope :=
  match natBits w.xf.toNat 3 1 with
  | 1 => .wg | 2 => .cl | 3 => .dev | 4 => .dom | 5 => .sys | _ => .thread

/-- XF bit 0 of the memory, copy and record classes (R78). -/
def ordin (w : SlotWord) : Bool := natBit w.xf.toNat 0

/-- IMM bits [hi:lo]. -/
def immBits (w : SlotWord) (hi lo : Nat) : Nat := natBits w.imm.toNat hi lo

/-- The space code (R178). -/
def space (w : SlotWord) : Space :=
  match w.immBits 2 0 with
  | 1 => .g | 2 => .p | 3 => .s | 4 => .c | _ => .x

/-- The tile code of IMM[13:8] (R178). -/
def tile (w : SlotWord) : Nat := w.immBits 13 8

/-- The buffer of IMM[15:14] (R178). -/
def buffer (w : SlotWord) : Nat := w.immBits 15 14

/-- IMM sign-extended to 64 bits (R122). -/
def immSigned (w : SlotWord) : BitVec 64 := w.imm.signExtend 64

/-- The rounding that MOD selects; MOD values R54 leaves out are refused by the loader. -/
def rounding (w : SlotWord) : Rounding := (roundingOfMod w.mod).getD ⟨none, false⟩

/-- Block length n of XF[2] (R85). -/
def blockLen (w : SlotWord) : Nat := if natBit w.xf.toNat 2 then 32 else 16

/-- Mantissa width m of XF[5:3] (R85). -/
def mantWidth (w : SlotWord) : Nat := natBits w.xf.toNat 5 3 + 1

/-- LEVEL of IMM[8] (R132, R163). -/
def level (w : SlotWord) : Nat := w.immBits 8 8

/-- Window W of a resident-loop header (R132). -/
def window (w : SlotWord) : Nat := w.immBits 5 0 + 1

/-- SPAN of IMM[16] (R206). -/
def span (w : SlotWord) : Bool := natBit w.imm.toNat 16

/-- Reduction operation of XF[3:1] (R85). -/
def redOp (w : SlotWord) : Nat := natBits w.xf.toNat 3 1

/-- Accumulator handle of IMM[7:0] (R225). -/
def handle (w : SlotWord) : Nat := w.immBits 7 0

/-- Block-FP form of `mxop` (R225): its widths are not both zero. -/
def mxBlock (w : SlotWord) : Bool := w.xf != 0

/-- Channel of IMM[21:16] when CHV of IMM[22] is set (R239). -/
def channel (w : SlotWord) : Option Nat := if natBit w.imm.toNat 22 then some (w.immBits 21 16) else none

/-- Stream port of IMM[11:8] (R239). -/
def port (w : SlotWord) : Nat := w.immBits 11 8

/-- Fault mode of XF[1] (R239): true is `.poison`. -/
def poisonMode (w : SlotWord) : Bool := natBit w.xf.toNat 1

/-- `.try` of `recalloc`, XF[1] (R255). -/
def tryForm (w : SlotWord) : Bool := natBit w.xf.toNat 1

end SlotWord

/-- Row y of element e (R89): element 16x + 4(y div 2) + p stands in compute tile (x, y) with x + y even. -/
def elemRow (e : Nat) : Nat :=
  let x := e / 16
  2 * (e % 16 / 4) + x % 2

end Sys2Proof
end

