-- ==== Sys2Proof/WellFormed.lean ====
section
/-! DEFINITION. Which slot words the loader accepts (R101): the checks 2 to 9 that look at one word alone. The checks that
need the rest of the load (10 to 32) stand in Machine/Loader.lean. A step of the hardware or the host is well formed when its
arguments name things that exist. -/

namespace Sys2Proof

/-- What an instruction wants of an operand specifier (R79). -/
inductive Need where
  | req | opt | no | tok
  deriving DecidableEq, Repr

namespace Check

def tyZero (w : SlotWord) : Bool := w.ty == .b32
def tyIn (l : List Ty) (w : SlotWord) : Bool := l.contains w.ty
def tyAny (_ : SlotWord) : Bool := true
/-- Types of `atom` by operation (R191); an undefined operation fails the MOD check instead. -/
def tyAtom (w : SlotWord) : Bool :=
  match w.mod.toNat with
  | 0 | 1 | 5 | 6 => Ty.wset.contains w.ty
  | 2 | 3 | 4 | 7 => Ty.bt.contains w.ty
  | 8 | 9 => [Ty.n32, .n64].contains w.ty
  | 10 => [Ty.f32, .f64, .h2, .bh2].contains w.ty
  | 11 | 12 => [Ty.f32, .f64].contains w.ty
  | _ => true
/-- Types of the reductions (R213): a .b type with add, min or max, or an integer type with and, or, xor, fails check 2; a
float type with and, or, xor, and any type with an undefined operation (R85), fails check 6. -/
def tyRed (w : SlotWord) : Bool :=
  if w.redOp ≤ 2 then (Ty.ar ++ Ty.fs).contains w.ty
  else if w.redOp ≤ 5 then (Ty.bt ++ Ty.fs).contains w.ty
  else (Ty.ar ++ Ty.fs ++ Ty.bt).contains w.ty
/-- Types of `mxop` (R225): a block-FP form, which XF tells, takes .f32 alone. -/
def tyMxop (w : SlotWord) : Bool := [Ty.f64, .f32, .bf16, .f16].contains w.ty && (w.xf == 0 || w.ty == .f32)
/-- Type of `xend`: that of the loop's `xsegred`, or none (R216); the load-wide half is in Machine/Loader.lean. -/
def tyXend (w : SlotWord) : Bool := (Ty.ar ++ Ty.fs ++ Ty.bt).contains w.ty

def modIn (l : List Nat) (w : SlotWord) : Bool := l.contains w.mod.toNat
def modUpTo (k : Nat) (w : SlotWord) : Bool := decide (w.mod.toNat ≤ k)
/-- `cmp` (R84, R116): a .b type takes eq and ne only. -/
def modCmp (w : SlotWord) : Bool := decide (w.mod.toNat ≤ 5) && (!w.ty.isBits || decide (w.mod.toNat ≤ 1))
/-- Rounding MOD (R54). -/
def modRounding (w : SlotWord) : Bool := (roundingOfMod w.mod).isSome
/-- `lsparse` (R132): 0 when C is absent. -/
def modSparse (w : SlotWord) : Bool := if w.c == .absent then w.mod == 0 else decide (w.mod.toNat ≤ 1)
/-- Reductions (R84, R213): rounding for float types, 0 otherwise. -/
def modRed (w : SlotWord) : Bool := if w.ty.isFloat then modRounding w else w.mod == 0
/-- `mxop` (R225): [0] ACC, [1] n for block FP only, [3:2] zero. -/
def modMxop (w : SlotWord) : Bool := decide (w.mod.toNat ≤ 1) || (decide (w.mod.toNat ≤ 3) && w.mxBlock)

def pmAny (_ : SlotWord) : Bool := true
def pmNone (w : SlotWord) : Bool := w.pm == .none
/-- The tail of `cas2` takes no predicate (R193); its PM is a field rule of check 7. -/
def pmCas2 (_ : SlotWord) : Bool := true

def need (n : Need) (s : Src) : Bool :=
  match n with
  | .req => s != .absent
  | .opt => true
  | .no => s == .absent
  | .tok => s == .token
/-- Operands read (R79) and the token port of R111. -/
def ops (a b c : Need) (w : SlotWord) : Bool :=
  need a w.a && need b w.b && need c w.c &&
    (a == .no || w.a == .token || w.b == .token || w.c == .token || w.pm != .none)
/-- Head and tail of `cas2` (R193); a tail too has a token port (R111). -/
def opsCas2 (w : SlotWord) : Bool :=
  if w.mod == 0 then ops .req .req .req w else ops .req .req .no w && w.pm == .none && w.imm == 0
/-- `const` (R122): B is a pool entry or a thread constant where it is present (log 67). -/
def opsConst (w : SlotWord) : Bool := ops .req .opt .no w && w.b != .token

def xfZero (w : SlotWord) : Bool := w.xf == 0
/-- Block FP (R85): XF[5:3] is m − 1 where a width is read, XF[1:0] is zero. -/
def xfBlock (width : Bool) (w : SlotWord) : Bool :=
  natBits w.xf.toNat 1 0 == 0 && (if width then natBits w.xf.toNat 5 3 != 0 else natBits w.xf.toNat 5 3 == 0)
/-- ORDIN excludes a predicate (R78). -/
def ordinOk (w : SlotWord) : Bool := !w.ordin || w.pm == .none
/-- Memory class (R85, R177): the orderings of the row, and whether a scope is required. -/
def xfMem (os : List Ordering3) (scopeReq : Bool) (w : SlotWord) : Bool :=
  os.contains w.ordering && decide (natBits w.xf.toNat 3 1 ≤ 5) && (!scopeReq || w.scope != .thread) &&
    (w.ordering == .rlx || w.scope != .thread) && ordinOk w
/-- `cas2` (R178): ordering and scope stand on the head; the tail has neither, and no ORDIN. -/
def xfCas2 (w : SlotWord) : Bool := if w.mod == 0 then xfMem [.rlx, .acq, .rel, .ar] true w else w.xf == 0
/-- `fence` (R178, R196): an ordering and a scope; `.sc` with `.ar` only. -/
def xfFence (w : SlotWord) : Bool :=
  xfMem [.acq, .rel, .ar] true w && (w.mod == 0 || w.ordering == .ar)
def xfOrdin (w : SlotWord) : Bool := decide (w.xf.toNat ≤ 1) && ordinOk w
/-- XF[1] is a flag: fault mode or `.try` (R85). -/
def xfFaultMode (w : SlotWord) : Bool := decide (w.xf.toNat ≤ 3) && ordinOk w
/-- Reductions (R85): operation in XF[3:1], order in XF[0] for `xsegred`; float types take add, min and max. -/
def xfRed (order : Bool) (w : SlotWord) : Bool :=
  natBits w.xf.toNat 5 4 == 0 && decide (w.redOp ≤ 5) && (order || !natBit w.xf.toNat 0) &&
    (!w.ty.isFloat || decide (w.redOp ≤ 2))
/-- `mxop` (R225): both widths of a block-FP form in 1 to 7, on .f32. -/
def xfMxop (w : SlotWord) : Bool :=
  w.xf == 0 || (natBits w.xf.toNat 5 3 != 0 && natBits w.xf.toNat 2 0 != 0 && w.ty == .f32)

def immZero (w : SlotWord) : Bool := w.imm == 0
def immAny (_ : SlotWord) : Bool := true
def immMask (m : Nat) (w : SlotWord) : Bool := w.imm &&& ~~~(BitVec.ofNat 32 m) == 0
/-- `bfx`, `bfi` (R117). -/
def immField (w : SlotWord) : Bool :=
  immMask 0x3F3F w && decide (w.immBits 5 0 + (w.immBits 13 8 + 1) ≤ w.ty.width)
/-- `sext`, `zext` (R118). -/
def immExt (w : SlotWord) : Bool := immMask 0x7F w && w.imm != 0 && decide (w.imm.toNat ≤ w.ty.width)
/-- `const` (R122): IMM is zero when B is present. -/
def immConst (w : SlotWord) : Bool := w.b == .absent || w.imm == 0
/-- `fsign` (R152). -/
def immSign (w : SlotWord) : Bool := decide (w.imm.toNat ≤ 2)
/-- Source code of a conversion (R156). -/
def immSrc (l : List Ty) (notSame : Bool) (w : SlotWord) : Bool :=
  immMask 0xF w && l.contains (Ty.ofCode w.imm.toNat) && (!notSame || Ty.ofCode w.imm.toNat != w.ty)
/-- `fpmode.imm` (R160). -/
def immFpmode (w : SlotWord) : Bool := immMask 0xF w && (Rm.ofCode (w.immBits 2 0)).isSome
/-- `bdot` (R163, R167): mb − 1 in 1 to 7. -/
def immBdot (w : SlotWord) : Bool := immMask 0x70100 w && w.immBits 18 16 != 0
/-- Space codes (R178): 5 to 7 are illegal, and 0 for `spcast`. -/
def immSpace (m : Nat) (nonzero : Bool) (w : SlotWord) : Bool :=
  immMask m w && decide (w.immBits 2 0 ≤ 4) && (!nonzero || w.immBits 2 0 != 0)
/-- Tile and buffer codes (R178): 32 is the scratchpad, with buffer 0. -/
def immTile (m : Nat) (w : SlotWord) : Bool := immMask m w && decide (w.tile ≤ 32) && (w.tile != 32 || w.buffer == 0)
def immSpaceTile (w : SlotWord) : Bool := immTile 0xFF07 w && decide (w.immBits 2 0 ≤ 4)
/-- `mxop` (R225): kc − 1 for IEEE formats only. -/
def immMxop (w : SlotWord) : Bool := immMask 0xFFF w && (!w.mxBlock || w.immBits 11 8 == 0)
/-- A channel written `_` encodes channel 0 with CHV 0 (R239). -/
def immChan (m : Nat) (w : SlotWord) : Bool := immMask m w && (w.channel.isSome || w.immBits 21 16 == 0)
/-- `cpymc` (R239): a mask of zero fails. -/
def immMcast (w : SlotWord) : Bool := immChan 0x7F00FF w && w.immBits 7 0 != 0
/-- `chdone` (R239): CHV is 1. -/
def immChanReq (w : SlotWord) : Bool := immMask 0x7F0000 w && w.channel.isSome
/-- Counters of `rdctr` (R263). -/
def immCtr (w : SlotWord) : Bool := decide (w.imm.toNat ≤ 7)
/-- Registers of `sysrd` (R264). -/
def immSysrd (w : SlotWord) : Bool := decide (w.imm.toNat ≤ 5)
/-- Registers of `syswr` (R264). -/
def immSyswr (w : SlotWord) : Bool := w.imm.toNat == 0x100
/-- `cas2` (R193): the space on the head, nothing on the tail. -/
def immCas2 (w : SlotWord) : Bool := if w.mod == 0 then immSpace 0x7 false w else true

def dstAny (_ : SlotWord) : Bool := true
def dstNone (w : SlotWord) : Bool := w.d0 == .none && w.d1 == .none
def dstD1None (w : SlotWord) : Bool := w.d1 == .none

end Check

open Check in
/-- What one instruction's row accepts: its opcode (R87) and the conditions of checks 2, 3, 4, 7, 6, 8 and 9. -/
structure OpSpec where
  opc : Nat
  ty : SlotWord → Bool
  mod : SlotWord → Bool
  pm : SlotWord → Bool
  ops : SlotWord → Bool
  xf : SlotWord → Bool
  imm : SlotWord → Bool
  dst : SlotWord → Bool

open Check in
/-- The rows of the instruction tables (R114, R123, R132, R140, R150 to R162, R167, R177, R208, R213, R216, R225, R239, R255,
R261), with the slot word of an instruction; none for the steps of the hardware and the host. -/
def Instr.spec : Instr → Option (OpSpec × SlotWord)
  | .add w => some (⟨0x00, tyIn Ty.ar, modIn [0], pmAny, ops .req .req .no, xfZero, immZero, dstAny⟩, w)
  | .sub w => some (⟨0x01, tyIn Ty.ar, modIn [0], pmAny, ops .req .req .no, xfZero, immZero, dstAny⟩, w)
  | .mul w => some (⟨0x02, tyIn Ty.ar, modIn [0], pmAny, ops .req .req .no, xfZero, immZero, dstAny⟩, w)
  | .mulh w => some (⟨0x03, tyIn Ty.ar, modIn [0], pmAny, ops .req .req .no, xfZero, immZero, dstAny⟩, w)
  | .mad w => some (⟨0x04, tyIn Ty.ar, modIn [0], pmAny, ops .req .req .req, xfZero, immZero, dstAny⟩, w)
  | .div w => some (⟨0x05, tyIn Ty.ar, modIn [0], pmAny, ops .req .req .no, xfZero, immZero, dstAny⟩, w)
  | .rem w => some (⟨0x06, tyIn Ty.ar, modIn [0], pmAny, ops .req .req .no, xfZero, immZero, dstAny⟩, w)
  | .neg w => some (⟨0x07, tyIn Ty.sg, modIn [0], pmAny, ops .req .no .no, xfZero, immZero, dstAny⟩, w)
  | .abs w => some (⟨0x08, tyIn Ty.sg, modIn [0], pmAny, ops .req .no .no, xfZero, immZero, dstAny⟩, w)
  | .min w => some (⟨0x09, tyIn Ty.ar, modIn [0], pmAny, ops .req .req .no, xfZero, immZero, dstAny⟩, w)
  | .max w => some (⟨0x0A, tyIn Ty.ar, modIn [0], pmAny, ops .req .req .no, xfZero, immZero, dstAny⟩, w)
  | .and w => some (⟨0x0B, tyIn Ty.bt, modIn [0], pmAny, ops .req .req .no, xfZero, immZero, dstAny⟩, w)
  | .or w => some (⟨0x0C, tyIn Ty.bt, modIn [0], pmAny, ops .req .req .no, xfZero, immZero, dstAny⟩, w)
  | .xor w => some (⟨0x0D, tyIn Ty.bt, modIn [0], pmAny, ops .req .req .no, xfZero, immZero, dstAny⟩, w)
  | .not w => some (⟨0x0E, tyIn Ty.bt, modIn [0], pmAny, ops .req .no .no, xfZero, immZero, dstAny⟩, w)
  | .shl w => some (⟨0x0F, tyIn Ty.bt, modIn [0], pmAny, ops .req .req .no, xfZero, immZero, dstAny⟩, w)
  | .shr w => some (⟨0x10, tyIn Ty.bt, modIn [0], pmAny, ops .req .req .no, xfZero, immZero, dstAny⟩, w)
  | .sar w => some (⟨0x11, tyIn Ty.bt, modIn [0], pmAny, ops .req .req .no, xfZero, immZero, dstAny⟩, w)
  | .rol w => some (⟨0x12, tyIn Ty.bt, modIn [0], pmAny, ops .req .req .no, xfZero, immZero, dstAny⟩, w)
  | .ror w => some (⟨0x13, tyIn Ty.bt, modIn [0], pmAny, ops .req .req .no, xfZero, immZero, dstAny⟩, w)
  | .clz w => some (⟨0x14, tyIn Ty.bt, modIn [0], pmAny, ops .req .no .no, xfZero, immZero, dstAny⟩, w)
  | .ctz w => some (⟨0x15, tyIn Ty.bt, modIn [0], pmAny, ops .req .no .no, xfZero, immZero, dstAny⟩, w)
  | .popc w => some (⟨0x16, tyIn Ty.bt, modIn [0], pmAny, ops .req .no .no, xfZero, immZero, dstAny⟩, w)
  | .brev w => some (⟨0x17, tyIn Ty.bt, modIn [0], pmAny, ops .req .no .no, xfZero, immZero, dstAny⟩, w)
  | .bfx w => some (⟨0x18, tyIn Ty.wset, modIn [0], pmAny, ops .req .no .no, xfZero, immField, dstAny⟩, w)
  | .bfi w => some (⟨0x19, tyIn Ty.bt, modIn [0], pmAny, ops .req .req .no, xfZero, immField, dstAny⟩, w)
  | .cmp w => some (⟨0x1A, tyIn (Ty.ar ++ Ty.bt), modCmp, pmAny, ops .req .req .no, xfZero, immZero, dstAny⟩, w)
  | .sel w => some (⟨0x1B, tyIn Ty.bt, modIn [0], pmAny, ops .req .req .req, xfZero, immZero, dstAny⟩, w)
  | .sext w => some (⟨0x1C, tyIn [.s32, .s64], modIn [0], pmAny, ops .req .no .no, xfZero, immExt, dstAny⟩, w)
  | .zext w => some (⟨0x1D, tyIn [.n32, .n64], modIn [0], pmAny, ops .req .no .no, xfZero, immExt, dstAny⟩, w)
  | .addc w => some (⟨0x1E, tyIn [.n32, .n64], modIn [0], pmAny, ops .req .req .opt, xfZero, immZero, dstAny⟩, w)
  | .subb w => some (⟨0x1F, tyIn [.n32, .n64], modIn [0], pmAny, ops .req .req .opt, xfZero, immZero, dstAny⟩, w)
  | .lea w => some (⟨0x20, tyIn [.b64], modIn [0], pmAny, ops .req .req .no, xfZero, immMask 0x7, dstAny⟩, w)
  | .mov w => some (⟨0x21, tyAny, modIn [0], pmAny, ops .req .no .no, xfZero, immZero, dstAny⟩, w)
  | .const w => some (⟨0x22, tyIn (Ty.ar ++ Ty.bt), modIn [0], pmAny, opsConst, xfZero, immConst, dstAny⟩, w)
  | .fadd w => some (⟨0x30, tyIn Ty.fs, modRounding, pmAny, ops .req .req .no, xfZero, immZero, dstAny⟩, w)
  | .fsub w => some (⟨0x31, tyIn Ty.fs, modRounding, pmAny, ops .req .req .no, xfZero, immZero, dstAny⟩, w)
  | .fmul w => some (⟨0x32, tyIn Ty.fs, modRounding, pmAny, ops .req .req .no, xfZero, immZero, dstAny⟩, w)
  | .ffma w => some (⟨0x33, tyIn Ty.fs, modRounding, pmAny, ops .req .req .req, xfZero, immZero, dstAny⟩, w)
  | .fneg w => some (⟨0x34, tyIn Ty.fs, modIn [0], pmAny, ops .req .no .no, xfZero, immZero, dstAny⟩, w)
  | .fabs w => some (⟨0x35, tyIn Ty.fs, modIn [0], pmAny, ops .req .no .no, xfZero, immZero, dstAny⟩, w)
  | .fmin w => some (⟨0x36, tyIn Ty.fs, modRounding, pmAny, ops .req .req .no, xfZero, immZero, dstAny⟩, w)
  | .fmax w => some (⟨0x37, tyIn Ty.fs, modRounding, pmAny, ops .req .req .no, xfZero, immZero, dstAny⟩, w)
  | .fcmp w => some (⟨0x38, tyIn Ty.fs, modUpTo 7, pmAny, ops .req .req .no, xfZero, immZero, dstAny⟩, w)
  | .fcvt w => some (⟨0x39, tyIn Ty.fs, modRounding, pmAny, ops .req .no .no, xfZero, immSrc Ty.fs true, dstAny⟩, w)
  | .fcvti w => some (⟨0x3A, tyIn Ty.ar, modRounding, pmAny, ops .req .no .no, xfZero, immSrc Ty.fs false, dstAny⟩, w)
  | .icvtf w => some (⟨0x3B, tyIn Ty.fs, modRounding, pmAny, ops .req .no .no, xfZero, immSrc Ty.ar false, dstAny⟩, w)
  | .frnd w => some (⟨0x3C, tyIn Ty.fs, modRounding, pmAny, ops .req .no .no, xfZero, immZero, dstAny⟩, w)
  | .fdiv w => some (⟨0x3D, tyIn Ty.fs, modRounding, pmAny, ops .req .req .no, xfZero, immZero, dstAny⟩, w)
  | .frcp w => some (⟨0x3E, tyIn Ty.fs, modRounding, pmAny, ops .req .no .no, xfZero, immZero, dstAny⟩, w)
  | .fsqrt w => some (⟨0x3F, tyIn Ty.fs, modRounding, pmAny, ops .req .no .no, xfZero, immZero, dstAny⟩, w)
  | .frsq w => some (⟨0x40, tyIn Ty.fs, modRounding, pmAny, ops .req .no .no, xfZero, immZero, dstAny⟩, w)
  | .fexp2 w => some (⟨0x41, tyIn Ty.ft, modRounding, pmAny, ops .req .no .no, xfZero, immZero, dstAny⟩, w)
  | .flog2 w => some (⟨0x42, tyIn Ty.ft, modRounding, pmAny, ops .req .no .no, xfZero, immZero, dstAny⟩, w)
  | .fsin w => some (⟨0x43, tyIn Ty.ft, modRounding, pmAny, ops .req .no .no, xfZero, immZero, dstAny⟩, w)
  | .fcos w => some (⟨0x44, tyIn Ty.ft, modRounding, pmAny, ops .req .no .no, xfZero, immZero, dstAny⟩, w)
  | .fclass w => some (⟨0x45, tyIn Ty.fs, modIn [0], pmAny, ops .req .no .no, xfZero, immZero, dstAny⟩, w)
  | .fscale w => some (⟨0x46, tyIn Ty.fs, modRounding, pmAny, ops .req .req .no, xfZero, immZero, dstAny⟩, w)
  | .ffrexp w => some (⟨0x47, tyIn Ty.fs, modRounding, pmAny, ops .req .no .no, xfZero, immZero, dstAny⟩, w)
  | .fsign w => some (⟨0x48, tyIn Ty.fs, modIn [0], pmAny, ops .req .req .no, xfZero, immSign, dstAny⟩, w)
  | .fpmodeImm w => some (⟨0x49, tyZero, modIn [0], pmAny, ops .req .no .no, xfZero, immFpmode, dstAny⟩, w)
  | .fpmodeVal w => some (⟨0x49, tyZero, modIn [1], pmAny, ops .req .no .no, xfZero, immZero, dstAny⟩, w)
  | .hadd2 w => some (⟨0x4A, tyIn Ty.fp2, modRounding, pmAny, ops .req .req .no, xfZero, immZero, dstAny⟩, w)
  | .hmul2 w => some (⟨0x4B, tyIn Ty.fp2, modRounding, pmAny, ops .req .req .no, xfZero, immZero, dstAny⟩, w)
  | .hfma2 w => some (⟨0x4C, tyIn Ty.fp2, modRounding, pmAny, ops .req .req .req, xfZero, immZero, dstAny⟩, w)
  | .fdot2 w => some (⟨0x4D, tyIn Ty.fp2, modRounding, pmAny, ops .req .req .opt, xfZero, immZero, dstAny⟩, w)
  | .ecatch w => some (⟨0x4E, tyIn (Ty.fs ++ Ty.fp2), modUpTo 1, pmAny, ops .req .no .no, xfZero, immZero, dstAny⟩, w)
  | .bmax w => some (⟨0x60, tyIn Ty.fs, modIn [0], pmNone, ops .req .no .no, xfBlock false, immMask 0x100, dstAny⟩, w)
  | .bscale w => some (⟨0x61, tyIn [.n32], modIn [0], pmNone, ops .req .no .no, xfBlock false, immMask 0x100, dstAny⟩, w)
  | .bquant w => some (⟨0x62, tyIn Ty.fs, modIn [0], pmNone, ops .req .no .no, xfBlock true, immMask 0x100, dstAny⟩, w)
  | .bdequant w => some (⟨0x63, tyIn Ty.fs, modRounding, pmNone, ops .req .no .no, xfBlock true, immMask 0x100, dstAny⟩, w)
  | .bpack w => some (⟨0x64, tyIn [.b64], modIn [0], pmNone, ops .req .no .no, xfBlock true, immMask 0x100, dstAny⟩, w)
  | .bunpack w => some (⟨0x65, tyIn [.b64], modIn [0], pmNone, ops .req .no .no, xfBlock true, immMask 0x100, dstAny⟩, w)
  | .bdot w => some (⟨0x66, tyIn [.f32], modIn [0], pmNone, ops .req .req .req, xfBlock true, immBdot, dstAny⟩, w)
  | .bsfwd w => some (⟨0x67, tyZero, modIn [0], pmNone, ops .req .no .no, xfBlock false, immMask 0x100, dstAny⟩, w)
  | .entry w => some (⟨0x70, tyZero, modIn [0], pmNone, ops .no .no .no, xfZero, immMask 0x7F, dstAny⟩, w)
  | .lvr w => some (⟨0x71, tyZero, modIn [0], pmAny, ops .req .no .no, xfZero, immMask 0x7F, dstAny⟩, w)
  | .lvw w => some (⟨0x72, tyZero, modIn [0], pmAny, ops .req .no .no, xfZero, immMask 0x7F, dstAny⟩, w)
  | .fan w => some (⟨0x73, tyZero, modIn [0], pmAny, ops .req .no .no, xfZero, immAny, dstAny⟩, w)
  | .steer w => some (⟨0x74, tyZero, modIn [0], pmNone, ops .req .req .no, xfZero, immZero, dstAny⟩, w)
  | .mergeFirst w => some (⟨0x75, tyZero, modIn [0], pmNone, ops .req .req .no, xfZero, immZero, dstAny⟩, w)
  | .mergeJoin w => some (⟨0x75, tyZero, modIn [1], pmNone, ops .req .req .no, xfZero, immZero, dstAny⟩, w)
  | .sink w => some (⟨0x76, tyZero, modIn [0], pmNone, ops .req .no .no, xfZero, immZero, dstNone⟩, w)
  | .lhead w => some (⟨0x77, tyIn [.n32], modIn [0], pmNone, ops .req .req .opt, xfZero, immMask 0x13F, dstAny⟩, w)
  | .lsparse w => some (⟨0x78, tyIn Ty.bt, modSparse, pmNone, ops .req .req .opt, xfZero, immMask 0x13F, dstAny⟩, w)
  | .ltail w => some (⟨0x79, tyZero, modIn [0], pmNone, ops .req .no .no, xfZero, immZero, dstD1None⟩, w)
  | .lexit w => some (⟨0x7A, tyZero, modIn [0], pmNone, ops .req .opt .no, xfZero, immZero, dstAny⟩, w)
  | .br w => some (⟨0x7B, tyZero, modIn [0], pmNone, ops .req .no .opt, xfZero, immMask 0x7F7F, dstNone⟩, w)
  | .jmp w => some (⟨0x7C, tyZero, modIn [0], pmNone, ops .req .no .opt, xfZero, immMask 0x7F, dstNone⟩, w)
  | .brx w => some (⟨0x7D, tyZero, modIn [0], pmNone, ops .req .no .opt, xfZero, immMask 0xFFFF, dstNone⟩, w)
  | .call w => some (⟨0x7E, tyZero, modIn [0], pmNone, ops .req .no .opt, xfZero, immMask 0x7F7F, dstNone⟩, w)
  | .ret w => some (⟨0x7F, tyZero, modIn [0], pmNone, ops .req .no .opt, xfZero, immZero, dstNone⟩, w)
  | .exit w => some (⟨0x80, tyZero, modIn [0], pmNone, ops .req .no .opt, xfZero, immZero, dstNone⟩, w)
  | .barSync w => some (⟨0x81, tyZero, modIn [0], pmNone, ops .req .no .opt, xfZero, immMask 0xF7F, dstNone⟩, w)
  | .barArrive w => some (⟨0x81, tyZero, modIn [1], pmNone, ops .req .no .opt, xfZero, immMask 0xF7F, dstNone⟩, w)
  | .barWait w => some (⟨0x81, tyZero, modIn [2], pmNone, ops .req .no .opt, xfZero, immMask 0xF7F, dstNone⟩, w)
  | .gate w => some (⟨0x82, tyZero, modIn [0], pmNone, ops .req .no .no, xfZero, immZero, dstAny⟩, w)
  | .release w => some (⟨0x83, tyZero, modIn [0], pmNone, ops .req .no .no, xfZero, immZero, dstAny⟩, w)
  | .trap w => some (⟨0x84, tyZero, modIn [0], pmAny, ops .req .no .no, xfZero, immZero, dstNone⟩, w)
  | .ld w => some (⟨0x90, tyAny, modIn [0], pmAny, ops .req .no .no, xfMem [.rlx, .acq] false, immSpace 0x7 false, dstAny⟩, w)
  | .st w => some (⟨0x91, tyAny, modIn [0], pmAny, ops .req .req .no, xfMem [.rlx, .rel] false, immSpace 0x7 false, dstAny⟩, w)
  | .atom w => some (⟨0x92, tyAtom, modUpTo 12, pmAny, ops .req .req .no, xfMem [.rlx, .acq, .rel, .ar] true, immSpace 0x7 false, dstAny⟩, w)
  | .cas w => some (⟨0x93, tyIn Ty.bt, modIn [0], pmAny, ops .req .req .req, xfMem [.rlx, .acq, .rel, .ar] true, immSpace 0x7 false, dstAny⟩, w)
  | .cas2 w => some (⟨0x94, tyIn [.b64], modUpTo 1, pmCas2, opsCas2, xfCas2, immCas2, dstAny⟩, w)
  | .fence w => some (⟨0x95, tyZero, modUpTo 1, pmNone, ops .req .no .no, xfFence, immZero, dstAny⟩, w)
  | .sptest w => some (⟨0x96, tyZero, modIn [0], pmAny, ops .req .no .no, xfZero, immZero, dstAny⟩, w)
  | .spcastTo w => some (⟨0x97, tyZero, modIn [0], pmAny, ops .req .no .no, xfZero, immSpace 0x7 true, dstAny⟩, w)
  | .spcastFrom w => some (⟨0x97, tyZero, modIn [1], pmAny, ops .req .no .no, xfZero, immSpace 0x7 true, dstAny⟩, w)
  | .pref w => some (⟨0x98, tyZero, modUpTo 1, pmAny, ops .req .no .no, xfOrdin, immSpace 0x7 false, dstAny⟩, w)
  | .gth w => some (⟨0x99, tyAny, modIn [0], pmAny, ops .req .no .no, xfOrdin, immTile 0xFF00, dstAny⟩, w)
  | .sct w => some (⟨0x9A, tyAny, modIn [0], pmAny, ops .req .req .no, xfOrdin, immTile 0xFF00, dstAny⟩, w)
  | .mtld w => some (⟨0x9B, tyZero, modIn [0], pmAny, ops .req .req .req, xfOrdin, immSpaceTile, dstAny⟩, w)
  | .mtst w => some (⟨0x9C, tyZero, modIn [0], pmAny, ops .req .req .req, xfOrdin, immSpaceTile, dstAny⟩, w)
  | .shfl w => some (⟨0xC0, tyAny, modUpTo 3, pmAny, ops .req .req .no, xfZero, immMask 0x10000, dstAny⟩, w)
  | .lpush w => some (⟨0xC1, tyAny, modIn [0], pmAny, ops .req .req .no, xfZero, immMask 0x10000, dstAny⟩, w)
  | .vote w => some (⟨0xC2, tyZero, modUpTo 2, pmAny, ops .req .no .no, xfZero, immMask 0x10000, dstAny⟩, w)
  | .gscan w => some (⟨0xC3, tyRed, modRed, pmAny, ops .req .no .no, xfRed false, immMask 0x30000, dstAny⟩, w)
  | .gred w => some (⟨0xC4, tyRed, modRed, pmAny, ops .req .no .no, xfRed false, immMask 0x10000, dstAny⟩, w)
  | .gbcast w => some (⟨0xC5, tyAny, modIn [0], pmAny, ops .req .no .no, xfZero, immMask 0x100FF, dstAny⟩, w)
  | .gmatch w => some (⟨0xC6, tyAny, modIn [0], pmAny, ops .req .no .no, xfZero, immMask 0x10000, dstAny⟩, w)
  | .xbegin w => some (⟨0xC7, tyIn [.n32, .n64], modIn [0], pmAny, ops .req .req .no, xfZero, immZero, dstAny⟩, w)
  | .xround w => some (⟨0xC8, tyIn [.n32, .n64], modIn [0], pmNone, ops .req .req .no, xfZero, immMask 0x3F, dstAny⟩, w)
  | .xsegred w => some (⟨0xC9, tyRed, modRed, pmAny, ops .req .req .no, xfRed true, immZero, dstAny⟩, w)
  | .xend w => some (⟨0xCA, tyXend, modIn [0], pmNone, ops .req .no .no, xfZero, immZero, dstAny⟩, w)
  | .mxop w => some (⟨0xD0, tyMxop, modMxop, pmAny, ops .req .no .no, xfMxop, immMxop, dstAny⟩, w)
  | .mxzero w => some (⟨0xD1, tyIn [.f32, .f64], modIn [0], pmAny, ops .req .no .no, xfZero, immMask 0xFF, dstAny⟩, w)
  | .mxld w => some (⟨0xD2, tyIn [.f32, .f64], modIn [0], pmAny, ops .req .no .no, xfZero, immTile 0xFFFF, dstAny⟩, w)
  | .mxrd w => some (⟨0xD3, tyIn [.f32, .f64], modIn [0], pmAny, ops .req .no .no, xfZero, immMask 0xFF, dstAny⟩, w)
  | .mxst w => some (⟨0xD4, tyIn [.f32, .f64], modIn [0], pmAny, ops .req .no .no, xfZero, immTile 0xFFFF, dstAny⟩, w)
  | .mxrel w => some (⟨0xD5, tyZero, modIn [0], pmAny, ops .req .no .no, xfZero, immMask 0xFF, dstAny⟩, w)
  | .mxinfo w => some (⟨0xD6, tyZero, modIn [0], pmAny, ops .req .no .no, xfZero, immZero, dstAny⟩, w)
  | .cpy w => some (⟨0xE0, tyZero, modUpTo 1, pmAny, ops .req .req .req, xfFaultMode, immChan 0x7F0000, dstAny⟩, w)
  | .cpyms w => some (⟨0xE1, tyZero, modUpTo 1, pmAny, ops .req .opt .no, xfOrdin, immMask 0xF00, dstAny⟩, w)
  | .cpysm w => some (⟨0xE2, tyZero, modUpTo 1, pmAny, ops .req .opt .no, xfOrdin, immChan 0x7F0F00, dstAny⟩, w)
  | .cpyss w => some (⟨0xE3, tyZero, modIn [0], pmAny, ops .req .no .no, xfOrdin, immMask 0xFF00, dstAny⟩, w)
  | .cpymc w => some (⟨0xE4, tyZero, modIn [0], pmAny, ops .req .req .req, xfFaultMode, immMcast, dstAny⟩, w)
  | .sget w => some (⟨0xE5, tyAny, modIn [0], pmAny, ops .req .tok .no, xfOrdin, immMask 0xF00, dstAny⟩, w)
  | .sput w => some (⟨0xE6, tyAny, modIn [0], pmAny, ops .req .opt .no, xfOrdin, immMask 0xF00, dstAny⟩, w)
  | .sclose w => some (⟨0xE7, tyZero, modIn [0], pmAny, ops .req .no .no, xfOrdin, immMask 0xF00, dstAny⟩, w)
  | .chdone w => some (⟨0xE8, tyZero, modIn [0], pmAny, ops .req .no .no, xfOrdin, immChanReq, dstAny⟩, w)
  | .ewait w => some (⟨0xE9, tyZero, modUpTo 3, pmAny, ops .req .no .no, xfOrdin, immMask 0xFF, dstAny⟩, w)
  | .agcfg w => some (⟨0xEA, tyZero, modUpTo 3, pmAny, ops .req .no .no, xfOrdin, immMask 0xF, dstAny⟩, w)
  | .recalloc w => some (⟨0xF0, tyZero, modIn [0], pmAny, ops .req .no .no, xfFaultMode, immZero, dstAny⟩, w)
  | .recw w => some (⟨0xF1, tyAny, modIn [0], pmAny, ops .req .req .req, xfOrdin, immZero, dstAny⟩, w)
  | .recrd w => some (⟨0xF2, tyAny, modIn [0], pmAny, ops .req .no .no, xfOrdin, immZero, dstAny⟩, w)
  | .recemit w => some (⟨0xF3, tyZero, modIn [0], pmAny, ops .req .no .no, xfOrdin, immZero, dstAny⟩, w)
  | .recinfo w => some (⟨0xF4, tyZero, modIn [0], pmAny, ops .req .no .no, xfOrdin, immZero, dstAny⟩, w)
  | .nop w => some (⟨0xF8, tyZero, modIn [0], pmAny, ops .req .no .no, xfZero, immZero, dstAny⟩, w)
  | .rdclk w => some (⟨0xF9, tyZero, modIn [0], pmAny, ops .req .no .no, xfZero, immZero, dstAny⟩, w)
  | .rdctr w => some (⟨0xFA, tyZero, modIn [0], pmAny, ops .req .no .no, xfZero, immCtr, dstAny⟩, w)
  | .sysrd w => some (⟨0xFB, tyZero, modIn [0], pmAny, ops .req .no .no, xfZero, immSysrd, dstAny⟩, w)
  | .syswr w => some (⟨0xFC, tyZero, modIn [0], pmAny, ops .req .no .no, xfZero, immSyswr, dstAny⟩, w)
  | .brk w => some (⟨0xFD, tyZero, modIn [0], pmAny, ops .req .no .no, xfZero, immMask 0xFFFF, dstNone⟩, w)
  | .hint w => some (⟨0xFE, tyZero, modIn [0], pmAny, ops .req .no .no, xfZero, immMask 0x3, dstAny⟩, w)
  | .fltrd w => some (⟨0xFF, tyZero, modIn [0], pmAny, ops .req .no .no, xfZero, immMask 0x7, dstAny⟩, w)
  | .fltrdClr w => some (⟨0xFF, tyZero, modIn [1], pmAny, ops .req .no .no, xfZero, immMask 0x7, dstAny⟩, w)
  | .faultedDrained _ _ => none
  | .admitWorkgroup _ _ => none
  | .gangSnapshot _ => none
  | .tokenArrival _ _ => none
  | .elementIssue _ _ => none
  | .creditReturn _ _ => none
  | .loopIssue _ _ _ => none
  | .tagStarve _ _ => none
  | .matrixAccept _ => none
  | .matrixExecuteComplete _ => none
  | .accExhausted _ => none
  | .engineOperationComplete _ _ => none
  | .copyBurst _ _ => none
  | .remoteUnreachable _ => none
  | .pinWatchdog _ => none
  | .waitWatchdog _ _ => none
  | .switchBegin _ => none
  | .flip _ => none
  | .decodeStart _ => none
  | .decodeReady _ => none
  | .configCacheFill _ => none
  | .validateKernel _ _ => none
  | .tileRequestService _ _ => none
  | .cacheFill _ _ _ => none
  | .l2Store _ _ _ _ => none
  | .gets _ _ _ => none
  | .getm _ _ _ => none
  | .putm _ _ _ => none
  | .puts _ _ _ => none
  | .invalidation _ _ _ => none
  | .backInvalidationSnoop _ _ _ => none
  | .hostHalfRequest _ _ => none
  | .patrolScrub _ => none
  | .tableWalk _ _ _ _ => none
  | .atsResponse _ _ _ _ => none
  | .priResponse _ _ _ => none
  | .atsInvalidateRequest _ _ _ => none
  | .deferredRecordWrite => none
  | .fqResume _ => none
  | .fqRdWrite _ => none
  | .fqStatRead _ => none
  | .xltInv _ => none
  | .xltInvDone => none
  | .dqPush _ => none
  | .pageRelease => none
  | .dqPop _ => none
  | .dqStatClear _ => none
  | .loadPreempt _ => none
  | .workgroupPreempt _ => none
  | .launchPreempt _ => none
  | .restore _ => none
  | .quantumExpiry _ => none
  | .notify _ _ => none
  | .qctlEnable _ => none
  | .qctlDisable _ => none
  | .packetHeaderPoll _ => none
  | .packetNop _ => none
  | .packetLaunch _ => none
  | .packetGraph _ => none
  | .packetCopy _ => none
  | .packetWaitsig _ => none
  | .packetBarrierAnd _ => none
  | .packetRetire _ => none
  | .launchComplete _ => none
  | .eventToken _ => none
  | .eventTokenRetry => none
  | .firmwareTimer _ => none
  | .hevStatRead _ => none
  | .lmbGo _ => none
  | .lmbStatRead _ => none
  | .fenceCore _ _ => none
  | .fenceCluster _ _ => none
  | .fenceStack _ _ => none
  | .fencePort _ _ => none
  | .functionReady _ => none
  | .coldReset => none
  | .warmReset => none
  | .bootCmd _ => none
  | .ownerCommand _ => none
  | .attCmd _ => none
  | .quoteComplete => none
  | .governorTick => none
  | .thermalCrossing _ _ _ _ => none
  | .thermalShutdown _ _ _ _ => none
  | .muwinPortState _ _ _ _ => none
  | .mwpStatRead _ _ => none
  | .flitReplay _ => none
  | .scTicket _ _ => none
  | .launcherTick _ => none
  | .recordPoolExhausted _ _ => none
  | .graphComplete _ => none
  | .graphPreempt _ _ => none
  | .registerWrite _ _ _ => none
  | .hostBar2Access _ _ => none
  | .muwinPeerAccess _ _ => none
  | .powerLoss => none
  | .thermalSensorLost _ => none

/-- The slot word of an instruction. -/
def Instr.word? (i : Instr) : Option SlotWord := i.spec.map (·.2)

/-- The first failing check among 2 to 4 and 6 to 9 of R101, in ascending number. -/
def OpSpec.check (r : OpSpec) (w : SlotWord) : Option Nat :=
  if !r.ty w then some 2
  else if !r.mod w then some 3
  else if !r.pm w then some 4
  else if !r.xf w then some 6
  else if !r.ops w then some 7
  else if !r.imm w then some 8
  else if !r.dst w then some 9
  else none

/-- The first failing check of an instruction's word (R101); none for an accepted word and for a step without a word. -/
def Instr.check (i : Instr) : Option Nat :=
  match i.spec with
  | some (r, w) => r.check w
  | none => none

/-- The arguments of a step of the hardware or the host name what exists: cores below 320 (R2), elements below 128, slots
below 16 (R75), dies and stacks below 8, clusters below 40, queues below 1,024 (R395), ports below 16, timers below 64. -/
def Instr.argsOk : Instr → Bool
  | .faultedDrained c t => decide (c < 320 ∧ t < 8192)
  | .admitWorkgroup _ k => decide (k < 40)
  | .gangSnapshot c | .matrixAccept c | .matrixExecuteComplete c | .accExhausted c | .pinWatchdog c | .switchBegin c | .flip c
  | .decodeStart c | .decodeReady c | .configCacheFill c => decide (c < 320)
  | .tokenArrival c _ | .creditReturn c _ | .tagStarve c _ | .engineOperationComplete c _ | .copyBurst c _ | .waitWatchdog c _
  | .validateKernel c _ | .scTicket c _ | .recordPoolExhausted c _ => decide (c < 320)
  | .elementIssue c e => decide (c < 320 ∧ e < 128)
  | .loopIssue c e s => decide (c < 320 ∧ e < 128 ∧ s < 16)
  | .tileRequestService c b => decide (c < 320 ∧ b < 256)
  | .cacheFill c l m => decide (c < 320 ∧ l < 2 ^ 32 ∧ m < 2 ^ 16)
  | .l2Store c a w _ => decide (c < 320 ∧ a < 2 ^ 39 ∧ (w = 1 ∨ w = 2 ∨ w = 4 ∨ w = 8) ∧ a % w = 0)
  | .gets d l m | .getm d l m | .putm d l m | .puts d l m | .invalidation d l m => decide (d < 8 ∧ l < 2 ^ 32 ∧ m < 2 ^ 16)
  | .backInvalidationSnoop d l h => decide (d < 8 ∧ l < 2 ^ 32 ∧ h < 2)
  | .hostHalfRequest l h => decide ((l < 2 ^ 32 ∨ (2 ^ 60 ≤ l ∧ l < 2 ^ 60 + 2 ^ 45)) ∧ h < 2)
  | .patrolScrub l => decide (l < 2 ^ 32)
  | .tableWalk c x a _ => decide (c < 320 ∧ x < 4096 ∧ a < 2 ^ 56)
  | .atsResponse d x a _ => decide (d ≤ 8 ∧ x < 4096 ∧ a < 2 ^ 56)
  | .priResponse x a _ => decide (x < 4096 ∧ a < 2 ^ 56)
  | .launchPreempt q | .quantumExpiry q | .qctlEnable q | .qctlDisable q | .packetHeaderPoll q | .packetNop q | .packetLaunch q
  | .packetGraph q | .packetCopy q | .packetWaitsig q | .packetBarrierAnd q | .packetRetire q => decide (q < 1024)
  | .notify q _ => decide (q < 1024)
  | .firmwareTimer t => decide (t < 64)
  | .fenceCore u _ => decide (u < 320)
  | .fenceCluster u _ => decide (u < 40)
  | .fenceStack u _ => decide (u < 8)
  | .fencePort u _ => decide (u < 16)
  | .functionReady b => decide (b < 58 ∨ (0x100 ≤ b ∧ b < 0x110))
  | .muwinPortState p s v n => decide (p < 16 ∧ s < 4 ∧ v < 4096 ∧ n ≤ 8)
  | .mwpStatRead p _ | .flitReplay p => decide (p < 16)
  | .launcherTick d => decide (d < 8)
  | .remoteUnreachable d => decide (d < 4096)
  | .muwinPeerAccess a _ => decide (a < 2 ^ 39)
  | _ => true

/-- A well-formed operation. -/
def Instr.wf (i : Instr) : Bool := i.check.isNone && i.argsOk

end Sys2Proof
end

