-- ==== Sys2Proof/Decode.lean ====
section
/-! DEFINITION. Decoding and encoding of slot words (spec 03 R75 to R88). A word that breaks a rule is refused by the number
of the configuration check that it fails (R101). -/

namespace Sys2Proof

/-- A slot word as it stands in memory (R75). -/
abbrev Word128 := BitVec 128

/-- Bits [hi:lo] of a slot word. -/
def Word128.field (x : Word128) (lo n : Nat) : BitVec n := x.extractLsb' lo n

/-- Predicate mode codes (R77). -/
def PredMode.encode : PredMode → BitVec 2
  | .none => 0 | .ifTrue => 1 | .ifFalse => 2

/-- Predicate mode of a code; 0b11 is illegal (R77). -/
def PredMode.decode (x : BitVec 2) : Option PredMode :=
  match x.toNat with
  | 0 => some .none | 1 => some .ifTrue | 2 => some .ifFalse | _ => Option.none

/-- Operand specifier codes (R79): kind in [11:10], value in [9:0]. -/
def Src.encode : Src → BitVec 12
  | .token => 0
  | .pool i => (1 : BitVec 2) ++ i
  | .const c => (2 : BitVec 2) ++ BitVec.ofNat 10 c.code
  | .absent => 0xC00

/-- The specifier of a code (R79). -/
def Src.decode (x : BitVec 12) : Option Src :=
  let v := x.extractLsb' 0 10
  match (x.extractLsb' 10 2).toNat with
  | 0 => if v = 0 then some .token else none
  | 1 => some (.pool v)
  | 2 => (ThreadConst.all[v.toNat]?).map .const
  | _ => if v = 0 then some .absent else none

/-- Port codes of a destination (R81). -/
def PortId.encode : PortId → BitVec 2
  | .a => 0 | .b => 1 | .c => 2 | .p => 3

/-- Port of a code (R81). -/
def PortId.decode (x : BitVec 2) : PortId :=
  match x.toNat with
  | 0 => .a | 1 => .b | 2 => .c | _ => .p

/-- Island port ids (R82). -/
def IslandPort.encode : IslandPort → BitVec 7
  | .mxa => 0 | .mxb => 1 | .mxsa => 2 | .mxsb => 3
  | .sp n => (1 : BitVec 3) ++ n

/-- Island port of an id (R82). -/
def IslandPort.decode (x : BitVec 7) : Option IslandPort :=
  if x.extractLsb' 4 3 = 1 then some (.sp (x.extractLsb' 0 4))
  else match x.toNat with
    | 0 => some .mxa | 1 => some .mxb | 2 => some .mxsa | 3 => some .mxsb | _ => none

/-- Destination codes (R81): VALID, KIND, ID, SLOT, PORT. -/
def Dst.encode : Dst → BitVec 16
  | .none => 0
  | .port e s p => (1 : BitVec 1) ++ (0 : BitVec 2) ++ e ++ s ++ p.encode
  | .island p => (1 : BitVec 1) ++ (1 : BitVec 2) ++ p.encode ++ (0 : BitVec 6)
  | .stacks n => (1 : BitVec 1) ++ (2 : BitVec 2) ++ n ++ (0 : BitVec 6)

/-- A destination field that breaks R81 (check 9) or that names a reserved island id (check 11, R82). -/
inductive DstFault where
  | malformed | reservedIsland
  deriving DecidableEq, Repr

/-- The destination of a code (R81, R82). -/
def Dst.decode (x : BitVec 16) : Except DstFault Dst :=
  let idf : BitVec 7 := x.extractLsb' 6 7
  let low : BitVec 6 := x.extractLsb' 0 6
  if x.extractLsb' 15 1 = 0 then (if x = 0 then .ok .none else .error .malformed)
  else match (x.extractLsb' 13 2).toNat with
    | 0 => .ok (.port idf (x.extractLsb' 2 4) (PortId.decode (x.extractLsb' 0 2)))
    | 1 => if low = 0 then (match IslandPort.decode idf with
        | some q => .ok (.island q)
        | Option.none => .error .reservedIsland) else .error .malformed
    | 2 => if low = 0 then .ok (.stacks idf) else .error .malformed
    | _ => .error .malformed

/-- The instruction of an opcode and its fields (R87); a MOD picks the row where an opcode has two or three. -/
def Instr.ofOpcode (opc : BitVec 8) (w : SlotWord) : Option Instr :=
  match opc.toNat with
  | 0x00 => some (.add w)
  | 0x01 => some (.sub w)
  | 0x02 => some (.mul w)
  | 0x03 => some (.mulh w)
  | 0x04 => some (.mad w)
  | 0x05 => some (.div w)
  | 0x06 => some (.rem w)
  | 0x07 => some (.neg w)
  | 0x08 => some (.abs w)
  | 0x09 => some (.min w)
  | 0x0A => some (.max w)
  | 0x0B => some (.and w)
  | 0x0C => some (.or w)
  | 0x0D => some (.xor w)
  | 0x0E => some (.not w)
  | 0x0F => some (.shl w)
  | 0x10 => some (.shr w)
  | 0x11 => some (.sar w)
  | 0x12 => some (.rol w)
  | 0x13 => some (.ror w)
  | 0x14 => some (.clz w)
  | 0x15 => some (.ctz w)
  | 0x16 => some (.popc w)
  | 0x17 => some (.brev w)
  | 0x18 => some (.bfx w)
  | 0x19 => some (.bfi w)
  | 0x1A => some (.cmp w)
  | 0x1B => some (.sel w)
  | 0x1C => some (.sext w)
  | 0x1D => some (.zext w)
  | 0x1E => some (.addc w)
  | 0x1F => some (.subb w)
  | 0x20 => some (.lea w)
  | 0x21 => some (.mov w)
  | 0x22 => some (.const w)
  | 0x30 => some (.fadd w)
  | 0x31 => some (.fsub w)
  | 0x32 => some (.fmul w)
  | 0x33 => some (.ffma w)
  | 0x34 => some (.fneg w)
  | 0x35 => some (.fabs w)
  | 0x36 => some (.fmin w)
  | 0x37 => some (.fmax w)
  | 0x38 => some (.fcmp w)
  | 0x39 => some (.fcvt w)
  | 0x3A => some (.fcvti w)
  | 0x3B => some (.icvtf w)
  | 0x3C => some (.frnd w)
  | 0x3D => some (.fdiv w)
  | 0x3E => some (.frcp w)
  | 0x3F => some (.fsqrt w)
  | 0x40 => some (.frsq w)
  | 0x41 => some (.fexp2 w)
  | 0x42 => some (.flog2 w)
  | 0x43 => some (.fsin w)
  | 0x44 => some (.fcos w)
  | 0x45 => some (.fclass w)
  | 0x46 => some (.fscale w)
  | 0x47 => some (.ffrexp w)
  | 0x48 => some (.fsign w)
  | 0x49 => if w.mod == 1 then some (.fpmodeVal w) else some (.fpmodeImm w)
  | 0x4A => some (.hadd2 w)
  | 0x4B => some (.hmul2 w)
  | 0x4C => some (.hfma2 w)
  | 0x4D => some (.fdot2 w)
  | 0x4E => some (.ecatch w)
  | 0x60 => some (.bmax w)
  | 0x61 => some (.bscale w)
  | 0x62 => some (.bquant w)
  | 0x63 => some (.bdequant w)
  | 0x64 => some (.bpack w)
  | 0x65 => some (.bunpack w)
  | 0x66 => some (.bdot w)
  | 0x67 => some (.bsfwd w)
  | 0x70 => some (.entry w)
  | 0x71 => some (.lvr w)
  | 0x72 => some (.lvw w)
  | 0x73 => some (.fan w)
  | 0x74 => some (.steer w)
  | 0x75 => if w.mod == 1 then some (.mergeJoin w) else some (.mergeFirst w)
  | 0x76 => some (.sink w)
  | 0x77 => some (.lhead w)
  | 0x78 => some (.lsparse w)
  | 0x79 => some (.ltail w)
  | 0x7A => some (.lexit w)
  | 0x7B => some (.br w)
  | 0x7C => some (.jmp w)
  | 0x7D => some (.brx w)
  | 0x7E => some (.call w)
  | 0x7F => some (.ret w)
  | 0x80 => some (.exit w)
  | 0x81 => if w.mod == 1 then some (.barArrive w) else if w.mod == 2 then some (.barWait w) else some (.barSync w)
  | 0x82 => some (.gate w)
  | 0x83 => some (.release w)
  | 0x84 => some (.trap w)
  | 0x90 => some (.ld w)
  | 0x91 => some (.st w)
  | 0x92 => some (.atom w)
  | 0x93 => some (.cas w)
  | 0x94 => some (.cas2 w)
  | 0x95 => some (.fence w)
  | 0x96 => some (.sptest w)
  | 0x97 => if w.mod == 1 then some (.spcastFrom w) else some (.spcastTo w)
  | 0x98 => some (.pref w)
  | 0x99 => some (.gth w)
  | 0x9A => some (.sct w)
  | 0x9B => some (.mtld w)
  | 0x9C => some (.mtst w)
  | 0xC0 => some (.shfl w)
  | 0xC1 => some (.lpush w)
  | 0xC2 => some (.vote w)
  | 0xC3 => some (.gscan w)
  | 0xC4 => some (.gred w)
  | 0xC5 => some (.gbcast w)
  | 0xC6 => some (.gmatch w)
  | 0xC7 => some (.xbegin w)
  | 0xC8 => some (.xround w)
  | 0xC9 => some (.xsegred w)
  | 0xCA => some (.xend w)
  | 0xD0 => some (.mxop w)
  | 0xD1 => some (.mxzero w)
  | 0xD2 => some (.mxld w)
  | 0xD3 => some (.mxrd w)
  | 0xD4 => some (.mxst w)
  | 0xD5 => some (.mxrel w)
  | 0xD6 => some (.mxinfo w)
  | 0xE0 => some (.cpy w)
  | 0xE1 => some (.cpyms w)
  | 0xE2 => some (.cpysm w)
  | 0xE3 => some (.cpyss w)
  | 0xE4 => some (.cpymc w)
  | 0xE5 => some (.sget w)
  | 0xE6 => some (.sput w)
  | 0xE7 => some (.sclose w)
  | 0xE8 => some (.chdone w)
  | 0xE9 => some (.ewait w)
  | 0xEA => some (.agcfg w)
  | 0xF0 => some (.recalloc w)
  | 0xF1 => some (.recw w)
  | 0xF2 => some (.recrd w)
  | 0xF3 => some (.recemit w)
  | 0xF4 => some (.recinfo w)
  | 0xF8 => some (.nop w)
  | 0xF9 => some (.rdclk w)
  | 0xFA => some (.rdctr w)
  | 0xFB => some (.sysrd w)
  | 0xFC => some (.syswr w)
  | 0xFD => some (.brk w)
  | 0xFE => some (.hint w)
  | 0xFF => if w.mod == 1 then some (.fltrdClr w) else some (.fltrd w)
  | _ => none

/-- The specifier of a code as the rest of a load sees it: a malformed one of kind 00 still names its port (R79). -/
def Src.raw (x : BitVec 12) : Src :=
  (Src.decode x).getD (if x.extractLsb' 10 2 = 0 then .token else .absent)

/-- Fields of a word read without refusing anything: an illegal field gives a stand-in and `Word128.fieldCheck` refuses it. -/
def Word128.fields (x : Word128) : SlotWord where
  ty := Ty.ofCode (x.field 116 4).toNat
  mod := x.field 112 4
  pm := (PredMode.decode (x.field 110 2)).getD .none
  a := Src.raw (x.field 98 12)
  b := Src.raw (x.field 86 12)
  c := Src.raw (x.field 74 12)
  d0 := (Dst.decode (x.field 58 16)).toOption.getD .none
  d1 := (Dst.decode (x.field 42 16)).toOption.getD .none
  xf := x.field 36 6
  imm := x.field 0 32

/-- The first check that a field of the word fails by its own form: 4 for PM 0b11, 5 for bits [35:32], 7 for a specifier, 9 for
a destination, 11 for a reserved island id. -/
def Word128.fieldCheck (x : Word128) : Option Nat :=
  let src (s : BitVec 12) := (Src.decode s).isNone
  let dst (d : BitVec 16) (f : DstFault) := match Dst.decode d with
    | .error g => g == f
    | .ok _ => false
  if (PredMode.decode (x.field 110 2)).isNone then some 4
  else if x.field 32 4 ≠ 0 then some 5
  else if src (x.field 98 12) || src (x.field 86 12) || src (x.field 74 12) then some 7
  else if dst (x.field 58 16) .malformed || dst (x.field 42 16) .malformed then some 9
  else if dst (x.field 58 16) .reservedIsland || dst (x.field 42 16) .reservedIsland then some 11
  else none

/-- The lower of two check numbers, none being above all. -/
def firstCheck (a b : Option Nat) : Option Nat :=
  match a, b with
  | some x, some y => some (min x y)
  | some x, none => some x
  | none, y => y

/-- D2 and D3 of `fan` stand in IMM and are destinations like D0 (R127): the check that they fail. -/
def fanCheck (i : Instr) : Option Nat :=
  match i with
  | .fan w =>
    let one (d : BitVec 16) := match Dst.decode d with
      | .ok _ => none
      | .error .malformed => some 9
      | .error .reservedIsland => some 11
    firstCheck (one (w.imm.extractLsb' 0 16)) (one (w.imm.extractLsb' 16 16))
  | _ => none

/-- Decode one slot word (R75): the instruction, or the number of the first check of R101 that the word fails on its own. -/
def decodeWord (x : Word128) : Except Nat Instr :=
  match Instr.ofOpcode (x.field 120 8) x.fields with
  | none => .error 1
  | some i =>
    match firstCheck (firstCheck x.fieldCheck i.check) (fanCheck i) with
    | some k => .error k
    | none => .ok i

/-- Encode a slot word from its opcode and fields (R75). -/
def SlotWord.encode (opc : Nat) (w : SlotWord) : Word128 :=
  BitVec.ofNat 8 opc ++ BitVec.ofNat 4 w.ty.code ++ w.mod ++ w.pm.encode ++ w.a.encode ++ w.b.encode ++ w.c.encode ++
    w.d0.encode ++ w.d1.encode ++ w.xf ++ (0 : BitVec 4) ++ w.imm

/-- Encode an instruction; a step of the hardware or the host has no word. -/
def encode (i : Instr) : Option Word128 := i.spec.map (fun p => p.2.encode p.1.opc)

/-- The number whose base-256 digits, lowest first, are the bytes (R7). -/
def bytesToNat : List Byte → Nat
  | [] => 0
  | b :: bs => b.toNat + 256 * bytesToNat bs

/-- The n lowest base-256 digits of a number, lowest first (R7). -/
def natToBytes : Nat → Nat → List Byte
  | 0, _ => []
  | n + 1, x => BitVec.ofNat 8 x :: natToBytes n (x / 256)

/-- Decode the first 16 bytes of a list: the instruction and the rest of the list. Fewer bytes are refused as a compressed
stream that ends inside an item (check 15). -/
def decode (bs : List Byte) : Except Nat (Instr × List Byte) :=
  if bs.length < 16 then .error 15
  else match decodeWord (BitVec.ofNat 128 (bytesToNat (bs.take 16))) with
    | .ok i => .ok (i, bs.drop 16)
    | .error k => .error k

/-- The instruction the decoder reads from a table word: the word is given with bit 0 of its lowest byte as bit 0, and the
bits above are zero. -/
def decodeTableWord (_nbits w : Nat) : Option Instr :=
  match decode (natToBytes 16 w) with
  | .ok (i, _) => some i
  | .error _ => none

end Sys2Proof
end

