-- ==== Sys2Proof/Machine/State.lean ====
section
/-! DEFINITION. The machine state of the KV7 as plain data: everything spec/ gives the machine (INVENTORY.md, State), the
reasons for a stop, and the state after reset. A table is a list of keys and values with rising keys; what an unlisted key
stands for is said where the table is read. -/

namespace Sys2Proof.Machine

/-- A table: keys strictly rising (`Table.sorted`). -/
abbrev Table (α : Type) := List (Nat × α)

/-- Why a step faults. -/
inductive Fault where
  /-- Raised by the step when the package is unpowered or held in reset by a thermal shutdown (R416, R421) and no input stands in
  the inbox: nothing runs. Safe: the spec gives such a machine no step but power-on, which the inbox carries as COLD_RESET. -/
  | notRunning
  deriving DecidableEq, Repr

/-- Why a step is refused. -/
inductive Refusal where
  /-- Raised by `exec` for an instruction that has no meaning yet. Safe. -/
  | notModelled (mnemonic : String)
  deriving DecidableEq, Repr

/-- Error subkinds (R33). -/
inductive Sub where
  | nan | posInf | negInf | poison
  deriving DecidableEq, Repr

/-- What a token carries (R32 to R35): data with its payload, pass, or an error of a subkind. -/
inductive Val where
  | data (p : Dword)
  | pass
  | err (k : Sub)
  deriving DecidableEq, Repr

/-- A token's tag without its kind (R32). -/
structure Tag where
  slot : BitVec 13
  out : BitVec 6
  inn : BitVec 6
  deriving DecidableEq, Repr

/-- What a held access keeps of its issue (R181): its word, with its operands as tokens, the word of a `cas2`'s tail, and the address
that it goes to, generic and translated in a context, or the core and offset of a scratchpad byte. Its thread may have left the load
when the access is replayed. -/
structure Kept where
  word : BitVec 128
  tail : SlotWord
  g : Nat
  va : Nat
  spad : Option (Nat × Nat)
  ctx : Nat
  deriving DecidableEq, Repr

/-- A firing: a matched slot of one element with the operand tokens that it consumes (R77, R79, R165, R193). -/
structure Firing where
  core : Nat
  elem : Nat
  slot : Nat
  tag : Tag
  a : Option Val
  b : Option Val
  c : Option Val
  p : Option Val
  ta : Option Val      -- port A of the tail of `cas2`
  tb : Option Val      -- port B of the tail of `cas2`
  s0 : Option Byte     -- scale input S0
  s1 : Option Byte     -- scale input S1
  since : Nat          -- cycle in which it matched (R306)
  due : Nat            -- cycle in which its trigger, the token of port A, arrived (R247)
  mute : Bool          -- its thread has left the load: it completes and emits nothing (R139 step 5)
  live : Bool          -- it had fired when its thread faulted or was aborted: it completes as if that had not been (R24)
  batch : Nat          -- the step in which it issued: instances of one slot and batch issued together (R202)
  place : Option Nat   -- its way of the element's matching store, 8·set + way (R305)
  plane : Bool         -- the plane that held its word when it issued (R364)
  owner : Option (Nat × Nat × Nat)   -- the owner of its expansion when it issued (R223): slot, lane, flat index
  who : Option (Nat × Nat × Nat)     -- launch, workgroup and `%tid` of its thread when it issued
  kept : Option Kept   -- what it keeps while it is held
  deriving DecidableEq, Repr

/-- A token in transit to a slot port (R307), with the destination of its emitter: element, slot, destination number. The tokens
of an edge that passes through a FIFO tile are the contents of that tile (R287, R290). -/
structure Flight where
  elem : Nat
  slot : Nat
  port : PortId
  scale : Bool
  val : Val
  tag : Tag
  srcElem : Nat
  srcSlot : Nat
  srcDst : Nat
  deriving DecidableEq, Repr

/-- Thread states (R22). -/
inductive ThreadState where
  | free | waiting | inload | parked | exiting | faulted
  deriving DecidableEq, Repr

/-- A live value: its dword, its kind bit (R15), and whether the stacks mark the dword as poisoned (R183). -/
structure LiveVal where
  isErr : Bool
  word : Dword
  mark : Bool
  deriving DecidableEq, Repr

/-- A staged live-value write (R16, R126): the writer and its iteration counters. -/
structure Staged where
  lv : Nat
  elem : Nat
  slot : Nat
  outT : Nat
  innT : Nat
  val : LiveVal
  deriving DecidableEq, Repr

/-- A thread slot: its header fields (R17), live values and the state the core keeps for it. -/
structure Thread where
  state : ThreadState
  next : BitVec 7
  depth : BitVec 11
  cntCopy : BitVec 8
  cntMatrix : BitVec 8
  cntGather : BitVec 8
  cntRemote : BitVec 8
  tidw : BitVec 16
  handler : Bool
  fvalid : Bool
  fcause : Byte
  faultAt : Option (Nat × Nat × Nat)   -- cycle, element and slot of the fault that made it FAULTED (R24)
  fpmode : Byte
  hdr2 : Dword
  hdr3 : Dword
  live : Table LiveVal          -- unlisted: data 0
  staged : List Staged
  latch : Byte
  launch : Nat
  wgid : Nat
  span : Nat
  lane : Nat
  entry : Nat                   -- block entry through which it entered the load
  arrived : BitVec 16
  arrivedAgain : BitVec 16
  barrier : Option Nat          -- the barrier it is PARKED on
  released : Bool
  since : Nat                   -- cycle it became WAITING (R313)
  aborted : Bool                -- its workgroup has been aborted (R367)
  closing : Bool                -- a page holds its `call` or `ret`, which has committed its staged writes (R20, R139 step 3)
  recUnit : Option Nat          -- unit of its input record (R351)
  recDepth : BitVec 6
  grpCount : Nat
  owned : List Nat              -- units of the records it owns (R256)
  deriving DecidableEq, Repr

/-- A span of gangs (R26, R27): the slots of its lanes in lane order. -/
structure Span where
  id : Nat
  kernel : Nat
  entry : Nat
  g : Nat
  s : Nat
  members : List Nat
  deriving DecidableEq, Repr

/-- Handle states (R30). -/
inductive Handle where
  | unbound
  | b32 (slot : Nat)
  | b64 (lo hi : Nat)
  deriving DecidableEq, Repr

/-- A workgroup part (R29, R324, R327). -/
structure Part where
  launch : Nat
  wgid : Nat
  index : Nat
  kernel : Nat
  tidLo : Nat
  count : Nat
  slots : List Nat
  handles : Table Handle       -- unlisted: unbound
  acc : Nat                    -- declared accumulator slots
  units : Nat                  -- energy units (R326)
  deriving DecidableEq, Repr

/-- An accumulator element (R30, R70): its bits, or Poison. -/
structure AccElem where
  poison : Bool
  bits : Dword
  deriving DecidableEq, Repr

/-- Roles of memory tiles (R97). -/
inductive Role where
  | off | spad | buf | fifo | line | cache
  deriving DecidableEq, Repr

/-- A tile role word (R97). -/
structure TileRole where
  role : Role
  size : Nat
  nbuf : Nat
  deriving DecidableEq, Repr

/-- The fields of an address generator (R98, R250). -/
structure AgFields where
  elemLog : Nat
  c0 : Nat
  c1 : Nat
  s0 : Int
  s1 : Int
  deriving DecidableEq, Repr

/-- An edge binding word (R98). -/
inductive Bind where
  | port (n : Nat) (out : Bool) (ag : Option Nat) (dst : Option (Nat × Nat))
  | ag (n : Nat) (f : AgFields)
  | feed (f : Nat) (stream : Option Nat)
  | chan (n words : Nat)
  deriving DecidableEq, Repr

/-- A decoded load (R95 to R99, R321). -/
structure Load where
  slots : Table (BitVec 128)            -- key 16·element + slot; unlisted: EMPTY
  roles : List TileRole
  binds : List Bind
  pool : List Dword
  rdMask : BitVec 128
  wrMask : BitVec 128
  entries : List (Nat × Nat × Nat)      -- entry id, element, slot
  branches : List Nat
  window : Nat
  budget : Nat
  deriving DecidableEq, Repr

/-- An entry descriptor (R92). -/
structure EntryDesc where
  load : Nat
  g : Nat
  s : Nat
  deriving DecidableEq, Repr

/-- A kernel image as a core has validated it (R90 to R103). -/
structure Kernel where
  id : Nat
  ctx : Nat
  va : Nat
  pages : List Nat             -- physical 4 KiB pages of the image (R100)
  live : Nat
  energy : Nat
  acc : Nat
  spad : Nat
  priv : Nat
  calldepth : Nat
  handler : Option Nat
  paramBytes : Nat
  entries : List EntryDesc
  loads : List Load
  extents : List (Nat × Nat)   -- offset and length of each load in the image (R95)
  catalogue : Nat × Nat        -- offset and length of the catalogue (R94)
  deriving DecidableEq, Repr

/-- A configuration plane (R308): the kernel and load it holds, whether decoding has ended, and its BLOCKED elements (R102). -/
structure Plane where
  load : Option (Nat × Nat)
  ready : Bool
  blocked : List Nat
  img : Load
  deriving DecidableEq, Repr

/-- A pending entry of a matching store (R305): the tokens of one slot and tag that have arrived. -/
structure Pending where
  elem : Nat
  slot : Nat
  tag : Tag
  a : Option Val
  b : Option Val
  c : Option Val
  p : Option Val
  ta : Option Val
  tb : Option Val
  due : Nat                          -- cycle in which the token of port A arrived (R247)
  place : Option Nat                 -- its way of the matching store, 8·set + way (R305); a header keeps its tokens apart (R322)
  deriving DecidableEq, Repr

/-- Per-block state of a block-FP slot (R166, R168, R173 to R175): the block tag, the tokens seen by position, the scales. -/
structure BlockState where
  elem : Nat
  slot : Nat
  tag : Tag                          -- block tag: low bits of the iteration field cleared
  s0 : Option Byte
  s1 : Option Byte
  vals : Table (Val × Val)           -- position to A and B
  fired : Nat
  waiting : List Firing              -- elements that wait for a scale or for the block to fill
  place : Option Nat                 -- its way of the matching store (R305, R320)
  more : Option Nat                  -- the way of the sum that `bdot` keeps (R175)
  deriving DecidableEq, Repr

/-- State of one `merge.first` pair (R129): true when the first token has been forwarded. -/
structure MergeState where
  elem : Nat
  slot : Nat
  tag : Tag
  forwarded : Bool
  place : Option Nat
  deriving DecidableEq, Repr

/-- Why an instance waits. -/
inductive WaitWhy where
  | credit            -- a channel without credit (R330)
  | counter           -- a full engine counter (R42)
  | copyQueue         -- a full copy queue or stream queue (R236, R243)
  | engine            -- `ewait` (R253)
  | channel           -- `chdone` (R252)
  | predecessors      -- `gate` (R145)
  | record            -- `recalloc` (R347)
  | context           -- `xbegin` (R222)
  | ticket            -- a `.sc` fence at its ordering point (R432)
  | stream            -- `sget`, `sput` or `sclose` at its port (R247, R248, R463)
  | stack             -- an access to a stack that is not ready (R415)
  | closed            -- an `sclose` whose port has closed (R249)
  | release           -- a release that waits for its predecessors' write-backs (R186)
  deriving DecidableEq, Repr

/-- A waiting instance. -/
structure Parked where
  f : Firing
  why : WaitWhy
  since : Nat
  deriving DecidableEq, Repr

/-- A resident-loop instance of one thread (R133, R136). -/
structure LoopInst where
  elem : Nat
  slot : Nat
  thread : Nat
  out : BitVec 6              -- outer tag of an inner loop, zero for an outer loop
  outT : Nat                  -- outer iteration counter
  level : Nat
  n : Nat
  items : List Nat            -- set-bit indices of `lsparse`
  window : Nat
  block : Nat                 -- largest block length of its block-FP nodes, 0 for none (R164)
  carried : Option Val        -- C's value in carried mode
  carries : Table Val         -- c_t delivered by ltail, by t
  exitCond : Bool             -- the loop has a break lexit
  t : Nat                     -- iterations issued
  tails : List Nat            -- iterations whose ltail has fired
  exits : List Nat            -- iterations whose lexit has fired
  stop : Bool
  left : Option Val           -- the value of the `lexit` of the last iteration, once that has fired (R135)
  finished : Bool             -- it has finished (R136), and waits for that `lexit` alone
  since : Nat                 -- cycle of the last freed tag (R138)
  ctx : Option Nat            -- expansion context of an `xround` (R219)
  lane : Nat
  deriving DecidableEq, Repr

/-- What one lane brings to a group (R205). -/
inductive LaneIn where
  | active (a b : Val)
  | inactive
  | predError (k : Sub)
  | gone                      -- faulted by its predicate: supplies and receives nothing
  deriving DecidableEq, Repr

/-- A group that collects its lanes (R205). -/
structure Group where
  elem : Nat
  slot : Nat
  out : BitVec 6
  inn : BitVec 6
  span : Nat
  lanes : Table LaneIn        -- by span lane
  left : List Nat             -- lanes whose thread has left the load since: they receive nothing (R139 step 5)
  deriving DecidableEq, Repr

/-- An item handed to the expand unit (R220): none is an empty item; `bad` marks a pass from a FAULTED thread (R221). -/
structure XItem where
  f : Nat
  owner : Nat
  val : Option Val
  bad : Bool
  deriving DecidableEq, Repr

/-- An expansion context (R217, R218). -/
structure XCtx where
  id : Nat
  span : Nat
  elem : Nat                  -- the xbegin
  slot : Nat
  n : Nat
  total : Nat
  starts : List Nat
  lens : List Nat
  items : List XItem
  fin : List Nat              -- lanes whose loop has finished
  rounds : Nat                -- rounds that some lane has begun (R323)
  part : Table (Val × Nat × Bool)   -- by owner, the partial result that a restore has brought (R224): value, items, INCOMPLETE
  deriving DecidableEq, Repr

/-- Operations of the matrix island (R225). -/
inductive MxKind where
  | op | zero | load | read | store | rel | info
  deriving DecidableEq, Repr

/-- A control token of the island (R226): what its firing found, and the accumulator it reaches once accepted. -/
structure MxCtl where
  kind : MxKind
  w : SlotWord
  f : Firing
  launch : Nat
  wgid : Nat
  off : Nat                   -- byte offset or element index
  bad : Nat                   -- cause that its operand raises at acceptance, 0 for none
  key : Option Nat            -- tile byte of offset 0; none for the scratchpad
  srcA : Option Nat           -- stream port of feed A; none for the fabric edge
  srcB : Option Nat
  held : Bool                 -- its hold on a full counter has been counted (R263)
  counted : Bool              -- its thread's counter counts it
  acc : Handle
  freeSlots : List Nat        -- slots an `mxrel` returns
  deriving DecidableEq, Repr

/-- An element token in a matrix feed (R228), with its iteration field, or a scale token (R229). -/
structure FeedTok where
  feed : Nat                  -- 0 A, 1 B, 2 scale A, 3 scale B
  tag : Tag
  iter : Nat
  val : Val
  deriving DecidableEq, Repr

/-- Engine operations (R235). -/
inductive TOp where
  | cpy | cpyms | cpysm | cpyss | cpymc | mtld | mtst
  deriving DecidableEq, Repr

/-- Counter classes (R235). -/
inductive CntClass where
  | copy | matrix | gather | remote
  deriving DecidableEq, Repr

/-- A transfer in the copy queue or a memory-tile transfer (R203, R236, R336). -/
structure Transfer where
  id : Nat
  op : TOp
  cls : CntClass
  f : Firing                  -- the instance that issued it
  launch : Nat
  wgid : Nat
  lane : Nat
  ctx : Nat
  dst : Nat
  src : Nat
  bytes : Nat
  cursor : Nat
  poison : Bool
  chan : Option Nat
  port : Nat
  port2 : Nat
  ag : Option AgFields
  mask : Nat                  -- core mask of `cpymc`; STATUS address of a COPY packet
  tile : Nat
  buf : Nat
  held : Bool
  discard : Bool              -- ended by sclose: further bytes are discarded (R249)
  counted : Bool              -- counted in its thread's header
  queue : Option Nat          -- the queue of a COPY packet
  index : Nat                 -- that packet's index
  era : Nat                   -- the enabling of its queue in which that packet started
  signal : Nat                -- that packet's completion signal
  status : Nat                -- that packet's status (R399): 0, or 0x11
  srcBad : Option Nat         -- source page at which it last failed, once that is reported (R241, R244)
  dstBad : Option Nat         -- destination page likewise (R241, R245)
  deriving DecidableEq, Repr

/-- States of a stream port (R40). -/
inductive PortState where
  | unbound | opened | held | closed
  deriving DecidableEq, Repr

/-- A stream port (R243, R337): a byte of its buffer carries its poison mark. -/
structure Port where
  state : PortState
  out : Bool
  ag : Option Nat
  queue : List Nat
  buf : List (Byte × Bool)
  closing : Option Nat        -- an `sclose` is pending: bytes of an outbound port that it still lets out (R249)
  begun : Bool                -- a stream copy has been queued since the load was configured (R227, R243)
  deriving DecidableEq, Repr

/-- A channel (R251). -/
structure Chan where
  declared : Nat
  count : Nat
  closed : Bool
  deriving DecidableEq, Repr

/-- What an access does at its memory tile (R192, R193, R201): a read is of a type, a write of the number of its bytes. -/
inductive TileOp where
  | read (ty : Ty)
  | write (v : Nat)
  | atom (mod : Nat) (ty : Ty) (b : Nat)
  | cas (ty : Ty) (e v : Nat)
  | cas2 (e v : Nat)
  deriving DecidableEq, Repr

/-- An access of one instance at a memory tile (R202, R288, R292). The accesses of one slot and batch at a tile are one vector request;
`got` is the values of an access that the tile has served. -/
structure TileReq where
  f : Firing
  tile : Nat
  off : Nat
  width : Nat
  op : TileOp
  acq : Bool                  -- an acquire at dom or sys scope follows (R186)
  since : Nat                 -- cycle in which it reached the tile
  got : Option (List Val)
  deriving DecidableEq, Repr

/-- A cached translation (R376): one page, with the entry's fields. -/
structure TlbEntry where
  ctx : Nat
  va : Nat
  size : Nat
  pa : Nat
  loc : Nat
  devid : Nat
  rd : Bool
  wr : Bool
  deriving DecidableEq, Repr

/-- An `ld` whose dword the CACHE tiles did not hold (R294): it waits for the fill. Its key names the dword as the tiles do; its bytes
begin at `off` in it. -/
structure L1Miss where
  f : Firing
  w : SlotWord
  key : Nat
  off : Nat
  stale : Bool                -- its load has been swapped out: the fill reaches no tile (R44, R293)
  epoch : BitVec 32           -- EPOCH when it was translated (R379)
  deriving DecidableEq, Repr

/-- A delay-line tile (R291): arrivals so far and the stored values, oldest first. -/
structure LineState where
  count : Nat
  vals : List Val
  deriving DecidableEq, Repr

/-- MOESI states of a word; an unlisted word is I (R297). -/
inductive Moesi where
  | m | o | e | s
  deriving DecidableEq, Repr

/-- A dword that some die slice holds (R295, R297): the state at each die that holds it; the data of its M or O copy when one
stands (a word with no such copy has the bytes of memory, which is current for it); the poison mark of the copies. -/
structure L2Word where
  holders : Table Moesi
  dirty : Option Dword
  poison : Bool
  deriving DecidableEq, Repr

/-- A dword of a CACHE tile (R293): its key (a dword number of device memory, or one of a remote-homed line), data and mark. -/
structure L1Word where
  key : Nat
  data : Dword
  poison : Bool
  deriving DecidableEq, Repr

/-- A reserve admission of a graph node on its core (R353): the resources that it sets apart, and the `%wgid` of the reserve group
that runs in them. -/
structure Reserve where
  launch : Nat
  node : Nat
  kernel : Nat
  n : Nat
  live : Nat
  units : Nat
  acc : Nat
  busy : Option Nat
  deriving DecidableEq, Repr

/-- One core (R3). -/
structure Core where
  threads : Table Thread              -- unlisted: FREE
  parts : List Part
  keptSpads : List (Nat × Nat × Nat)  -- scratchpads of retired parts whose workgroup runs on (R25, R242): launch, `%wgid`, kernel
  rows : Table (List Nat)             -- by kernel: its rows of the wait matrix, entry 0 first (R312)
  round : List Nat                    -- rows of the active load that have had their snapshot in the present round (R316)
  reserves : List Reserve
  planeA : Plane
  planeB : Plane
  activeB : Bool
  switchTo : Option (Nat × Nat)
  decoding : Option (Nat × Nat)
  validating : Option Nat             -- the launch whose kernel is being validated (R100)
  activeSince : Nat
  spans : List Span
  nextSpan : Nat
  flights : List Flight
  lines : Table LineState
  pendings : List Pending
  blocks : List BlockState
  merges : List MergeState
  rq : List Firing
  parked : List Parked
  headers : List Pending              -- tokens that wait at resident-loop headers (R133)
  loops : List LoopInst
  groups : List Group
  xctxs : List XCtx
  nextCtx : Nat
  overflows : List (Nat × Nat)        -- spans and `xbegin` nodes whose total overflowed: no context was made (R218)
  mxSent : List MxCtl
  mxQueue : List MxCtl
  mxHold : Option Nat
  feeds : List FeedTok
  feedNext : Table Nat                -- key 4·thread + feed: next iteration field (R228)
  transfers : List Transfer
  nextTransfer : Nat
  lastTurn : Nat                      -- the transfer that took the last turn (R336)
  ports : Table Port                  -- unlisted: unbound
  chans : Table Chan
  ags : Table AgFields
  tiles : Table Byte                  -- key 32,768·tile + offset; unlisted: 0 (R289)
  tilePoison : List Nat               -- dword numbers of poisoned tile dwords
  tileWritten : List Nat              -- dword numbers whose written bits are set, rising (R289)
  tileReqs : List TileReq
  acc : Table AccElem                 -- key 256·slot + element; unlisted: 0
  accFree : List Nat
  ksched : Dword
  kpwr : Dword
  kwdog : Dword
  kstat : List Dword
  admitCycles : Nat                   -- cycles with an admitting load since the warm reset (KSTAT.NOLOAD counts the others)
  l1 : List L1Word                    -- CACHE tile words, oldest fill first
  misses : List L1Miss                -- loads that wait for a fill of the CACHE tiles, oldest first (R294)
  utlb : List TlbEntry
  cache : List (Nat × Nat)            -- configuration cache: kernel and load, least recent first
  validated : List Nat
  idleSince : Option Nat              -- cycle since which the load is pinned and idle (R318)
  retries : Nat
  deriving DecidableEq, Repr

/-- A word of a remote-homed line in a die slice (R301): data, the bytes of it that have been written here (R283), and its mark. -/
structure RemoteWord where
  data : Dword
  dirty : BitVec 8
  poison : Bool
  deriving DecidableEq, Repr

/-- A fault record (R363); a field's "none" value is `none` where the layout has one. -/
structure FaultRec where
  cause : Nat
  cls : Nat
  held : Bool
  inHandler : Bool
  kind : AccessKind
  core : Option Nat
  elem : Option Nat
  slot : Nat
  plane : Bool
  tslot : Option Nat
  lane : Option Nat
  port : Option Nat
  owner : Option (Nat × Nat × Nat)    -- owner slot, owner lane, flat index
  gtid : Option Nat
  launch : Nat
  va : Option Nat
  pa : Option Nat
  time : Nat
  seq : Option Nat
  ctx : Option Nat
  detail : Nat
  deriving DecidableEq, Repr

/-- What a held page keeps waiting (R371). -/
inductive HeldItem where
  | firing (f : Firing)
  | transfer (core id : Nat)
  | config (core : Nat)
  | seeds (launch : Nat)
  | packet (queue : Nat)
  | record (core ctx va : Nat) (bytes : List Byte) (thread : Option (Nat × Byte))   -- a fault record on its way to a private
                                                     -- segment (R24), and the slot and FCAUSE of the thread whose FVALID it sets
  deriving DecidableEq, Repr

/-- A held page of a die (R371); seq is none while its record is deferred. -/
structure Hold where
  die : Nat
  ctx : Nat
  page : Nat
  id : Nat
  seq : Option Nat
  items : List HeldItem
  deriving DecidableEq, Repr

/-- An ATS translation request of a die (R377) and what waits for its answer. -/
structure AtsReq where
  die : Nat
  ctx : Nat
  page : Nat
  items : List HeldItem
  deriving DecidableEq, Repr

/-- A deferred record (R370), with the hold it belongs to and the launch whose first abort it reports. -/
structure Deferred where
  record : FaultRec
  hold : Option Nat
  deriving DecidableEq, Repr

/-- A page in the deaccession queue (R380). -/
structure DqPage where
  fields : Dword
  tag : Nat
  released : Bool
  deriving DecidableEq, Repr

/-- A packet that has started (R399, R400). -/
structure Packet where
  index : Nat
  era : Nat                            -- the enabling of its queue in which it started
  type : Nat
  signal : Nat
  addr : Nat                           -- of its header: a bus address, or a global virtual address in `ctx`
  bus : Bool
  ctx : Nat
  retired : Bool
  completed : Bool
  deriving DecidableEq, Repr

/-- A queue descriptor and its progress (R396, R397, R406). -/
structure Queue where
  qbase : Dword
  qctl : Dword
  quantum : Dword
  qwr : Dword
  qrd : Dword
  qerridx : Dword
  nextPkt : Nat                        -- index of the next packet to start
  header : Option (List Byte)          -- the 64 bytes of that packet once VALID was read
  started : List Packet
  turnSince : Option Nat
  pollAt : Nat
  era : Nat                            -- times the queue has been enabled
  halted : Bool                        -- dispatch of its next launch is stopped (R383, launch boundary)
  deriving DecidableEq, Repr

/-- A started launch (R402, R403). -/
structure Launch where
  id : Nat
  queue : Nat
  index : Nat
  era : Nat                            -- the enabling of its queue in which its packet started; 0 for a post of the mailbox
  recVa : Nat
  recCtx : Nat
  kernelVa : Nat
  param : Nat
  privBase : Nat
  saveBase : Nat
  wgCount : Nat
  dimX : Nat
  dimY : Nat
  dimZ : Nat
  cores : Nat
  fpmode : Byte
  ctx : Nat
  preds : List Nat
  nextWg : Nat
  aborted : Nat
  firstSeq : Option Nat
  status : Option Nat
  kernel : Option Nat
  rejects : Table Dword                -- configuration error word by core (R103)
  running : List Nat                   -- %wgid admitted and not retired
  releasedWgs : List Nat               -- of those, the released ones (R146)
  stopped : Bool                       -- dispatch stopped by a pre-emption
  preempt : Nat                        -- pre-emption under way: 0 none, 1 at a workgroup boundary, 2 at a load boundary
  signal : Nat
  graph : Bool
  deriving DecidableEq, Repr

/-- A workgroup (R29, R143). -/
structure Workgroup where
  launch : Nat
  wgid : Nat
  cores : List Nat
  n : Nat
  phases : List Nat
  aborted : Bool
  node : Option Nat                    -- its graph node
  reported : Bool                      -- a class-2 copy of one of its records has been queued (R366)
  reserve : Bool                       -- runs in its node's reserve admission
  deriving DecidableEq, Repr

/-- A node of a running graph (R342, R350, R357). -/
structure GNode where
  kernelVa : Nat
  kernel : Option Nat
  group : Nat
  record : Nat                         -- bytes
  maxDepth : Nat
  home : Nat
  timer : Nat
  param : Nat
  regionBase : Nat                     -- unit of the guaranteed region
  slabs : List Nat                     -- unit of each assigned slab
  used : List Nat                      -- units in use
  queue : List (Nat × Nat × Nat)       -- unit, emission time, depth; oldest first
  full : Nat
  timed : Nat
  drained : Nat
  records : Nat
  abortedGroups : Nat
  qhead : Nat
  groups : Nat
  deriving DecidableEq, Repr

/-- A running graph (R344, R355). -/
structure Graph where
  launch : Nat
  root : Nat
  poolWait : Nat
  poolBase : Nat
  poolSize : Nat
  control : Nat
  seedsVa : Nat
  seeds : Nat
  nodes : List GNode
  freeSlabs : List Nat
  live : Nat
  runningGroups : Nat
  started : Bool
  stopped : Bool
  savedAt : Nat
  waiters : List (Nat × Nat × Firing)  -- waiting recallocs with their nodes and the cycles in which they began, in that order (R347)
  blank : List Nat                     -- bytes of the pool in records that nothing has written since their allocation (R256)
  deriving DecidableEq, Repr

/-- A token of the event engine (R409, R475). -/
structure Event where
  kind : Nat
  key : Nat
  payload : Dword
  launch : Nat
  deriving DecidableEq, Repr

/-- Modes of a control hart (R408). -/
inductive HartMode where
  | machine | user
  deriving DecidableEq, Repr

/-- A control hart (R408): the registers of RV64GC with machine and user modes, its physical memory protection, and the pair of events
whose handler task it runs (R409, R410; log 77). -/
structure Hart where
  pc : Dword
  x : List Dword                       -- x0 to x31
  f : List Dword                       -- f0 to f31
  fcsr : Byte
  mode : HartMode
  csrs : Table Dword                   -- machine-mode registers by number
  pmpcfg : List Byte
  pmpaddr : List Dword
  task : Option (Event × Event)
  deriving DecidableEq, Repr

/-- A Muwin port (R430). -/
structure MuwinPort where
  ctl : Dword
  replay : BitVec 32
  peer : BitVec 12
  lanes : BitVec 8
  state : BitVec 2
  failures : Nat
  deriving DecidableEq, Repr

/-- A saved launch of a core (R385): the parts, threads and engine state that the save area holds. -/
structure Saved where
  launch : Nat
  core : Nat
  parts : List Part
  threads : Table Thread
  image : Core                         -- the core's residue when threads were suspended
  residue : Bool
  gone : List Nat                      -- of the parts, the workgroups that have been aborted since (R388)
  deriving DecidableEq, Repr

/-- What a control hart reaches (R408): a register of BAR 0, device memory, or, through the host port, host memory. -/
inductive HartAddr where
  | register (off : Nat)
  | device (pa : Nat)
  | host (ba : Nat)
  deriving DecidableEq, Repr

/-- What a control hart does outside itself (R408, R410): a load of n bytes into a register, with sign or without, a store, an atomic
operation (R191) that returns the old value, or a fence. -/
inductive HartOp where
  | load (rd : Nat) (a : HartAddr) (n : Nat) (signed : Bool)
  | store (a : HartAddr) (bytes : List Byte)
  | amo (rd : Nat) (a : HartAddr) (op : BitVec 4) (ty : Ty) (v : Nat)
  | fence
  deriving DecidableEq, Repr

/-- An input of the host, the environment or the firmware, beside the events that the hardware itself raises. -/
inductive Input where
  | run (i : Instr)                       -- an access or an event that is a row of the table
  | hostMemory (ba : Nat) (bytes : List Byte)   -- the host writes its own memory (R440)
  | hart (h : Nat) (op : HartOp)          -- a control hart's access or fence (R408, R410)
  | measure (i : Nat) (bytes : List Byte) -- owner firmware extends a measurement register (R427)
  deriving DecidableEq, Repr

/-- The whole machine. -/
structure State where
  -- the model's own fields
  fire : Firing
  ready : List Firing
  retries : List HeldItem              -- accesses that have left their holds and translate again, in order (R372)
  issued : List Firing                 -- instances that issued in the current cycle, which take effect at its end
  inbox : List Input                   -- inputs of the host and the environment, in the order in which they arrive
  waiting : List Instr                 -- accesses of other agents that wait for a stack to become ready (R415)
  stepNo : Nat
  -- clock and memory
  time : Nat
  warmAt : Nat                         -- cycle of the last warm reset (R263)
  mem : List Host.Cell                 -- device memory; unlisted: 0
  memPoison : List Nat                 -- dword numbers, rising
  badBursts : List Nat                 -- burst numbers, rising
  access : AccessKind × Nat            -- kind and launch of the access under way (R469)
  detected : List (Nat × AccessKind × Nat)  -- errors whose 0x21 record is about to be queued (R417, R469): address, kind, launch
  l2 : Table L2Word                    -- key a dword number; unlisted: held by no die
  l2Lines : List (Nat × Nat)           -- die and line number (`devLine`, `hostLine`, `remoteLine`), most recently used first
  directory : Table Nat                -- home directory: key by die, table, bucket, way; value a line
  hostHalves : List Nat                -- 2·line + half held by the host
  hostMem : List Host.Cell             -- bus addresses; unlisted: 0
  hostOwned : Table Nat                -- 64-byte halves of host memory that a die's slices own (R300): half number, die
  remoteMem : List Host.Cell           -- key 2^52·DEVID + address; unlisted: 0
  remotePoison : List Nat              -- poisoned dwords of other devices' memory: key 2^49·DEVID + dword number, rising
  remoteL2 : Table RemoteWord          -- key by die, device and dword number
  cores : Table Core                   -- unlisted: a core after reset
  -- kernels, launches, queues, graphs
  kernels : List Kernel
  launches : List Launch
  wgs : List Workgroup
  queues : Table Queue                 -- unlisted: a queue after reset
  graphs : List Graph
  saved : List Saved
  rotation : List Nat                  -- queues in turn order (R406)
  nextLauncher : Table Nat             -- by die: the node launched last, as 64·launch + node
  lastTick : Table Nat                 -- by die: time of its launcher's last tick (R350)
  ticking : Bool                       -- the cycle ends with the launchers' ticks (R360)
  stopAsked : Option Nat               -- time at which the pre-emption of a graph was last asked for (R360)
  lmbRec : Dword
  lmbCtl : Dword                       -- the post that is being taken in (R413)
  dqLow : Dword                        -- fields of the low word of DQ_PUSH as last written (R392)
  lmbLow : Dword                       -- fields of the low word of LMB_CTL as last written (R392)
  lmbIdx : Dword
  lmbSig : Dword
  lmbResult : Byte
  lmbBusy : Bool
  -- faults and translation
  fqBase : Dword
  fqCtl : Dword
  fqWr : BitVec 32
  fqRd : BitVec 32
  fqDrop : BitVec 32
  copies : List (FaultRec × Nat)       -- class-2 copies of this cycle's records, each with its workgroup, queued as the cycle ends (R366)
  deferred : List Deferred
  holds : List Hold
  nextHold : Nat
  walkQueue : List (Nat × HeldItem)    -- by die: accesses that wait for an entry of the held-page table
  ats : List AtsReq
  priPages : List (Nat × Nat × Nat)    -- outstanding page requests: die, context and 4 KiB page (R377)
  atsInv : List Nat                    -- epochs of invalidate requests whose completion is outstanding (R377)
  atsDone : Nat                        -- invalidation completions returned
  xltCtxBase : Dword
  xltInv : Dword
  clusterTlb : Table (List TlbEntry)
  dieTlb : Table (List TlbEntry)
  epoch : BitVec 32
  qdone : BitVec 32
  dq : List DqPage
  dqOvf : Bool
  retiredPages : List Dword
  retireCandidates : List Nat          -- 4 KiB pages of device memory that are candidates for retirement (R381)
  hostCandidates : List Nat            -- candidates that have gone to the host, while it serves page retirement (R411)
  corrected : Table Nat                -- corrected errors of the patrol period by 4 KiB page (R381)
  coreErrors : List (Nat × Nat)        -- uncorrectable errors of cores (R418): core and cycle
  patrolAt : Nat                       -- cycle in which the patrol period began (R304)
  -- device block and host
  hostcap : Dword
  funcMode : Dword
  funcReady : Dword
  funcReadyL : Dword
  fenceCores : List Nat
  fencePorts : List Nat
  fenceStacks : List Nat
  fencePages : List Nat                -- 4 KiB pages of fenced stacks already reported (R417)
  replaceReq : Dword
  memmapPart : Bool
  devid : BitVec 12
  boardCap : Nat
  govAt : Nat                          -- cycle of the governor's next tick (R421)
  throt : BitVec 16
  jmax : BitVec 16
  lid : BitVec 16
  retiredReg : Dword
  bar2Base : BitVec 9
  mwOrd : Dword
  hostData : List Byte                 -- what the host's last register or BAR 2 read returned, and whether as Poison
  hostPoison : Bool
  peerData : List Byte                 -- what the last access of a Muwin peer returned, and whether as Poison
  peerPoison : Bool
  -- event engine, event ring, archive
  evPending : List Event
  evStore : List Event
  evPairs : List (Event × Event)       -- pairs that wait for a free hart
  harts : List Hart
  sram : List Host.Cell                -- control SRAM, 4 MiB; unlisted: 0
  hevBase : Dword
  hevCtl : Dword
  hevWr : BitVec 32
  hevRd : BitVec 32
  hevDrop : BitVec 32
  msix : Nat
  archive : Table (List Byte)          -- by entry number mod 1,024
  archWr : BitVec 32
  -- security engine
  keySlots : List Config.KeySlot
  bootStatus : Dword
  bootLow : Dword                      -- fields of the low word of BOOT_CMD as last written (R392)
  recovery : List Host.Cell
  flash : List Byte
  meas : List (List Byte)
  nonce : List Byte
  attCmd : Dword
  attRunning : Bool
  attSig : List Byte
  bootCnt : Dword
  -- Muwin
  ports : Table MuwinPort
  routes : Table (BitVec 16)
  tickets : Nat
  silent : List Nat                    -- devices that have not answered within the route bound (R431)
  -- power
  powered : Bool
  heldInReset : Bool
  deriving DecidableEq, Repr

/-- A thread slot that is not allocated: every field zero (log 8). -/
def Thread.free : Thread where
  state := .free
  next := 0
  depth := 0
  cntCopy := 0
  cntMatrix := 0
  cntGather := 0
  cntRemote := 0
  tidw := 0
  handler := false
  fvalid := false
  fcause := 0
  faultAt := none
  fpmode := 0
  hdr2 := 0
  hdr3 := 0
  live := []
  staged := []
  latch := 0
  launch := 0
  wgid := 0
  span := 0
  lane := 0
  entry := 0
  arrived := 0
  arrivedAgain := 0
  barrier := none
  released := false
  since := 0
  aborted := false
  closing := false
  recUnit := none
  recDepth := 0
  grpCount := 0
  owned := []

/-- A load that holds nothing: every slot EMPTY (R76), every tile OFF. -/
def Load.empty : Load where
  slots := []
  roles := List.replicate 32 ⟨.off, 0, 0⟩
  binds := []
  pool := []
  rdMask := 0
  wrMask := 0
  entries := []
  branches := []
  window := 2048
  budget := 0

/-- A plane that holds no load. -/
def Plane.empty : Plane := ⟨none, false, [], Load.empty⟩

/-- A core after reset: KSCHED (R328), KPWR (R329), KWDOG (R382) and KSTAT (R263) at their reset values, all else empty
(log 8). -/
def Core.reset : Core where
  threads := []
  parts := []
  keptSpads := []
  rows := []
  round := []
  reserves := []
  planeA := Plane.empty
  planeB := Plane.empty
  activeB := false
  switchTo := none
  decoding := none
  validating := none
  activeSince := 0
  spans := []
  nextSpan := 0
  flights := []
  lines := []
  pendings := []
  blocks := []
  merges := []
  rq := []
  parked := []
  headers := []
  loops := []
  groups := []
  xctxs := []
  nextCtx := 0
  overflows := []
  mxSent := []
  mxQueue := []
  mxHold := none
  feeds := []
  feedNext := []
  transfers := []
  nextTransfer := 0
  lastTurn := 0
  ports := []
  chans := []
  ags := []
  tiles := []
  tilePoison := []
  tileWritten := []
  tileReqs := []
  acc := []
  accFree := List.range 128
  ksched := 0x1014180000401000
  kpwr := 0x0000100000000080
  kwdog := 28
  kstat := List.replicate 8 0
  admitCycles := 0
  l1 := []
  misses := []
  utlb := []
  cache := []
  validated := []
  idleSince := none
  retries := 0

/-- A queue after reset (R397): PDEPTH 1 and LOG2N 4, all else zero. -/
def Queue.reset : Queue where
  qbase := 0
  qctl := 0x04000004
  quantum := 0
  qwr := 0
  qrd := 0
  qerridx := 0
  nextPkt := 0
  header := none
  started := []
  turnSince := none
  pollAt := 0
  era := 0
  halted := false

/-- A control hart after reset (log 77): machine mode, no protection, `misa` and `mstatus` as RV64GC with two modes has them, all else
zero. -/
def Hart.reset : Hart where
  pc := 0
  x := List.replicate 32 0
  f := List.replicate 32 0
  fcsr := 0
  mode := .machine
  csrs := [(0x300, 0x200000000), (0x301, 0x800000000010112D), (0x304, 0), (0x305, 0), (0x340, 0), (0x341, 0), (0x342, 0), (0x343, 0), (0x344, 0)]
  pmpcfg := List.replicate 16 0
  pmpaddr := List.replicate 16 0
  task := none

/-- A Muwin port after reset (R430). -/
def MuwinPort.reset : MuwinPort := ⟨0, 0, 0, 0, 0, 0⟩

/-- The firing latch before anything fires: no operand (log 1). -/
def Firing.none : Firing where
  core := 0
  elem := 0
  slot := 0
  tag := ⟨0, 0, 0⟩
  a := Option.none
  b := Option.none
  c := Option.none
  p := Option.none
  ta := Option.none
  tb := Option.none
  s0 := Option.none
  s1 := Option.none
  since := 0
  due := 0
  mute := false
  live := false
  batch := 0
  place := Option.none
  plane := false
  owner := Option.none
  who := Option.none
  kept := Option.none

/-- The archive entry of the cold reset (R422): TYPE 3, and 1 in byte 16. -/
def resetEntry : List Byte := [3] ++ List.replicate 15 0 ++ [1] ++ List.replicate 47 0

/-- The machine right after a cold reset (R416): every register at the value the spec states, the rest as notes/assumptions 6, 8, 9
and 10 name; the archive, which the reset cleared, holds the reset's entry (R422). -/
def State.reset : State where
  fire := Firing.none
  ready := []
  retries := []
  issued := []
  inbox := []
  waiting := []
  stepNo := 0
  time := 0
  warmAt := 0
  mem := []
  memPoison := []
  badBursts := []
  access := (.none, 0)
  detected := []
  l2 := []
  l2Lines := []
  directory := []
  hostHalves := []
  hostMem := []
  hostOwned := []
  remoteMem := []
  remotePoison := []
  remoteL2 := []
  cores := []
  kernels := []
  launches := []
  wgs := []
  queues := []
  graphs := []
  saved := []
  rotation := []
  nextLauncher := []
  lastTick := []
  ticking := false
  stopAsked := none
  lmbRec := 0
  lmbCtl := 0
  dqLow := 0
  lmbLow := 0
  lmbIdx := 0
  lmbSig := 0
  lmbResult := 0
  lmbBusy := false
  fqBase := 0
  fqCtl := 6
  fqWr := 0
  fqRd := 0
  fqDrop := 0
  copies := []
  deferred := []
  holds := []
  nextHold := 0
  walkQueue := []
  ats := []
  priPages := []
  atsInv := []
  atsDone := 0
  xltCtxBase := 0
  xltInv := 0
  clusterTlb := []
  dieTlb := []
  epoch := 1
  qdone := 0
  dq := []
  dqOvf := false
  retiredPages := []
  retireCandidates := []
  hostCandidates := []
  corrected := []
  coreErrors := []
  patrolAt := 0
  hostcap := 0
  funcMode := 0
  funcReady := 0
  funcReadyL := 0
  fenceCores := []
  fencePorts := []
  fenceStacks := []
  fencePages := []
  replaceReq := 0
  memmapPart := false
  devid := 0
  boardCap := 2800
  govAt := 0
  throt := 1280
  jmax := 0
  lid := 0
  retiredReg := 0
  bar2Base := 0
  mwOrd := 0
  hostData := []
  hostPoison := false
  peerData := []
  peerPoison := false
  evPending := []
  evStore := []
  evPairs := []
  harts := List.replicate 8 Hart.reset
  sram := []
  hevBase := 0
  hevCtl := 8
  hevWr := 0
  hevRd := 0
  hevDrop := 0
  msix := 0
  archive := [(0, resetEntry)]
  archWr := 1
  keySlots := Config.fusedSlots
  bootStatus := 0
  bootLow := 0
  recovery := []
  flash := Config.flash
  meas := List.replicate 8 (List.replicate 64 0)
  nonce := List.replicate 64 0
  attCmd := 0
  attRunning := false
  attSig := List.replicate 512 0
  bootCnt := Config.bootCount
  ports := []
  routes := []
  tickets := 0
  silent := []
  powered := true
  heldInReset := false

end Sys2Proof.Machine
end

