-- ==== Sys2Proof/Machine/Mem.lean ====
section
/-! DEFINITION. Tables, bytes, device memory, the die slices with their MOESI states, the home directory and remote-homed words
(spec 10 R293 to R304; 09 R281). -/

namespace Sys2Proof.Machine

/-- What a table holds under a key. -/
def Table.look {α : Type} : Table α → Nat → Option α
  | [], _ => none
  | (k, v) :: t, n => if n = k then some v else Table.look t n

/-- The table with a key set. -/
def Table.put {α : Type} : Table α → Nat → α → Table α
  | [], n, a => [(n, a)]
  | (k, v) :: t, n, a =>
    if n < k then (n, a) :: (k, v) :: t else if n = k then (k, a) :: t else (k, v) :: Table.put t n a

/-- The table without a key. -/
def Table.del {α : Type} : Table α → Nat → Table α
  | [], _ => []
  | (k, v) :: t, n => if n = k then Table.del t n else (k, v) :: Table.del t n

/-- Keys rise strictly. -/
def Table.sorted {α : Type} : Table α → Bool
  | [] => true
  | [_] => true
  | (k, _) :: (k', v') :: t => decide (k < k') && Table.sorted ((k', v') :: t)

/-- A rising list of numbers with n in it. -/
def insertNat (l : List Nat) (n : Nat) : List Nat :=
  match l with
  | [] => [n]
  | k :: t => if n < k then n :: k :: t else if n = k then k :: t else k :: insertNat t n

/-- A list of numbers without n. -/
def removeNat (l : List Nat) (n : Nat) : List Nat := l.filter (fun k => k != n)

/-- Byte i of a dword (R7: little-endian). -/
def byteOf (d : Dword) (i : Nat) : Byte := d.extractLsb' (8 * i) 8

/-- The dword with byte i replaced. -/
def setByte (d : Dword) (i : Nat) (b : Byte) : Dword :=
  (d &&& ~~~(0xFF#64 <<< (8 * i))) ||| (b.setWidth 64 <<< (8 * i))

/-- The number whose little-endian bytes are read at a, a + 1 and so on. -/
def readLE (f : Nat → Byte) (a : Nat) : Nat → Nat
  | 0 => 0
  | n + 1 => (f a).toNat + 256 * readLE f (a + 1) n

/-- The little-endian bytes of a number. -/
def bytesLE : Nat → Nat → List Byte
  | 0, _ => []
  | n + 1, v => BitVec.ofNat 8 v :: bytesLE n (v / 256)

/-- The number of a little-endian byte list. -/
def fromLE : List Byte → Nat
  | [] => 0
  | b :: t => b.toNat + 256 * fromLE t

/-- n bytes at a. -/
def readBytes (f : Nat → Byte) (a : Nat) : Nat → List Byte
  | 0 => []
  | n + 1 => f a :: readBytes f (a + 1) n

/-- A byte of a memory; an unlisted byte is 0 (log 6). -/
def cellRead (m : List Host.Cell) (a : Nat) : Byte := (Table.look m a).getD 0

/-- A memory with one byte written, in canonical form: a zero byte is not listed. -/
def cellWrite (m : List Host.Cell) (a : Nat) (b : Byte) : List Host.Cell :=
  if b = 0 then Table.del m a else Table.put m a b

/-- A memory with consecutive bytes written. -/
def cellWrites (m : List Host.Cell) (a : Nat) : List Byte → List Host.Cell
  | [] => m
  | b :: t => cellWrites (cellWrite m a b) (a + 1) t

/-- The canonical form of a memory: rising addresses and no listed zero. -/
def Memory.wf (m : List Host.Cell) : Bool := Table.sorted m && m.all (fun c => c.2 != 0)

/-- Dword n of a memory. -/
def cellDword (m : List Host.Cell) (n : Nat) : Dword := BitVec.ofNat 64 (readLE (cellRead m) (8 * n) 8)

/-! ### Geometry -/

/-- Die of a core (R2). -/
def dieOf (core : Nat) : Nat := core / 40

/-- Line of an address (R295). -/
def lineOf (pa : Nat) : Nat := pa / 128

/-- Die slice number of an address (R295). -/
def sliceOf (pa : Nat) : Nat :=
  natBits pa 10 7 ^^^ natBits pa 14 11 ^^^ natBits pa 18 15 ^^^ natBits pa 22 19

/-- Set of an address in its slice (R295). -/
def l2SetOf (pa : Nat) : Nat := natBits pa 20 11

/-- HBM stack, and so home die, of an address (R303). -/
def State.homeOf (s : State) (pa : Nat) : Nat :=
  if s.memmapPart then natBits pa 38 36 else natBits pa 14 12 ^^^ natBits pa 26 24

/-- Offset within the stack (R303). -/
def State.stackOffset (s : State) (pa : Nat) : Nat :=
  if s.memmapPart then natBits pa 35 0 else natBits pa 38 15 * 4096 + natBits pa 11 0

/-- Pseudo-channel of a stack offset (R302). -/
def pseudoChannel (o : Nat) : Nat := natBits o 12 7 ^^^ natBits o 18 13

/-! ### The coherent view -/

/-- The dword that a coherent read finds (R297): the owner's copy, or memory. -/
def State.viewDword (s : State) (n : Nat) : Dword :=
  match s.l2.look n with
  | some ⟨_, some d, _⟩ => d
  | _ => cellDword s.mem n

/-- Byte of device memory that a coherent read finds. -/
def State.viewByte (s : State) (pa : Nat) : Byte := byteOf (s.viewDword (pa / 8)) (pa % 8)

/-- Dword n stands in a line that is homed on a fenced stack (R417). -/
def State.fenced (s : State) (n : Nat) : Bool := s.fenceStacks.contains (s.homeOf (8 * n))

/-- Poison mark that a coherent read finds (R183); memory of a fenced stack reads as Poison (R417). -/
def State.viewPoison (s : State) (n : Nat) : Bool :=
  match s.l2.look n with
  | some w => w.poison
  | none => s.memPoison.contains n || s.fenced n

/-- Whether a die holds a dword. -/
def State.dieHolds (s : State) (die n : Nat) : Bool :=
  match s.l2.look n with
  | some w => (w.holders.look die).isSome
  | none => false

/-- MOESI state of a dword at a die (R297); none is I. -/
def State.moesi (s : State) (die n : Nat) : Option Moesi := (s.l2.look n).bind (fun w => w.holders.look die)

/-- The dwords of a line that a 16-bit word mask names (R297). -/
def lineWords (line mask : Nat) : List Nat :=
  ((List.range 16).filter (fun i => mask.testBit i)).map (fun i => 16 * line + i)

/-! ### HBM -/

/-- The access under way (R469): what an error that it finds is reported with. -/
def State.accessAs (s : State) (kind : AccessKind) (launch : Nat) : State := { s with access := (kind, launch) }

/-- Memory reads a burst (R304): a bad burst becomes four poisoned dwords and is reported. -/
def State.burstSense (s : State) (b : Nat) : State :=
  if s.badBursts.contains b then
    { s with
      badBursts := removeNat s.badBursts b
      memPoison := [4 * b, 4 * b + 1, 4 * b + 2, 4 * b + 3].foldl insertNat s.memPoison
      detected := s.detected ++ [(32 * b, s.access)] }
  else s

/-- A read of memory transfers the line of dword n whole, as four bursts (R302, R472). -/
def State.dramSense (s : State) (n : Nat) : State :=
  let b := n / 16 * 4
  [b, b + 1, b + 2, b + 3].foldl State.burstSense s

/-- An access that a fenced stack does not reach is reported once for each 4 KiB page (R417). -/
def State.fenceSense (s : State) (n : Nat) : State :=
  let page := n / 512
  if s.fenced n && (s.l2.look n).isNone && !s.fencePages.contains page then
    { s with fencePages := insertNat s.fencePages page, detected := s.detected ++ [(4096 * page, s.access)] }
  else s

/-- A dword is written to memory with its mark; a fenced stack drops it (R417). -/
def State.dramPut (s : State) (n : Nat) (d : Dword) (poison : Bool) : State :=
  if s.fenced n then s else
  { s with
    mem := cellWrites s.mem (8 * n) (bytesLE 8 d.toNat)
    memPoison := if poison then insertNat s.memPoison n else removeNat s.memPoison n }

/-- Before a write of some dwords (R304): a bad burst that they cover whole is repaired, another is read to merge them, and found. -/
def State.dramPrepare (s : State) (ns : List Nat) : State :=
  ns.foldl (fun s n =>
    let b := n / 4
    if [4 * b, 4 * b + 1, 4 * b + 2, 4 * b + 3].all (fun k => ns.contains k) then
      { s with badBursts := removeNat s.badBursts b }
    else s.burstSense b) s

/-! ### CACHE tiles of a die -/

/-- A change of every core of a die. -/
def State.onDie (s : State) (die : Nat) (f : Core → Core) : State :=
  { s with cores := s.cores.map (fun kc => if dieOf kc.1 = die then (kc.1, f kc.2) else kc) }

/-- A dword leaves the CACHE tiles of a die. -/
def State.dropL1 (s : State) (die key : Nat) : State :=
  s.onDie die (fun c => { c with l1 := c.l1.filter (fun w => w.key != key) })

/-- A written dword is forwarded to the CACHE tiles of a die that hold it (R296). -/
def State.forwardL1 (s : State) (die key : Nat) (d : Dword) (poison : Bool) : State :=
  s.onDie die (fun c => { c with l1 := c.l1.map (fun w => if w.key = key then ⟨key, d, poison⟩ else w) })

/-! ### Die slices -/

/-- Some die or the host holds a word of the line (R299). -/
def State.lineHeld (s : State) (line : Nat) : Bool :=
  s.l2.any (fun kw => decide (kw.1 / 16 = line)) || s.hostHalves.any (fun h => decide (h / 2 = line))

/-- Hash of table t of the directory (R299). -/
def dirHash (t line : Nat) : Nat :=
  let lo := line % 65536
  let hi := line / 65536 % 65536
  if t = 0 then lo ^^^ hi else lo ^^^ ((hi * 32 + hi / 2048) % 65536) ^^^ 0x5A5A

/-- Key of a directory way. -/
def dirKey (home t bucket way : Nat) : Nat := ((home * 2 + t) * 65536 + bucket) * 4 + way

/-- Lowest free way of a bucket. -/
def dirFree (d : Table Nat) (home t bucket : Nat) : Option Nat :=
  (List.range 4).find? (fun w => (d.look (dirKey home t bucket w)).isNone)

/-- Whether the directory has an entry for a line. -/
def dirHas (d : Table Nat) (home line : Nat) : Bool :=
  [0, 1].any (fun t => (List.range 4).any (fun w => d.look (dirKey home t (dirHash t line) w) == some line))

/-- The relocation chain (R299): a line is placed at way m mod 4 of a bucket and displaces the entry there into that entry's
other bucket. The answer names the line to recall when the eighth move finds no free way. -/
def dirChain (home : Nat) : Nat → Nat → Nat → Nat → Table Nat → Table Nat × Option Nat
  | 0, _, _, _, d => (d, none)
  | fuel + 1, t, bucket, line, d =>
    let key := dirKey home t bucket ((7 - fuel) % 4)
    match d.look key with
    | none => (d.put key line, none)
    | some v =>
      let d := d.put key line
      let t' := 1 - t
      let b' := dirHash t' v
      match dirFree d home t' b' with
      | some w => (d.put (dirKey home t' b' w) v, none)
      | none => if fuel = 0 then (d, some v) else dirChain home fuel t' b' v d

/-- The directory entry of a line is freed when nothing holds the line. -/
def State.dirRelease (s : State) (line : Nat) : State :=
  if s.lineHeld line then s
  else { s with directory := s.directory.filter (fun kv => kv.2 != line) }

/-- A die gives up some dwords of a line (R297 eviction): dirty data is written to memory, the CACHE tiles of the die drop the
words, and the directory forgets a line without holders. -/
def State.dropWords (s : State) (die : Nat) (ns : List Nat) : State :=
  let dirtyHere := fun (s : State) n => s.moesi die n == some .m || s.moesi die n == some .o
  let s := s.dramPrepare (ns.filter (fun n => dirtyHere s n))
  ns.foldl (fun s n =>
    match s.l2.look n with
    | none => s
    | some w =>
      match w.holders.look die with
      | none => s
      | some st =>
        let s := s.dropL1 die n
        let rest := w.holders.del die
        let back := (st == .m || st == .o)
        let s := if back then s.dramPut n (s.viewDword n) w.poison else s
        let dirty := if back then none else w.dirty
        if rest.isEmpty && dirty.isNone then { s with l2 := s.l2.del n }
        else { s with l2 := s.l2.put n ⟨rest, dirty, w.poison⟩ }) s

/-- A die evicts words of a line. -/
def State.evict (s : State) (die line : Nat) (ns : List Nat) : State :=
  let s := s.dropWords die ns
  let s := if (lineWords line 0xFFFF).any (fun n => s.dieHolds die n) then s
    else { s with l2Lines := s.l2Lines.filter (fun e => e != (die, line)) }
  s.dirRelease line

/-- The eight dies (R2). -/
def dies : List Nat := [0, 1, 2, 3, 4, 5, 6, 7]

/-- The directory recalls a line from every die and from the host (R299). -/
def State.recall (s : State) (line : Nat) : State :=
  let s := dies.foldl (fun s d => s.evict d line (lineWords line 0xFFFF)) s
  { s with hostHalves := s.hostHalves.filter (fun h => h / 2 != line) }

/-- The directory takes an entry for a line (R299). -/
def State.dirEnsure (s : State) (line : Nat) : State :=
  let home := s.homeOf (128 * line)
  if dirHas s.directory home line then s
  else match dirFree s.directory home 0 (dirHash 0 line) with
    | some w => { s with directory := s.directory.put (dirKey home 0 (dirHash 0 line) w) line }
    | none => match dirFree s.directory home 1 (dirHash 1 line) with
      | some w => { s with directory := s.directory.put (dirKey home 1 (dirHash 1 line) w) line }
      | none =>
        match dirChain home 8 0 (dirHash 0 line) line s.directory with
        | (d, none) => { s with directory := d }
        | (d, some v) => ({ s with directory := d } : State).recall v

/-! ### Lines of other memories in the slices (R295, R300, R301) -/

/-- Number of a line of host memory among the lines of a slice; device lines keep their own numbers. -/
def hostLine (ba : Nat) : Nat := 2 ^ 60 + ba / 128

/-- Number of a line of another device's memory among the lines of a slice. -/
def remoteLine (dev a : Nat) : Nat := 2 ^ 61 + dev * 2 ^ 45 + a / 128

/-- Key of a remote-homed dword in a die slice. -/
def remoteKey (die dev n : Nat) : Nat := (die * 4096 + dev) * 2 ^ 49 + n

/-- Key of a remote-homed dword in a CACHE tile. -/
def remoteL1Key (dev n : Nat) : Nat := (4096 + dev) * 2 ^ 49 + n

/-- Key of a dword of host memory in a CACHE tile. -/
def hostL1Key (n : Nat) : Nat := 2 ^ 62 + n

/-- Address of a byte of another device's memory. -/
def remoteAddr (dev a : Nat) : Nat := 2 ^ 52 * dev + a

/-- The written bytes of a remote-homed dword reach its home (R283, R301); a dword written whole takes its mark with it (R183). -/
def State.remoteHome (s : State) (dev n : Nat) (w : RemoteWord) : State :=
  let key := dev * 2 ^ 49 + n
  { s with
    remoteMem := ((List.range 8).filter (fun i => w.dirty.getLsbD i)).foldl
      (fun m i => cellWrite m (remoteAddr dev (8 * n) + i) (byteOf w.data i)) s.remoteMem
    remotePoison := if w.dirty ≠ 0xFF then s.remotePoison
      else if w.poison then insertNat s.remotePoison key else removeNat s.remotePoison key }

/-- The Muwin port on which this device's accesses to a line of another device travel (R431): of the ports in the device's route entry,
counted from port 0, the one whose index is the line number modulo their number. -/
def State.routePort (s : State) (dev line : Nat) : Option Nat :=
  let ports := (List.range 16).filter (fun p => ((s.routes.look dev).getD 0).getLsbD p)
  ports[line % ports.length]?

/-- A Muwin port carries accesses: its link is up, and it is not fenced (R417, R430). -/
def State.portUp (s : State) (p : Nat) : Bool :=
  ((s.ports.look p).map MuwinPort.state).getD 0 == 2 && !s.fencePorts.contains p

/-- A line of a remote device cannot be reached (R431): the device has no route, its port for the line is not up, or it has not answered
within the bound. -/
def State.unreachable (s : State) (dev line : Nat) : Bool :=
  match s.routePort dev line with
  | none => true
  | some p => !s.portUp p || s.silent.contains dev

/-- One remote-homed dword of a die is written home when it is dirty, and dropped (R194: its home performs the atomic; R301:
eviction). Written bytes whose home cannot be reached stay with the die (log 29). -/
def State.remoteSend (s : State) (die dev n : Nat) : State :=
  match s.remoteL2.look (remoteKey die dev n) with
  | none => s
  | some w =>
    if w.dirty ≠ 0 ∧ s.unreachable dev (n / 16) then s else
    let s := if w.dirty ≠ 0 then s.remoteHome dev n w else s
    ({ s with remoteL2 := s.remoteL2.del (remoteKey die dev n) } : State).dropL1 die (remoteL1Key dev n)

/-- The die that owns a half of host memory yields it (R300): no CACHE tile of the package keeps its words. -/
def State.hostGive (s : State) (half : Nat) : State :=
  match s.hostOwned.look half with
  | none => s
  | some die => (List.range 8).foldl (fun s i => s.dropL1 die (hostL1Key (8 * half + i)))
      { s with hostOwned := s.hostOwned.del half }

/-- A slice gives up a line of any memory (R295, R300, R301). -/
def State.evictAny (s : State) (die line : Nat) : State :=
  if line < 2 ^ 60 then s.evict die line (lineWords line 0xFFFF)
  else
    let s := { s with l2Lines := s.l2Lines.filter (fun e => e != (die, line)) }
    if line < 2 ^ 61 then
      let h := 2 * (line - 2 ^ 60)
      [h, h + 1].foldl (fun s h => if s.hostOwned.look h == some die then s.hostGive h else s) s
    else
      let r := line - 2 ^ 61
      (List.range 16).foldl (fun s i => s.remoteSend die (r / 2 ^ 45) (16 * (r % 2 ^ 45) + i)) s

/-- A line is a slice's most recently used: on a hit it moves to the front, and a slice that takes it in evicts its least recently used
way when the set is full (R295). -/
def State.touchLine (s : State) (die line : Nat) : State :=
  let same := fun (e : Nat × Nat) =>
    e.1 == die && sliceOf (128 * e.2) == sliceOf (128 * line) && l2SetOf (128 * e.2) == l2SetOf (128 * line)
  let others := s.l2Lines.filter (fun e => e != (die, line))
  let s := { s with l2Lines := (die, line) :: others }
  if 16 ≤ (others.filter same).length then
    match (others.filter same).getLast? with
    | some e => s.evictAny die e.2
    | none => s
  else s

/-- The host yields the half of a line that holds dword n (R300). -/
def State.hostYield (s : State) (n : Nat) : State :=
  { s with hostHalves := removeNat s.hostHalves (n / 8) }

/-- What a die does before it asks the home for a dword. -/
def State.request (s : State) (die n : Nat) : State :=
  ((s.hostYield n).dirEnsure (n / 16)).touchLine die (n / 16)

/-- GetS of one dword (R297). -/
def State.getS (s : State) (die n : Nat) : State :=
  if s.dieHolds die n then s.touchLine die (n / 16)
  else if s.fenced n && (s.l2.look n).isNone then s.fenceSense n
  else
    let s := s.request die n
    match s.l2.look n with
    | none =>
      let s := s.dramSense n
      { s with l2 := s.l2.put n ⟨[(die, .e)], none, s.memPoison.contains n⟩ }
    | some w =>
      let hs := w.holders.map (fun h => (h.1, if h.2 = .m then Moesi.o else if h.2 = .e then Moesi.s else h.2))
      { s with l2 := s.l2.put n ⟨Table.put hs die .s, w.dirty, w.poison⟩ }

/-- GetM of one dword (R297): every other copy becomes I. A store of the whole dword asks for no data. R295 does not say whether a line
all of whose words have become I in a slice still holds its way there: it does until it is evicted (DESIGN CHOICE, log 84). -/
def State.getM (s : State) (die n : Nat) (whole : Bool) : State :=
  let s := if s.moesi die n == some .m || s.moesi die n == some .e then s.touchLine die (n / 16) else s.request die n
  let s := (dies.filter (fun d => d != die && s.dieHolds d n)).foldl (fun s d => s.dropL1 d n) s
  let s := if (s.l2.look n).isNone && !whole then s.dramSense n else s
  { s with l2 := s.l2.put n ⟨[(die, .m)], some (s.viewDword n), s.viewPoison n⟩ }

/-- Bytes of one dword written at a die slice (R296, R183): `bs` from byte `off` of dword n. -/
def State.storeWord (s : State) (die n off : Nat) (bs : List Byte) : State :=
  if s.fenced n && (s.l2.look n).isNone then s.fenceSense n else
  let whole := decide (8 ≤ bs.length)
  let s := s.getM die n whole
  let d := (bs.zipIdx off).foldl (fun d bi => setByte d bi.2 bi.1) (s.viewDword n)
  let p := !whole && s.viewPoison n
  ({ s with l2 := s.l2.put n ⟨[(die, .m)], some d, p⟩ } : State).forwardL1 die n d p

/-- A run of bytes cut at dword boundaries: dword number, first byte, bytes. -/
def dwordRuns : Nat → Nat → List Byte → List (Nat × Nat × List Byte)
  | 0, _, _ => []
  | fuel + 1, a, bs =>
    if bs.isEmpty then []
    else (a / 8, a % 8, bs.take (8 - a % 8)) :: dwordRuns fuel (a + (8 - a % 8)) (bs.drop (8 - a % 8))

/-- Bytes written to device memory through a die slice. -/
def State.devStore (s : State) (die pa : Nat) (bs : List Byte) : State :=
  (dwordRuns bs.length pa bs).foldl (fun s r => s.storeWord die r.1 r.2.1 r.2.2) s

/-- A dword is marked poisoned with its data as it stands (a poisoned store of an engine, R203, R241). -/
def State.devPoison (s : State) (die n : Nat) : State :=
  if s.fenced n && (s.l2.look n).isNone then s.fenceSense n else
  let s := s.getM die n false
  ({ s with l2 := s.l2.put n ⟨[(die, .m)], some (s.viewDword n), true⟩ } : State).forwardL1 die n (s.viewDword n) true

/-- Some dwords come into M at a die with their data, for a read-modify-write that holds them from its read on (R296). -/
def State.devOwn (s : State) (die : Nat) (ns : List Nat) : State :=
  ns.foldl (fun s n => if s.fenced n && (s.l2.look n).isNone then s.fenceSense n else s.getM die n false) s

/-- The dwords that w bytes at an address touch. -/
def dwordsOf (a w : Nat) : List Nat := (List.range ((a + w + 7) / 8 - a / 8)).map (fun i => a / 8 + i)

/-- A coherent read through a die slice: the state after it. -/
def State.devFetch (s : State) (die pa w : Nat) : State := (dwordsOf pa w).foldl (fun s n => s.getS die n) s

/-- w bytes of device memory as a coherent read finds them. -/
def State.devNat (s : State) (pa w : Nat) : Nat := readLE s.viewByte pa w

/-- Whether any of w bytes stands in a poisoned dword. -/
def State.devPoisoned (s : State) (pa w : Nat) : Bool := (dwordsOf pa w).any s.viewPoison

/-! ### Remote-homed memory (R301) -/

/-- A die slice holds a remote-homed dword, whose line is its most recently used (R295). -/
def State.remoteFetch (s : State) (die dev n : Nat) : State :=
  let s := s.touchLine die (remoteLine dev (8 * n))
  match s.remoteL2.look (remoteKey die dev n) with
  | some _ => s
  | none =>
    let d := BitVec.ofNat 64 (readLE (cellRead s.remoteMem) (remoteAddr dev (8 * n)) 8)
    { s with remoteL2 := s.remoteL2.put (remoteKey die dev n) ⟨d, 0, s.remotePoison.contains (dev * 2 ^ 49 + n)⟩ }

/-- The remote-homed dword that a die reads. -/
def State.remoteDword (s : State) (die dev n : Nat) : Dword :=
  match s.remoteL2.look (remoteKey die dev n) with
  | some w => w.data
  | none => BitVec.ofNat 64 (readLE (cellRead s.remoteMem) (remoteAddr dev (8 * n)) 8)

/-- The poison mark of a remote-homed dword that a die reads (R183). -/
def State.remoteMark (s : State) (die dev n : Nat) : Bool :=
  match s.remoteL2.look (remoteKey die dev n) with
  | some w => w.poison
  | none => s.remotePoison.contains (dev * 2 ^ 49 + n)

/-- A byte of remote-homed memory that a die reads. -/
def State.remoteByte (s : State) (die dev a : Nat) : Byte := byteOf (s.remoteDword die dev (a / 8)) (a % 8)

/-- Bytes of one remote-homed dword are written into the die slice copy and marked dirty (R301); a whole dword takes the mark
`poison`, a narrower store leaves the mark (R183). -/
def State.remoteStoreWord (s : State) (die dev n off : Nat) (bs : List Byte) (poison : Bool) : State :=
  let s := s.remoteFetch die dev n
  let d := (bs.zipIdx off).foldl (fun d bi => setByte d bi.2 bi.1) (s.remoteDword die dev n)
  let old := ((s.remoteL2.look (remoteKey die dev n)).map RemoteWord.dirty).getD 0
  let mask := (List.range bs.length).foldl (fun m i => m ||| (1#8 <<< (off + i))) old
  let mark := if 8 ≤ bs.length then poison else s.remoteMark die dev n
  ({ s with remoteL2 := s.remoteL2.put (remoteKey die dev n) ⟨d, mask, mark⟩ } : State).forwardL1 die (remoteL1Key dev n) d mark

/-- Bytes of remote-homed memory are written into the die slice copy. -/
def State.remoteStore (s : State) (die dev pa : Nat) (bs : List Byte) : State :=
  (dwordRuns bs.length pa bs).foldl (fun s r => s.remoteStoreWord die dev r.1 r.2.1 r.2.2 false) s

/-- A remote-homed dword of a die is dirty. -/
def dirtyAt (die : Nat) (kw : Nat × RemoteWord) : Bool := kw.1 / 2 ^ 49 / 4096 == die && kw.2.dirty != 0

/-- The device of a dirty remote-homed dword of a die that cannot be written home, if there is one: a release that must wait for it
commits 0x71 (R301, R431). -/
def State.homeSilent (s : State) (die : Nat) : Option Nat :=
  (s.remoteL2.find? (fun kw => dirtyAt die kw && s.unreachable (kw.1 / 2 ^ 49 % 4096) (kw.1 % 2 ^ 49 / 16))).map (fun kw =>
    kw.1 / 2 ^ 49 % 4096)

/-- The dirty remote-homed words of a die are written home (R301); those whose home cannot be reached stay (log 29). -/
def State.remoteWriteBack (s : State) (die : Nat) : State :=
  s.remoteL2.foldl (fun s kw =>
    if dirtyAt die kw && !s.unreachable (kw.1 / 2 ^ 49 % 4096) (kw.1 % 2 ^ 49 / 16) then
      let s := s.remoteHome (kw.1 / 2 ^ 49 % 4096) (kw.1 % 2 ^ 49) kw.2
      { s with remoteL2 := s.remoteL2.put kw.1 { kw.2 with dirty := 0 } }
    else s) s

/-- An acquire at dom or sys scope (R301): the remote-homed words of the die's slices are invalidated, and those of its CACHE
tiles, of which the slices are inclusive (R295); dirty words are written home first, as an eviction does (log 13). -/
def State.remoteInvalidate (s : State) (die : Nat) : State :=
  let s := s.remoteWriteBack die
  let s := { s with
    remoteL2 := s.remoteL2.filter (fun kw => kw.1 / 2 ^ 49 / 4096 != die || kw.2.dirty != 0)
    l2Lines := s.l2Lines.filter (fun e => !(e.1 == die && decide (2 ^ 61 ≤ e.2))) }
  s.onDie die (fun (c : Core) => { c with l1 := c.l1.filter (fun w => decide (w.key < 4096 * 2 ^ 49) || decide (2 ^ 62 ≤ w.key)) })

/-! ### Host memory under CXL.cache (R300) -/

/-- Host memory is cached by the die slices (R293, R300): HOSTCAP bit 10. -/
def State.hostCached (s : State) : Bool := natBit s.hostcap.toNat 10

/-- The slices of a die own some halves of host memory before an access to n bytes at a bus address: another die yields a half
first, and the half's line is the die's most recently used. -/
def State.hostOwn (s : State) (die ba n : Nat) : State :=
  if !s.hostCached then s
  else (List.range ((ba + n + 63) / 64 - ba / 64)).foldl (fun s i =>
    let h := ba / 64 + i
    let s := if s.hostOwned.look h == some die then s else s.hostGive h
    ({ s with hostOwned := s.hostOwned.put h die } : State).touchLine die (hostLine (64 * h))) s

end Sys2Proof.Machine
end

