-- ==== Sys2Proof/Machine/LoadGraph.lean ====
section
/-! DEFINITION. What the loader knows of a load from its slot words: nodes, destinations, loop bodies (spec 04 R137), the edges
that pass through FIFO and LINE tiles (11 R311). A node is named by 16·element + slot. -/

namespace Sys2Proof.Machine

/-- The word at a node; an unlisted node is EMPTY. -/
def Load.bits (l : Load) (n : Nat) : Option (BitVec 128) := l.slots.look n

/-- Major opcode at a node. -/
def Load.opc (l : Load) (n : Nat) : Option Nat := (l.bits n).map (fun x => (x.extractLsb' 120 8).toNat)

/-- Fields of the word at a node, when it is occupied. -/
def Load.fields (l : Load) (n : Nat) : Option SlotWord := (l.bits n).map Word128.fields

/-- Occupied nodes, ascending in element and then slot. -/
def Load.nodes (l : Load) : List Nat := l.slots.map (·.1)

/-- Destinations of a word with their numbers; `fan` has four (R127). -/
def dstsOf (opc : Nat) (w : SlotWord) : List (Nat × Dst) :=
  let more := if opc = 0x73 then
      [(2, (Dst.decode (w.imm.extractLsb' 0 16)).toOption.getD .none),
       (3, (Dst.decode (w.imm.extractLsb' 16 16)).toOption.getD .none)] else []
  ([(0, w.d0), (1, w.d1)] ++ more).filter (fun d => d.2 != Dst.none)

/-- Destinations at a node. -/
def Load.dsts (l : Load) (n : Nat) : List (Nat × Dst) :=
  match l.opc n, l.fields n with
  | some o, some w => dstsOf o w
  | _, _ => []

/-- Whether a destination carries scale tokens (R165, R167). -/
def isScaleDst (opc dst : Nat) : Bool :=
  opc == 0x60 || opc == 0x61 || (opc == 0x65 && dst == 1) || (opc == 0x67 && dst == 0)

/-- Node that a destination names. -/
def dstNode (d : Dst) : Option Nat :=
  match d with
  | .port e s _ => some (16 * e.toNat + s.toNat)
  | _ => none

/-- Nodes that a node sends to. -/
def Load.succs (l : Load) (n : Nat) : List Nat := (l.dsts n).filterMap (fun d => dstNode d.2)

/-- Opcode of a resident-loop header. -/
def isHeaderOpc (o : Nat) : Bool := o == 0x77 || o == 0x78 || o == 0xC8

/-- Resident-loop headers of a load. -/
def Load.headers (l : Load) : List Nat := l.nodes.filter (fun n => ((l.opc n).map isHeaderOpc).getD false)

/-- LEVEL of a header (R132). -/
def Load.levelOf (l : Load) (n : Nat) : Nat := ((l.fields n).map SlotWord.level).getD 0

/-- Nodes reached from a list, going on from every node that `stop` does not name. -/
def reach (succ : Nat → List Nat) (stop : Nat → Bool) : Nat → List Nat → List Nat → List Nat
  | 0, _, seen => seen
  | fuel + 1, front, seen =>
    match front with
    | [] => seen
    | n :: rest =>
      if seen.contains n then reach succ stop fuel rest seen
      else reach succ stop fuel (if stop n then rest else succ n ++ rest) (n :: seen)

/-- Work bound of `reach` over a load: every node is left once along at most four edges. -/
def Load.fuel (l : Load) : Nat := 5 * l.slots.length + 8

/-- Is the node an `ltail` or an `lexit`? -/
def Load.ends (l : Load) (n : Nat) : Bool := l.opc n == some 0x79 || l.opc n == some 0x7A

/-- First nodes of a header's body: those of D0, and of D1 in carried mode and for `xround` (R137, log 16). -/
def Load.bodyFront (l : Load) (h : Nat) : List Nat :=
  match l.opc h, l.fields h with
  | some o, some w =>
    let both := o == 0xC8 || (o == 0x77 && w.c != .absent)
    (l.dsts h).filterMap (fun d => if d.1 = 0 || both then dstNode d.2 else none)
  | _, _ => []

/-- Nodes of an inner loop with its `ltail` and `lexit`. -/
def Load.innerBody (l : Load) (h : Nat) : List Nat := reach l.succs l.ends l.fuel (l.bodyFront h) []

/-- The nodes of a loop (R137) with its `ltail` and `lexit`. An outer loop's body goes on through the `ltail` and `lexit` of the
inner loops that it holds. -/
def Load.body (l : Load) (h : Nat) : List Nat :=
  if l.levelOf h = 1 then l.innerBody h
  else
    let inner := (l.headers.filter (fun k => l.levelOf k == 1)).flatMap (fun k => (l.innerBody k).filter l.ends)
    reach l.succs (fun n => l.ends n && !inner.contains n) l.fuel (l.bodyFront h) []

/-- The header of a level whose body holds a node. -/
def Load.headerAt (l : Load) (level n : Nat) : Option Nat :=
  (l.headers.filter (fun h => l.levelOf h == level)).find? (fun h => h != n && (l.body h).contains n)

/-- The header of the innermost loop that holds a node. -/
def Load.innermost (l : Load) (n : Nat) : Option Nat := (l.headerAt 1 n).orElse (fun _ => l.headerAt 0 n)

/-- The `lexit` of a loop (R137): the one in its body that no inner loop holds. -/
def Load.lexitOf (l : Load) (h : Nat) : Option Nat :=
  (l.body h).find? (fun n => l.opc n == some 0x7A && l.innermost n == some h)

/-- The header whose port B an `ltail` names (R132). -/
def Load.tailHeader (l : Load) (n : Nat) : Option Nat := (l.fields n).bind (fun w => dstNode w.d0)

/-- Largest block length of the block-FP nodes of a loop, 0 for none (R164). A node counts for its innermost loop alone (log 71). -/
def Load.blockOf (l : Load) (h : Nat) : Nat :=
  ((l.body h).filter (fun n => l.innermost n == some h)).foldl (fun m n =>
    match l.opc n, l.fields n with
    | some o, some w => if 0x60 ≤ o ∧ o ≤ 0x67 then max m w.blockLen else m
    | _, _ => m) 0

/-- Producers of a token or scale edge into a port of a node: node and destination number. -/
def Load.feeders (l : Load) (n : Nat) (port : PortId) (scale : Bool) : List (Nat × Nat) :=
  l.nodes.flatMap (fun k =>
    (l.dsts k).filterMap (fun d =>
      match d.2 with
      | .port e s q =>
        if 16 * e.toNat + s.toNat = n ∧ q = port ∧ isScaleDst ((l.opc k).getD 0) d.1 = scale then some (k, d.1) else none
      | _ => none))

/-- S0 of a node descends from a `bmax`, directly or through `bsfwd` (R171). -/
def Load.fromBmax (l : Load) : Nat → Nat → Option Nat
  | 0, _ => none
  | fuel + 1, n =>
    match (l.feeders n .a true).head? with
    | none => none
    | some (k, _) => if l.opc k = some 0x60 then some k else if l.opc k = some 0x67 then l.fromBmax fuel k else none

/-- Opcodes whose destinations are queued edges (R311). -/
def queuedOpc (o : Nat) : Bool :=
  (0x90 ≤ o && o ≤ 0x9C) || (0xC0 ≤ o && o ≤ 0xCA) || (0xD0 ≤ o && o ≤ 0xD6) || (0xE0 ≤ o && o ≤ 0xEA) || (0xF0 ≤ o && o ≤ 0xF4)

/-- Queued edges of the first kind (R311): source node and destination number, with the `bquant` each serves. -/
def Load.quantEdges (l : Load) : List (Nat × Nat × Nat) :=
  (l.nodes.filter (fun n => l.opc n == some 0x62 && (l.fromBmax l.fuel n).isSome)).flatMap (fun n =>
    (l.feeders n .a false).map (fun f => (f.1, f.2, n)))

/-- Queued edges in the order of R311: source node and destination number. -/
def Load.queuedEdges (l : Load) : List (Nat × Nat) :=
  l.quantEdges.map (fun e => (e.1, e.2.1)) ++
    (l.nodes.filter (fun n => ((l.opc n).map queuedOpc).getD false)).flatMap (fun n => (l.dsts n).map (fun d => (n, d.1)))

/-- Tiles of a role in ascending id. -/
def Load.tilesOf (l : Load) (r : Role) : List Nat :=
  (l.roles.zipIdx.filter (fun x => x.1.role == r)).map (·.2)

/-- SIZE of a tile (R97). -/
def Load.sizeOf (l : Load) (tile : Nat) : Nat := ((l.roles[tile]?).map TileRole.size).getD 0

/-- The FIFO tile through which the edge of a destination passes (R311). -/
def Load.fifoOf (l : Load) (node dst : Nat) : Option Nat :=
  match (l.tilesOf .fifo) with
  | [] => none
  | tiles => (l.queuedEdges.findIdx? (fun e => e == (node, dst))).bind (fun i => tiles[i]?)

/-- The LINE tile through which a `nop` receives its port A (R311). -/
def Load.lineOfNop (l : Load) (n : Nat) : Option Nat :=
  match (l.tilesOf .line) with
  | [] => none
  | tiles => ((l.nodes.filter (fun k => l.opc k == some 0xF8)).findIdx? (fun k => k == n)).bind (fun i => tiles[i]?)

end Sys2Proof.Machine
end

