-- ==== Sys2Proof/Machine/Reports.lean ====
section
/-! DEFINITION. What the machine reports: the archive (spec 14 R422), events and the host event ring (R409, R414, R475), the
fault record's layout (13 R363) and the fault queue (R369, R370). -/

namespace Sys2Proof.Machine

/-- A number held between two bounds. -/
def clamp (lo hi x : Nat) : Nat := if x < lo then lo else if hi < x then hi else x

/-- Function i is in host-assisted mode (R411). -/
def State.assisted (s : State) (i : Nat) : Bool := natBit s.funcMode.toNat i

/-! ### Archive -/

/-- An archive entry (R422): type, subtype, unit, launch id, timestamp and payload. -/
def State.archivePost (s : State) (type sub unit launch : Nat) (payload : List Byte) : State :=
  let bs := bytesLE 1 type ++ bytesLE 1 sub ++ bytesLE 2 unit ++ bytesLE 4 launch ++ bytesLE 8 s.time ++
    (payload ++ List.replicate 48 0).take 48
  { s with archive := s.archive.put (s.archWr.toNat % 1024) bs, archWr := s.archWr + 1 }

/-! ### Memory as the hub die reaches it -/

/-- Bytes written by the hub die through the home die's slice of each dword. -/
def State.hubStore (s : State) (pa : Nat) (bs : List Byte) : State :=
  (dwordRuns bs.length pa bs).foldl (fun s r => s.storeWord (s.homeOf (8 * r.1)) r.1 r.2.1 r.2.2) s

/-- The state after the hub die has read w bytes through the home slices. -/
def State.hubFetch (s : State) (pa w : Nat) : State :=
  (dwordsOf pa w).foldl (fun s n => s.getS (s.homeOf (8 * n)) n) s

/-- Bytes written to host memory. -/
def State.hostStore (s : State) (ba : Nat) (bs : List Byte) : State := { s with hostMem := cellWrites s.hostMem ba bs }

/-- Bytes that the host, or the hub die, writes to host memory: a die that owns a half of them yields it (R300). -/
def State.hostPut (s : State) (ba : Nat) (bs : List Byte) : State :=
  (if s.hostCached then
    (List.range ((ba + bs.length + 63) / 64 - ba / 64)).foldl (fun s i => s.hostGive (ba / 64 + i)) s else s).hostStore ba bs

/-- Bytes that a die writes to host memory (R283); under CXL.cache its slices own the halves, and forward the written dwords to the
CACHE tiles that hold them (R296, R300). -/
def State.hostWrite (s : State) (die ba : Nat) (bs : List Byte) : State :=
  let s := (s.hostOwn die ba bs.length).hostStore ba bs
  if s.hostCached then
    (dwordsOf ba bs.length).foldl (fun s n =>
      s.forwardL1 die (hostL1Key n) (BitVec.ofNat 64 (readLE (cellRead s.hostMem) (8 * n) 8)) false) s
  else s

/-! ### Events -/

/-- An entry of the host event ring (R414), or its drop when the ring is full or disabled. -/
def State.hostRing (s : State) (kind key : Nat) (payload : Dword) (launch : Nat) : State :=
  let n := 2 ^ clamp 6 16 (natBits s.hevCtl.toNat 4 0)
  if natBit s.hevCtl.toNat 31 && (s.hevWr - s.hevRd).toNat != n then
    let bs := bytesLE 1 kind ++ [0] ++ bytesLE 2 (key % 65536) ++ bytesLE 4 launch ++ bytesLE 8 s.time ++
      bytesLE 8 payload.toNat ++ List.replicate 40 0
    let s := s.hostPut (s.hevBase.toNat / 64 * 64 + 64 * (s.hevWr.toNat % n)) bs
    { s with hevWr := s.hevWr + 1, msix := s.msix + 1 }
  else { s with hevDrop := s.hevDrop + 1 }

/-- A token sent to the event engine (R409): a queue has at most one pending notify token, whose payload a later one
replaces. -/
def State.engineToken (s : State) (e : Event) : State :=
  let same := fun (x : Event) => decide (e.kind = 1) && x.kind == 1 && x.key == e.key
  if s.evPending.any same then { s with evPending := s.evPending.map (fun x => if same x then e else x) }
  else if s.evStore.any same then { s with evStore := s.evStore.map (fun x => if same x then e else x) }
  else { s with evPending := s.evPending ++ [e] }

/-- An event is raised (R409, R411, R414): to the host ring when its function is host-assisted, and otherwise to the event
engine; USER events go to both, and kinds 9 to 12 to the ring only. -/
def State.raiseEvent (s : State) (kind key : Nat) (payload : Dword) (launch : Nat) : State :=
  let e : Event := ⟨kind, key, payload, launch⟩
  if 9 ≤ kind then s.hostRing kind key payload launch
  else if kind = 8 then (s.engineToken e).hostRing kind key payload launch
  else if (kind = 5 && s.assisted 0) || ((kind = 1 || kind = 2 || kind = 3) && s.assisted 1) then
    s.hostRing kind key payload launch
  else s.engineToken e

/-! ### Fault records -/

/-- The 64 bytes of a fault record (R363). CTX applies to an access whose address lies in a window that is translated (R373). -/
def FaultRec.bytes (r : FaultRec) : List Byte :=
  let flags := (if r.held then 1 else 0) + (if r.owner.isSome then 2 else 0) + (if r.va.isSome then 4 else 0) +
    (if r.pa.isSome then 8 else 0) + (if r.inHandler then 16 else 0)
  let own := r.owner.getD (0, 0, 0)
  let translated := r.kind != .none && ((r.va.map (fun a => natBits a 63 60 == 0 || natBits a 63 60 == 0xC)).getD false)
  bytesLE 1 r.cause ++ bytesLE 1 r.cls ++ bytesLE 1 flags ++ bytesLE 1 r.kind.code ++
    bytesLE 2 (r.core.getD 0xFFFF) ++ bytesLE 1 (r.elem.getD 0xFF) ++
    bytesLE 1 (r.slot % 16 + (if r.plane then 16 else 0)) ++
    bytesLE 2 (r.tslot.getD 0xFFFF) ++ bytesLE 1 (r.lane.getD 0xFF) ++ bytesLE 1 (r.port.getD 0xFF) ++
    bytesLE 2 own.1 ++ bytesLE 1 own.2.1 ++ [0] ++
    bytesLE 8 (r.gtid.getD (2 ^ 64 - 1)) ++ bytesLE 4 own.2.2 ++ bytesLE 4 r.launch ++
    bytesLE 8 (r.va.getD 0) ++ bytesLE 8 (r.pa.getD 0) ++ bytesLE 8 r.time ++
    bytesLE 4 (r.seq.getD 0xFFFFFFFF) ++ bytesLE 2 (if translated then r.ctx.getD 0xFFFF else 0xFFFF) ++ bytesLE 2 r.detail

/-- A record with every field at its "none" value, at the present time. -/
def State.blankRec (s : State) (cause cls : Nat) (kind : AccessKind) (detail : Nat) : FaultRec where
  cause := cause
  cls := cls
  held := false
  inHandler := false
  kind := kind
  core := none
  elem := none
  slot := 0
  plane := false
  tslot := none
  lane := none
  port := none
  owner := none
  gtid := none
  launch := 0
  va := none
  pa := none
  time := s.time
  seq := none
  ctx := none
  detail := detail

/-- A record posted to the archive (R361). -/
def State.archiveRec (s : State) (r : FaultRec) : State :=
  s.archivePost 1 0 (r.core.getD 0xFFFF) r.launch (r.bytes.take 48)

/-- Entries of the fault queue (R369). -/
def State.fqEntries (s : State) : Nat := 2 ^ clamp 6 16 (natBits s.fqCtl.toNat 4 0)

/-- The ring is full, or records are not written (R369, R370). -/
def State.fqFull (s : State) : Bool :=
  !natBit s.fqCtl.toNat 31 || (s.fqWr - s.fqRd).toNat == s.fqEntries

/-- A change of one launch. -/
def State.onLaunch (s : State) (id : Nat) (f : Launch → Launch) : State :=
  { s with launches := s.launches.map (fun l => if l.id = id then f l else l) }

/-- Bytes that the hub die writes beside the access under way, which keeps its kind and launch (R469). -/
def State.hubStoreBeside (s : State) (pa : Nat) (bs : List Byte) : State :=
  { ({ s with access := (.write, 0) } : State).hubStore pa bs with access := s.access }

/-- A record is written at FQ_WR, the write index advances and a fault event is raised (R364, R370). The hold that the record
belongs to takes its SEQ; the first abort record of a launch is noted (R368). -/
def State.fqWrite (s : State) (r : FaultRec) (hold : Option Nat) : State :=
  let seq := s.fqWr.toNat
  let r : FaultRec := { r with seq := some seq }
  let at_ := natBits s.fqBase.toNat 51 12 * 4096 + 64 * (seq % s.fqEntries)
  let s := if natBit s.fqBase.toNat 63 then s.hostPut at_ r.bytes else s.hubStoreBeside at_ r.bytes
  let s := s.archiveRec r
  let s := { s with
    fqWr := s.fqWr + 1
    holds := s.holds.map (fun (h : Hold) => if some h.id = hold then { h with seq := some seq } else h) }
  let s := if r.cls = 2 then
      s.onLaunch r.launch (fun (l : Launch) => if l.firstSeq.isNone then { l with firstSeq := some seq } else l)
    else s
  s.raiseEvent 5 seq (BitVec.ofNat 64 seq) r.launch

/-- A record goes to the fault queue (R370): written, or deferred, or, of class 3, dropped and counted. -/
def State.fqPost (s : State) (r : FaultRec) (hold : Option Nat) : State :=
  if s.fqFull || (!s.deferred.isEmpty && r.cls != 3) then
    if r.cls = 3 then { s.archiveRec r with fqDrop := s.fqDrop + 1 }
    else { s with deferred := s.deferred ++ [⟨r, hold⟩] }
  else s.fqWrite r hold

/-- A 4 KiB page of device memory becomes a candidate for retirement (R381): the harts list it, or it goes to the host (R411). -/
def State.candidate (s : State) (page : Nat) : State :=
  if s.assisted 4 then { s with hostCandidates := insertNat s.hostCandidates page }
  else { s with retireCandidates := insertNat s.retireCandidates page }

/-- A 0x21 record of an error in HBM: its page becomes a candidate (R381). -/
def State.postMemError (s : State) (pa : Nat) (kind : AccessKind) (launch : Nat) : State :=
  (s.candidate (pa / 4096)).fqPost { s.blankRec 0x21 3 kind 0 with pa := some pa, launch := launch } none

/-- A 0x21 record of an error that a check found elsewhere (R183, R286, R362): DETAIL tells where, the record names the core if there
is one. -/
def State.postUnitError (s : State) (detail : Nat) (core pa : Option Nat) : State :=
  s.fqPost { s.blankRec 0x21 3 .none detail with core := core, pa := pa } none

/-- The 0x21 records of errors found since the last settling are queued (R417, R469). -/
def State.settle (s : State) : State :=
  s.detected.foldl (fun s e => s.postMemError e.1 e.2.1 e.2.2) { s with detected := [] }

end Sys2Proof.Machine
end

