-- ==== Sys2Proof/Machine/Xlate.lean ====
section
/-! DEFINITION. Translation (spec 13 R373 to R377): context descriptors, table entries, walks and the three levels of TLB, and the
holds of absent pages (R371). -/

namespace Sys2Proof.Machine

/-- What a translation answers. -/
inductive Xlation where
  | page (e : TlbEntry)
  | absent (detail : Nat)
  | denied (detail : Nat) (pa : Option Nat)
  | ats                                   -- an ATS translation request is outstanding (R377)
  deriving DecidableEq, Repr

/-- A context descriptor (R373) as its 128 bits. -/
def ctxInvalid (d : Nat) : Bool :=
  let top := natBits d 12 8
  !natBit d 0 || natBits d 2 1 > 1 || top < 1 || top > 17 ||
    natBits d 127 103 != 0 || natBits d 75 44 != 0 || natBits d 23 13 != 0 || natBits d 7 3 != 0

/-- A valid table entry that R374 calls malformed, at a level. -/
def State.entryMalformed (s : State) (e lvl : Nat) : Bool :=
  let loc := natBits e 11 10
  let leaf := natBit e 4
  let sz64 := natBit e 5
  let isPage := decide (lvl = 0) || leaf
  let pfn := natBits e 51 12
  let pages := if lvl = 0 then (if sz64 then 16 else 1) else if lvl = 1 then 512 else 262144
  natBits e 9 6 != 0 || natBit e 1 || decide (loc = 3) ||
    (leaf && (decide (lvl = 3) || decide (lvl = 0))) || (sz64 && decide (lvl ≠ 0)) ||
    (!isPage && decide (loc ≠ 0)) ||
    (isPage && decide (pfn % pages ≠ 0)) ||
    (decide (loc = 0) && decide (2 ^ 27 ≤ pfn)) ||
    (decide (natBits e 63 52 ≠ 0) && decide (loc ≠ 2)) ||
    (decide (loc = 2) && decide (natBits e 63 52 = s.devid.toNat))

/-- The page of a leaf entry (R375). -/
def leafPage (ctx va e lvl : Nat) : TlbEntry :=
  let size := if lvl = 0 then (if natBit e 5 then 65536 else 4096) else if lvl = 1 then 2 ^ 21 else 2 ^ 30
  ⟨ctx, va / size * size, size, natBits e 51 12 * 4096, natBits e 11 10, natBits e 63 52, natBit e 2, natBit e 3⟩

/-- The levels of a walk from `lvl` downwards (R375): `hi` is the top index bit, `base` the table. -/
def State.walkLevels : Nat → State → Nat → Nat → Nat → Nat → Nat → State × Xlation
  | 0, s, _, _, _, _, _ => (s, .absent 0)
  | fuel + 1, s, ctx, va, lvl, hi, base =>
    let lo := 12 + 9 * lvl
    let at_ := base + 8 * natBits va hi lo
    let s := ((s.accessAs .walk s.access.2).hubFetch at_ 8).settle
    let e := s.devNat at_ 8
    if s.devPoisoned at_ 8 then (s, .denied 4 (some at_))
    else if !natBit e 0 then (s, .absent 0)
    else if s.entryMalformed e lvl then (s, .denied 1 (some at_))
    else if lvl = 0 || natBit e 4 then (s, .page (leafPage ctx va e lvl))
    else s.walkLevels fuel ctx va (lvl - 1) (lo - 1) (natBits e 51 12 * 4096)

/-- A walk of a context at a virtual address (R375); an error that it finds is reported before it answers (R469). -/
def State.walk (s : State) (ctx va : Nat) : State × Xlation :=
  let at_ := natBits s.xltCtxBase.toNat 38 16 * 65536 + 16 * ctx
  let s := ((s.accessAs .walk s.access.2).hubFetch at_ 16).settle
  let d := s.devNat at_ 16
  if s.devPoisoned at_ 16 then (s, .denied 4 (some at_))
  else if ctxInvalid d then (s, .denied 3 none)
  else if natBits d 2 1 = 1 then (s, .ats)
  else
    let top := natBits d 12 8
    if 39 + top ≤ 55 && va / 2 ^ (39 + top) != 0 then (s, .absent 0)
    else s.walkLevels 4 ctx va 3 (38 + top) (natBits d 102 76 * 4096)

/-- An entry covers an address of a context. -/
def TlbEntry.covers (e : TlbEntry) (ctx va : Nat) : Bool := e.ctx == ctx && va / e.size == e.va / e.size

/-- A lookup in one level: the entry and the level with it most recent. -/
def tlbFind (l : List TlbEntry) (ctx va : Nat) : Option (TlbEntry × List TlbEntry) :=
  (l.find? (fun e => e.covers ctx va)).map (fun e => (e, e :: l.filter (fun x => x != e)))

/-- A fill of one level of `sets` sets of `ways` ways: a full set replaces its least recently used entry (R376; set index log
13). -/
def tlbFill (sets ways : Nat) (l : List TlbEntry) (e : TlbEntry) : List TlbEntry :=
  let set := fun (x : TlbEntry) => x.va / x.size % sets
  let l := l.filter (fun x => !(x.ctx == e.ctx && x.va == e.va && x.size == e.size))
  let peers := l.filter (fun x => set x == set e)
  let l := if ways ≤ peers.length then
      match peers.getLast? with
      | some v => l.filter (fun x => x != v)
      | none => l
    else l
  e :: l

/-- A change of one core; an unlisted core is a core after reset. -/
def State.core (s : State) (k : Nat) : Core := (s.cores.look k).getD Core.reset

/-- The state with one core set. -/
def State.setCore (s : State) (k : Nat) (c : Core) : State := { s with cores := s.cores.put k c }

/-- The state with one core changed. -/
def State.onCore (s : State) (k : Nat) (f : Core → Core) : State := s.setCore k (f (s.core k))

/-- The cluster TLB of a cluster. -/
def State.cTlb (s : State) (k : Nat) : List TlbEntry := (s.clusterTlb.look k).getD []
/-- The L2 TLB of a die. -/
def State.dTlb (s : State) (k : Nat) : List TlbEntry := (s.dieTlb.look k).getD []

/-- A page is written into the L2 TLB of a die. -/
def State.fillDie (s : State) (die : Nat) (e : TlbEntry) : State :=
  { s with dieTlb := s.dieTlb.put die (tlbFill 2048 8 (s.dTlb die) e) }

/-- A page is written into the TLB of a cluster. -/
def State.fillCluster (s : State) (cl : Nat) (e : TlbEntry) : State :=
  { s with clusterTlb := s.clusterTlb.put cl (tlbFill 128 8 (s.cTlb cl) e) }

/-- A page is written into the micro-TLB of a core. -/
def State.fillMicro (s : State) (core : Nat) (e : TlbEntry) : State :=
  s.onCore core (fun (c : Core) => { c with utlb := tlbFill 1 64 c.utlb e })

/-- The permission that an access needs (R375). -/
def permitted (e : TlbEntry) (rd wr : Bool) : Xlation :=
  if (rd && !e.rd) || (wr && !e.wr) then .denied 0 none else .page e

/-- A host context has no cached translation (R377): the page is absent while a page request for it is outstanding, and a
translation request is sent otherwise. -/
def State.atsState (s : State) (die ctx va : Nat) : Xlation :=
  if s.priPages.contains (die, ctx, va / 4096) then .absent 1 else .ats

/-- The page at which a core's access translates (R375, R376): micro-TLB, cluster TLB, die TLB, and then a walk, whose page is
cached at all three levels when it permits the access. -/
def State.translate (s : State) (core ctx va : Nat) (rd wr : Bool) : State × Xlation :=
  let cl := core / 8
  let die := dieOf core
  match tlbFind (s.core core).utlb ctx va with
  | some (e, l) => (s.onCore core (fun (c : Core) => { c with utlb := l }), permitted e rd wr)
  | none =>
    match tlbFind (s.cTlb cl) ctx va with
    | some (e, l) => (({ s with clusterTlb := s.clusterTlb.put cl l } : State).fillMicro core e, permitted e rd wr)
    | none =>
      match tlbFind (s.dTlb die) ctx va with
      | some (e, l) =>
        ((({ s with dieTlb := s.dieTlb.put die l } : State).fillCluster cl e).fillMicro core e, permitted e rd wr)
      | none =>
        match s.walk ctx va with
        | (s, .page e) =>
          match permitted e rd wr with
          | .page e => (((s.fillDie die e).fillCluster cl e).fillMicro core e, .page e)
          | x => (s, x)
        | (s, .ats) => (s, s.atsState die ctx va)
        | (s, x) => (s, x)

/-- A translation by the hub die for a launch, 0 for none; it keeps answers for host contexts and walks the device's own tables afresh
(log 15). -/
def State.hubTranslate (s : State) (launch ctx va : Nat) (rd wr : Bool) : State × Xlation :=
  match (s.accessAs .none launch).walk ctx va with
  | (s, .page e) => (s, permitted e rd wr)
  | (s, .ats) => match tlbFind (s.dTlb 8) ctx va with
    | some (e, _) => (s, permitted e rd wr)
    | none => (s, s.atsState 8 ctx va)
  | (s, x) => (s, x)

/-- Where a translated byte stands. -/
inductive Place where
  | dev (pa : Nat)
  | host (ba : Nat)
  | remote (dev addr : Nat)
  | spad (core off : Nat)
  deriving DecidableEq, Repr

/-- The place of an address in a page. -/
def TlbEntry.place (e : TlbEntry) (va : Nat) : Place :=
  let a := e.pa + va % e.size
  if e.loc = 1 then .host a else if e.loc = 2 then .remote e.devid a else .dev a

/-! ### Holds (R371, R372) -/

/-- An access meets an absent page (R371): it joins the page's hold, or takes an entry and a record is queued, or waits for an
entry. -/
def State.hold (s : State) (die ctx va : Nat) (i : HeldItem) (r : FaultRec) : State :=
  let page := va / 4096
  let here := fun (h : Hold) => h.die == die && h.ctx == ctx && h.page == page
  if s.holds.any here then
    { s with holds := s.holds.map (fun (h : Hold) => if here h then { h with items := h.items ++ [i] } else h) }
  else if 256 ≤ (s.holds.filter (fun (h : Hold) => h.die == die)).length then
    { s with walkQueue := s.walkQueue ++ [(die, i)] }
  else
    let id := s.nextHold
    let s := { s with holds := s.holds ++ [(⟨die, ctx, page, id, none, [i]⟩ : Hold)], nextHold := id + 1 }
    s.fqPost r (some id)

/-- An access waits for the answer of its ATS translation request (R377). -/
def State.atsWait (s : State) (die ctx va : Nat) (i : HeldItem) : State :=
  let page := va / 4096
  let here := fun (h : AtsReq) => h.die == die && h.ctx == ctx && h.page == page
  if s.ats.any here then
    { s with ats := s.ats.map (fun (h : AtsReq) => if here h then { h with items := h.items ++ [i] } else h) }
  else { s with ats := s.ats ++ [(⟨die, ctx, page, [i]⟩ : AtsReq)] }

/-- What came of a fault record on its way to a private segment. -/
inductive Stored where
  | written
  | waits                                 -- an absent page holds it, or its translation is outstanding
  | refused (detail : Nat) (pa : Option Nat)
  deriving DecidableEq, Repr

/-- FVALID and FCAUSE of a thread are set, its record being written (R24, R364). -/
def State.setFvalid (s : State) (core : Nat) (thread : Option (Nat × Byte)) : State :=
  match thread with
  | none => s
  | some (t, cause) => s.onCore core (fun (c : Core) => match c.threads.look t with
    | some th => { c with threads := c.threads.put t { th with fvalid := true, fcause := cause } }
    | none => c)

/-- A fault record is written to a private segment (R24), translated as a global address (R373), and then FVALID of its thread is
set (R364). An absent page holds the write; a page may refuse it. -/
def State.storeRecord (s : State) (core ctx va : Nat) (bytes : List Byte) (thread : Option (Nat × Byte)) : State × Stored :=
  match s.translate core ctx va false true with
  | (s, .page e) =>
    let s := match e.place va with
      | .dev pa => s.devStore (dieOf core) pa bytes
      | .host ba => s.hostWrite (dieOf core) ba bytes
      | .remote dev a => s.remoteStore (dieOf core) dev a bytes
      | .spad _ _ => s
    (s.setFvalid core thread, .written)
  | (s, .absent detail) =>
    (s.hold (dieOf core) ctx va (.record core ctx va bytes thread)
      { s.blankRec 0x10 1 .write detail with held := true, core := some core, va := some va, ctx := some ctx }, .waits)
  | (s, .ats) => (s.atsWait (dieOf core) ctx va (.record core ctx va bytes thread), .waits)
  | (s, .denied d pa) => (s, .refused d pa)

/-- What a hold kept translates again, after what left its hold before it (R372). -/
def State.wake (s : State) (i : HeldItem) : State := { s with retries := s.retries ++ [i] }

/-- The accesses of dies with free entries of the held-page table leave the walker queues and fault afresh (R371). -/
def State.walkersGo (s : State) : State :=
  let free := fun (w : Nat × HeldItem) => decide ((s.holds.filter (fun (h : Hold) => h.die == w.1)).length < 256)
  let go := s.walkQueue.filter free
  go.foldl (fun s w => s.wake w.2) { s with walkQueue := s.walkQueue.filter (fun w => !free w) }

/-- Holds are released in the order in which they were taken, and their accesses in the order in which they joined (R372). -/
def State.release (s : State) (p : Hold → Bool) : State :=
  let go := s.holds.filter p
  let s := { s with holds := s.holds.filter (fun h => !p h) }
  (go.foldl (fun s (h : Hold) => h.items.foldl State.wake s) s).walkersGo

/-- Everything that waits for a page, or translates again. -/
def State.heldItems (s : State) : List HeldItem :=
  s.holds.flatMap Hold.items ++ s.ats.flatMap AtsReq.items ++ s.walkQueue.map (fun w => w.2) ++ s.retries

/-- Held items that satisfy a test are dropped from their holds (R318, R367, R384). A hold that this empties is over (R468): its entry of the
held-page table goes to an access that waits for one (R371). -/
def State.dropHeld (s : State) (p : HeldItem → Bool) : State :=
  let emptied := fun (h : Hold) => h.items.any p && h.items.all p
  ({ s with
    holds := (s.holds.filter (fun h => !emptied h)).map (fun (h : Hold) => { h with items := h.items.filter (fun i => !p i) })
    ats := s.ats.map (fun (h : AtsReq) => { h with items := h.items.filter (fun i => !p i) })
    walkQueue := s.walkQueue.filter (fun w => !p w.2)
    retries := s.retries.filter (fun i => !p i) } : State).walkersGo

/-- Held accesses of a thread that has left its load or faulted, and those that wait for a stack, for their predecessors or for a ticket:
they complete, and emit nothing (R24, R139 step 5). -/
def State.muteHeld (s : State) (k t : Nat) : State :=
  let s := s.onCore k (fun (c : Core) => { c with parked := c.parked.map (fun (x : Parked) =>
    if x.f.tag.slot.toNat = t ∧ (x.why = .stack ∨ x.why = .release ∨ x.why = .ticket) then { x with f := { x.f with mute := true } } else x) })
  let g := fun (i : HeldItem) => match i with
    | .firing f => if f.core = k ∧ f.tag.slot.toNat = t then HeldItem.firing { f with mute := true } else i
    | _ => i
  { s with
    holds := s.holds.map (fun (h : Hold) => { h with items := h.items.map g })
    ats := s.ats.map (fun (h : AtsReq) => { h with items := h.items.map g })
    walkQueue := s.walkQueue.map (fun w => (w.1, g w.2))
    retries := s.retries.map g }

end Sys2Proof.Machine
end

