-- ==== Sys2Proof/Machine/Ops.lean ====
section
/-! DEFINITION. The named operations over threads, tokens and memory, and the taking of a fault: `State.contain` is the entry of
every contained fault (spec 01 R24, R477; 13 R361 to R366), `State.divert` the way on to the trap handler (R23, R365). The way
back is any block terminator (R365), `Control.lean`. -/

namespace Sys2Proof.Machine

/-! ### Threads, kernels, launches -/

/-- The thread in a slot; an unlisted slot is free. -/
def Core.thread (c : Core) (t : Nat) : Thread := (c.threads.look t).getD Thread.free

/-- The core with one thread changed. -/
def Core.onThread (c : Core) (t : Nat) (f : Thread → Thread) : Core :=
  { c with threads := c.threads.put t (f (c.thread t)) }

/-- The thread in a slot of a core. -/
def State.thread (s : State) (k t : Nat) : Thread := (s.core k).thread t

/-- The state with one thread changed. -/
def State.onThread (s : State) (k t : Nat) (f : Thread → Thread) : State :=
  s.onCore k (fun (c : Core) => c.onThread t f)

/-- The active plane of a core (R308). -/
def Core.active (c : Core) : Plane := if c.activeB then c.planeB else c.planeA

/-- The shadow plane of a core. -/
def Core.shadow (c : Core) : Plane := if c.activeB then c.planeA else c.planeB

/-- The active load of a core. -/
def Core.load (c : Core) : Load := c.active.img

/-- A kernel with nothing declared, for ids that name none. -/
def Kernel.blank : Kernel where
  id := 0
  ctx := 0
  va := 0
  pages := []
  live := 8
  energy := 0
  acc := 0
  spad := 0
  priv := 0
  calldepth := 0
  handler := none
  paramBytes := 0
  entries := []
  loads := []
  extents := []
  catalogue := (0, 0)

/-- A kernel by its id. -/
def State.kernel (s : State) (id : Nat) : Kernel := (s.kernels.find? (fun (k : Kernel) => k.id == id)).getD Kernel.blank

/-- The launch of an id, while it has not completed. -/
def State.launch? (s : State) (id : Nat) : Option Launch := s.launches.find? (fun (l : Launch) => l.id == id)

/-- The running graph of a launch. -/
def State.graph? (s : State) (id : Nat) : Option Graph := s.graphs.find? (fun (g : Graph) => g.launch == id)

/-- A workgroup of a launch. -/
def State.wg? (s : State) (launch wgid : Nat) : Option Workgroup :=
  s.wgs.find? (fun (w : Workgroup) => w.launch == launch && w.wgid == wgid)

/-- The state with one workgroup changed. -/
def State.onWg (s : State) (launch wgid : Nat) (f : Workgroup → Workgroup) : State :=
  { s with wgs := s.wgs.map (fun (w : Workgroup) => if w.launch = launch ∧ w.wgid = wgid then f w else w) }

/-- The part that holds a thread slot (R29). -/
def Core.partAt (c : Core) (t : Nat) : Option Part := c.parts.find? (fun (p : Part) => p.slots.contains t)

/-- A core holds a part of a launch that is being pre-empted at a load boundary (R384). -/
def State.frozen (s : State) (k : Nat) : Bool :=
  s.launches.any (fun (l : Launch) => l.preempt == 2 && (s.core k).parts.any (fun (p : Part) => p.launch == l.id))

/-- The kernel of a thread. -/
def State.kernelAt (s : State) (k t : Nat) : Kernel :=
  match (s.core k).partAt t with
  | some p => s.kernel p.kernel
  | none => Kernel.blank

/-- Translation context of a thread (R373). -/
def State.ctxAt (s : State) (k t : Nat) : Nat := ((s.launch? (s.thread k t).launch).map Launch.ctx).getD 0

/-- P', the declared private bytes rounded up (R21). -/
def Kernel.privRound (k : Kernel) : Nat := roundUp k.priv 128

/-- PSTRIDE (R21). -/
def Kernel.stride (k : Kernel) : Nat := k.privRound + 128 + roundUp (k.calldepth - 16) 128

/-- PSMAX of a graph (R405). -/
def State.graphStride (s : State) (g : Graph) : Nat :=
  g.nodes.foldl (fun m (n : GNode) => max m ((n.kernel.map (fun id => (s.kernel id).stride)).getD 0)) 0

/-- gtid of a thread (R21); for a graph thread the unit of its input record (R405). -/
def State.gtid (s : State) (k t : Nat) : Nat :=
  let th := s.thread k t
  match th.recUnit with
  | some u => u
  | none => th.wgid * ((s.wg? th.launch th.wgid).map Workgroup.n).getD 0 + th.tidw.toNat

/-- Global virtual address of a thread's private segment (R21, R405). -/
def State.privBase (s : State) (k t : Nat) : Nat :=
  let base := ((s.launch? (s.thread k t).launch).map Launch.privBase).getD 0
  let stride := match s.graph? (s.thread k t).launch with
    | some g => s.graphStride g
    | none => (s.kernelAt k t).stride
  base + s.gtid k t * stride

/-! ### Resident-loop counters -/

/-- The iteration counter t that a tag field stands for in a loop instance: the last one issued with that field (R36). -/
def LoopInst.tOf (i : LoopInst) (field : Nat) : Nat := i.t - 1 - (i.t - 1 + 64 - field % 64) % 64

/-- The outer loop instance of a thread that holds a node. -/
def Core.outerInst (c : Core) (node thread : Nat) : Option LoopInst :=
  (c.load.headerAt 0 node).bind (fun h =>
    c.loops.find? (fun (i : LoopInst) => 16 * i.elem + i.slot == h && i.thread == thread && i.level == 0))

/-- The inner loop instance of a thread's outer iteration that holds a node. -/
def Core.innerInst (c : Core) (node thread : Nat) (out : BitVec 6) : Option LoopInst :=
  (c.load.headerAt 1 node).bind (fun h =>
    c.loops.find? (fun (i : LoopInst) => 16 * i.elem + i.slot == h && i.thread == thread && i.level == 1 && i.out == out))

/-- Iteration counters of an instance, outer and inner (R126). -/
def Core.iterations (c : Core) (node : Nat) (tag : Tag) : Nat × Nat :=
  let t := tag.slot.toNat
  (((c.outerInst node t).map (fun i => i.tOf tag.out.toNat)).getD 0,
   ((c.innerInst node t tag.out).map (fun i => i.tOf tag.inn.toNat)).getD 0)

/-- Sums of the lengths below each lane (R217). -/
def prefixOf (lens : List Nat) (i : Nat) : Nat := (lens.take i).foldl (· + ·) 0

/-- Owner lane of a flat index (R217). -/
def XCtx.ownerOf (x : XCtx) (f : Nat) : Nat :=
  ((List.range x.lens.length).find? (fun i => prefixOf x.lens i ≤ f && f < prefixOf x.lens i + (x.lens[i]?).getD 0)).getD 0

/-- Owner slot, owner lane and flat index of an instance in the body of an `xround` loop (R223). -/
def Core.expansionOwner (c : Core) (node : Nat) (tag : Tag) : Option (Nat × Nat × Nat) :=
  (c.outerInst node tag.slot.toNat).bind (fun i => i.ctx.bind (fun id =>
    (c.xctxs.find? (fun (x : XCtx) => x.id == id)).bind (fun x =>
      let f := i.tOf tag.out.toNat * x.n + i.lane
      if f < x.total then
        let o := x.ownerOf f
        let members := ((c.spans.find? (fun (p : Span) => p.id == x.span)).map Span.members).getD []
        some ((members[o]?).getD 0, o, f)
      else none)))

/-! ### Records of instances -/

/-- The slot index of a firing's thread. -/
def Firing.thread (f : Firing) : Nat := f.tag.slot.toNat

/-- The node of a firing. -/
def Firing.node (f : Firing) : Nat := 16 * f.elem + f.slot

/-- A record of a thread (R363, R364). -/
def State.threadRec (s : State) (k t cause cls : Nat) (kind : AccessKind) (detail : Nat) : FaultRec :=
  let th := s.thread k t
  { s.blankRec cause cls kind detail with
    core := some k, tslot := some t, lane := some th.lane, gtid := some (s.gtid k t), launch := th.launch,
    ctx := some (s.ctxAt k t), inHandler := th.handler }

/-- A firing as it issues: it notes what its records name later (R223, R364), and whose it is. -/
def State.stamp (s : State) (f : Firing) : Firing :=
  let c := s.core f.core
  let th := c.thread f.thread
  { f with
    plane := c.activeB, owner := c.expansionOwner f.node f.tag, who := some (th.launch, th.wgid, th.tidw.toNat), batch := s.stepNo }

/-- The thread that issued a firing still stands in its slot. -/
def State.owns (s : State) (f : Firing) : Bool :=
  match f.who with
  | none => true
  | some x =>
    let th := s.thread f.core f.thread
    !f.mute || (th.state != .free && (th.launch, th.wgid, th.tidw.toNat) == x)

/-- A record of an instance (R363, R364, R223). -/
def State.firingRec (s : State) (f : Firing) (cause cls : Nat) (kind : AccessKind) (detail : Nat) : FaultRec :=
  { s.threadRec f.core f.thread cause cls kind detail with elem := some f.elem, slot := f.slot, plane := f.plane, owner := f.owner }

/-! ### Aborting a workgroup and taking a contained fault -/

/-- A counter of a thread (R17, R235). -/
def Thread.cnt (t : Thread) : CntClass → BitVec 8
  | .copy => t.cntCopy
  | .matrix => t.cntMatrix
  | .gather => t.cntGather
  | .remote => t.cntRemote

/-- A thread with one counter set. -/
def Thread.setCnt (t : Thread) (k : CntClass) (v : BitVec 8) : Thread :=
  match k with
  | .copy => { t with cntCopy := v }
  | .matrix => { t with cntMatrix := v }
  | .gather => { t with cntGather := v }
  | .remote => { t with cntRemote := v }

/-- All four counters are zero (R142). -/
def Thread.quiet (t : Thread) : Bool := t.cntCopy == 0 && t.cntMatrix == 0 && t.cntGather == 0 && t.cntRemote == 0

/-- A thread belongs to a workgroup. -/
def Thread.inWg (t : Thread) (launch wgid : Nat) : Bool := t.state != .free && t.launch == launch && t.wgid == wgid

/-! ### Stream ports (R243, R249) -/

/-- A stream port of a core; an unlisted one is unbound. -/
def Core.port (c : Core) (n : Nat) : Port := (c.ports.look n).getD ⟨.unbound, false, none, [], [], none, false⟩

/-- The core with one port changed. -/
def Core.onPort (c : Core) (n : Nat) (f : Port → Port) : Core := { c with ports := c.ports.put n (f (c.port n)) }

/-- A port is bound in the given direction (R239). -/
def Core.portBound (c : Core) (n : Nat) (out : Bool) : Bool := (c.port n).state != .unbound && (c.port n).out == out

/-- A transfer of a core. -/
def Core.transfer? (c : Core) (id : Nat) : Option Transfer := c.transfers.find? (fun (x : Transfer) => x.id == id)

/-- The core with one transfer changed. -/
def Core.onTransfer (c : Core) (id : Nat) (f : Transfer → Transfer) : Core :=
  { c with transfers := c.transfers.map (fun (x : Transfer) => if x.id = id then f x else x) }

/-- Every copy queued at a port has moved all its bytes through the port's buffer, or been ended. -/
def Core.portFetched (c : Core) (q : Port) : Bool :=
  q.queue.all (fun id => match c.transfer? id with | some x => x.discard || decide (x.bytes ≤ x.cursor) | none => true)

/-- Once a port is CLOSED, every `sclose` that waits at it goes on, also when a later copy opens the port again (R249). -/
def Core.closesGo (c : Core) (n : Nat) : Core :=
  if (c.port n).state ≠ .closed then c
  else { c with parked := c.parked.map (fun (x : Parked) =>
    if x.why = .stream ∧ c.load.opc x.f.node = some 0xE7 ∧ (c.load.fields x.f.node).map SlotWord.port = some n
    then { x with why := .closed } else x) }

/-- A port becomes CLOSED when the last byte of its last queued copy has passed (R243). -/
def Core.portCheck (c : Core) (n : Nat) : Core :=
  (c.onPort n (fun (q : Port) =>
    if q.state = .opened ∧ c.portFetched q ∧ (q.out || q.buf.isEmpty) then { q with state := .closed, closing := none } else q)).closesGo n

/-- A port's `sclose` takes effect (R249): an inbound port drops its bytes; its queued copies end. -/
def Core.portClose (c : Core) (n : Nat) : Core :=
  let ids := (c.port n).queue
  let c := ids.foldl (fun (c : Core) id => c.onTransfer id (fun (x : Transfer) => { x with discard := true, held := false })) c
  (c.onPort n (fun (q : Port) => { q with
    state := .closed, closing := none, buf := if q.out then q.buf else [] })).closesGo n

/-- A port loses the copies that `gone` names from its queue (R367): the next of its queue goes on. A close that waited for the hold of such
a copy takes effect (R249). Without a copy the port is CLOSED, an inbound one once the bytes that have arrived are taken (R247). -/
def Core.portLoses (c : Core) (n : Nat) (gone : Nat → Bool) : Core :=
  let q := c.port n
  if !q.queue.any gone then c
  else
    let c := c.onPort n (fun (q : Port) => { q with
      queue := q.queue.filter (fun i => !gone i), state := if q.state = .held then .opened else q.state })
    if q.closing.isSome && !q.out then c.portClose n
    else if q.out && (c.port n).queue.isEmpty then
      (c.onPort n (fun (q : Port) => { q with state := .closed, closing := none })).closesGo n
    else c.portCheck n

/-- A held transfer of a workgroup is dropped with its count (R367), and leaves the port that it held. -/
def Core.dropTransfers (c : Core) (launch wgid : Nat) : Core :=
  let gone := fun (t : Transfer) => t.held && t.counted && t.launch == launch && t.wgid == wgid
  let ids := (c.transfers.filter gone).map (fun (t : Transfer) => t.id)
  let c := (c.transfers.filter gone).foldl (fun (c : Core) (t : Transfer) =>
    c.onThread t.f.thread (fun th => th.setCnt t.cls (th.cnt t.cls - 1))) c
  let c := (c.ports.map (fun (kv : Nat × Port) => kv.1)).foldl (fun (c : Core) n => c.portLoses n (fun i => ids.contains i)) c
  { c with transfers := c.transfers.filter (fun t => !gone t) }

/-- The instances of a thread that have issued in this cycle and not taken effect yet: they had fired when it faulted (R24). -/
def State.fireOn (s : State) (p : Firing → Bool) : State :=
  let g := fun (f : Firing) => if p f then { f with live := true } else f
  { s with ready := s.ready.map g, issued := s.issued.map g }

/-- Abort a workgroup (R367): on every core of its parts its threads issue nothing more and their held operations are dropped;
each is freed by FAULTED_DRAINED once its counters are zero. -/
def State.abortWg (s : State) (launch wgid : Nat) : State :=
  match s.wg? launch wgid with
  | none => s
  | some w =>
    if w.aborted then s
    else
      let held := fun (i : HeldItem) => match i with
        | .firing f => (s.thread f.core f.thread).inWg launch wgid
        | .transfer k id => (s.core k).transfers.any (fun (t : Transfer) =>
            t.id == id && t.counted && t.launch == launch && t.wgid == wgid)
        | _ => false
      let s := s.onWg launch wgid (fun w => { w with aborted := true })
      let s := s.onLaunch launch (fun (l : Launch) => { l with aborted := l.aborted + 1 })
      let s := s.dropHeld held
      let s := s.fireOn (fun f => (s.thread f.core f.thread).inWg launch wgid)
      w.cores.foldl (fun s k => s.onCore k (fun (c : Core) =>
        let c := { c with threads := c.threads.map (fun (kt : Nat × Thread) =>
          if kt.2.inWg launch wgid then (kt.1, { kt.2 with aborted := true }) else kt) }
        c.dropTransfers launch wgid)) s

/-- Where a record stands among those of one cycle (R366): by core, element and slot. -/
def FaultRec.rank (r : FaultRec) : List Nat := [r.core.getD 0xFFFF, r.elem.getD 0xFF, r.slot]

/-- A rank comes before another. -/
def rankBelow : List Nat → List Nat → Bool
  | a :: l, b :: m => decide (a < b) || (a == b && rankBelow l m)
  | _, _ => false

/-- A copy among the copies of its cycle, in their order (R366). -/
def insertCopy (x : FaultRec × Nat) : List (FaultRec × Nat) → List (FaultRec × Nat)
  | [] => [x]
  | y :: l => if rankBelow x.1.rank y.1.rank then x :: y :: l else y :: insertCopy x l

/-- The class-2 copy of a contained record that leads to an abort (R366): one for each workgroup, that of the first to commit. It is queued
as the cycle ends; of several records of one cycle the first by core, element and slot counts. -/
def State.reportAbort (s : State) (r : FaultRec) (launch wgid : Nat) : State :=
  let theirs := fun (y : FaultRec × Nat) => y.1.launch == launch && y.2 == wgid
  let add := fun (s : State) => { s with
    copies := insertCopy ({ r with cls := 2, launch := launch }, wgid) (s.copies.filter (fun y => !theirs y)) }
  match s.wg? launch wgid with
  | none => s
  | some w =>
    if !w.reported && !w.aborted then add (s.onWg launch wgid (fun w => { w with reported := true }))
    else if s.copies.any (fun y => theirs y && rankBelow r.rank y.1.rank) then add s
    else s

/-- The copies of a cycle are queued as it ends (R366). -/
def State.postCopies (s : State) : State := s.copies.foldl (fun s y => s.fqPost y.1 none) { s with copies := [] }

/-- A thread whose tokens have drained goes to its kernel's handler entry, or its workgroup is aborted (R23). -/
def State.divert (s : State) (k t : Nat) : State :=
  let th := s.thread k t
  match (s.kernelAt k t).handler, th.handler with
  | some h, false =>
    s.onThread k t (fun th => { th with
      state := .waiting, next := BitVec.ofNat 7 h, handler := true, since := s.time, barrier := none })
  | _, _ => s.abortWg th.launch th.wgid

/-- A fault record of a thread goes to its private segment (R21, R24, R361): the record, and the FCAUSE that it sets. -/
def State.storeOwn (s : State) (k t : Nat) (r : FaultRec) (cause : Option Byte) : State × Stored :=
  s.storeRecord k (s.ctxAt k t) (s.privBase k t + (s.kernelAt k t).privRound) r.bytes (cause.map (fun b => (t, b)))

/-- A private segment that refuses a fault record takes the workgroup with it, as any refused access does (R181). -/
def State.recordRefused (s : State) (k t : Nat) (x : Stored) : State :=
  match x with
  | .refused d pa =>
    let th := s.thread k t
    let va := s.privBase k t + (s.kernelAt k t).privRound
    (s.fqPost { s.threadRec k t 0x11 2 .write d with va := some va, pa := pa } none).abortWg th.launch th.wgid
  | _ => s

/-- The record of a thread is still on its way to its private segment. -/
def State.recordPending (s : State) (k t : Nat) : Bool :=
  s.heldItems.any (fun i => match i with
    | .record core _ _ _ (some x) => core == k && x.1 == t
    | _ => false)

/-- A contained fault of a thread takes its workgroup with it: there is no handler to go to (R24, R366, R477). -/
def State.dies (s : State) (k t : Nat) : Bool :=
  (s.kernelAt k t).handler.isNone || (s.thread k t).handler || (s.thread k t).state == .exiting

/-- A further fault of a thread that has faulted: the first to commit stays, but of two in one cycle the lower element, then the
lower slot, is recorded (R24). -/
def State.laterFault (s : State) (k t : Nat) (r : FaultRec) : State :=
  let e := r.elem.getD 0xFF
  match (s.thread k t).faultAt with
  | some (at_, e', sl') =>
    if at_ = s.time ∧ (e < e' ∨ (e = e' ∧ r.slot < sl')) then
      let s := s.archiveRec r
      let s := (s.storeOwn k t r (some (BitVec.ofNat 8 r.cause))).1
      let s := if s.dies k t then s.reportAbort r (s.thread k t).launch (s.thread k t).wgid else s
      s.onThread k t (fun th => { th with faultAt := some (at_, e, r.slot) })
    else s
  | none => s

/-- Commit a contained fault against a thread (R24, R364, R366, R477): the record goes to the private segment and the archive,
FVALID and FCAUSE are set with it, staged writes are discarded, and the thread becomes FAULTED; a waiting or parked thread goes on at
once, and an exiting one takes its workgroup with it. -/
def State.contain (s : State) (k t : Nat) (r : FaultRec) : State :=
  let th := s.thread k t
  if th.aborted || th.state == .free then s
  else if th.state = .faulted then s.laterFault k t r
  else
    let s := (s.muteHeld k t).fireOn (fun f => f.core == k && f.thread == t)
    let s := s.archiveRec r
    let x := s.storeOwn k t r (some (BitVec.ofNat 8 r.cause))
    let s := x.1.onThread k t (fun th => { th with
      staged := [], closing := false, faultAt := some (s.time, r.elem.getD 0xFF, r.slot) })
    let s := if s.dies k t then s.reportAbort r th.launch th.wgid else s
    let s := s.recordRefused k t x.2
    match th.state with
    | .exiting => s.abortWg th.launch th.wgid
    | .waiting | .parked =>
      let s := s.onThread k t (fun th => { th with state := .faulted })
      if s.recordPending k t then s else s.divert k t
    | _ => s.onThread k t (fun th => { th with state := .faulted })

/-- An instance commits a contained fault; nothing is left to fault when its thread has ended. -/
def State.commit (s : State) (f : Firing) (cause : Nat) (kind : AccessKind) (va : Option Nat) (detail : Nat) : State :=
  if s.owns f then s.contain f.core f.thread { s.firingRec f cause 0 kind detail with va := va } else s

/-- A fault of class 2 (R361): the record is queued and copied to the thread's private segment, and the workgroup is aborted
without diversion. -/
def State.abortFault (s : State) (k t : Nat) (r : FaultRec) : State :=
  let th := s.thread k t
  if th.aborted || th.state == .free then s
  else
    let s := (s.storeOwn k t r none).1
    (s.fqPost r none).abortWg th.launch th.wgid

/-- An instance's access is refused (R181): its thread's workgroup is aborted, also when the thread itself has ended. -/
def State.refuse (s : State) (f : Firing) (r : FaultRec) : State :=
  if s.owns f then s.abortFault f.core f.thread r
  else match f.who with
    | some (launch, wgid, _) => (s.fqPost { r with tslot := none, lane := none, gtid := none, launch := launch } none).abortWg launch wgid
    | none => s

/-! ### Tokens -/

/-- A token sent to one destination (R81, R83, R165). A token bound for the stacks stages a live-value write (R16, R126), a pass
token none, and nothing once the thread's terminator has committed (R139 step 3); a token for an island joins its feed, and 8 bytes go to an outbound port (R248). -/
def State.send (s : State) (f : Firing) (n : Nat) (d : Dst) (scale : Bool) (v : Val) (tag : Tag) : State :=
  if f.mute then s else
  match d with
  | .none => s
  | .port e sl p =>
    s.onCore f.core (fun (c : Core) => { c with
      flights := c.flights ++ [(⟨e.toNat, sl.toNat, p, scale, v, tag, f.elem, f.slot, n⟩ : Flight)] })
  | .stacks lv =>
    let it := (s.core f.core).iterations f.node tag
    let put := fun (isErr : Bool) (w : Dword) =>
      if (s.thread f.core tag.slot.toNat).closing then s else s.onThread f.core tag.slot.toNat (fun th => { th with
        staged := th.staged ++ [(⟨lv.toNat, f.elem, f.slot, it.1, it.2, ⟨isErr, w, false⟩⟩ : Staged)] })
    match v with
    | .pass => s
    | .data x => put false x
    | .err k => put true (match k with | .nan => 0 | .posInf => 1 | .negInf => 2 | .poison => 3)
  | .island (.sp p) =>
    let add := fun (x : Dword) => s.onCore f.core (fun (c : Core) =>
      let q := (c.ports.look p.toNat).getD ⟨.closed, true, none, [], [], none, false⟩
      { c with ports := c.ports.put p.toNat { q with buf := q.buf ++ (bytesLE 8 x.toNat).map (fun b => (b, false)) } })
    match v with
    | .pass => s
    | .data x => add x
    | .err .poison => s.commit f 0x20 .outStream none 0
    | .err .nan => add 0x7FF8000000000000
    | .err .posInf => add 0x7FF0000000000000
    | .err .negInf => add 0xFFF0000000000000
  | .island q =>
    let feed := match q with | .mxa => 0 | .mxb => 1 | .mxsa => 2 | _ => 3
    s.onCore f.core (fun (c : Core) =>
      let inner := (c.load.headerAt 1 f.node).isSome
      { c with feeds := c.feeds ++ [(⟨feed, tag, if inner then tag.inn.toNat else tag.out.toNat, v⟩ : FeedTok)] })

/-- The same token on D0 and on D1 (R83, R113). -/
def State.emitBoth (s : State) (f : Firing) (w : SlotWord) (v : Val) : State :=
  (s.send f 0 w.d0 false v f.tag).send f 1 w.d1 false v f.tag

/-- Different tokens on D0 and D1. -/
def State.emit2 (s : State) (f : Firing) (w : SlotWord) (v0 v1 : Val) : State :=
  (s.send f 0 w.d0 false v0 f.tag).send f 1 w.d1 false v1 f.tag

/-- An order token (R35). -/
def Val.order : Val := .data 0

/-- An instance waits. -/
def State.park (s : State) (f : Firing) (why : WaitWhy) : State :=
  s.onCore f.core (fun (c : Core) => { c with parked := c.parked ++ [(⟨f, why, s.time⟩ : Parked)] })

/-- A counter of the core (R263) rises. -/
def Core.bumpStat (c : Core) (i n : Nat) : Core :=
  { c with kstat := c.kstat.modify i (fun v => v + BitVec.ofNat 64 n) }

/-! ### Addresses (R38, R179) -/

/-- Where an address stands before translation. -/
inductive Target where
  | va (a : Nat)
  | spad (core off : Nat)
  deriving DecidableEq, Repr

/-- Why an access does not go on. -/
inductive Stop where
  | fault (cause detail : Nat)                 -- contained
  | absent (va detail : Nat)                   -- held with a 0x10 record (R181)
  | denied (detail : Nat) (pa : Option Nat)    -- 0x11 (R181)
  | ats (va : Nat)                             -- waits for a translation answer (R377)
  | notReady (va : Nat)                        -- its stack is not ready (R415)
  deriving DecidableEq, Repr

/-- Declared scratchpad bytes of a thread's kernel. -/
def State.spadBytes (s : State) (k t : Nat) : Nat := (s.kernelAt k t).spad

/-- The window checks of R38 on n bytes of an address aligned to `align`, up to translation. -/
def State.window (s : State) (k t g n align : Nat) : Except Nat Target :=
  let aligned (x : Target) : Except Nat Target := if g % align ≠ 0 then .error 0x15 else .ok x
  match natBits g 63 60 with
  | 0x0 =>
    if natBits g 59 56 ≠ 0 ∨ 2 ^ 56 < natBits g 55 0 + n then .error 0x12 else aligned (.va (natBits g 55 0))
  | 0xC =>
    if natBits g 59 56 ≠ 0 then .error 0x12
    else if (s.kernelAt k t).priv < natBits g 55 0 + n then .error 0x16
    else aligned (.va (s.privBase k t + natBits g 55 0))
  | 0xD =>
    if natBits g 59 56 ≠ 0 ∨ natBits g 46 20 ≠ 0 then .error 0x12
    else if natBits g 55 47 ≠ k then .error 0x13
    else if s.spadBytes k t < natBits g 19 0 + n then .error 0x12
    else aligned (.spad k (natBits g 19 0))
  | 0xE =>
    let owner := natBits g 55 50 * 8 + natBits g 22 20
    let th := s.thread k t
    if natBits g 59 56 ≠ 0 ∨ natBits g 49 23 ≠ 0 then .error 0x12
    else if natBits g 55 50 ≠ k / 8 then .error 0x14
    else if !(((s.wg? th.launch th.wgid).map Workgroup.cores).getD []).contains owner then .error 0x12
    else if s.spadBytes k t < natBits g 19 0 + n then .error 0x12
    else aligned (.spad owner (natBits g 19 0))
  | _ => .error 0x12

/-- The generic address that an address operand forms in a space (R179). -/
def composeAddress (space : Space) (core a : Nat) : Except Nat Nat :=
  match space with
  | .x => .ok a
  | .g => if natBits a 63 56 ≠ 0 then .error 0x12 else .ok a
  | .p => if natBits a 63 56 ≠ 0 then .error 0x12 else .ok (0xC * 2 ^ 60 + a)
  | .s => if natBits a 63 20 ≠ 0 then .error 0x12 else .ok (0xD * 2 ^ 60 + core * 2 ^ 47 + a)
  | .c => if natBits a 63 23 ≠ 0 then .error 0x12 else .ok (0xE * 2 ^ 60 + core / 8 * 2 ^ 50 + a)

/-- A stack can be accessed: it is ready, or fenced (R415, R417). -/
def State.stackOpen (s : State) (pa : Nat) : Bool :=
  let h := s.homeOf pa
  natBit s.funcReady.toNat (2 + h) || s.fenceStacks.contains h

/-- The place of a target for an access of a core in a translation context (R38 step 6, R181). -/
def State.locateCtx (s : State) (k ctx : Nat) (x : Target) (rd wr : Bool) : State × Except Stop Place :=
  match x with
  | .spad c o => (s, .ok (.spad c o))
  | .va a =>
    match s.translate k ctx a rd wr with
    | (s, .page e) =>
      match e.place a with
      | .dev pa => if s.stackOpen pa then (s, .ok (.dev pa)) else (s, .error (.notReady a))
      | .remote dev ra => if s.unreachable dev (ra / 128) then (s, .error (.fault 0x71 dev)) else (s, .ok (.remote dev ra))
      | p => (s, .ok p)
    | (s, .absent d) => (s, .error (.absent a d))
    | (s, .denied d pa) => (s, .error (.denied d pa))
    | (s, .ats) => (s, .error (.ats a))

/-- The place of a target for a thread's access. -/
def State.locate (s : State) (k t : Nat) (x : Target) (rd wr : Bool) : State × Except Stop Place :=
  (s.accessAs .none (s.thread k t).launch).locateCtx k (s.ctxAt k t) x rd wr

/-! ### Memory tiles (R288, R289) -/

/-- Tiles of a core's scratchpad in ascending id (R288): the SPAD tiles are the same in every load of a kernel. -/
def Kernel.spadTiles (k : Kernel) : List Nat := (k.loads.head?.map (fun l => l.tilesOf .spad)).getD []

/-- Key of a scratchpad byte in the tiles of a core. -/
def spadKey (tiles : List Nat) (off : Nat) : Nat :=
  Config.tileBytes * (tiles[off / Config.tileBytes]?).getD 0 + off % Config.tileBytes

/-- Byte of the tiles; an unwritten byte is 0 (R289). -/
def Core.tileByte (c : Core) (key : Nat) : Byte := (c.tiles.look key).getD 0

/-- Poison mark of the dword that holds a tile byte: one whose written bit is clear has none (R289). -/
def Core.tileMark (c : Core) (key : Nat) : Bool := c.tilePoison.contains (key / 8) && c.tileWritten.contains (key / 8)

/-- Bytes written to tiles: a whole dword clears its mark, a narrower store leaves it (R183); the written bits are set (R289). -/
def Core.tileStore (c : Core) (key : Nat) (bs : List Byte) : Core :=
  (dwordRuns bs.length key bs).foldl (fun (c : Core) r =>
    { c with
      tiles := cellWrites c.tiles (8 * r.1 + r.2.1) r.2.2
      tileWritten := insertNat c.tileWritten r.1
      tilePoison := if 8 ≤ r.2.2.length then removeNat c.tilePoison r.1 else c.tilePoison }) c

/-- A tile dword written as zero with its mark set. -/
def Core.tileMarkPoison (c : Core) (key : Nat) : Core :=
  { c with tilePoison := insertNat c.tilePoison (key / 8) }

/-- The scratchpad tiles that a workgroup holds on a core: those of its part, which it keeps until it retires as a whole (R25,
R242). -/
def State.spadTilesAt (s : State) (k launch wgid : Nat) : List Nat :=
  let c := s.core k
  match c.parts.find? (fun (p : Part) => p.launch == launch && p.wgid == wgid) with
  | some p => (s.kernel p.kernel).spadTiles
  | none =>
    match c.keptSpads.find? (fun x => x.1 == launch && x.2.1 == wgid) with
    | some x => (s.kernel x.2.2).spadTiles
    | none => []

/-! ### Reads and writes at a place -/

/-- What an access of a kind by a workgroup reads at a place; an error that it finds is reported before (R469): its number and whether a byte stands in a poisoned dword. -/
def State.readPlace (s : State) (kind : AccessKind) (die launch wgid : Nat) (p : Place) (w : Nat) : State × Nat × Bool :=
  match p with
  | .dev pa =>
    let s := ((s.accessAs kind launch).devFetch die pa w).settle
    (s, s.devNat pa w, s.devPoisoned pa w)
  | .host ba =>
    let s := s.hostOwn die ba w
    (s, readLE (cellRead s.hostMem) ba w, false)
  | .remote dev a =>
    let s := (dwordsOf a w).foldl (fun s n => s.remoteFetch die dev n) s
    (s, readLE (s.remoteByte die dev) a w, (dwordsOf a w).any (s.remoteMark die dev))
  | .spad k off =>
    let c := s.core k
    let tiles := s.spadTilesAt k launch wgid
    (s, readLE (fun o => c.tileByte (spadKey tiles o)) off w, (List.range w).any (fun i => c.tileMark (spadKey tiles (off + i))))

/-- Bytes written at a place. -/
def State.writePlace (s : State) (kind : AccessKind) (die launch wgid : Nat) (p : Place) (bs : List Byte) : State :=
  match p with
  | .dev pa => ((s.accessAs kind launch).devStore die pa bs).settle
  | .host ba => s.hostWrite die ba bs
  | .remote dev a => s.remoteStore die dev a bs
  | .spad k off =>
    let tiles := s.spadTilesAt k launch wgid
    s.onCore k (fun (c : Core) => c.tileStore (spadKey tiles off) bs)

/-- The dword at a place is written as zero with its poison mark set (R203, R241); host memory has no marks and takes zero bytes. -/
def State.poisonPlace (s : State) (kind : AccessKind) (die launch wgid : Nat) (p : Place) : State :=
  match p with
  | .dev pa => (((s.accessAs kind launch).devStore die pa (List.replicate 8 0)).devPoison die (pa / 8)).settle
  | .host ba => s.hostWrite die ba (List.replicate 8 0)
  | .remote dev a => s.remoteStoreWord die dev (a / 8) 0 (List.replicate 8 0) true
  | .spad k off =>
    let tiles := s.spadTilesAt k launch wgid
    s.onCore k (fun (c : Core) =>
      (c.tileStore (spadKey tiles off) (List.replicate 8 0)).tileMarkPoison (spadKey tiles off))

end Sys2Proof.Machine
end

