-- ==== Sys2Proof/Machine/Flags.lean ====
section
/-! DEFINITION. Payload readings (spec 01 R33), and the one-bit results that the KV7 computes: conditions (04 R116), carries and
borrows (R120). The KV7 has no flags register; these travel as tokens. -/

namespace Sys2Proof.Machine

/-- The bits of a payload that a type defines (R33). -/
def readBits (t : Ty) (x : Dword) : Nat := x.toNat % 2 ^ t.width

/-- The integer that a payload denotes for a type (R45). -/
def readInt (t : Ty) (x : Dword) : Int := if t.signed then toSigned t.width (readBits t x) else readBits t x

/-- A bit pattern placed in a payload (R33): sign-extended for .s types, zero-extended for the others. -/
def place (t : Ty) (n : Nat) : Dword :=
  if t.signed then BitVec.ofInt 64 (toSigned t.width (n % 2 ^ t.width)) else BitVec.ofNat 64 (n % 2 ^ t.width)

/-- An exact integer result, wrapped to the type and placed (R46). -/
def placeInt (t : Ty) (x : Int) : Dword := place t (wrap t.width x)

/-- The condition of `cmp` (R84, R116). -/
def condition (mod : BitVec 4) (a b : Int) : Bool :=
  match mod.toNat with
  | 0 => a == b
  | 1 => a != b
  | 2 => decide (a < b)
  | 3 => decide (a ≤ b)
  | 4 => decide (b < a)
  | _ => decide (b ≤ a)

/-- A truth value as a payload. -/
def flag (b : Bool) : Dword := if b then 1 else 0

/-- Carry out of w bits (R120). -/
def carryOut (w a b k : Nat) : Bool := decide (2 ^ w ≤ a + b + k)

/-- Borrow (R120). -/
def borrowOut (a b k : Nat) : Bool := decide (a < b + k)

end Sys2Proof.Machine
end

