-- ==== Sys2Proof/Machine/Operands.lean ====
section
/-! DEFINITION. Operand forms (spec 03 R79, 01 R37), predicates (R77), token kinds (R34), and the credit that an instance needs
to issue (11 R330). -/

namespace Sys2Proof.Machine

/-- A thread whose tokens have become pass tokens (R24, R367), or that has left. -/
def Thread.dead (t : Thread) : Bool := t.aborted || t.state == .faulted || t.state == .free

/-- The thread of a firing. -/
def State.ft (s : State) (f : Firing) : Thread := s.thread f.core f.thread

/-- Span of a thread while it is in the load. -/
def Core.spanOf (c : Core) (id : Nat) : Option Span := c.spans.find? (fun (p : Span) => p.id == id)

/-- Dimensions of a thread's workgroup (R29); a group of a graph is X = g (R351). -/
def State.dims (s : State) (th : Thread) : Nat × Nat × Nat :=
  if (s.graph? th.launch).isSome then (th.grpCount, 1, 1) else
  match s.launch? th.launch with
  | some l => (l.dimX, l.dimY, l.dimZ)
  | none => (1, 1, 1)

/-- `%param` of a thread (R37): its launch's block, or its node's. -/
def State.paramOf (s : State) (th : Thread) : Nat :=
  match s.graph? th.launch, (s.wg? th.launch th.wgid).bind Workgroup.node with
  | some g, some n => ((g.nodes[n]?).map GNode.param).getD 0
  | _, _ => ((s.launch? th.launch).map Launch.param).getD 0

/-- Value of a thread constant (R37). -/
def State.constVal (s : State) (f : Firing) (c : ThreadConst) : Dword :=
  let th := s.ft f
  let d := s.dims th
  let tid := th.tidw.toNat
  let sp := (s.core f.core).spanOf th.span
  let g := (sp.map Span.g).getD 16
  let sn := (sp.map Span.s).getD 1
  let n := (sp.map (fun (p : Span) => p.members.length)).getD 0
  let v : Nat := match c with
    | .tid => tid
    | .tidx => tid % d.1
    | .tidy => tid / d.1 % d.2.1
    | .tidz => tid / (d.1 * d.2.1)
    | .wgid => th.wgid % 2 ^ 32
    | .wgdim => d.1 + d.2.1 * 2 ^ 17 + d.2.2 * 2 ^ 34
    | .lane => th.lane
    | .gsize => g + sn * 256
    | .gmask => 2 ^ min g (n - th.lane / g * g) - 1
    | .coreid => f.core
    | .clusterid => f.core / 8
    | .slot => f.thread
    | .iter => f.tag.out.toNat * 64 + f.tag.inn.toNat
    | .depth => th.recDepth.toNat
    | .grpcount => if (s.graph? th.launch).isSome then th.grpCount else ((s.wg? th.launch th.wgid).map Workgroup.n).getD 0
    | .param => s.paramOf th
  BitVec.ofNat 64 v

/-- Immediate-pool entry of the active load (R80). -/
def Core.poolEntry (c : Core) (i : Nat) : Dword := (c.load.pool[i]?).getD 0

/-- The thread of a firing is dead: what it consumes from now on are pass tokens, unless it had fired before (R24, R367). -/
def State.ended (s : State) (f : Firing) : Bool := (s.ft f).dead && !f.mute && !f.live

/-- What an operand specifier supplies (R79): a token of a thread that is dead is a pass token; an absent operand is data 0 and
is not read. -/
def State.operand (s : State) (f : Firing) (x : Src) (tok : Option Val) : Val :=
  match x with
  | .token => if s.ended f then .pass else tok.getD .pass
  | .pool i => .data ((s.core f.core).poolEntry i.toNat)
  | .const c => .data (s.constVal f c)
  | .absent => .data 0

/-- Operand A of a firing. -/
def State.opA (s : State) (f : Firing) (w : SlotWord) : Val := s.operand f w.a f.a
/-- Operand B of a firing. -/
def State.opB (s : State) (f : Firing) (w : SlotWord) : Val := s.operand f w.b f.b
/-- Operand C of a firing. -/
def State.opC (s : State) (f : Firing) (w : SlotWord) : Val := s.operand f w.c f.c

/-- What the predicate makes of an instance (R77). -/
inductive Go where
  | fire
  | skip
  | stop (k : Sub)
  | poison
  deriving DecidableEq, Repr

/-- The predicate of a firing (R77); a dead thread fires nothing. -/
def State.go (s : State) (f : Firing) (w : SlotWord) : Go :=
  if s.ended f then .skip
  else if w.pm = .none then .fire
  else match f.p.getD .pass with
    | .pass => .skip
    | .err .poison => .poison
    | .err k => .stop k
    | .data x => if (x != 0) = (w.pm == .ifTrue) then .fire else .skip

/-- What R34 gives for the operands read when they are not all data: a pass token, Poison, or the first error. -/
def joinKinds (vs : List Val) : Option Val :=
  if vs.contains .pass then some .pass
  else if vs.contains (.err .poison) then some (.err .poison)
  else vs.find? (fun v => match v with | .err _ => true | _ => false)

/-- Payload of a data token; 0 for the others. -/
def Val.bits : Val → Dword
  | .data x => x
  | _ => 0

/-- An instance of a value class: the predicate, then R34, then `g` on the payloads of A, B and C with what it gives for D0 and
D1. -/
def State.value2 (s : State) (f : Firing) (w : SlotWord) (g : Dword → Dword → Dword → Val × Val) : State :=
  match s.go f w with
  | .skip => s.emitBoth f w .pass
  | .stop k => s.emitBoth f w (.err k)
  | .poison => s.commit f 0x20 .none none 0
  | .fire =>
    match joinKinds [s.opA f w, s.opB f w, s.opC f w] with
    | some v => s.emitBoth f w v
    | none =>
      let r := g (s.opA f w).bits (s.opB f w).bits (s.opC f w).bits
      s.emit2 f w r.1 r.2

/-- An instance of a value class whose D1 receives a copy. -/
def State.value (s : State) (f : Firing) (w : SlotWord) (g : Dword → Dword → Dword → Val) : State :=
  s.value2 f w (fun a b c => (g a b c, g a b c))

/-- An instance that a trigger and a predicate alone govern (R112): `g` runs for a data or error trigger. -/
def State.triggered (s : State) (f : Firing) (w : SlotWord) (g : State → State) : State :=
  match s.go f w with
  | .skip => s.emitBoth f w .pass
  | .stop k => s.emitBoth f w (.err k)
  | .poison => s.commit f 0x20 .none none 0
  | .fire => if s.opA f w = .pass then s.emitBoth f w .pass else g s

/-- An instance that makes accesses or engine operations (R34, R77, R182): `d0Order` says that D0 carries an order token. A Poison
predicate commits 0x20, that of `pref` too (log 80), and a trigger that holds Poison lets its instance act (R112; log 83). -/
def State.operation (s : State) (f : Firing) (w : SlotWord) (d0Order : Bool) (vs : List Val) (g : State → State) : State :=
  match s.go f w with
  | .skip => s.emitBoth f w .pass
  | .stop k => s.emit2 f w (if d0Order then .pass else .err k) .pass
  | .poison => s.commit f 0x20 .none none 0
  | .fire => if vs.contains .pass then s.emitBoth f w .pass else g s

/-! ### Held accesses (R181) -/

/-- The tail of a `cas2`: its word, and the firing as which its tokens leave (R193). -/
def State.casTail (s : State) (f : Firing) : SlotWord × Firing :=
  let blank : SlotWord := ⟨.b64, 1, .none, .absent, .absent, .absent, .none, .none, 0, 0⟩
  ((match f.kept with
    | some h => h.tail
    | none => ((s.core f.core).load.fields (f.node + 1)).getD blank), { f with slot := f.slot + 1 })

/-- An operand specifier once its value is kept as a token. -/
def keptSrc (x : Src) : Src := if x = .absent then .absent else .token

/-- The word of a firing's slot with its operands as tokens, once their values are kept. -/
def Core.keptWord (c : Core) (f : Firing) : BitVec 128 :=
  match c.load.opc f.node, c.load.fields f.node with
  | some o, some w => SlotWord.encode o { w with a := keptSrc w.a, b := keptSrc w.b, c := keptSrc w.c }
  | _, _ => 0

/-- A firing with what its access keeps while it is held: the operand values, its word, and where it goes. -/
def State.keepAt (s : State) (f : Firing) (g : Nat) (x : Target) : Firing :=
  if f.kept.isSome then f
  else
    let c := s.core f.core
    let tail := (s.casTail f).1
    let value := fun (x : Option Src) (tok : Option Val) => (x.map (fun x => s.operand f x tok)).orElse (fun _ => tok)
    let w := c.load.fields f.node
    { f with
      a := value (w.map SlotWord.a) f.a, b := value (w.map SlotWord.b) f.b, c := value (w.map SlotWord.c) f.c
      ta := some (s.operand f tail.a f.ta), tb := some (s.operand f tail.b f.tb)
      kept := some {
        word := c.keptWord f, tail := { tail with a := keptSrc tail.a, b := keptSrc tail.b }
        g := g, va := (match x with | .va a => a | .spad _ _ => 0)
        spad := (match x with | .spad k o => some (k, o) | .va _ => none)
        ctx := s.ctxAt f.core f.thread } }

/-- A firing that keeps a virtual address. -/
def State.keep (s : State) (f : Firing) (g va : Nat) : Firing := s.keepAt f g (.va va)

/-- Where a held access goes. -/
def Kept.target (h : Kept) : Target := match h.spad with | some (k, o) => .spad k o | none => .va h.va

/-- The place of an instance's access: a held one goes where it went. -/
def State.locateOf (s : State) (f : Firing) (x : Target) (rd wr : Bool) : State × Except Stop Place :=
  match f.kept with
  | some h => (s.accessAs .none ((f.who.map (fun x => x.1)).getD 0)).locateCtx f.core h.ctx h.target rd wr
  | none => s.locate f.core f.thread x rd wr

/-- An instance's access stops (R181): a contained fault is committed, an absent page holds the instance, a refusal aborts its
workgroup, and a wait parks it. -/
def State.stopAccess (s : State) (f : Firing) (kind : AccessKind) (g : Nat) (e : Stop) : State :=
  match e with
  | .fault cause detail => s.commit f cause kind (some g) detail
  | .absent va detail =>
    let f := s.keep f g va
    s.hold (dieOf f.core) ((f.kept.map Kept.ctx).getD 0) va (.firing f)
      { s.firingRec f 0x10 1 kind detail with held := true, va := some g, ctx := f.kept.map Kept.ctx }
  | .denied detail pa => s.refuse f { s.firingRec f 0x11 2 kind detail with va := some g, pa := pa }
  | .ats va =>
    let f := s.keep f g va
    s.atsWait (dieOf f.core) ((f.kept.map Kept.ctx).getD 0) va (.firing f)
  | .notReady va => s.park (s.keep f g va) .stack

/-! ### Predecessors of a release (R186) -/

/-- Opcode of an instance: of the word that it keeps, or of its slot's. -/
def State.opcOf (s : State) (f : Firing) : Nat :=
  f.kept.elim (((s.core f.core).load.opc f.node).getD 0) (fun (h : Kept) => (h.word.extractLsb' 120 8).toNat)

/-- The accesses of a core's instances that wait at memory tiles, its own or of its cluster (R288). -/
def State.tileReqsOf (s : State) (k : Nat) : List TileReq :=
  s.cores.flatMap (fun kc => kc.2.tileReqs.filter (fun (r : TileReq) => r.f.core == k))

/-- Instances whose accesses have issued and not performed, with what is known of each: whether it reads. They are held, wait for a
stack, for predecessors, for a ticket or for a fill, or stand at a memory tile. -/
def State.unperformed (s : State) (k : Nat) : List (Firing × Bool) :=
  let c := s.core k
  let asks := fun (f : Firing) => let o := s.opcOf f; o != 0x91 && o != 0xF1
  (s.heldItems.filterMap (fun i => match i with | .firing f => if f.core = k then some f else none | _ => none) ++
    (c.parked.filter (fun (x : Parked) => x.why == .stack || x.why == .release || x.why == .ticket)).map Parked.f).map
      (fun f => (f, asks f)) ++
    (s.tileReqsOf k).map (fun (r : TileReq) => (r.f, match r.op with | .write _ => false | _ => true)) ++
    c.misses.map (fun (m : L1Miss) => (m.f, true))

/-- An access that the thread of a release or fence made in an earlier load has not performed (R186): in its own load the order edges
hold the release back. -/
def State.earlierPending (s : State) (f : Firing) : Bool :=
  (s.unperformed f.core).any (fun g => g.1.thread == f.thread && g.1.who == f.who && g.1.mute && (!f.mute || decide (g.1.batch < f.batch)))

/-- A read among them: a `fence.acq` waits for reads alone (R197). -/
def State.earlierReads (s : State) (f : Firing) : Bool :=
  (s.unperformed f.core).any (fun g => g.2 && g.1.thread == f.thread && g.1.who == f.who && g.1.mute &&
    (!f.mute || decide (g.1.batch < f.batch)))

/-- The word of an instance: the one that it keeps, or its slot's. -/
def State.fieldsOf (s : State) (f : Firing) : Option SlotWord :=
  match f.kept with
  | some h => Word128.fields h.word
  | none => (s.core f.core).load.fields f.node

/-- What a release, or a fence, waits for is there no longer (R186, R197). -/
def State.mayRelease (s : State) (f : Firing) : Bool :=
  if s.opcOf f = 0x95 ∧ (s.fieldsOf f).any (fun w => w.mod == 0 && w.ordering == .acq) then !s.earlierReads f
  else !s.earlierPending f

/-- A release waits for its predecessors (R186); it keeps its word, for its thread may leave the load meanwhile. -/
def State.parkRelease (s : State) (f : Firing) (g : Nat) (x : Target) : State := s.park (s.keepAt f g x) .release

/-! ### The matching store (R305) -/

/-- Ways of an element's matching store that hold something, as 8·set + way. -/
def Core.placesUsed (c : Core) (elem : Nat) : List Nat :=
  let fs := (c.rq ++ c.parked.map Parked.f ++ c.blocks.flatMap (fun (b : BlockState) => b.waiting)).filter (fun f => f.elem == elem)
  (c.pendings.filter (fun (x : Pending) => x.elem == elem)).filterMap (fun (x : Pending) => x.place) ++
    (c.blocks.filter (fun (b : BlockState) => b.elem == elem)).flatMap (fun (b : BlockState) => b.place.toList ++ b.more.toList) ++
    (c.merges.filter (fun (m : MergeState) => m.elem == elem)).filterMap (fun (m : MergeState) => m.place) ++
    fs.filterMap (fun f => f.place)

/-- Set σ of a slot and tag. -/
def storeSet (slot : Nat) (t : Tag) : Nat :=
  let n := t.slot.toNat
  (n % 64 ^^^ n / 64 % 64 ^^^ t.out.toNat ^^^ t.inn.toNat ^^^ 4 * slot) % 64

/-- The first way from p on, wrapping at 512, that a list does not name. -/
def firstFree (used : List Nat) : Nat → Nat → Option Nat
  | 0, _ => none
  | fuel + 1, p => if used.contains (p % 512) then firstFree used fuel (p + 1) else some (p % 512)

/-- The way that a new entry of a slot and tag takes: the first free one from set σ on. -/
def Core.freePlace (c : Core) (elem slot : Nat) (tag : Tag) : Option Nat :=
  firstFree (c.placesUsed elem) 512 (8 * storeSet slot tag)

/-- An instance of a single-input slot that parks takes an entry (R330); one that stands in an entry keeps it. -/
def Core.placed (c : Core) (f : Firing) : Firing :=
  if f.place.isSome then f else { f with place := c.freePlace f.elem f.slot f.tag }

/-! ### Credit (R330) -/

/-- Instances of a core that have issued and not taken effect yet. -/
def State.pendingIssue (s : State) (k : Nat) : List Firing := (s.ready ++ s.issued).filter (fun f => f.core == k && !f.mute)

/-- Instances that have issued and whose tokens have not left, as node and tag: each has taken its credit (R330). -/
def State.owed (s : State) (k : Nat) : List (Nat × Tag) :=
  let c := s.core k
  let answers := c.mxSent ++ c.mxQueue.filter (fun (m : MxCtl) => m.kind == .read || m.kind == .info)
  let singles := s.ready ++ s.issued ++ (c.parked.filter (fun (x : Parked) => x.why != .credit)).map Parked.f ++
    (s.tileReqsOf k).map (fun (r : TileReq) => r.f) ++ c.misses.map (fun (m : L1Miss) => m.f) ++ answers.map (fun (m : MxCtl) => m.f) ++
    s.heldItems.filterMap (fun i => match i with | .firing f => some f | _ => none)
  let lanes := c.groups.flatMap (fun (g : Group) => g.lanes.map (fun (il : Nat × LaneIn) =>
    let t := ((c.spans.find? (fun (p : Span) => p.id == g.span)).bind (fun p => p.members[il.1]?)).getD 0
    (16 * g.elem + g.slot, (⟨BitVec.ofNat 13 t, g.out, g.inn⟩ : Tag))))
  (singles.filter (fun (f : Firing) => f.core == k && !f.mute)).map (fun f => (f.node, f.tag)) ++ lanes

/-- Is the node the tail of a `cas2`? -/
def Load.casTail (l : Load) (n : Nat) : Bool :=
  l.opc n == some 0x94 && ((l.fields n).map (fun w => w.mod == 1)).getD false

/-- Is the node the head of a `cas2`? -/
def Load.casHead (l : Load) (n : Nat) : Bool :=
  l.opc n == some 0x94 && ((l.fields n).map (fun w => w.mod == 0)).getD false

/-- The node whose instances send a node's tokens: the tail of a `cas2` fires with its head (R193). -/
def Load.sender (l : Load) (n : Nat) : Nat := if l.casTail n then n - 1 else n

/-- How many instances owe a node's tokens. -/
def State.owing (s : State) (k n : Nat) : Nat :=
  ((s.owed k).filter (fun x => x.1 == (s.core k).load.sender n)).length

/-- A loop still sends its exit token on its header's D1 (R136). -/
def LoopInst.sendsExit (i : LoopInst) : Bool := i.carried.isNone && i.ctx.isNone && !i.finished

/-- A loop still sends the value of its `lexit` (R135). -/
def LoopInst.sendsLeft (i : LoopInst) : Bool := i.left.isSome || i.n == 0

/-- Tokens that the loops of a header, or of an `lexit`, still send on a destination when they finish (R135, R136). -/
def Core.exitOwed (c : Core) (n dst : Nat) : Nat :=
  (c.loops.filter (fun (i : LoopInst) =>
    (16 * i.elem + i.slot == n && dst == 1 && i.sendsExit) ||
      (c.load.lexitOf (16 * i.elem + i.slot) == some n && i.sendsLeft))).length

/-- K of an `mxop` (R227). -/
def mxK (w : SlotWord) : Nat := if w.mxBlock ∧ w.mod.getLsbD 1 then 32 else 16

/-- K of a set that no accepted `mxop` has claimed: the largest of the load's (log 75). -/
def Load.setK (l : Load) : Nat :=
  l.nodes.foldl (fun m n => match l.opc n, l.fields n with
    | some 0xD0, some w => max m (mxK w)
    | _, _ => m) 16

/-- The iteration field of the innermost loop that holds a node (R228). -/
def Core.feedIter (c : Core) (n : Nat) (tag : Tag) : Nat :=
  if (c.load.headerAt 1 n).isSome then tag.inn.toNat else tag.out.toNat

/-- The `mxop`s that the island has accepted and that take their sets of a feed from the fabric edge, oldest first. -/
def Core.edgeOps (c : Core) (feed : Nat) : List MxCtl :=
  c.mxQueue.filter (fun (m : MxCtl) => m.kind == .op && (if feed = 0 then m.srcA else m.srcB).isNone)

/-- Sets of a thread at a fabric feed from the next on (R228): each is claimed by an accepted `mxop`, or by a later one. -/
def Core.setSizes (c : Core) (feed t : Nat) : List Nat :=
  ((c.edgeOps feed).filter (fun m => m.f.thread == t)).map (fun m => mxK m.w) ++ List.replicate 8 c.load.setK

/-- The set in which the token of a place in a thread's sequence stands, and its K. -/
def setAt : List Nat → Nat → Nat × Nat
  | [], _ => (0, 16)
  | k :: ks, q => if q < 16 * k ∨ ks.isEmpty then (0, k) else ((setAt ks (q - 16 * k)).1 + 1, (setAt ks (q - 16 * k)).2)

/-- Sets that the tokens of a list take at a feed, as thread, set and K: each token stands at its iteration field's next free place
in its thread's cyclic order (R228). -/
def Core.setsTaken (c : Core) (feed : Nat) : List (Nat × Nat) → List (Nat × Nat × Nat)
  | toks =>
    (toks.zipIdx.map (fun x =>
      let t := x.1.1
      let next := (c.feedNext.look (4 * t + feed)).getD 0
      let before := ((toks.take x.2).filter (fun y => y == x.1)).length
      (t, setAt (c.setSizes feed t) ((x.1.2 + 64 - next) % 64 + 64 * before)))).dedup

/-- Tokens for a fabric feed that instances owe, as thread and iteration field (R333): those of issued instances, and those that loops
send when they finish (R135, R136). -/
def State.feedOwed (s : State) (k : Nat) (port : IslandPort) : List (Nat × Nat) :=
  let c := s.core k
  let goes := fun (n dst : Nat) => (c.load.dsts n).any (fun d => d.1 == dst && d.2 == .island port)
  let sent := (s.owed k).flatMap (fun x =>
    let nodes := if c.load.casHead x.1 then [x.1, x.1 + 1] else [x.1]
    nodes.flatMap (fun n => ((c.load.dsts n).filter (fun d => d.2 == .island port)).map (fun _ =>
      (x.2.slot.toNat, c.feedIter n x.2))))
  let ends := c.loops.flatMap (fun (i : LoopInst) =>
    let h := 16 * i.elem + i.slot
    let tag : Tag := ⟨BitVec.ofNat 13 i.thread, i.out, 0⟩
    (if goes h 1 && i.sendsExit then [(i.thread, c.feedIter h tag)] else []) ++
      (match c.load.lexitOf h with
       | some n => if i.sendsLeft then ([0, 1].filter (goes n)).map (fun _ => (i.thread, c.feedIter h tag)) else []
       | none => []))
  sent ++ ends

/-- Room at a fabric feed for the token of an instance (R333). -/
def State.feedRoom (s : State) (feed : Nat) (f : Firing) : Bool :=
  let c := s.core f.core
  let here := (c.feeds.filter (fun (x : FeedTok) => x.feed == feed)).map (fun (x : FeedTok) => (x.tag.slot.toNat, x.iter)) ++
    s.feedOwed f.core (if feed = 0 then .mxa else .mxb)
  let taken := c.setsTaken feed here
  let used := taken.foldl (fun n x => n + x.2.2 / 16) 0
  match (c.setsTaken feed (here ++ [(f.thread, c.feedIter f.node f.tag)])).find? (fun x => !taken.contains x) with
  | none => true
  | some x =>
    let ops := (c.edgeOps feed).map (fun m => m.f.thread)
    let lacking := (ops.zipIdx.map (fun y => (y.1, ((ops.take y.2).filter (fun t => t == y.1)).length))).find? (fun y =>
      !taken.any (fun z => z.1 == y.1 && z.2.1 == y.2))
    let k := x.2.2 / 16
    decide (used + k ≤ 8) && (lacking == some (x.1, x.2.1) || decide (used + k + 2 ≤ 8))

/-- Bytes that an `sput` appends (R248): those of its type, or as many as B says. -/
def State.sputBytes (s : State) (f : Firing) (w : SlotWord) : Nat :=
  if w.b = .absent then w.ty.bytes else min w.ty.bytes (s.opB f w).bits.toNat

/-- Bytes that issued instances will still append to an outbound port (R248, R337). -/
def State.portOwed (s : State) (k : Nat) (p : BitVec 4) : Nat :=
  let l := (s.core k).load
  let puts := (s.pendingIssue k).foldl (fun t f => match l.opc f.node, l.fields f.node with
    | some 0xE6, some w => if w.port = p.toNat then t + s.sputBytes f w else t
    | _, _ => t) 0
  puts +
  l.nodes.foldl (fun t n =>
    let per := ((l.dsts n).filter (fun d => d.2 == .island (.sp p))).length
    if per = 0 then t else t + 8 * (per * s.owing k n + (s.core k).exitOwed n 0 + (s.core k).exitOwed n 1)) 0

/-- Room for the tokens of one destination of an instance. -/
def State.dstRoom (s : State) (f : Firing) (all : List (Nat × Dst)) (x : Nat × Dst) : Bool :=
  let c := s.core f.core
  match x.2 with
  | .island (.sp p) =>
    let held := ((c.ports.look p.toNat).map (fun (q : Port) => q.buf.length)).getD 0
    decide (held + s.portOwed f.core p + 8 * (all.filter (fun y => y.2 == x.2)).length ≤ 4096)
  | .island .mxa => s.feedRoom 0 f
  | .island .mxb => s.feedRoom 1 f
  | .port _ _ _ =>
    match c.load.fifoOf f.node x.1 with
    | some tile =>
      let waiting := c.flights.filter (fun (g : Flight) => g.srcElem == f.elem && g.srcSlot == f.slot && g.srcDst == x.1)
      decide (waiting.length + s.owing f.core f.node + c.exitOwed f.node x.1 ≤ c.load.sizeOf tile)
    | none => true
  | _ => true

/-- Buffer bytes of a tile code (R201): of a BUF tile's buffer, or the declared scratchpad. -/
def State.tileRoom (s : State) (f : Firing) (w : SlotWord) : Nat :=
  if w.tile = 32 then s.spadBytes f.core f.thread
  else Config.tileBytes / (((s.core f.core).load.roles[w.tile]?).map TileRole.nbuf).getD 1

/-- Key of an offset in a tile's buffer or in the scratchpad of the executing core (R201, R288). -/
def State.tileKey (s : State) (f : Firing) (w : SlotWord) (off : Nat) : Nat :=
  if w.tile = 32 then spadKey (s.kernelAt f.core f.thread).spadTiles off
  else Config.tileBytes * w.tile + w.buffer * s.tileRoom f w + off

/-- Two accesses of a memory tile belong to one vector request (R202). -/
def Firing.together (f g : Firing) : Bool := f.core == g.core && f.node == g.node && f.batch == g.batch

/-- form_address and R38 up to translation: the generic address and its target, or the fault. -/
def State.formAddress (s : State) (f : Firing) (space : Space) (n align : Nat) (v : Val) :
    Except (Nat × Option Nat) (Nat × Target) :=
  match v with
  | .err .poison => .error (0x20, none)
  | .err _ => .error (0x12, none)
  | v =>
    match composeAddress space f.core v.bits.toNat with
    | .error e => .error (e, none)
    | .ok g =>
      match s.window f.core f.thread g n align with
      | .error e => .error (e, some g)
      | .ok x => .ok (g, x)

/-- The core and tile that an instance's access reaches (R201, R287, R288); none for one that reaches no memory tile. -/
def State.tileOf (s : State) (f : Firing) (opc : Nat) (w : SlotWord) : Option (Nat × Nat) :=
  if opc = 0x99 ∨ opc = 0x9A then some (f.core, s.tileKey f w (s.opA f w).bits.toNat / Config.tileBytes)
  else if 0x90 ≤ opc ∧ opc ≤ 0x94 ∧ ¬ (opc = 0x94 ∧ w.mod = 1) then
    let n := if opc = 0x94 then 16 else w.ty.bytes
    match s.formAddress f w.space n n (s.opA f w) with
    | .ok (_, .spad k off) => some (k, spadKey (s.spadTilesAt k (s.ft f).launch (s.ft f).wgid) off / Config.tileBytes)
    | _ => none
  else none

/-- The request ports of a tile have room (R292): its two ports queue 32 vector requests each (log 45). -/
def State.tileQueueRoom (s : State) (f : Firing) (opc : Nat) (w : SlotWord) : Bool :=
  match s.tileOf f opc w with
  | none => true
  | some (k, tile) =>
    let asked := (s.ready ++ s.issued).filter (fun g => !g.mute && (match (s.core g.core).load.opc g.node, (s.core g.core).load.fields g.node with
      | some o, some v => s.tileOf g o v == some (k, tile)
      | _, _ => false))
    let queued := ((s.core k).tileReqs.filter (fun (r : TileReq) => r.tile == tile)).map (fun r => (r.f.core, r.f.node, r.f.batch))
    let all := (queued ++ asked.map (fun g => (g.core, g.node, g.batch))).dedup
    decide (all.length < 64) || all.contains (f.core, f.node, f.batch)

/-- The group that a gang instance joins stands already, or a group buffer is free (R339). -/
def State.gangRoom (s : State) (f : Firing) : Bool :=
  let c := s.core f.core
  let key := fun (g : Firing) => (g.node, (c.thread g.thread).span, g.tag.out.toNat, g.tag.inn.toNat)
  let isGang := fun (n : Nat) => match c.load.opc n with | some o => decide (0xC0 ≤ o ∧ o ≤ 0xC6) | none => false
  let standing := (c.groups.filter (fun (g : Group) => isGang (16 * g.elem + g.slot))).map (fun (g : Group) =>
    (16 * g.elem + g.slot, g.span, g.out.toNat, g.inn.toNat))
  let all := (standing ++ ((s.pendingIssue f.core).filter (fun g => isGang g.node)).map key).dedup
  all.contains (key f) || decide (all.length < 32)

/-- Room at the control input of the matrix island for one more control token (R330, R331): as many as its queue holds (log 75). -/
def State.controlRoom (s : State) (k : Nat) : Bool :=
  let c := s.core k
  let asked := (s.pendingIssue k).filter (fun g => match c.load.opc g.node with | some o => decide (0xD0 ≤ o ∧ o ≤ 0xD6) | none => false)
  decide (c.mxSent.length + asked.length < 16)

/-- Room in the unit to which an opcode sends its instances. -/
def State.unitRoom (s : State) (f : Firing) (opc : Nat) (w : SlotWord) : Bool :=
  if 0x90 ≤ opc ∧ opc ≤ 0x9A then s.tileQueueRoom f opc w
  else if 0xC0 ≤ opc ∧ opc ≤ 0xC6 then s.gangRoom f
  else if 0xD0 ≤ opc ∧ opc ≤ 0xD6 then s.controlRoom f.core
  else true

/-- The cycle by which R247 orders an instance at its port: that of the trigger of an `sget`, and else that in which it matched. -/
def Core.cameAt (c : Core) (f : Firing) : Nat := if c.load.opc f.node = some 0xE5 then f.due else f.since

/-- The order in which the instances of one slot reach a stream port (R247): arrival, then thread slot, then the order in which their
iterations were issued. -/
def Core.streamBefore (c : Core) (f g : Firing) : Bool :=
  let i := c.iterations f.node f.tag
  let j := c.iterations g.node g.tag
  decide (c.cameAt f < c.cameAt g) || (c.cameAt f == c.cameAt g && (decide (f.thread < g.thread) || (f.thread == g.thread &&
    (decide (i.1 < j.1) || (i.1 == j.1 && decide (i.2 < j.2))))))

/-- The instance that an entry of the matching store will become. -/
def Pending.firing (x : Pending) (k now : Nat) : Firing :=
  { Firing.none with
    core := k, elem := x.elem, slot := x.slot, tag := x.tag, a := x.a, b := x.b, c := x.c, p := x.p, ta := x.ta, tb := x.tb
    place := x.place, since := now, due := if x.a.isSome then x.due else now }

/-- No instance of the same slot that comes first in the order of R247 still waits to fire; an `sget` whose trigger has come and that
lacks another input is one. -/
def Core.streamTurn (c : Core) (f : Firing) : Bool :=
  let triggered := if c.load.opc f.node = some 0xE5
    then (c.pendings.filter (fun (x : Pending) => x.a.isSome)).map (fun (x : Pending) => x.firing f.core 0) else []
  !(c.rq ++ c.parked.map Parked.f ++ triggered).any (fun g => g.node == f.node && g != f && c.streamBefore g f)

/-- A node's tokens go to a stream port. -/
def Load.sendsPort (l : Load) (n : Nat) : Bool :=
  (l.dsts n ++ (if l.casHead n then l.dsts (n + 1) else [])).any (fun d => match d.2 with | .island (.sp _) => true | _ => false)

/-- An instance may issue by the order of R247 and R248: at an `sget`, an `sput` or a slot that sends to a port, one whose cycle of
arrival has passed and that none of its slot precedes. The tokens of a slot whose unit answers later leave one after the other; the
lanes of a group leave together. -/
def State.streamReady (s : State) (f : Firing) : Bool :=
  let c := s.core f.core
  let o := (c.load.opc f.node).getD 0
  let sends := c.load.sendsPort f.node
  let lanes := decide (0xC0 ≤ o ∧ o ≤ 0xC7) || o == 0xCA
  let now := ((s.ready ++ s.issued).filter (fun g => g.core == f.core && g.node == f.node && !g.mute)).length
  (o != 0xE5 && o != 0xE6 && !sends) ||
    (decide (c.cameAt f < s.time) && c.streamTurn f && (!sends || lanes || decide (s.owing f.core f.node ≤ now)))

/-- Room for the carried value that an `ltail` makes its header send on D1 (R133, R134). -/
def State.carryRoom (s : State) (f : Firing) : Bool :=
  let l := (s.core f.core).load
  match l.tailHeader f.node with
  | none => true
  | some h =>
    let d := (1, ((l.fields h).map SlotWord.d1).getD .none)
    s.dstRoom { f with elem := h / 16, slot := h % 16 } [d] d

/-- A header's instance begins a loop without iterations (R133, R219). -/
def State.tripsNone (s : State) (f : Firing) (opc : Nat) (w : SlotWord) : Bool :=
  let a := s.opA f w
  let c := s.opC f w
  let n := fun (v : Val) => readBits w.ty v.bits
  if a = .pass then true
  else if opc = 0x78 then
    w.c != .absent && c == .pass ||
      (if w.c = .absent then n a else if w.mod = 0 then n a &&& n c else n a ||| n c) == 0
  else if opc = 0x77 then readBits .n32 a.bits == 0
  else a.bits == 0

/-- The firing and the destinations of the `lexit` whose value a loop without iterations sends as it begins (R136). -/
def State.emptyLoop (s : State) (f : Firing) (opc : Nat) (w : SlotWord) : Option (Firing × List (Nat × Dst)) :=
  let l := (s.core f.core).load
  if isHeaderOpc opc && s.tripsNone f opc w then (l.lexitOf f.node).map (fun n => ({ f with elem := n / 16, slot := n % 16 }, l.dsts n))
  else none

/-- Every channel that an instance sends to has credit (R330): those of its own word, of the tail of a `cas2`, and of the `lexit` of a
loop without iterations. -/
def State.hasCredit (s : State) (f : Firing) (opc : Nat) (w : SlotWord) : Bool :=
  let own := dstsOf opc w
  let tail := if (s.core f.core).load.casHead f.node then (s.core f.core).load.dsts (f.node + 1) else []
  let exit := (s.emptyLoop f opc w).toList
  let all := own ++ tail ++ exit.flatMap (fun x => x.2)
  own.all (fun x => s.dstRoom f all x) && tail.all (fun x => s.dstRoom { f with slot := f.slot + 1 } all x) &&
    exit.all (fun e => e.2.all (fun x => s.dstRoom e.1 all x)) && s.unitRoom f opc w && (opc != 0x79 || s.carryRoom f)

end Sys2Proof.Machine
end

