-- ==== Sys2Proof/Machine/Fetch.lean ====
section
/-! DEFINITION. How a firing slot's word is found and decoded, and how a word is placed where the next step runs it. -/

namespace Sys2Proof.Machine

/-- The 128-bit word of a firing slot, from its core's active plane (R308). -/
def State.fetch (s : State) (f : Firing) : Option (BitVec 128) := (s.core f.core).load.bits f.node

/-- The firing becomes the one that `exec` runs. -/
def State.latchFiring (s : State) (f : Firing) (rest : List Firing) : State := { s with fire := f, ready := rest }

/-- The core with a word in a node of its active plane. -/
def Core.placeWord (c : Core) (n : Nat) (x : BitVec 128) : Core :=
  let put := fun (p : Plane) => { p with img := { p.img with slots := p.img.slots.put n x } }
  if c.activeB then { c with planeB := put c.planeB } else { c with planeA := put c.planeA }

/-- A firing of slot 0 of element 0 of core 0 without operands. -/
def fetchFiring : Firing := Firing.none

/-- The state in which the next step runs the instruction of a 128-bit word: the word in slot 0 of element 0 of core 0, and that
slot issued (log 5). -/
def State.placeFetch (s : State) (x : BitVec 128) : State :=
  { s.onCore 0 (fun c => c.placeWord 0 x) with ready := [fetchFiring], powered := true, heldInReset := false }

end Sys2Proof.Machine
end

