-- ==== Sys2Proof/Machine/FloatCore.lean ====
section
/-! DEFINITION. IEEE values, exact results and their one rounding (spec 02 R48 to R59; 05 R150, R151). A finite value is a sign,
a natural mantissa and an integer exponent; an exact result that no mantissa holds carries a sticky bit. -/

namespace Sys2Proof.Machine

/-- An IEEE binary format (R48). -/
structure Fmt where
  ebits : Nat
  mbits : Nat
  deriving DecidableEq, Repr

/-- Format of a float type; a packed pair stands for its element's. -/
def fmtOf (t : Ty) : Fmt :=
  match t with
  | .f16 | .h2 => ⟨5, 10⟩
  | .bf16 | .bh2 => ⟨8, 7⟩
  | .f64 => ⟨11, 52⟩
  | _ => ⟨8, 23⟩

/-- Exponent bias. -/
def Fmt.bias (f : Fmt) : Nat := 2 ^ (f.ebits - 1) - 1
/-- Pattern of +∞. -/
def Fmt.inf (f : Fmt) : Nat := (2 ^ f.ebits - 1) * 2 ^ f.mbits
/-- Pattern of the largest finite value. -/
def Fmt.largest (f : Fmt) : Nat := f.inf - 1
/-- Sign bit. -/
def Fmt.signBit (f : Fmt) : Nat := 2 ^ (f.ebits + f.mbits)
/-- Canonical NaN. -/
def Fmt.nan (f : Fmt) : Nat := f.inf + 2 ^ (f.mbits - 1)
/-- Exponent of the last place of subnormals. -/
def Fmt.tiny (f : Fmt) : Int := 1 - (f.bias : Int) - f.mbits
/-- A pattern with a sign. -/
def Fmt.withSign (f : Fmt) (neg : Bool) (p : Nat) : Nat := if neg then f.signBit + p else p

/-- A decoded value (R49): a NaN keeps the bits below its quiet bit and their number; a finite value is m·2^e. -/
inductive FVal where
  | nan (neg : Bool) (low wd : Nat)
  | inf (neg : Bool)
  | fin (neg : Bool) (m : Nat) (e : Int)
  deriving DecidableEq, Repr

/-- Decode a pattern (R49). -/
def Fmt.decode (f : Fmt) (x : Nat) : FVal :=
  let neg := x.testBit (f.ebits + f.mbits)
  let e := x / 2 ^ f.mbits % 2 ^ f.ebits
  let t := x % 2 ^ f.mbits
  if e = 2 ^ f.ebits - 1 then (if t = 0 then .inf neg else .nan neg (t % 2 ^ (f.mbits - 1)) (f.mbits - 1))
  else if e = 0 then .fin neg t f.tiny
  else .fin neg (2 ^ f.mbits + t) (f.tiny + e - 1)

/-- A pattern is subnormal. -/
def Fmt.subnormal (f : Fmt) (x : Nat) : Bool := x / 2 ^ f.mbits % 2 ^ f.ebits == 0 && x % 2 ^ f.mbits != 0

/-- A subnormal becomes zero of its sign (R50). -/
def Fmt.flush (f : Fmt) (x : Nat) : Nat := if f.subnormal x then x / f.signBit * f.signBit else x

/-- How a float instruction rounds: mode, saturation and flushing (R50, R54). -/
structure FCtx where
  rm : Rm
  sat : Bool
  ftz : Bool
  deriving DecidableEq, Repr

/-- Rounding to nearest even, subnormals kept. -/
def FCtx.rne : FCtx := ⟨.rne, false, false⟩

/-- What MOD and the entry mode latch select (R54, R19). -/
def SlotWordCtx (w : SlotWord) (latch : Byte) : FCtx :=
  match w.rounding.static with
  | some r => ⟨r, w.rounding.sat, false⟩
  | none => ⟨(Rm.ofCode (natBits latch.toNat 2 0)).getD .rne, w.rounding.sat, natBit latch.toNat 3⟩

/-- Number of bits of a natural number. -/
def bitLength (n : Nat) : Nat := if n = 0 then 0 else n.log2 + 1

/-- Whether a rounded-down magnitude goes up (R55), by the mode, the sign, the last kept bit and how the rest compares: the rest
is zero, below, at or above one half. -/
def roundsUp (rm : Rm) (neg odd : Bool) (rest : Nat) (half : Nat) (sticky : Bool) : Bool :=
  let exact := rest == 0 && !sticky
  if exact then false
  else match rm with
    | .rtz => false
    | .rup => !neg
    | .rdn => neg
    | .rne => half != 0 && (decide (half < rest) || (rest == half && (sticky || odd)))
    | .rna => half != 0 && decide (half ≤ rest)

/-- The integer nearest below m·2^-d by the mode, for d places dropped. -/
def roundShift (rm : Rm) (neg : Bool) (m d : Nat) (sticky : Bool) : Nat :=
  if bitLength m + 2 ≤ d then (if roundsUp rm neg false 1 2 (sticky || m != 0) && (sticky || m != 0) then 1 else 0)
  else
    let q := m / 2 ^ d
    if roundsUp rm neg (q % 2 == 1) (m % 2 ^ d) (2 ^ d / 2) sticky then q + 1 else q

/-- The pattern on overflow (R56). -/
def Fmt.overflow (f : Fmt) (c : FCtx) (neg : Bool) : Nat :=
  let toInf := match c.rm with
    | .rne | .rna => true
    | .rtz => false
    | .rup => !neg
    | .rdn => neg
  f.withSign neg (if toInf && !c.sat then f.inf else f.largest)

/-- Round ±m·2^e, or a value just above it in magnitude when sticky, to a format (R55, R56, R50). -/
def Fmt.round (f : Fmt) (c : FCtx) (neg : Bool) (m : Nat) (e : Int) (sticky : Bool) : Nat :=
  if m = 0 ∧ !sticky then f.withSign neg 0
  else
    let top : Int := e + bitLength m - 1
    let q : Int := max (top - (f.mbits : Int)) f.tiny
    let mant := if q ≤ e then m * 2 ^ (e - q).toNat else roundShift c.rm neg m (q - e).toNat sticky
    let mag := (q - f.tiny).toNat * 2 ^ f.mbits + mant
    if f.inf ≤ mag then f.overflow c neg
    else
      let r := f.withSign neg mag
      if c.ftz then f.flush r else r

/-- An exact result. -/
inductive FRes where
  | nan (neg : Bool) (low wd : Nat)
  | invalid
  | inf (neg : Bool)
  | num (neg : Bool) (m : Nat) (e : Int) (sticky : Bool)
  deriving DecidableEq, Repr

/-- A NaN in a format (R57). -/
def Fmt.nanFrom (f : Fmt) (neg : Bool) (low wd : Nat) : Nat :=
  let k := f.mbits - 1
  f.withSign neg (f.nan + if wd ≤ k then low * 2 ^ (k - wd) else low / 2 ^ (wd - k))

/-- The delivered pattern of an exact result (R51, R55, R56). -/
def Fmt.deliver (f : Fmt) (c : FCtx) (r : FRes) : Nat :=
  match r with
  | .nan s low wd => f.nanFrom s low wd
  | .invalid => f.nan
  | .inf s => f.withSign s (if c.sat then f.largest else f.inf)
  | .num s m e st => f.round c s m e st

/-- A value as an exact result. -/
def FVal.res : FVal → FRes
  | .nan s low wd => .nan s low wd
  | .inf s => .inf s
  | .fin s m e => .num s m e false

/-- An operand as an instruction reads it (R50). -/
def readF (c : FCtx) (f : Fmt) (x : Nat) : FVal := f.decode (if c.ftz then f.flush x else x)

/-- The first NaN among operands (R51). -/
def firstNan : List FVal → Option FRes
  | [] => none
  | .nan s low wd :: _ => some (.nan s low wd)
  | _ :: t => firstNan t

/-- Sign of a value. -/
def FVal.neg : FVal → Bool
  | .nan s _ _ => s
  | .inf s => s
  | .fin s _ _ => s

/-- A value with its sign changed. -/
def FVal.negate : FVal → FVal
  | .nan s low wd => .nan (!s) low wd
  | .inf s => .inf (!s)
  | .fin s m e => .fin (!s) m e

/-- Exact product of two values that are no NaN; none when it is invalid. -/
def mulVal (x y : FVal) : Option FVal :=
  let s := x.neg != y.neg
  match x, y with
  | .fin _ m e, .fin _ m' e' => some (.fin s (m * m') (e + e'))
  | .fin _ 0 _, _ => none
  | _, .fin _ 0 _ => none
  | _, _ => some (.inf s)

/-- Exact sum of values that are no NaN (R53). -/
def sumVals (rm : Rm) (l : List FVal) : FRes :=
  let infs := l.filterMap (fun v => match v with | .inf s => some s | _ => none)
  match infs with
  | s :: rest => if rest.all (fun r => r == s) then .inf s else .invalid
  | [] =>
    let fins := l.filterMap (fun v => match v with | .fin s m e => some (s, m, e) | _ => none)
    let live := fins.filter (fun t => t.2.1 != 0)
    match live with
    | [] =>
      match fins with
      | [] => .num false 0 0 false
      | t :: rest => .num (if rest.all (fun r => r.1 == t.1) then t.1 else rm == .rdn) 0 0 false
    | t :: rest =>
      let e := rest.foldl (fun e r => min e r.2.2) t.2.2
      let total : Int := live.foldl (fun a r =>
        let x : Int := (r.2.1 * 2 ^ (r.2.2 - e).toNat : Nat)
        if r.1 then a - x else a + x) 0
      if total = 0 then .num (rm == .rdn) 0 0 false else .num (decide (total < 0)) total.natAbs e false

/-- a + b (R150). -/
def fAdd (c : FCtx) (a b : FVal) : FRes := (firstNan [a, b]).getD (sumVals c.rm [a, b])

/-- a − b. -/
def fSub (c : FCtx) (a b : FVal) : FRes := (firstNan [a, b]).getD (sumVals c.rm [a, b.negate])

/-- a · b. -/
def fMul (a b : FVal) : FRes :=
  (firstNan [a, b]).getD (match mulVal a b with | some v => v.res | none => .invalid)

/-- a · b + d, with no intermediate rounding. -/
def fFma (c : FCtx) (a b d : FVal) : FRes :=
  (firstNan [a, b, d]).getD (match mulVal a b with | some v => sumVals c.rm [v, d] | none => .invalid)

/-- Quotient of positive mantissas with at least 70 bits and a sticky bit. -/
def divBits (neg : Bool) (m : Nat) (e : Int) (m' : Nat) (e' : Int) : FRes :=
  let k := 70 + bitLength m'
  let n := m * 2 ^ k
  .num neg (n / m') (e - e' - k) (n % m' != 0)

/-- a / b. -/
def fDiv (a b : FVal) : FRes :=
  let s := a.neg != b.neg
  (firstNan [a, b]).getD (match a, b with
    | .inf _, .inf _ => .invalid
    | .inf _, _ => .inf s
    | _, .inf _ => .num s 0 0 false
    | .fin _ m e, .fin _ m' e' =>
      if m' = 0 then (if m = 0 then .invalid else .inf s)
      else if m = 0 then .num s 0 0 false else divBits s m e m' e'
    | _, _ => .invalid)

/-- 1 as a value. -/
def FVal.one : FVal := .fin false 1 0

/-- Integer square root by digits, highest first. -/
def isqrtGo (n : Nat) : Nat → Nat → Nat
  | 0, r => r
  | k + 1, r => if (r + 2 ^ k) * (r + 2 ^ k) ≤ n then isqrtGo n k (r + 2 ^ k) else isqrtGo n k r

/-- Integer square root. -/
def isqrt (n : Nat) : Nat := isqrtGo n (bitLength n / 2 + 1) 0

/-- √a. -/
def fSqrt (a : FVal) : FRes :=
  match a with
  | .nan s l w => .nan s l w
  | .inf true => .invalid
  | .inf false => .inf false
  | .fin s m e =>
    if m = 0 then .num s 0 0 false
    else if s then .invalid
    else
      let k := 140 + (e % 2).toNat
      let n := m * 2 ^ k
      let r := isqrt n
      .num false r ((e - k) / 2) (r * r != n)

/-- 1 / √a. -/
def fRsqrt (a : FVal) : FRes :=
  match a with
  | .nan s l w => .nan s l w
  | .inf true => .invalid
  | .inf false => .num false 0 0 false
  | .fin s m e =>
    if m = 0 then .inf s
    else if s then .invalid
    else
      let m := if e % 2 = 0 then m else 2 * m
      let e := if e % 2 = 0 then e else e - 1
      let k := 140 + bitLength m
      let r := isqrt (2 ^ (2 * k) / m)
      .num false r (-(e / 2) - k) (r * r * m != 2 ^ (2 * k))

/-- a rounded to an integral value (R150). -/
def fIntegral (rm : Rm) (a : FVal) : FRes :=
  match a with
  | .fin s m e => if 0 ≤ e then .num s m e false else .num s (roundShift rm s m (-e).toNat false) 0 false
  | v => v.res

/-- a · 2^b. -/
def fScale (a : FVal) (b : Int) : FRes :=
  match a with
  | .fin s m e => if m = 0 then .num s 0 0 false else .num s m (e + b) false
  | v => v.res

/-! ### Transcendental functions in fixed point -/

/-- ⌊ln 2 · 2^320⌋. -/
def ln2Fixed : Nat :=
  0xb17217f7d1cf79abc9e3b39803f2f6af40f343267298b62d8a0d175b8baafa2be7b876206debac98

/-- ⌊π/2 · 2^512⌋. -/
def halfPiFixed : Nat :=
  0x1921fb54442d18469898cc51701b839a252049c1114cf98e804177d4c76273644a29410f31c6809bbdf2a33679a748636605614dbe4be286e9fc26adadaa3848b

/-- Σ term_k with term_0 = t and term_(k+1) = term_k · y / (2^p · (k + 1)): exp series in p-bit fixed point. -/
def expSeries (p y : Nat) : Nat → Nat → Nat → Nat
  | 0, _, _ => 0
  | fuel + 1, k, t => t + expSeries p y fuel (k + 1) (t * y / 2 ^ p / (k + 1))

/-- Σ z^(2k+1) / (2k+1) in p-bit fixed point. -/
def atanhSeries (p z2 : Nat) : Nat → Nat → Nat → Nat
  | 0, _, _ => 0
  | fuel + 1, k, t => t / (2 * k + 1) + atanhSeries p z2 fuel (k + 1) (t * z2 / 2 ^ p)

/-- Alternating series t − t·r²/((n+1)(n+2)) + … in p-bit fixed point: n = 1 for sine, n = 0 for cosine. -/
def altSeries (p r2 : Nat) : Nat → Nat → Int → Int
  | 0, _, _ => 0
  | fuel + 1, n, t => t + altSeries p r2 fuel (n + 2) (-(t * r2 / 2 ^ p / (((n + 1) * (n + 2) : Nat) : Int)))

/-- 2^a. -/
def fExp2 (a : FVal) : FRes :=
  match a with
  | .nan s l w => .nan s l w
  | .inf true => .num false 0 0 false
  | .inf false => .inf false
  | .fin s m e =>
    if m = 0 then .num false 1 0 false
    else if 20 ≤ e + bitLength m then .num false 1 (if s then -1048576 else 1048576) true
    else
      let x : Int := (m * 2 ^ (e + 320).toNat : Nat)
      let x := if s then -x else x
      let n := x / 2 ^ 320
      let fr := (x % 2 ^ 320).toNat
      if fr = 0 then .num false 1 n false
      else .num false (expSeries 320 (fr * ln2Fixed / 2 ^ 320) 100 0 (2 ^ 320)) (n - 320) true

/-- log₂ a. -/
def fLog2 (a : FVal) : FRes :=
  match a with
  | .nan s l w => .nan s l w
  | .inf true => .invalid
  | .inf false => .inf false
  | .fin s m e =>
    if m = 0 then .inf true
    else if s then .invalid
    else
      let n : Int := e + bitLength m - 1
      let x := m * 2 ^ 320 / 2 ^ (bitLength m - 1)
      if m = 2 ^ (bitLength m - 1) then .num (decide (n < 0)) n.natAbs 0 false
      else
        let z := (x - 2 ^ 320) * 2 ^ 320 / (x + 2 ^ 320)
        let ln := 2 * atanhSeries 320 (z * z / 2 ^ 320) 110 0 z
        let total : Int := n * 2 ^ 320 + (ln * 2 ^ 320 / ln2Fixed : Nat)
        .num (decide (total < 0)) total.natAbs (-320) true

/-- sin of a finite non-zero value advanced by `quarter` right angles. -/
def sinQuarter (s : Bool) (m : Nat) (e : Int) (quarter : Nat) : FRes :=
  let x := m * 2 ^ (e + 512).toNat
  let k := x / halfPiFixed
  let r := x % halfPiFixed
  let r2 := r * r / 2 ^ 512
  let neg := s && quarter == 0
  let q := (k + quarter) % 4
  let v : Int := if q % 2 = 0 then altSeries 512 r2 90 1 r else altSeries 512 r2 90 0 (2 ^ 512)
  .num (neg != decide (2 ≤ q)) v.natAbs (-512) true

/-- sin a. -/
def fSin (a : FVal) : FRes :=
  match a with
  | .nan s l w => .nan s l w
  | .inf _ => .invalid
  | .fin s m e => if m = 0 then .num s 0 0 false else sinQuarter s m e 0

/-- cos a. -/
def fCos (a : FVal) : FRes :=
  match a with
  | .nan s l w => .nan s l w
  | .inf _ => .invalid
  | .fin s m e => if m = 0 then .num false 1 0 false else sinQuarter s m e 1

/-! ### Comparison and conversion -/

/-- Order of two finite or infinite values: −1, 0 or 1, zeros equal. -/
def fOrder (a b : FVal) : Int :=
  let big := fun (v : FVal) => match v with | .inf s => if s then (-1 : Int) else 1 | _ => 0
  match a, b with
  | .fin s m e, .fin s' m' e' =>
    let k := min e e'
    let x : Int := (m * 2 ^ (e - k).toNat : Nat)
    let y : Int := (m' * 2 ^ (e' - k).toNat : Nat)
    ((if s then -x else x) - (if s' then -y else y)).sign
  | _, _ => (big a - big b).sign

/-- A value is a NaN. -/
def FVal.isNan : FVal → Bool
  | .nan _ _ _ => true
  | _ => false

/-- Smaller by minimumNumber, −0 below +0 (R51, R53); `larger` picks maximumNumber. -/
def fPick (larger : Bool) (a b : FVal) : FRes :=
  if a.isNan && b.isNan then (firstNan [a, b]).getD .invalid
  else if a.isNan then b.res
  else if b.isNan then a.res
  else
    let o := fOrder a b
    let aFirst := if o = 0 then a.neg || !b.neg else decide (o < 0)
    if aFirst != larger then a.res else b.res

/-- The conditions of `fcmp` (R154). -/
def fCondition (mod : Nat) (a b : FVal) : Bool :=
  let un := a.isNan || b.isNan
  let o := fOrder a b
  match mod with
  | 0 => !un && o == 0
  | 1 => un || o != 0
  | 2 => !un && decide (o < 0)
  | 3 => !un && decide (o ≤ 0)
  | 4 => !un && decide (0 < o)
  | 5 => !un && decide (0 ≤ o)
  | 6 => un
  | _ => !un

/-- The class bit of `fclass` (R155). -/
def Fmt.classBit (f : Fmt) (x : Nat) : Nat :=
  match f.decode x with
  | .nan _ _ _ => if x / 2 ^ (f.mbits - 1) % 2 = 1 then 9 else 8
  | .inf s => if s then 0 else 7
  | .fin s m _ =>
    if m = 0 then (if s then 3 else 4)
    else if f.subnormal x then (if s then 2 else 5) else (if s then 1 else 6)

/-- A float as an integer of a type, rounded and clamped (R58). -/
def toIntClamped (t : Ty) (rm : Rm) (a : FVal) : Int :=
  let lo : Int := if t.signed then -(2 ^ (t.width - 1) : Int) else 0
  let hi : Int := if t.signed then 2 ^ (t.width - 1) - 1 else 2 ^ t.width - 1
  match a with
  | .nan _ _ _ => 0
  | .inf s => if s then lo else hi
  | .fin s m e =>
    let v : Int := if 0 ≤ e then (m * 2 ^ e.toNat : Nat) else (roundShift rm s m (-e).toNat false : Nat)
    let v := if s then -v else v
    max lo (min hi v)

/-- Significand and exponent of `ffrexp` (R157): f as an exact result, and k. -/
def fSplit (a : FVal) : FRes × Int :=
  match a with
  | .fin s m e => if m = 0 then (.num s 0 0 false, 0) else (.num s m (-(bitLength m : Int)) false, e + bitLength m)
  | v => (v.res, 0)

end Sys2Proof.Machine
end

