-- ==== Sys2Proof/Machine/Int.lean ====
section
/-! DEFINITION. Integer and address instructions, opcodes 0x00 to 0x22 (spec 04 R114 to R122, 02 R46, R47). -/

namespace Sys2Proof.Machine

/-! ### Results -/

/-- A token that carries an exact integer result (R115). -/
def intVal (t : Ty) (x : Int) : Val := .data (placeInt t x)

/-- A token that carries a bit pattern. -/
def bitsVal (t : Ty) (n : Nat) : Val := .data (place t n)

/-- Quotient (R47). -/
def quotient (a b : Int) : Int := if b = 0 then -1 else a.tdiv b

/-- Remainder (R47). -/
def remainder (a b : Int) : Int := if b = 0 then a else a - a.tdiv b * b

/-- Leading zero bits of a w-bit pattern (R114). -/
def leadingZeros (w n : Nat) : Nat := ((List.range w).findIdx? (fun i => n.testBit (w - 1 - i))).getD w

/-- Trailing zero bits of a w-bit pattern. -/
def trailingZeros (w n : Nat) : Nat := ((List.range w).findIdx? (fun i => n.testBit i)).getD w

/-- Set bits of a w-bit pattern. -/
def popCount (w n : Nat) : Nat := (List.range w).countP (fun i => n.testBit i)

/-- Bits of a w-bit pattern in reverse order. -/
def reverseBits (w n : Nat) : Nat := (List.range w).foldl (fun r i => r + if n.testBit (w - 1 - i) then 2 ^ i else 0) 0

/-- Rotation left by a count mod w (R47). -/
def rotateLeft (w n k : Nat) : Nat := (n * 2 ^ (k % w) + n / 2 ^ (w - k % w)) % 2 ^ w

/-- Shift right with copies of bit w − 1 entering (R47). -/
def shiftArith (w n k : Nat) : Int := toSigned w n / (2 : Int) ^ min k w

/-- Field position and width of `bfx` and `bfi` (R117). -/
def fieldPos (w : SlotWord) : Nat := w.immBits 5 0
/-- Width of the field of `bfx` and `bfi` (R117). -/
def fieldWidth (w : SlotWord) : Nat := w.immBits 13 8 + 1

/-- The field of `bfx` (R117). -/
def fieldOf (t : Ty) (a pos width : Nat) : Int :=
  let f := a / 2 ^ pos % 2 ^ width
  if t.signed then toSigned width f else f

/-- a with the field of `bfi` replaced from b (R117). -/
def fieldInto (a b pos width : Nat) : Nat :=
  a - a / 2 ^ pos % 2 ^ width * 2 ^ pos + b % 2 ^ width * 2 ^ pos

/-! ### Meanings -/

/-- `add` (R114). -/
def execAdd (w : SlotWord) (s : State) : Host.Outcome State Fault Refusal :=
  .next (s.value s.fire w (fun a b _ => intVal w.ty (readInt w.ty a + readInt w.ty b)))

/-- `sub` (R114). -/
def execSub (w : SlotWord) (s : State) : Host.Outcome State Fault Refusal :=
  .next (s.value s.fire w (fun a b _ => intVal w.ty (readInt w.ty a - readInt w.ty b)))

/-- `mul` (R114). -/
def execMul (w : SlotWord) (s : State) : Host.Outcome State Fault Refusal :=
  .next (s.value s.fire w (fun a b _ => intVal w.ty (readInt w.ty a * readInt w.ty b)))

/-- `mulh` (R47): bits [2w−1:w] of the exact product. -/
def execMulh (w : SlotWord) (s : State) : Host.Outcome State Fault Refusal :=
  .next (s.value s.fire w (fun a b _ => intVal w.ty (readInt w.ty a * readInt w.ty b / 2 ^ w.ty.width)))

/-- `mad` (R114): formed exactly before the wrap. -/
def execMad (w : SlotWord) (s : State) : Host.Outcome State Fault Refusal :=
  .next (s.value s.fire w (fun a b c => intVal w.ty (readInt w.ty a * readInt w.ty b + readInt w.ty c)))

/-- `div` (R47). -/
def execDiv (w : SlotWord) (s : State) : Host.Outcome State Fault Refusal :=
  .next (s.value s.fire w (fun a b _ => intVal w.ty (quotient (readInt w.ty a) (readInt w.ty b))))

/-- `rem` (R47). -/
def execRem (w : SlotWord) (s : State) : Host.Outcome State Fault Refusal :=
  .next (s.value s.fire w (fun a b _ => intVal w.ty (remainder (readInt w.ty a) (readInt w.ty b))))

/-- `neg` (R114, R47). -/
def execNeg (w : SlotWord) (s : State) : Host.Outcome State Fault Refusal :=
  .next (s.value s.fire w (fun a _ _ => intVal w.ty (-readInt w.ty a)))

/-- `abs` (R114, R47). -/
def execAbs (w : SlotWord) (s : State) : Host.Outcome State Fault Refusal :=
  .next (s.value s.fire w (fun a _ _ => intVal w.ty (readInt w.ty a).natAbs))

/-- `min` (R114). -/
def execMin (w : SlotWord) (s : State) : Host.Outcome State Fault Refusal :=
  .next (s.value s.fire w (fun a b _ => intVal w.ty (min (readInt w.ty a) (readInt w.ty b))))

/-- `max` (R114). -/
def execMax (w : SlotWord) (s : State) : Host.Outcome State Fault Refusal :=
  .next (s.value s.fire w (fun a b _ => intVal w.ty (max (readInt w.ty a) (readInt w.ty b))))

/-- `and` (R114). -/
def execAnd (w : SlotWord) (s : State) : Host.Outcome State Fault Refusal :=
  .next (s.value s.fire w (fun a b _ => bitsVal w.ty (readBits w.ty a &&& readBits w.ty b)))

/-- `or` (R114). -/
def execOr (w : SlotWord) (s : State) : Host.Outcome State Fault Refusal :=
  .next (s.value s.fire w (fun a b _ => bitsVal w.ty (readBits w.ty a ||| readBits w.ty b)))

/-- `xor` (R114). -/
def execXor (w : SlotWord) (s : State) : Host.Outcome State Fault Refusal :=
  .next (s.value s.fire w (fun a b _ => bitsVal w.ty (readBits w.ty a ^^^ readBits w.ty b)))

/-- `not` (R114). -/
def execNot (w : SlotWord) (s : State) : Host.Outcome State Fault Refusal :=
  .next (s.value s.fire w (fun a _ _ => bitsVal w.ty (2 ^ w.ty.width - 1 - readBits w.ty a)))

/-- `shl` (R47): the count is B as an unsigned 64-bit value. -/
def execShl (w : SlotWord) (s : State) : Host.Outcome State Fault Refusal :=
  .next (s.value s.fire w (fun a b _ =>
    bitsVal w.ty (if w.ty.width ≤ b.toNat then 0 else readBits w.ty a * 2 ^ b.toNat)))

/-- `shr` (R47). -/
def execShr (w : SlotWord) (s : State) : Host.Outcome State Fault Refusal :=
  .next (s.value s.fire w (fun a b _ =>
    bitsVal w.ty (if w.ty.width ≤ b.toNat then 0 else readBits w.ty a / 2 ^ b.toNat)))

/-- `sar` (R47). -/
def execSar (w : SlotWord) (s : State) : Host.Outcome State Fault Refusal :=
  .next (s.value s.fire w (fun a b _ => intVal w.ty (shiftArith w.ty.width (readBits w.ty a) b.toNat)))

/-- `rol` (R47). -/
def execRol (w : SlotWord) (s : State) : Host.Outcome State Fault Refusal :=
  .next (s.value s.fire w (fun a b _ => bitsVal w.ty (rotateLeft w.ty.width (readBits w.ty a) b.toNat)))

/-- `ror` (R47): a rotation right by k is one left by w − k mod w. -/
def execRor (w : SlotWord) (s : State) : Host.Outcome State Fault Refusal :=
  .next (s.value s.fire w (fun a b _ =>
    bitsVal w.ty (rotateLeft w.ty.width (readBits w.ty a) (w.ty.width - b.toNat % w.ty.width))))

/-- `clz` (R114). -/
def execClz (w : SlotWord) (s : State) : Host.Outcome State Fault Refusal :=
  .next (s.value s.fire w (fun a _ _ => bitsVal w.ty (leadingZeros w.ty.width (readBits w.ty a))))

/-- `ctz` (R114). -/
def execCtz (w : SlotWord) (s : State) : Host.Outcome State Fault Refusal :=
  .next (s.value s.fire w (fun a _ _ => bitsVal w.ty (trailingZeros w.ty.width (readBits w.ty a))))

/-- `popc` (R114). -/
def execPopc (w : SlotWord) (s : State) : Host.Outcome State Fault Refusal :=
  .next (s.value s.fire w (fun a _ _ => bitsVal w.ty (popCount w.ty.width (readBits w.ty a))))

/-- `brev` (R114). -/
def execBrev (w : SlotWord) (s : State) : Host.Outcome State Fault Refusal :=
  .next (s.value s.fire w (fun a _ _ => bitsVal w.ty (reverseBits w.ty.width (readBits w.ty a))))

/-- `bfx` (R117). -/
def execBfx (w : SlotWord) (s : State) : Host.Outcome State Fault Refusal :=
  .next (s.value s.fire w (fun a _ _ => intVal w.ty (fieldOf w.ty (readBits w.ty a) (fieldPos w) (fieldWidth w))))

/-- `bfi` (R117). -/
def execBfi (w : SlotWord) (s : State) : Host.Outcome State Fault Refusal :=
  .next (s.value s.fire w (fun a b _ =>
    bitsVal w.ty (fieldInto (readBits w.ty a) (readBits w.ty b) (fieldPos w) (fieldWidth w))))

/-- `cmp` (R116): the payload is 1 or 0 whatever the type. -/
def execCmp (w : SlotWord) (s : State) : Host.Outcome State Fault Refusal :=
  .next (s.value s.fire w (fun a b _ => .data (flag (condition w.mod (readInt w.ty a) (readInt w.ty b)))))

/-- `sel` (R119): R34 applies to A alone, and the chosen token is forwarded unchanged. -/
def execSel (w : SlotWord) (s : State) : Host.Outcome State Fault Refusal :=
  let f := s.fire
  .next (match s.go f w with
    | .skip => s.emitBoth f w .pass
    | .stop k => s.emitBoth f w (.err k)
    | .poison => s.commit f 0x20 .none none 0
    | .fire =>
      match s.opA f w with
      | .pass => s.emitBoth f w .pass
      | .err k => s.emitBoth f w (.err k)
      | .data a => s.emitBoth f w (if readBits w.ty a ≠ 0 then s.opB f w else s.opC f w))

/-- `sext` (R118). -/
def execSext (w : SlotWord) (s : State) : Host.Outcome State Fault Refusal :=
  .next (s.value s.fire w (fun a _ _ =>
    intVal w.ty (toSigned (w.immBits 6 0) (readBits w.ty a % 2 ^ w.immBits 6 0))))

/-- `zext` (R118). -/
def execZext (w : SlotWord) (s : State) : Host.Outcome State Fault Refusal :=
  .next (s.value s.fire w (fun a _ _ => bitsVal w.ty (readBits w.ty a % 2 ^ w.immBits 6 0)))

/-- `addc` (R120): the carry leaves on D1. -/
def execAddc (w : SlotWord) (s : State) : Host.Outcome State Fault Refusal :=
  .next (s.value2 s.fire w (fun a b c =>
    let n := w.ty.width
    let x := readBits w.ty a
    let y := readBits w.ty b
    let k := if w.c = .absent then 0 else c.toNat % 2
    (bitsVal w.ty (x + y + k), .data (flag (carryOut n x y k)))))

/-- `subb` (R120): the borrow leaves on D1. -/
def execSubb (w : SlotWord) (s : State) : Host.Outcome State Fault Refusal :=
  .next (s.value2 s.fire w (fun a b c =>
    let x := readBits w.ty a
    let y := readBits w.ty b
    let k := if w.c = .absent then 0 else c.toNat % 2
    (intVal w.ty ((x : Int) - y - k), .data (flag (borrowOut x y k)))))

/-- `lea` (R121): modulo 2⁶⁴, without any check. -/
def execLea (w : SlotWord) (s : State) : Host.Outcome State Fault Refusal :=
  .next (s.value s.fire w (fun a b _ => .data (a + b <<< w.immBits 2 0)))

/-- `mov` (R122): A, re-placed for its type. -/
def execMov (w : SlotWord) (s : State) : Host.Outcome State Fault Refusal :=
  .next (s.value s.fire w (fun a _ _ => bitsVal w.ty (readBits w.ty a)))

/-- `const` (R122): IMM sign-extended, or B's value, reduced to the type; A is a trigger (R112). -/
def execConst (w : SlotWord) (s : State) : Host.Outcome State Fault Refusal :=
  .next (s.triggered s.fire w (fun s =>
    let x := if w.b = .absent then w.immSigned else (s.opB s.fire w).bits
    s.emitBoth s.fire w (bitsVal w.ty (readBits w.ty x))))

end Sys2Proof.Machine
end

