-- ==== Sys2Proof/Machine/Float.lean ====
section
/-! DEFINITION. Float instructions, opcodes 0x30 to 0x4E (spec 05 R149 to R162). -/

namespace Sys2Proof.Machine

/-- Rounding context of a firing (R54, R19). -/
def State.fctx (s : State) (w : SlotWord) : FCtx := SlotWordCtx w (s.ft s.fire).latch

/-- An arithmetic float instruction: operands read for TY, one exact result, one rounding (R150). -/
def State.floatOp (s : State) (w : SlotWord) (g : FCtx → FVal → FVal → FVal → FRes) : State :=
  let c := s.fctx w
  let f := fmtOf w.ty
  s.value s.fire w (fun a b d =>
    bitsVal w.ty (f.deliver c (g c (readF c f (readBits w.ty a)) (readF c f (readBits w.ty b)) (readF c f (readBits w.ty d)))))

/-- A packed-pair instruction: the operation on each element on its own (R48, R158). -/
def State.packedOp (s : State) (w : SlotWord) (g : FCtx → FVal → FVal → FVal → FRes) : State :=
  let c := s.fctx w
  let f := fmtOf w.ty
  let half := fun (i : Nat) (x : Dword) => readF c f (x.toNat / 2 ^ (16 * i) % 65536)
  s.value s.fire w (fun a b d =>
    let r := fun i => f.deliver c (g c (half i a) (half i b) (half i d))
    .data (BitVec.ofNat 64 (r 0 + 65536 * r 1)))

/-- `fadd` (R150). -/
def execFadd (w : SlotWord) (s : State) : Host.Outcome State Fault Refusal :=
  .next (s.floatOp w (fun c a b _ => fAdd c a b))

/-- `fsub` (R150). -/
def execFsub (w : SlotWord) (s : State) : Host.Outcome State Fault Refusal :=
  .next (s.floatOp w (fun c a b _ => fSub c a b))

/-- `fmul` (R150). -/
def execFmul (w : SlotWord) (s : State) : Host.Outcome State Fault Refusal :=
  .next (s.floatOp w (fun _ a b _ => fMul a b))

/-- `ffma` (R150, R151). -/
def execFfma (w : SlotWord) (s : State) : Host.Outcome State Fault Refusal :=
  .next (s.floatOp w (fun c a b d => fFma c a b d))

/-- `frnd` (R150). -/
def execFrnd (w : SlotWord) (s : State) : Host.Outcome State Fault Refusal :=
  .next (s.floatOp w (fun c a _ _ => fIntegral c.rm a))

/-- `fdiv` (R150, R151). -/
def execFdiv (w : SlotWord) (s : State) : Host.Outcome State Fault Refusal :=
  .next (s.floatOp w (fun _ a b _ => fDiv a b))

/-- `frcp` (R150, R151). -/
def execFrcp (w : SlotWord) (s : State) : Host.Outcome State Fault Refusal :=
  .next (s.floatOp w (fun _ a _ _ => fDiv .one a))

/-- `fsqrt` (R150, R151). -/
def execFsqrt (w : SlotWord) (s : State) : Host.Outcome State Fault Refusal :=
  .next (s.floatOp w (fun _ a _ _ => fSqrt a))

/-- `frsq` (R150, R151). -/
def execFrsq (w : SlotWord) (s : State) : Host.Outcome State Fault Refusal :=
  .next (s.floatOp w (fun _ a _ _ => fRsqrt a))

/-- `fexp2` (R150, R151). -/
def execFexp2 (w : SlotWord) (s : State) : Host.Outcome State Fault Refusal :=
  .next (s.floatOp w (fun _ a _ _ => fExp2 a))

/-- `flog2` (R150, R151). -/
def execFlog2 (w : SlotWord) (s : State) : Host.Outcome State Fault Refusal :=
  .next (s.floatOp w (fun _ a _ _ => fLog2 a))

/-- `fsin` (R150, R151). -/
def execFsin (w : SlotWord) (s : State) : Host.Outcome State Fault Refusal :=
  .next (s.floatOp w (fun _ a _ _ => fSin a))

/-- `fcos` (R150, R151). -/
def execFcos (w : SlotWord) (s : State) : Host.Outcome State Fault Refusal :=
  .next (s.floatOp w (fun _ a _ _ => fCos a))

/-- `fscale` (R150, R151): b is read as .s64. -/
def execFscale (w : SlotWord) (s : State) : Host.Outcome State Fault Refusal :=
  let c := s.fctx w
  let f := fmtOf w.ty
  .next (s.value s.fire w (fun a b _ =>
    bitsVal w.ty (f.deliver c (fScale (readF c f (readBits w.ty a)) b.toInt))))

/-- `fneg` (R152): the sign bit alone. -/
def execFneg (w : SlotWord) (s : State) : Host.Outcome State Fault Refusal :=
  .next (s.value s.fire w (fun a _ _ => bitsVal w.ty (readBits w.ty a ^^^ (fmtOf w.ty).signBit)))

/-- `fabs` (R152). -/
def execFabs (w : SlotWord) (s : State) : Host.Outcome State Fault Refusal :=
  .next (s.value s.fire w (fun a _ _ => bitsVal w.ty (readBits w.ty a % (fmtOf w.ty).signBit)))

/-- `fsign` (R152): k = 0 copies b's sign, 1 inverts it, 2 combines the two. -/
def execFsign (w : SlotWord) (s : State) : Host.Outcome State Fault Refusal :=
  .next (s.value s.fire w (fun a b _ =>
    let top := (fmtOf w.ty).signBit
    let x := readBits w.ty a
    let sa := x / top % 2
    let sb := readBits w.ty b / top % 2
    let k := w.immBits 1 0
    bitsVal w.ty (x % top + (if k = 0 then sb else if k = 1 then 1 - sb else (sa + sb) % 2) * top)))

/-- `fmin` (R153). -/
def execFmin (w : SlotWord) (s : State) : Host.Outcome State Fault Refusal :=
  .next (s.floatOp w (fun _ a b _ => fPick false a b))

/-- `fmax` (R153). -/
def execFmax (w : SlotWord) (s : State) : Host.Outcome State Fault Refusal :=
  .next (s.floatOp w (fun _ a b _ => fPick true a b))

/-- `fcmp` (R154). -/
def execFcmp (w : SlotWord) (s : State) : Host.Outcome State Fault Refusal :=
  .next (s.value s.fire w (fun a b _ =>
    .data (flag (fCondition w.mod.toNat ((fmtOf w.ty).decode (readBits w.ty a)) ((fmtOf w.ty).decode (readBits w.ty b))))))

/-- `fclass` (R155). -/
def execFclass (w : SlotWord) (s : State) : Host.Outcome State Fault Refusal :=
  .next (s.value s.fire w (fun a _ _ => .data (BitVec.ofNat 64 (2 ^ (fmtOf w.ty).classBit (readBits w.ty a)))))

/-- Source type of a conversion (R156). -/
def sourceTy (w : SlotWord) : Ty := Ty.ofCode (w.immBits 3 0)

/-- `fcvt` (R156, R57). -/
def execFcvt (w : SlotWord) (s : State) : Host.Outcome State Fault Refusal :=
  let c := s.fctx w
  let src := sourceTy w
  .next (s.value s.fire w (fun a _ _ => bitsVal w.ty ((fmtOf w.ty).deliver c (readF c (fmtOf src) (readBits src a)).res)))

/-- `fcvti` (R156, R58). -/
def execFcvti (w : SlotWord) (s : State) : Host.Outcome State Fault Refusal :=
  let c := s.fctx w
  let src := sourceTy w
  .next (s.value s.fire w (fun a _ _ => intVal w.ty (toIntClamped w.ty c.rm (readF c (fmtOf src) (readBits src a)))))

/-- `icvtf` (R156, R59). -/
def execIcvtf (w : SlotWord) (s : State) : Host.Outcome State Fault Refusal :=
  let c := s.fctx w
  .next (s.value s.fire w (fun a _ _ =>
    let x := readInt (sourceTy w) a
    bitsVal w.ty ((fmtOf w.ty).round c (decide (x < 0)) x.natAbs 0 false)))

/-- `ffrexp` (R157): the significand on D0, the exponent as .s32 on D1. -/
def execFfrexp (w : SlotWord) (s : State) : Host.Outcome State Fault Refusal :=
  let c := s.fctx w
  let f := fmtOf w.ty
  .next (s.value2 s.fire w (fun a _ _ =>
    let r := fSplit (readF c f (readBits w.ty a))
    (bitsVal w.ty (f.deliver c r.1), intVal .s32 r.2)))

/-- `hadd2` (R158). -/
def execHadd2 (w : SlotWord) (s : State) : Host.Outcome State Fault Refusal :=
  .next (s.packedOp w (fun c a b _ => fAdd c a b))

/-- `hmul2` (R158). -/
def execHmul2 (w : SlotWord) (s : State) : Host.Outcome State Fault Refusal :=
  .next (s.packedOp w (fun _ a b _ => fMul a b))

/-- `hfma2` (R158). -/
def execHfma2 (w : SlotWord) (s : State) : Host.Outcome State Fault Refusal :=
  .next (s.packedOp w (fun c a b d => fFma c a b d))

/-- The exact sum of two products and an optional term (R159). -/
def fDot2 (c : FCtx) (a0 b0 a1 b1 : FVal) (d : Option FVal) : FRes :=
  (firstNan ([a0, a1, b0, b1] ++ d.toList)).getD (match mulVal a0 b0, mulVal a1 b1 with
    | some x, some y => sumVals c.rm ([x, y] ++ d.toList)
    | _, _ => .invalid)

/-- `fdot2` (R159): a .f32 result of the pairs A and B and the .f32 operand C. -/
def execFdot2 (w : SlotWord) (s : State) : Host.Outcome State Fault Refusal :=
  let c := s.fctx w
  let f := fmtOf w.ty
  let half := fun (i : Nat) (x : Dword) => readF c f (x.toNat / 2 ^ (16 * i) % 65536)
  .next (s.value s.fire w (fun a b d =>
    let acc := if w.c = .absent then none else some (readF c (fmtOf .f32) (readBits .f32 d))
    bitsVal .f32 ((fmtOf .f32).deliver c (fDot2 c (half 0 a) (half 0 b) (half 1 a) (half 1 b) acc))))

/-- The old FPMODE byte leaves on D0 and D1 and the new one is written (R160, R161). -/
def State.setFpmode (s : State) (w : SlotWord) (new : Byte) : State :=
  let f := s.fire
  let old := (s.ft f).fpmode
  (s.onThread f.core f.thread (fun th => { th with fpmode := new })).emitBoth f w (.data (old.setWidth 64))

/-- `fpmode.imm` (R160). -/
def execFpmodeImm (w : SlotWord) (s : State) : Host.Outcome State Fault Refusal :=
  .next (s.triggered s.fire w (fun s => s.setFpmode w (BitVec.ofNat 8 (w.immBits 3 0))))

/-- The byte that `fpmode.val` writes (R160): RM is kept when the new one is none. -/
def fpmodeFrom (old : Byte) (x : Dword) : Byte :=
  let rm := if (Rm.ofCode (natBits x.toNat 2 0)).isSome then natBits x.toNat 2 0 else natBits old.toNat 2 0
  BitVec.ofNat 8 (natBits x.toNat 3 3 * 8 + rm)

/-- `fpmode.val` (R160): an error token on A writes nothing and is propagated. -/
def execFpmodeVal (w : SlotWord) (s : State) : Host.Outcome State Fault Refusal :=
  .next (s.triggered s.fire w (fun s =>
    match s.opA s.fire w with
    | .data x => s.setFpmode w (fpmodeFrom (s.ft s.fire).fpmode x)
    | v => s.emitBoth s.fire w v))

/-- The IEEE image of an error subkind in a format (R65, R182). -/
def Fmt.image (f : Fmt) (k : Sub) : Nat :=
  match k with
  | .posInf => f.inf
  | .negInf => f.withSign true f.inf
  | _ => f.nan

/-- A pattern of an element type in both elements of a packed type (R162). -/
def spread (t : Ty) (x : Nat) : Nat := if t.isPacked then x + 65536 * x else x

/-- `ecatch` (R162): the value on D0 and the status on D1. -/
def execEcatch (w : SlotWord) (s : State) : Host.Outcome State Fault Refusal :=
  let f := s.fire
  .next (match s.go f w with
    | .skip => s.emitBoth f w .pass
    | .stop k => s.emitBoth f w (.err k)
    | .poison => s.commit f 0x20 .none none 0
    | .fire =>
      match s.opA f w with
      | .pass => s.emitBoth f w .pass
      | .data x => s.emit2 f w (.data x) (.data 0)
      | .err k =>
        let img := if k = .poison ∧ w.mod = 1 then 0 else spread w.ty ((fmtOf w.ty).image k)
        let status : Nat := match k with | .nan => 1 | .posInf => 2 | .negInf => 3 | .poison => 4
        s.emit2 f w (bitsVal w.ty img) (.data (BitVec.ofNat 64 status)))

end Sys2Proof.Machine
end

