-- ==== Sys2Proof/Machine/BlockFp.lean ====
section
/-! DEFINITION. The block floating-point class, opcodes 0x60 to 0x67 (spec 05 R163 to R176; 02 R60 to R63, R69, R70), and the
block entries of the matching stores. -/

namespace Sys2Proof.Machine

/-! ### Positions and block tags (R163) -/

/-- The iteration field of the instruction's LEVEL. -/
def iterField (w : SlotWord) (t : Tag) : Nat := if w.level = 1 then t.inn.toNat else t.out.toNat

/-- Element position. -/
def blockPos (w : SlotWord) (t : Tag) : Nat := iterField w t % w.blockLen

/-- Block tag: the low bits of the iteration field cleared. -/
def blockTag (w : SlotWord) (t : Tag) : Tag :=
  let base := BitVec.ofNat 6 (iterField w t / w.blockLen * w.blockLen)
  if w.level = 1 then { t with inn := base } else { t with out := base }

/-! ### Block entries (R166, R168) -/

/-- The entry of a slot and block tag; a new one holds nothing. -/
def Core.block (c : Core) (e sl : Nat) (b : Tag) : BlockState :=
  (c.blocks.find? (fun (x : BlockState) => x.elem == e && x.slot == sl && x.tag == b)).getD
    ⟨e, sl, b, none, none, [], 0, [], none, none⟩

/-- The core without an entry. -/
def Core.freeBlock (c : Core) (e sl : Nat) (b : Tag) : Core :=
  { c with blocks := c.blocks.filter (fun (x : BlockState) => !(x.elem == e && x.slot == sl && x.tag == b)) }

/-- A new entry takes a way of the matching store, and `bdot` one more for its sum (R166, R168, R175); `bunpack` keeps no entry
there (R320). -/
def Core.blockPlace (c : Core) (x : BlockState) : BlockState :=
  if x.place.isSome then x
  else
    let opc := (c.load.opc (16 * x.elem + x.slot)).getD 0
    if opc = 0x65 then x
    else
      let p := c.freePlace x.elem x.slot x.tag
      let more := if opc = 0x66 then firstFree (p.toList ++ c.placesUsed x.elem) 512 (8 * storeSet x.slot x.tag) else none
      { x with place := p, more := more }

/-- The core with an entry set. -/
def Core.setBlock (c : Core) (x : BlockState) : Core :=
  let x := c.blockPlace x
  let c := c.freeBlock x.elem x.slot x.tag
  { c with blocks := c.blocks ++ [x] }

/-- The scales that a consumer needs are present (R165, R166): `bdot` needs both. -/
def BlockState.scaled (x : BlockState) (two : Bool) : Bool := x.s0.isSome && (!two || x.s1.isSome)

/-- Positions of the image dwords of a block: ⌈B/8⌉ with B = 1 + n·m/8 (R173). -/
def imageDwords (w : SlotWord) : Nat := (1 + w.blockLen * w.mantWidth / 8 + 7) / 8

/-- Instances that wait in an entry may go on: `bpack` needs every position and the scale, `bunpack` every image dword, `bdot`
every position and both scales, `bquant` and `bdequant` the scale. -/
def BlockState.go (x : BlockState) (opc : Nat) (w : SlotWord) : Bool :=
  match opc with
  | 0x64 => decide (w.blockLen ≤ x.vals.length) && x.scaled false
  | 0x65 => (List.range (imageDwords w)).all (fun i => (x.vals.look i).isSome)
  | 0x66 => decide (w.blockLen ≤ x.vals.length) && x.scaled true
  | _ => x.scaled false

/-- An entry ends when all its positions have fired and its scale has arrived; `bunpack` has no scale input (R166). -/
def BlockState.done (x : BlockState) (opc : Nat) (w : SlotWord) : Bool :=
  decide (w.blockLen ≤ x.fired) && (opc == 0x65 || x.scaled (opc == 0x66))

/-- The waiting instances of an entry become ready, with the scales it holds. -/
def Core.wakeBlock (c : Core) (x : BlockState) : Core :=
  let go := x.waiting.map (fun (f : Firing) => { f with s0 := x.s0, s1 := x.s1 })
  { c.setBlock { x with waiting := [] } with rq := c.rq ++ go }

/-- An entry after a change: its waiting instances go on when they can, and it is freed when it is done. -/
def Core.stepBlock (c : Core) (x : BlockState) (opc : Nat) (w : SlotWord) : Core :=
  let c := if x.go opc w then c.wakeBlock x else c.setBlock x
  if x.done opc w then c.freeBlock x.elem x.slot x.tag else c

/-- An instance of a block-FP slot that has matched waits in its entry for scales and elements, or becomes ready (R166, R173 to
R175). The elements of a block are recorded as they come. -/
def State.blockReady (s : State) (f : Firing) (opc : Nat) (w : SlotWord) : State :=
  let p := blockPos w f.tag
  let a := s.opA f w
  s.onCore f.core (fun (c : Core) =>
    let x := c.block f.elem f.slot (blockTag w f.tag)
    let noted := opc == 0x64 || opc == 0x66 || (opc == 0x65 && decide (p < imageDwords w))
    let x := if noted then { x with vals := x.vals.put p (a, if opc = 0x66 then s.opB f w else .pass) } else x
    let now := ((opc == 0x62 || opc == 0x63) && a == .pass) || (opc == 0x66 && decide (p + 1 < w.blockLen))
    if now then { c.setBlock x with rq := c.rq ++ [f] } else c.stepBlock { x with waiting := x.waiting ++ [f] } opc w)

/-- An instance waits in its entry. -/
def State.blockWait (s : State) (f : Firing) (w : SlotWord) : State :=
  s.onCore f.core (fun (c : Core) =>
    let x := c.block f.elem f.slot (blockTag w f.tag)
    c.setBlock { x with waiting := x.waiting ++ [f] })

/-- A position has fired. -/
def State.blockFired (s : State) (f : Firing) (opc : Nat) (w : SlotWord) : State :=
  s.onCore f.core (fun (c : Core) =>
    let x := c.block f.elem f.slot (blockTag w f.tag)
    c.stepBlock { x with fired := x.fired + 1 } opc w)

/-- The tokens of a position are recorded. -/
def State.blockNote (s : State) (f : Firing) (w : SlotWord) (a b : Val) : State :=
  s.onCore f.core (fun (c : Core) =>
    let x := c.block f.elem f.slot (blockTag w f.tag)
    c.setBlock { x with vals := x.vals.put (blockPos w f.tag) (a, b) })

/-- A scale token to a scale destination (R165). -/
def State.sendScale (s : State) (f : Firing) (w : SlotWord) (n : Nat) (d : Dst) (e : Nat) : State :=
  s.send f n d true (.data (BitVec.ofNat 64 e)) (blockTag w f.tag)

/-! ### Values -/

/-- Subkind of a two-bit code. -/
def Sub.ofCode (n : Nat) : Sub := match n with | 0 => .nan | 1 => .posInf | 2 => .negInf | _ => .poison

/-- Code of a subkind (R33). -/
def Sub.code (k : Sub) : Nat := match k with | .nan => 0 | .posInf => 1 | .negInf => 2 | .poison => 3

/-- The error token of an m-bit field of an error block (R62). -/
def fieldError (field : Nat) : Sub := Sub.ofCode (min field 3)

/-- The low m bits of an element token (R167). -/
def elemField (m : Nat) (x : Dword) : Nat := x.toNat % 2 ^ m

/-- An element as a consumer with scale E reads it (R166): a mantissa, an error or a pass token. -/
def readElem (m e : Nat) (v : Val) : Val :=
  match v with
  | .data x => if e = 255 then .err (fieldError (elemField m x)) else .data (BitVec.ofInt 64 (toSigned m (elemField m x)))
  | v => v

/-- A mantissa as an element token (R167). -/
def mantVal (m : Nat) (x : Int) : Val := .data (BitVec.ofInt 64 (toSigned m (wrap m x)))

/-- Exponent that a block's maximum gives (R63, R168): the data values of a block, in a float type. -/
def chosenScale (t : Ty) (vs : List Val) : Nat :=
  let tops : List Int := vs.filterMap (fun v => match v with
    | .data x => match (fmtOf t).decode (readBits t x) with
      | .fin _ m e => if m = 0 then none else some (e + bitLength m - 1)
      | _ => none
    | _ => none)
  match tops with
  | [] => 0
  | a :: l => (min (max (l.foldl max a + 128) 0) 254).toNat

/-- Quantisation of one value (R63, R170). -/
def quantise (t : Ty) (m e : Nat) (x : Dword) : Val :=
  match (fmtOf t).decode (readBits t x) with
  | .nan _ _ _ => .err .nan
  | .inf false => .err .posInf
  | .inf true => .err .negInf
  | .fin neg a k =>
    let x : Int := k + 127 - e + m - 1
    let q : Nat := if 0 ≤ x then a * 2 ^ x.toNat else roundShift .rne neg a (-x).toNat false
    let q : Int := if neg then -q else q
    mantVal m (min (max q (-(2 ^ (m - 1) : Int))) (2 ^ (m - 1) - 1))

/-- The value of a mantissa (R60). -/
def mantValue (m e : Nat) (x : Dword) : FRes :=
  let v := toSigned m (elemField m x)
  .num (decide (v < 0)) v.natAbs ((e : Int) - 127 - (m - 1)) false

/-- The image of a block (R61, R62, R173), as a number of 8·B bits. -/
def blockImage (m n e : Nat) (vs : Table (Val × Val)) : Nat :=
  let elems := (List.range n).map (fun i => readElem m e ((vs.look i).getD (.pass, .pass)).1)
  let bad := elems.any (fun v => match v with | .err _ => true | _ => false)
  let field := fun (v : Val) => match v with
    | .pass => 0
    | .err k => k.code
    | .data x => if bad then 0 else elemField m x
  let area := (elems.zipIdx).foldl (fun acc vi => acc + field vi.1 * 2 ^ (m * vi.2)) 0
  (if bad ∨ e = 255 then 255 else e) + 256 * area

/-- What `bunpack` finds in its image dwords (R174): an exponent and the token of each position. Of several error subkinds the one of
the first dword in order goes on (log 70). -/
def blockUnpack (m n : Nat) (dwords : List Val) : Nat × (Nat → Val) :=
  let errs := dwords.filterMap (fun v => match v with | .err k => some k | _ => none)
  if errs.contains .poison then (255, fun _ => .err .poison)
  else match errs with
    | k :: _ => (255, fun _ => .err k)
    | [] =>
      if dwords.contains .pass then (0, fun _ => .pass)
      else
        let img := fromLE (dwords.flatMap (fun v => bytesLE 8 v.bits.toNat))
        let e := img % 256
        (e, fun i =>
          let field := img / 256 / 2 ^ (m * (i % n)) % 2 ^ m
          if e = 255 then .err (fieldError field) else .data (BitVec.ofInt 64 (toSigned m field)))

/-- An element in an exact sum that an error element affects (R70): the IEEE image of an error, or the mantissa. -/
def imageOf (v : Val) : FVal :=
  match v with
  | .err .posInf => .inf false
  | .err .negInf => .inf true
  | .err _ => .nan false 0 22
  | v => .fin (decide (v.bits.toInt < 0)) v.bits.toInt.natAbs 0

/-- The contribution of one block to one output element (R69, R70): none is Poison. The pairs are the elements of each position,
read by R166. -/
def blockTerm (ma mb ea eb : Nat) (pairs : List (Val × Val)) : Option Nat :=
  let isErr := fun (v : Val) => match v with | .err _ => true | _ => false
  let terms := pairs.filter (fun p => p.1 != .pass && p.2 != .pass)
  if terms.any (fun p => p.1 == .err .poison || p.2 == .err .poison) then none
  else if terms.any (fun p => isErr p.1 || isErr p.2) then
    let ps := terms.map (fun p => mulVal (imageOf p.1) (imageOf p.2))
    let anyNan := terms.any (fun p => (imageOf p.1).isNan || (imageOf p.2).isNan)
    if anyNan ∨ ps.contains none then some (fmtOf .f32).nan
    else match sumVals .rne (ps.filterMap id) with
      | .inf neg => some ((fmtOf .f32).withSign neg (fmtOf .f32).inf)
      | _ => some (fmtOf .f32).nan
  else
    let sum : Int := terms.foldl (fun acc p => acc + p.1.bits.toInt * p.2.bits.toInt) 0
    some ((fmtOf .f32).round .rne (decide (sum < 0)) sum.natAbs
      ((ea : Int) + eb - 254 - (ma - 1 : Nat) - (mb - 1 : Nat)) false)

/-- One addition to a .f32 accumulator, rounded to nearest even (R69, R175). -/
def addF32 (acc v : Nat) : Nat :=
  (fmtOf .f32).deliver .rne (fAdd .rne ((fmtOf .f32).decode acc) ((fmtOf .f32).decode v))

/-! ### Meanings -/

/-- `bmax` (R168): the exponent of its block when the last position has come. -/
def execBmax (w : SlotWord) (s : State) : Host.Outcome State Fault Refusal :=
  let f := s.fire
  let x := (s.core f.core).block f.elem f.slot (blockTag w f.tag)
  let vals := x.vals.put (blockPos w f.tag) (s.opA f w, .pass)
  if w.blockLen ≤ x.fired + 1 then
    let e := chosenScale w.ty (vals.map (fun v => v.2.1))
    let s := s.onCore f.core (fun (c : Core) => c.freeBlock f.elem f.slot (blockTag w f.tag))
    .next ((s.sendScale f w 0 w.d0 e).sendScale f w 1 w.d1 e)
  else .next (s.onCore f.core (fun (c : Core) => c.setBlock { x with vals := vals, fired := x.fired + 1 }))

/-- `bscale` (R169). -/
def execBscale (w : SlotWord) (s : State) : Host.Outcome State Fault Refusal :=
  let f := s.fire
  let e := match s.opA f w with
    | .data x => min (readBits .n32 x) 254
    | .pass => 0
    | .err _ => 255
  if blockPos w f.tag = 0 then .next ((s.sendScale f w 0 w.d0 e).sendScale f w 1 w.d1 e) else .next s

/-- An element consumer with one scale (R166): a pass element fires at once, another waits for the scale. -/
def State.withScale (s : State) (opc : Nat) (w : SlotWord) (g : Nat → Val → Val) : State :=
  let f := s.fire
  match s.opA f w with
  | .pass => (s.emitBoth f w .pass).blockFired f opc w
  | a =>
    match f.s0 with
    | none => s.blockWait f w
    | some e => (s.emitBoth f w (g e.toNat a)).blockFired f opc w

/-- `bquant` (R170). -/
def execBquant (w : SlotWord) (s : State) : Host.Outcome State Fault Refusal :=
  .next (s.withScale 0x62 w (fun e a =>
    if e = 255 then .err .poison else match a with
      | .data x => quantise w.ty w.mantWidth e x
      | v => v))

/-- `bdequant` (R172). -/
def execBdequant (w : SlotWord) (s : State) : Host.Outcome State Fault Refusal :=
  .next (s.withScale 0x63 w (fun e a =>
    match readElem w.mantWidth e a with
    | .data x => .data (place w.ty ((fmtOf w.ty).deliver (s.fctx w) (mantValue w.mantWidth e x)))
    | v => v))

/-- `bpack` (R173). -/
def execBpack (w : SlotWord) (s : State) : Host.Outcome State Fault Refusal :=
  let f := s.fire
  let s := s.blockNote f w (s.opA f w) .pass
  let x := (s.core f.core).block f.elem f.slot (blockTag w f.tag)
  if x.go 0x64 w then
    let s := s.blockFired f 0x64 w
    let size := 1 + w.blockLen * w.mantWidth / 8
    let p := blockPos w f.tag
    if s.ended f ∨ imageDwords w ≤ p then .next (s.emitBoth f w .pass)
    else
      let img := blockImage w.mantWidth w.blockLen ((x.s0.getD 0).toNat) x.vals
      .next (s.emit2 f w (.data (BitVec.ofNat 64 (img / 2 ^ (64 * p)))) (.data (BitVec.ofNat 64 (min 8 (size - 8 * p)))))
  else .next (s.blockWait f w)

/-- `bunpack` (R174). -/
def execBunpack (w : SlotWord) (s : State) : Host.Outcome State Fault Refusal :=
  let f := s.fire
  let p := blockPos w f.tag
  let s := if p < imageDwords w then s.blockNote f w (s.opA f w) .pass else s
  let x := (s.core f.core).block f.elem f.slot (blockTag w f.tag)
  if x.go 0x65 w then
    let s := s.blockFired f 0x65 w
    let dwords := (List.range (imageDwords w)).map (fun i =>
      if s.ended f then Val.pass else ((x.vals.look i).getD (.pass, .pass)).1)
    let r := blockUnpack w.mantWidth w.blockLen dwords
    let s := s.send f 0 w.d0 false (if s.ended f then .pass else r.2 p) f.tag
    if p = 0 then .next (s.sendScale f w 1 w.d1 r.1) else .next s
  else .next (s.blockWait f w)

/-- `bdot` (R175). -/
def execBdot (w : SlotWord) (s : State) : Host.Outcome State Fault Refusal :=
  let f := s.fire
  let n := w.blockLen
  let ma := w.mantWidth
  let mb := w.immBits 18 16 + 1
  let acc := s.opC f w
  let s := s.blockNote f w (s.opA f w) (s.opB f w)
  if blockPos w f.tag + 1 < n then .next ((s.emitBoth f w acc).blockFired f 0x66 w)
  else
    let x := (s.core f.core).block f.elem f.slot (blockTag w f.tag)
    if x.go 0x66 w then
      let s := s.blockFired f 0x66 w
      let ea := (x.s0.getD 0).toNat
      let eb := (x.s1.getD 0).toNat
      let pairs := (List.range n).map (fun i =>
        let v := (x.vals.look i).getD (.pass, .pass)
        (readElem ma ea v.1, readElem mb eb v.2))
      match acc, blockTerm ma mb ea eb pairs with
      | .pass, _ => .next (s.emitBoth f w .pass)
      | .err k, none => .next (s.emitBoth f w (.err (if k = .poison then k else .poison)))
      | .data _, none => .next (s.emitBoth f w (.err .poison))
      | .err k, some _ => .next (s.emitBoth f w (.err k))
      | .data a, some v => .next (s.emitBoth f w (.data (place .f32 (addF32 (readBits .f32 a) v))))
    else .next (s.blockWait f w)

/-- `bsfwd` (R176): the element side; a scale is forwarded at its arrival. -/
def execBsfwd (w : SlotWord) (s : State) : Host.Outcome State Fault Refusal :=
  .next (s.send s.fire 1 w.d1 false (s.opA s.fire w) s.fire.tag)

end Sys2Proof.Machine
end

