-- ==== Sys2Proof/Machine/Groups.lean ====
section
/-! DEFINITION. Groups of lanes (spec 07 R205, R206), reductions and scans (02 R71 to R74), expansion contexts (07 R217, R218,
R221, R222; 11 R340): what the gang-exchange and expand units do when a group fires. -/

namespace Sys2Proof.Machine

/-! ### Reductions (R71 to R74, R213) -/

/-- Integer result of a reduction operation (R85, R214). -/
def reduceInt (op : Nat) (t : Ty) (x y : Dword) : Val :=
  let a := readInt t x
  let b := readInt t y
  match op with
  | 0 => intVal t (a + b)
  | 1 => intVal t (min a b)
  | 2 => intVal t (max a b)
  | 3 => bitsVal t (readBits t x &&& readBits t y)
  | 4 => bitsVal t (readBits t x ||| readBits t y)
  | _ => bitsVal t (readBits t x ^^^ readBits t y)

/-- Float result of a reduction operation, rounded once. -/
def reduceFloat (op : Nat) (t : Ty) (c : FCtx) (x y : Dword) : Val :=
  let a := readF c (fmtOf t) (readBits t x)
  let b := readF c (fmtOf t) (readBits t y)
  bitsVal t ((fmtOf t).deliver c (if op = 0 then fAdd c a b else fPick (op == 2) a b))

/-- Two entries combined (R71): an empty entry takes part without arithmetic; error tokens by R34. -/
def comb (op : Nat) (t : Ty) (c : FCtx) (x y : Option Val) : Option Val :=
  match x, y with
  | none, y => y
  | x, none => x
  | some x, some y =>
    match joinKinds [x, y] with
    | some v => some v
    | none => some (if t.isFloat then reduceFloat op t c x.bits y.bits else reduceInt op t x.bits y.bits)

/-- One level of the pairwise tree. -/
def pairUp (f : Option Val → Option Val → Option Val) : List (Option Val) → List (Option Val)
  | x :: y :: l => f x y :: pairUp f l
  | l => l

/-- The pairwise tree (R71). -/
def treeOf (f : Option Val → Option Val → Option Val) : Nat → List (Option Val) → Option Val
  | _, [] => none
  | _, [x] => x
  | 0, _ => none
  | fuel + 1, l => treeOf f fuel (pairUp f l)

/-- The inclusive scan (R72). -/
def scanOf (f : Option Val → Option Val → Option Val) : Nat → Nat → List (Option Val) → List (Option Val)
  | 0, _, v => v
  | fuel + 1, d, v =>
    if v.length ≤ d then v
    else scanOf f fuel (2 * d) (v.take d ++ List.zipWith f v (v.drop d))

/-- Identity of an operation (R213). -/
def identityOf (op : Nat) (t : Ty) : Val :=
  if t.isFloat then
    bitsVal t (match op with | 0 => 0 | 1 => (fmtOf t).inf | _ => (fmtOf t).withSign true (fmtOf t).inf)
  else
    match op with
    | 1 => bitsVal t (if t.signed then 2 ^ (t.width - 1) - 1 else 2 ^ t.width - 1)
    | 2 => bitsVal t (if t.signed then 2 ^ (t.width - 1) else 0)
    | 3 => bitsVal t (2 ^ t.width - 1)
    | _ => .data 0

/-! ### Lanes -/

/-- The span of an id; a blank one when it has gone. -/
def Core.span (c : Core) (id : Nat) : Span := (c.spanOf id).getD ⟨id, 0, 0, 16, 1, []⟩

/-- The thread of a lane has left its span (R205): its tokens have been discarded. -/
def Core.laneLeft (c : Core) (p : Span) (i : Nat) : Bool :=
  match p.members[i]? with
  | none => true
  | some t => (c.thread t).span != p.id || !((c.thread t).state == .inload || (c.thread t).state == .faulted)

/-- A lane receives nothing from a group: its thread has left the load since its instance came (R139 step 5). -/
def Group.silent (g : Group) (i : Nat) : Bool := g.left.contains i

/-- The instance of a lane in a group. -/
def Group.firing (g : Group) (k : Nat) (p : Span) (i : Nat) : Firing :=
  { Firing.none with
    core := k, elem := g.elem, slot := g.slot, tag := ⟨BitVec.ofNat 13 ((p.members[i]?).getD 0), g.out, g.inn⟩ }

/-- Operands of a lane that is active. -/
def Group.act (g : Group) (i : Nat) : Option (Val × Val) :=
  match g.lanes.look i with
  | some (.active a b) => some (a, b)
  | _ => none

/-- Width of an exchange (R206). -/
def laneWidth (w : SlotWord) (p : Span) : Nat := if w.span then p.g * p.s else p.g

/-- What a group gives: faults by lane, and the two tokens of each other active lane. -/
structure GroupOut where
  bad : List (Nat × Nat)
  res : Nat → Val × Val

/-- Lane operand of `shfl` and `lpush` (R209, R210): a lane number, or the fault. -/
def laneOperand (b : Val) : Except Nat Nat :=
  match b with
  | .err .poison => .error 0x20
  | .err _ => .error 0x61
  | v => .ok v.bits.toNat

/-- `shfl` (R209). -/
def Group.shfl (g : Group) (w : SlotWord) (p : Span) : GroupOut :=
  let wd := laneWidth w p
  let idx := w.mod == 0
  let bad := (List.range (p.g * p.s)).filterMap (fun i =>
    match g.act i with
    | none => none
    | some (_, b) => match laneOperand b with
      | .error e => some (i, e)
      | .ok j => if idx ∧ wd ≤ j then some (i, 0x61) else none)
  let good := fun (i : Nat) => (g.act i).isSome && (bad.lookup i).isNone
  { bad := bad
    res := fun i =>
      let l := i % wd
      let base := i - l
      let b : Nat := ((g.act i).map (fun v => v.2.bits.toNat)).getD 0
      let j : Int := match w.mod.toNat with
        | 0 => b
        | 1 => (l : Int) - b
        | 2 => (l : Int) + b
        | _ => ((Nat.xor l b : Nat) : Int)
      let src := if 0 ≤ j ∧ j < wd ∧ good (base + j.toNat) then base + j.toNat else i
      let v := ((g.act src).map (fun v => v.1)).getD .pass
      (v, v) }

/-- `lpush` (R210). -/
def Group.lpush (g : Group) (w : SlotWord) (p : Span) : GroupOut :=
  let wd := laneWidth w p
  let lanes := List.range (p.g * p.s)
  let bad := lanes.filterMap (fun i =>
    match g.act i with
    | none => none
    | some (_, b) => match laneOperand b with
      | .error e => some (i, e)
      | .ok j => if wd ≤ j then some (i, 0x61) else none)
  { bad := bad
    res := fun i =>
      let l := i % wd
      let senders := lanes.filter (fun j =>
        j - j % wd == i - l && (bad.lookup j).isNone && ((g.act j).map (fun v => v.2.bits.toNat)) == some l)
      let v := match senders.getLast? with
        | some j => ((g.act j).map (fun v => v.1)).getD .pass
        | none => .pass
      (v, .data (flag (decide (2 ≤ senders.length)))) }

/-- Lanes of a lane's own width, by index. -/
def laneSegment (wd i : Nat) : List Nat := (List.range wd).map (fun l => i - i % wd + l)

/-- `vote` (R211). -/
def Group.vote (g : Group) (w : SlotWord) (p : Span) : GroupOut :=
  let wd := laneWidth w p
  { bad := []
    res := fun i =>
      match g.act i with
      | some (.err k, _) => (.err k, .err k)
      | _ =>
        let conds := (laneSegment wd i).zipIdx.filterMap (fun jl =>
          match g.act jl.1 with
          | some (.data x, _) => some (jl.2, x != 0)
          | _ => none)
        let r : Dword := match w.mod.toNat with
          | 0 => flag (conds.any (fun c => c.2))
          | 1 => flag (conds.all (fun c => c.2))
          | _ => BitVec.ofNat 64 (conds.foldl (fun m c => if c.2 then m + 2 ^ c.1 else m) 0)
        (.data r, .data r) }

/-- `gbcast` (R212). -/
def Group.gbcast (g : Group) (w : SlotWord) (p : Span) : GroupOut :=
  { bad := []
    res := fun i =>
      let v := ((g.act (i - i % laneWidth w p + w.immBits 7 0)).map (fun v => v.1)).getD .pass
      (v, v) }

/-- Two A tokens of `gmatch` are equal (R212). -/
def sameToken (t : Ty) (x y : Val) : Bool :=
  match x, y with
  | .data a, .data b => readBits t a == readBits t b
  | .err a, .err b => a == b
  | _, _ => false

/-- `gmatch` (R212). -/
def Group.gmatch (g : Group) (w : SlotWord) (p : Span) : GroupOut :=
  { bad := []
    res := fun i =>
      let own := ((g.act i).map (fun v => v.1)).getD .pass
      let m := (laneSegment (laneWidth w p) i).zipIdx.foldl (fun m jl =>
        match g.act jl.1 with
        | some (v, _) => if sameToken w.ty own v then m + 2 ^ jl.2 else m
        | none => m) 0
      (.data (BitVec.ofNat 64 m), .data (BitVec.ofNat 64 m)) }

/-- Float context of the lane that a result is delivered to (R74). -/
def Core.laneCtx (c : Core) (w : SlotWord) (p : Span) (i : Nat) : FCtx :=
  SlotWordCtx w (c.thread ((p.members[i]?).getD 0)).latch

/-- `gred` (R214). -/
def Group.gred (g : Group) (w : SlotWord) (p : Span) (c : Core) : GroupOut :=
  { bad := []
    res := fun i =>
      let v := (laneSegment (laneWidth w p) i).map (fun j => (g.act j).map (fun v => v.1))
      let r := (treeOf (comb w.redOp w.ty (c.laneCtx w p i)) 9 v).getD (identityOf w.redOp w.ty)
      (r, r) }

/-- `gscan` (R215): IMM[17] selects the exclusive form. Under `.sat` an identity of R213, or a lone lane's infinity that no arithmetic
touches, is delivered as it is (DESIGN CHOICE between R56 and R71, R72 and R213; log 78). -/
def Group.gscan (g : Group) (w : SlotWord) (p : Span) (c : Core) : GroupOut :=
  { bad := []
    res := fun i =>
      let wd := laneWidth w p
      let v := (laneSegment wd i).map (fun j => (g.act j).map (fun v => v.1))
      let done := scanOf (comb w.redOp w.ty (c.laneCtx w p i)) 9 1 v
      let l := i % wd
      let r := if natBit w.imm.toNat 17 then (if l = 0 then none else (done[l - 1]?).join) else (done[l]?).join
      let r := r.getD (identityOf w.redOp w.ty)
      (r, r) }

/-! ### Expansion -/

/-- The `xround` that D0 of an `xbegin` feeds (R222). -/
def Load.xroundOf (l : Load) (b : Nat) : Option Nat :=
  let front := (l.dsts b).filterMap (fun d => if d.1 = 0 then dstNode d.2 else none)
  let stop := fun n => l.opc n == some 0xC8 || l.opc n == some 0xC7
  ((reach l.succs stop l.fuel front []).reverse).find? (fun n => l.opc n == some 0xC8)

/-- The `xbegin` whose D0 feeds an `xround`. -/
def Load.xbeginOfRound (l : Load) (h : Nat) : Option Nat :=
  l.nodes.find? (fun b => l.opc b == some 0xC7 && l.xroundOf b == some h)

/-- The `xbegin` that an `xend` closes (R222): the one from which it is reached before any other `xbegin` or `xend`. -/
def Load.xbeginOfEnd (l : Load) (e : Nat) : Option Nat :=
  let stop := fun n => l.opc n == some 0xC7 || l.opc n == some 0xCA
  l.nodes.find? (fun b => l.opc b == some 0xC7 && (reach l.succs stop l.fuel (l.succs b) []).contains e)

/-- The `xsegred` in the body of an `xround` loop (R222). -/
def Load.xsegredOf (l : Load) (h : Nat) : Option Nat := (l.body h).find? (fun n => l.opc n == some 0xC9)

/-- Item entries that a context takes: n·W (R340). -/
def Core.itemEntries (c : Core) (b n : Nat) : Nat :=
  n * (((c.load.xroundOf b).bind c.load.fields).map SlotWord.window).getD 1

/-- Present lanes of a span (R27). -/
def Span.count (p : Span) : Nat := p.members.length

/-- A context and its item entries are free (R222, R340). -/
def Core.roomForX (c : Core) (b : Nat) (p : Span) : Bool :=
  let used := c.xctxs.foldl (fun n (x : XCtx) => n + c.itemEntries (16 * x.elem + x.slot) x.n) 0
  decide (c.xctxs.length < 16) && decide (used + c.itemEntries b p.count ≤ 16384)

/-- Start and length of a lane of `xbegin` (R218). -/
def Group.lenOf (g : Group) (i : Nat) : Nat × Nat :=
  match g.act i with
  | some (.data a, .data b) => (a.toNat, b.toNat % 2 ^ 32)
  | _ => (0, 0)

/-- `xbegin` fires (R218). -/
def State.fireXbegin (s : State) (k : Nat) (g : Group) (w : SlotWord) : State :=
  let c := s.core k
  let p := c.span g.span
  let n := p.count
  let lanes := List.range n
  let poisoned := lanes.filter (fun i =>
    match g.act i with
    | some (a, b) => a == .err .poison || b == .err .poison
    | none => false)
  let lens := lanes.map (fun i => (g.lenOf i).2)
  let total := lens.foldl (· + ·) 0
  let s := poisoned.foldl (fun s i => if g.silent i then s else s.commit (s.stamp (g.firing k p i)) 0x20 .none none 0) s
  let tooMany := decide (2 ^ 32 ≤ total)
  let s := if tooMany then
      (lanes.filter (fun i => (g.lenOf i).2 ≠ 0 ∧ !g.silent i)).foldl (fun s i =>
        s.commit (s.stamp (g.firing k p i)) 0x60 .none none 0)
        (s.onCore k (fun (c : Core) => { c with overflows := c.overflows ++ [(g.span, 16 * g.elem + g.slot)] }))
    else s.onCore k (fun (c : Core) =>
      let x : XCtx := {
        id := c.nextCtx, span := g.span, elem := g.elem, slot := g.slot, n := n, total := total
        starts := lanes.map (fun i => (g.lenOf i).1), lens := lens, items := []
        fin := [], rounds := 0, part := [] }
      { c with xctxs := c.xctxs ++ [x], nextCtx := c.nextCtx + 1 })
  let v : Val := if tooMany then .pass else .data (BitVec.ofNat 64 total)
  lanes.foldl (fun s i =>
    match g.lanes.look i with
    | none => s
    | some .gone => s
    | some _ => if g.silent i || (s.thread k ((p.members[i]?).getD 0)).state == .faulted then s
                else s.emit2 (g.firing k p i) w v v) s

/-- The expansion context of a span under an `xend`. -/
def Core.ctxOfEnd (c : Core) (span e : Nat) : Option XCtx :=
  (c.load.xbeginOfEnd e).bind (fun b => c.xctxs.find? (fun (x : XCtx) => x.span == span && 16 * x.elem + x.slot == b))

/-- The `xbegin` of a span under an `xend` has fired and taken no context, because of 0x60 (R218). -/
def Core.overflowed (c : Core) (span e : Nat) : Bool :=
  ((c.load.xbeginOfEnd e).map (fun b => c.overflows.contains (span, b))).getD false

/-- A thread has no token left but those in groups and those that wait for others. -/
def State.idleBut (s : State) (k t : Nat) : Bool :=
  let c := s.core k
  let mine := fun (f : Firing) => f.core == k && f.thread == t && !f.mute
  !(c.flights.any (fun (x : Flight) => x.tag.slot.toNat == t) || c.rq.any mine || s.ready.any mine || s.issued.any mine ||
    c.mxSent.any (fun (m : MxCtl) => mine m.f) || (s.tileReqsOf k).any (fun (r : TileReq) => mine r.f) ||
    c.misses.any (fun (m : L1Miss) => mine m.f) || c.parked.any (fun (x : Parked) => mine x.f))

/-- A thread's tokens have drained: none is in flight, ready, at a unit that answers, waiting for credit or in a group. -/
def State.drained (s : State) (k t : Nat) : Bool :=
  let c := s.core k
  s.idleBut k t && !c.groups.any (fun (g : Group) =>
    let p := c.span g.span
    (List.range p.count).any (fun i => p.members[i]? == some t && (g.lanes.look i).isSome && !g.silent i))

/-- Every processing lane's loop has finished (R221): a lane that has left or that has faulted and holds no token outside groups
counts as finished. -/
def State.lanesFinished (s : State) (k : Nat) (p : Span) (x : XCtx) : Bool :=
  (List.range p.count).all (fun i =>
    x.fin.contains i || (s.core k).laneLeft p i ||
      ((s.thread k ((p.members[i]?).getD 0)).dead && s.idleBut k ((p.members[i]?).getD 0)))

/-- What `xend` gives a lane (R221): its owner's result and status. -/
def XCtx.result (x : XCtx) (i : Nat) (red : Option SlotWord) (c : FCtx) : Val × Val :=
  let len := (x.lens[i]?).getD 0
  match red with
  | none => (.pass, .data (BitVec.ofNat 64 (len % 2 ^ 31)))
  | some r =>
    let base := prefixOf x.lens i
    let item := fun j => x.items.find? (fun (y : XItem) => y.f == base + j)
    let u := (List.range len).map (fun j => (item j).bind XItem.val)
    let f := comb r.redOp r.ty c
    let part := x.part.look i
    let v := if r.xf.getLsbD 0 then treeOf f 33 u else u.foldl f (part.map (fun p => p.1))
    let incomplete := (List.range len).any (fun j => ((item j).map XItem.bad).getD true) || part.any (fun p => p.2.2)
    let count := u.countP Option.isSome + part.elim 0 (fun p => p.2.1)
    (v.getD (identityOf r.redOp r.ty), .data (BitVec.ofNat 64 (count % 2 ^ 31 + if incomplete then 2 ^ 31 else 0)))

/-- Tokens of the lanes of a fired group (R205). -/
def State.giveLanes (s : State) (k : Nat) (g : Group) (w : SlotWord) (p : Span) (o : GroupOut) : State :=
  let s := o.bad.foldl (fun s b => if g.silent b.1 then s else s.commit (s.stamp (g.firing k p b.1)) b.2 .none none 0) s
  (List.range p.count).foldl (fun s i =>
    let f := g.firing k p i
    if g.silent i then s else
    match g.lanes.look i with
    | some (.active _ _) => if (o.bad.lookup i).isSome then s else s.emit2 f w (o.res i).1 (o.res i).2
    | some .inactive => s.emitBoth f w .pass
    | some (.predError e) => s.emitBoth f w (.err e)
    | _ => s) s

/-- `xend` fires (R221): a group that took no context receives pass tokens. -/
def State.fireXend (s : State) (k : Nat) (g : Group) (w : SlotWord) : State :=
  let c := s.core k
  let p := c.span g.span
  match c.ctxOfEnd g.span (16 * g.elem + g.slot) with
  | none =>
    let s := s.onCore k (fun (c : Core) => { c with overflows := c.overflows.filter (fun x => x != (g.span, (c.load.xbeginOfEnd (16 * g.elem + g.slot)).getD 0)) })
    s.giveLanes k g w p ⟨[], fun _ => (.pass, .pass)⟩
  | some x =>
    let red := ((c.load.xroundOf (16 * x.elem + x.slot)).bind c.load.xsegredOf).bind c.load.fields
    let res := fun i => x.result i red (((red.map (fun r => c.laneCtx r p i))).getD .rne)
    let s := s.giveLanes k g w p ⟨[], res⟩
    s.onCore k (fun (c : Core) => { c with xctxs := c.xctxs.filter (fun (y : XCtx) => y.id != x.id) })

/-! ### Groups -/

/-- Two groups are one (R205). -/
def Group.same (g h : Group) : Bool :=
  g.elem == h.elem && g.slot == h.slot && g.out == h.out && g.inn == h.inn && g.span == h.span

/-- A group can fire (R205, R218, R221): an `xend` waits until its `xbegin` has fired, and then for the lanes' loops. -/
def State.groupReady (s : State) (k : Nat) (g : Group) : Bool :=
  let c := s.core k
  let p := c.span g.span
  let n := 16 * g.elem + g.slot
  (List.range p.count).all (fun i => (g.lanes.look i).isSome || c.laneLeft p i) &&
    (match c.load.opc n with
     | some 0xC7 =>
       decide (2 ^ 32 ≤ (List.range p.count).foldl (fun t i => t + (g.lenOf i).2) 0) || c.roomForX n p
     | some 0xCA =>
       match c.ctxOfEnd g.span n with
       | none => c.overflowed g.span n
       | some x => s.lanesFinished k p x
     | _ => true)

/-- A group fires. -/
def State.fireGroup (s : State) (k : Nat) (g : Group) : State :=
  let c := s.core k
  let p := c.span g.span
  let n := 16 * g.elem + g.slot
  let s := s.onCore k (fun (c : Core) => { c with groups := c.groups.filter (fun (h : Group) => !h.same g) })
  match c.load.opc n, c.load.fields n with
  | some 0xC7, some w => s.fireXbegin k g w
  | some 0xCA, some w => s.fireXend k g w
  | some o, some w =>
    s.giveLanes k g w p (match o with
      | 0xC0 => g.shfl w p
      | 0xC1 => g.lpush w p
      | 0xC2 => g.vote w p
      | 0xC3 => g.gscan w p c
      | 0xC4 => g.gred w p c
      | 0xC5 => g.gbcast w p
      | _ => g.gmatch w p)
  | _, _ => s

/-- A group fires if it can. -/
def State.tryGroup (s : State) (k : Nat) (g : Group) : State := if s.groupReady k g then s.fireGroup k g else s

/-- Some group of a core can fire. -/
def State.groupsCan (s : State) (k : Nat) : Bool := (s.core k).groups.any (s.groupReady k)

/-- Every group of a core that can fire does; an `xend` may let an `xbegin` go (R222). -/
def State.groupsGo (s : State) (k : Nat) : State :=
  let s := (s.core k).groups.foldl (fun s g => s.tryGroup k g) s
  (s.core k).groups.foldl (fun s g => s.tryGroup k g) s

/-- A lane's instance reaches its group (R205). -/
def State.groupIn (s : State) (f : Firing) (x : LaneIn) : State :=
  let c := s.core f.core
  let th := s.ft f
  let blank : Group := ⟨f.elem, f.slot, f.tag.out, f.tag.inn, th.span, [], []⟩
  let g := (c.groups.find? (fun (h : Group) => h.same blank)).getD blank
  let g := { g with lanes := g.lanes.put th.lane x }
  let s := s.setCore f.core { c with groups := c.groups.filter (fun (h : Group) => !h.same g) ++ [g] }
  s.groupsGo f.core

/-- An instance of a gang slot (R205): `vs` are the operands that it reads, A and B first. Its class and operands stay as they are read
now, also where its thread becomes FAULTED before the group fires (DEDUCED, log 82). -/
def State.gang (s : State) (w : SlotWord) (vs : List Val) : State :=
  let f := s.fire
  match s.go f w with
  | .skip => s.groupIn f .inactive
  | .stop k => s.groupIn f (.predError k)
  | .poison => (s.commit f 0x20 .none none 0).groupIn f .gone
  | .fire =>
    if vs.contains .pass then s.groupIn f .inactive
    else s.groupIn f (.active ((vs[0]?).getD .pass) ((vs[1]?).getD .pass))

end Sys2Proof.Machine
end

