-- ==== Sys2Proof/Machine/Loops.lean ====
section
/-! DEFINITION. Resident loops (spec 04 R132 to R138; 05 R164; 07 R219; 11 R323): headers, `ltail`, `lexit`, and the issue of
iterations. An `ltail` hands its value to its header in the step in which it fires (log 3). -/

namespace Sys2Proof.Machine

/-! ### Instances -/

/-- Node of a loop's header. -/
def LoopInst.node (i : LoopInst) : Nat := 16 * i.elem + i.slot

/-- Two loop instances are one: header, thread and outer iteration. -/
def LoopInst.same (i j : LoopInst) : Bool := i.node == j.node && i.thread == j.thread && i.out == j.out

/-- The core with one loop instance replaced. -/
def Core.setLoop (c : Core) (i : LoopInst) : Core :=
  { c with loops := c.loops.map (fun (j : LoopInst) => if j.same i then i else j) }

/-- The instance of a header for a tag. -/
def Core.loopAt (c : Core) (h : Nat) (tag : Tag) : Option LoopInst :=
  c.loops.find? (fun (i : LoopInst) =>
    i.node == h && i.thread == tag.slot.toNat && (i.level == 0 || i.out == tag.out))

/-- A tag with a loop's field set. -/
def loopTag (level thread : Nat) (out : BitVec 6) (field : Nat) : Tag :=
  if level = 1 then ⟨BitVec.ofNat 13 thread, out, BitVec.ofNat 6 field⟩
  else ⟨BitVec.ofNat 13 thread, BitVec.ofNat 6 field, 0⟩

/-- The loop's field of a tag. -/
def loopField (level : Nat) (tag : Tag) : Nat := if level = 1 then tag.inn.toNat else tag.out.toNat

/-- A firing that stands for a header's own emissions. -/
def LoopInst.firing (i : LoopInst) (k field : Nat) : Firing :=
  { Firing.none with core := k, elem := i.elem, slot := i.slot, tag := loopTag i.level i.thread i.out field }

/-- A loop whose header emits carried values on D1 (R133). -/
def LoopInst.carries? (i : LoopInst) : Bool := i.carried.isSome

/-! ### Finishing (R136) -/

/-- What a node sends on D0 and D1 with a tag of its own. -/
def State.emitAt (s : State) (k n : Nat) (tag : Tag) (v : Val) : State :=
  match (s.core k).load.fields n with
  | some w => s.emitBoth { Firing.none with core := k, elem := n / 16, slot := n % 16, tag := tag } w v
  | none => s

/-- A finished lane of an expansion (R221). -/
def State.laneFinished (s : State) (k id lane : Nat) : State :=
  (s.onCore k (fun (c : Core) => { c with
    xctxs := c.xctxs.map (fun (x : XCtx) => if x.id = id then { x with fin := insertNat x.fin lane } else x) })).groupsGo k

/-- A loop instance whose issuing has ended and whose iterations have all fired `ltail` finishes (R136). The token of its `lexit` leaves
then, since it descends from every `ltail` (R43); the instance's place is kept while the `lexit` of its last iteration has not
fired (R135). -/
def State.loopFinish (s : State) (k : Nat) (i : LoopInst) : State :=
  if i.finished || (i.t < i.n && !i.stop) || i.tails.length < i.t then s
  else
    let c := s.core k
    let isX := c.load.opc i.node == some 0xC8
    let f := i.firing k 0
    let waits := (c.load.lexitOf i.node).isSome && decide (0 < i.n) && i.left.isNone
    let s := s.setCore k (if waits then c.setLoop { i with finished := true }
      else { c with loops := c.loops.filter (fun (j : LoopInst) => !j.same i) })
    let s := match c.load.fields i.node with
      | some w => if isX || i.carries? then s else s.send f 1 w.d1 false (.data (BitVec.ofNat 64 i.t)) f.tag
      | none => s
    let s := if i.n = 0 then
        match c.load.lexitOf i.node with
        | some x => s.emitAt k x f.tag (i.carried.getD .pass)
        | none => s
      else match c.load.lexitOf i.node, i.left with
        | some x, some v => s.emitAt k x f.tag v
        | _, _ => s
    match i.ctx with
    | some id => s.laneFinished k id i.lane
    | none => s

/-! ### Issue (R133, R164, R323) -/

/-- Unit in which a header takes iteration budget (R323): a block, a round of the span, or one. -/
def Core.loopUnit (c : Core) (i : LoopInst) : Nat :=
  if i.ctx.isSome then
    let p := c.span (c.thread i.thread).span
    p.g * p.s
  else if i.block = 0 then 1 else i.block

/-- Iteration t of an instance has not fired `ltail` and still will: it is issued and its thread's tokens have not drained, or it is
still to be issued (R323). -/
def State.iterOpen (s : State) (k : Nat) (i : LoopInst) (t : Nat) : Bool :=
  let dead := (s.thread k i.thread).dead
  !i.tails.contains t && !(dead && s.drained k i.thread) &&
    (decide (t < i.t) || (decide (t < i.n) && !i.stop && !dead))

/-- A lane of an expansion still has to fire `ltail` in a round. -/
def State.roundOpen (s : State) (k h : Nat) (x : XCtx) (p : Span) (t lane : Nat) : Bool :=
  let c := s.core k
  match c.loops.find? (fun (i : LoopInst) => i.node == h && i.ctx == some x.id && i.lane == lane) with
  | some i => s.iterOpen k i t
  | none =>
    let slot := (p.members[lane]?).getD 0
    !(x.fin.contains lane || c.laneLeft p lane || ((c.thread slot).dead && s.drained k slot))

/-- The reservation unit in which an iteration of an instance stands (R323): thread, outer iteration and block; a round of an expansion
is one unit of its span. -/
def Core.unitKey (c : Core) (i : LoopInst) (t : Nat) : Nat × Nat × Nat :=
  if i.ctx.isSome then (8192 + (c.thread i.thread).span, 0, t)
  else (i.thread, i.outT, if i.block = 0 then t else t / i.block)

/-- A round of an expansion holds budget: some lane's iteration of it has not fired `ltail` (R323). -/
def State.roundUnit (s : State) (k h : Nat) (x : XCtx) (t : Nat) : Bool :=
  let p := (s.core k).span x.span
  (List.range p.count).any (s.roundOpen k h x p t)

/-- The unit of an issued iteration outside expansions holds budget: some iteration of the unit has not fired `ltail` (R323). -/
def State.unitOpen (s : State) (k : Nat) (i : LoopInst) (t : Nat) : Bool :=
  if i.block = 0 then s.iterOpen k i t
  else (List.range i.block).any (fun j => s.iterOpen k i (t / i.block * i.block + j))

/-- Units of a header that hold budget: those of its instances, and the rounds that some lane of an expansion has begun (R323). -/
def State.loopUnits (s : State) (k h : Nat) : List (Nat × Nat × Nat) :=
  let c := s.core k
  ((c.loops.filter (fun (i : LoopInst) => i.node == h && i.ctx.isNone)).flatMap (fun (i : LoopInst) =>
    ((List.range i.t).filter (s.unitOpen k i)).map (c.unitKey i))).dedup ++
    (c.xctxs.filter (fun (x : XCtx) => c.load.xroundOf (16 * x.elem + x.slot) == some h)).flatMap (fun (x : XCtx) =>
      ((List.range x.rounds).filter (s.roundUnit k h x)).map (fun t => (8192 + x.span, 0, t)))

/-- The budget admits the next iteration of an instance (R323): its unit is reserved already, or fits. -/
def State.budgetAdmits (s : State) (k : Nat) (i : LoopInst) : Bool :=
  let c := s.core k
  let units := s.loopUnits k i.node
  units.contains (c.unitKey i i.t) || decide ((units.length + 1) * c.loopUnit i ≤ c.load.budget)

/-- The window admits the next iteration (R36, R164). -/
def LoopInst.windowAdmits (i : LoopInst) : Bool :=
  decide (i.t < i.window) ||
    (if i.block = 0 then i.tails.contains (i.t - i.window)
     else (List.range i.block).all (fun j => i.tails.contains ((i.t - i.window) / i.block * i.block + j)))

/-- The break condition admits the next iteration (R133). -/
def LoopInst.breakAdmits (i : LoopInst) : Bool :=
  decide (i.t = 0) || !i.exitCond || i.exits.contains (i.t - 1)

/-- Everything but the window and the channels admits the next iteration (R138). -/
def State.mayIssue (s : State) (k : Nat) (i : LoopInst) : Bool :=
  decide (i.t < i.n) && !i.stop && i.breakAdmits && !(s.thread k i.thread).dead && s.budgetAdmits k i

/-- The channels to which a header sends an iteration's tokens have room (R330). -/
def State.iterRoom (s : State) (k : Nat) (i : LoopInst) : Bool :=
  match (s.core k).load.opc i.node, (s.core k).load.fields i.node with
  | some o, some w =>
    let all := (dstsOf o w).filter (fun d => decide (d.1 = 0) || i.ctx.isSome || (i.carries? && decide (i.t = 0 || i.tails.contains (i.t - 1))))
    all.all (fun d => s.dstRoom (i.firing k (i.t % 64)) all d)
  | _, _ => true

/-- The next iteration can issue. -/
def State.canIssue (s : State) (k : Nat) (i : LoopInst) : Bool := s.mayIssue k i && i.windowAdmits && s.iterRoom k i

/-- Tokens of iteration t on D0 and D1 (R133, R219); D1 of a carried loop follows apart. -/
def Core.iterTokens (c : Core) (i : LoopInst) : Val × Option Val :=
  match i.ctx.bind (fun id => c.xctxs.find? (fun (x : XCtx) => x.id == id)) with
  | some x =>
    let f := i.t * x.n + i.lane
    if f < x.total then
      let o := x.ownerOf f
      let t := ((c.load.fields i.node).map (fun w => w.ty)).getD .n32
      (bitsVal t ((x.starts[o]?).getD 0 + (f - prefixOf x.lens o)), some (.data (BitVec.ofNat 64 (f + o * 2 ^ 32))))
    else (.pass, some .pass)
  | none => (.data (BitVec.ofNat 64 ((i.items[i.t]?).getD i.t)), none)

/-- The carried value of an iteration (R133), when it has come. -/
def LoopInst.carryOf (i : LoopInst) (t : Nat) : Option Val := if t = 0 then i.carried else i.carries.look (t - 1)

/-- The round of an expansion that an instance's next iteration stands in has begun (R323). -/
def Core.beginRound (c : Core) (i : LoopInst) : Core :=
  { c with xctxs := c.xctxs.map (fun (x : XCtx) => if i.ctx = some x.id then { x with rounds := max x.rounds (i.t + 1) } else x) }

/-- Issue the next iteration of an instance. -/
def State.issueIter (s : State) (k : Nat) (i : LoopInst) : State :=
  let c := s.core k
  let f := i.firing k (i.t % 64)
  let s := s.setCore k ((c.setLoop { i with t := i.t + 1 }).beginRound i)
  match c.load.fields i.node with
  | none => s
  | some w =>
    let v := c.iterTokens i
    let s := s.send f 0 w.d0 false v.1 f.tag
    match v.2 with
    | some o => s.send f 1 w.d1 false o f.tag
    | none =>
      if i.carries? then
        match i.carryOf i.t with
        | some x => s.send f 1 w.d1 false x f.tag
        | none => s
      else s

/-- The instance of a header that issues next: the lowest slot first (R133). -/
def State.nextIssue (s : State) (k h : Nat) : Option LoopInst :=
  let can := (s.core k).loops.filter (fun (i : LoopInst) => i.node == h && s.canIssue k i)
  match can with
  | [] => none
  | i :: l => some (l.foldl (fun a b => if b.thread < a.thread ∨ (b.thread = a.thread ∧ b.outT < a.outT) then b else a) i)

/-- LOOP_ISSUE of one header: up to 8 iterations (R133). -/
def State.issueLoop (s : State) (k h : Nat) : Nat → State
  | 0 => s
  | n + 1 =>
    match s.nextIssue k h with
    | none => s
    | some i => (s.issueIter k i).issueLoop k h n

/-! ### Starting (R133) -/

/-- A slot of a loop's body names a matrix feed (R228). -/
def Load.feedsIsland (l : Load) (h : Nat) : Bool :=
  (l.body h).any (fun n => l.innermost n == some h &&
    (l.dsts n).any (fun d => d.2 == .island .mxa || d.2 == .island .mxb))

/-- Start a loop instance: n iterations, with the set-bit indices of `lsparse` and the carried value (R133, R164, R228). -/
def State.startLoop (s : State) (f : Firing) (w : SlotWord) (n : Nat) (items : List Nat) (carried : Option Val)
    (ctx : Option Nat) : State :=
  let c := s.core f.core
  let h := f.node
  let block := c.load.blockOf h
  if (block ≠ 0 ∧ n % block ≠ 0) ∨ (c.load.feedsIsland h ∧ n % 64 ≠ 0) then s.commit f 0x33 .none none 0
  else
    let x := c.load.lexitOf h
    let i : LoopInst := {
      elem := f.elem, slot := f.slot, thread := f.thread
      out := if w.level = 1 then f.tag.out else 0
      outT := if w.level = 1 then (c.iterations h f.tag).1 else 0
      level := w.level, n := n, items := items, window := w.window, block := block, carried := carried, carries := []
      exitCond := ((x.bind c.load.fields).map (fun e => e.b != .absent)).getD false
      t := 0, tails := [], exits := [], stop := false, left := none, finished := false, since := s.time, ctx := ctx, lane := (s.ft f).lane }
    (s.setCore f.core { c with loops := c.loops ++ [i] }).loopFinish f.core i

/-- An error token on a header's operand (R133). -/
def State.badTrip (s : State) (f : Firing) (k : Sub) : State :=
  s.commit f (if k = .poison then 0x20 else 0x33) .none none 0

/-- `lhead` (R133). -/
def execLhead (w : SlotWord) (s : State) : Host.Outcome State Fault Refusal :=
  let f := s.fire
  let carried := if w.c = .absent then none else some (s.opC f w)
  match s.opA f w with
  | .pass => .next (s.startLoop f w 0 [] carried none)
  | .err k => .next (s.badTrip f k)
  | .data x => .next (s.startLoop f w (readBits .n32 x) [] carried none)

/-- Set-bit indices of a vector, ascending (R133). -/
def setBits (w n : Nat) : List Nat := (List.range w).filter (fun i => n.testBit i)

/-- `lsparse` (R133). With a pass token on one of A and C and an error token on the other both clauses of the rule apply: the pass token
ends the loop; of two error tokens Poison decides (log 68). -/
def execLsparse (w : SlotWord) (s : State) : Host.Outcome State Fault Refusal :=
  let f := s.fire
  let go := fun (v : Nat) =>
    let items := setBits w.ty.width v
    s.startLoop f w items.length items none none
  match s.opA f w, (if w.c = .absent then none else some (s.opC f w)) with
  | .pass, _ => .next (s.startLoop f w 0 [] none none)
  | _, some .pass => .next (s.startLoop f w 0 [] none none)
  | .err k, some (.err k') => .next (s.badTrip f (if k' = .poison then k' else k))
  | .err k, _ => .next (s.badTrip f k)
  | .data _, some (.err k) => .next (s.badTrip f k)
  | .data x, some (.data y) =>
    .next (go (if w.mod = 0 then readBits w.ty x &&& readBits w.ty y else readBits w.ty x ||| readBits w.ty y))
  | .data x, none => .next (go (readBits w.ty x))

/-! ### The ends of an iteration (R134, R135) -/

/-- `ltail` (R134): the iteration's tag is freed, and its value carried when the loop carries. -/
def execLtail (w : SlotWord) (s : State) : Host.Outcome State Fault Refusal :=
  let f := s.fire
  let c := s.core f.core
  match (dstNode w.d0).bind (fun h => c.loopAt h f.tag) with
  | none => .next s
  | some i =>
    let t := i.tOf (loopField i.level f.tag)
    let v := s.opA f w
    let i' : LoopInst := { i with
      tails := insertNat i.tails t, since := s.time
      carries := if i.carries? then i.carries.put t v else i.carries }
    let s := s.setCore f.core (c.setLoop i')
    let s := if i.carries? && decide (t + 1 < i.t) then
        match c.load.fields i.node with
        | some hw =>
          let g := i.firing f.core ((t + 1) % 64)
          s.send g 1 hw.d1 false v g.tag
        | none => s
      else s
    .next (s.loopFinish f.core i')

/-- The iteration of an `lexit` instance: the lowest with its tag field whose `lexit` has not fired, since it fires once for each
iteration and in their order (R135, R290). -/
def LoopInst.exitOf (i : LoopInst) (field : Nat) : Nat :=
  ((List.range i.t).find? (fun t => t % 64 == field % 64 && !i.exits.contains t)).getD (i.tOf field)

/-- `lexit` (R135): the last iteration's token stands with the instance until the loop finishes (R43). -/
def execLexit (w : SlotWord) (s : State) : Host.Outcome State Fault Refusal :=
  let f := s.fire
  let c := s.core f.core
  match (c.load.innermost f.node).bind (fun h => c.loopAt h f.tag) with
  | none => .next s
  | some i =>
    let t := i.exitOf (loopField i.level f.tag)
    let v := s.opA f w
    let tag := loopTag i.level i.thread f.tag.out 0
    let b := if w.b = .absent then Val.pass else s.opB f w
    match b with
    | .err k => .next (s.badTrip f k)
    | b =>
      let brk := b.bits != 0
      let last := brk || decide (t + 1 = i.n)
      let i' : LoopInst := { i with
        stop := i.stop || brk, left := if last then some v else i.left
        exits := insertNat i.exits t }
      if last && i.finished then
        let s := s.setCore f.core { c with loops := c.loops.filter (fun (j : LoopInst) => !j.same i) }
        .next ((s.send f 0 w.d0 false v tag).send f 1 w.d1 false v tag)
      else .next ((s.setCore f.core (c.setLoop i')).loopFinish f.core i')

/-! ### Activities -/

/-- LOOP_ISSUE (R133); a core that is being pre-empted issues none (R384). -/
def execLoopIssue (core elem slot : Nat) (s : State) : Host.Outcome State Fault Refusal :=
  if s.frozen core then .next s else .next (s.issueLoop core (16 * elem + slot) 8)

/-- An instance is starved (R138): its next iteration is blocked only by the window, and no tag has been freed for the bound. -/
def State.starved (s : State) (k : Nat) (i : LoopInst) : Bool :=
  let bound := 2 ^ clamp 10 30 (natBits (s.core k).ksched.toNat 52 48)
  !s.frozen k && s.mayIssue k i && s.iterRoom k i && !i.windowAdmits && decide (i.since + bound ≤ s.time)

/-- TAG_STARVE (R138): the record names the header. -/
def execTagStarve (core index : Nat) (s : State) : Host.Outcome State Fault Refusal :=
  match (s.core core).loops[index]? with
  | some i => if s.starved core i then .next (s.commit (s.stamp (i.firing core 0)) 0x32 .none none 0) else .next s
  | none => .next s

end Sys2Proof.Machine
end

