-- ==== Sys2Proof/Machine/Expand.lean ====
section
/-! DEFINITION. The expand instructions, opcodes 0xC7 to 0xCA (spec 07 R216 to R223). -/

namespace Sys2Proof.Machine

/-- `xbegin` (R218): a lane of its group. -/
def execXbegin (w : SlotWord) (s : State) : Host.Outcome State Fault Refusal :=
  .next (s.gang w [s.opA s.fire w, s.opB s.fire w])

/-- The context whose `xround` stands at a node, for a span. -/
def Core.ctxOfRound (c : Core) (span h : Nat) : Option XCtx :=
  (c.load.xbeginOfRound h).bind (fun b => c.xctxs.find? (fun (x : XCtx) => x.span == span && 16 * x.elem + x.slot == b))

/-- `xround` (R219): a loop of ⌈T/n⌉ rounds for its lane. -/
def execXround (w : SlotWord) (s : State) : Host.Outcome State Fault Refusal :=
  let f := s.fire
  let x := (s.core f.core).ctxOfRound (s.ft f).span f.node
  let id := x.map XCtx.id
  match s.opA f w with
  | .pass => .next (s.startLoop f w 0 [] none id)
  | .err k => .next (s.badTrip f k)
  | .data v =>
    let n := (x.map XCtx.n).getD 1
    .next (s.startLoop f w ((v.toNat + n - 1) / n) [] none id)

/-- An item handed to the expand unit (R220), under its flat index. -/
def State.handItem (s : State) (k id f : Nat) (v : Option Val) (bad : Bool) : State :=
  s.onCore k (fun (c : Core) => { c with
    xctxs := c.xctxs.map (fun (x : XCtx) =>
      if x.id = id ∧ f < x.total then { x with items := x.items ++ [(⟨f, x.ownerOf f, v, bad⟩ : XItem)] } else x) })

/-- The context and flat index of an instance in the body of an `xround` loop (R219). -/
def State.flatOf (s : State) (f : Firing) : Option (Nat × Nat) :=
  let c := s.core f.core
  (c.outerInst f.node f.thread).bind (fun i => i.ctx.bind (fun id =>
    (c.xctxs.find? (fun (x : XCtx) => x.id == id)).map (fun x => (id, i.tOf f.tag.out.toNat * x.n + i.lane))))

/-- `xsegred` (R220). An error token on the predicate, which stops the operation (R77), hands over an empty item as a pass token
does (log 72). -/
def execXsegred (w : SlotWord) (s : State) : Host.Outcome State Fault Refusal :=
  let f := s.fire
  let empty := fun (s : State) => match s.flatOf f with
    | some (id, i) => s.handItem f.core id i none (s.ended f)
    | none => s
  match s.go f w with
  | .skip => .next ((empty s).emitBoth f w .pass)
  | .stop k => .next ((empty s).emitBoth f w (.err k))
  | .poison => .next (s.commit f 0x20 .none none 0)
  | .fire =>
    match s.opA f w, s.opB f w with
    | .pass, _ => .next ((empty s).emitBoth f w .pass)
    | _, .pass => .next ((empty s).emitBoth f w .pass)
    | _, .err k => .next (s.badTrip f k)
    | a, .data b =>
      let s := match s.flatOf f with
        | some (id, _) => s.handItem f.core id (b.toNat % 2 ^ 32) (some a) false
        | none => s
      .next (s.emitBoth f w .order)

/-- `xend` (R221): a lane of its group. -/
def execXend (w : SlotWord) (s : State) : Host.Outcome State Fault Refusal :=
  .next (s.gang w [s.opA s.fire w])

end Sys2Proof.Machine
end

