-- ==== Sys2Proof/Machine/Life.lean ====
section
/-! DEFINITION. The end of a thread's stay in a load and of its life: discarded tokens (spec 04 R139), committed live values (01
R16), barriers (04 R143), engine counters (01 R42), records freed (08 R260; 12 R346), retirement (01 R25, R31; 11 R326). -/

namespace Sys2Proof.Machine

/-! ### Fields of a register -/

/-- A register with the field [hi:lo] set. -/
def setField (d : Dword) (hi lo v : Nat) : Dword :=
  let m : Dword := BitVec.ofNat 64 ((2 ^ (hi + 1 - lo) - 1) * 2 ^ lo)
  (d &&& ~~~m) ||| (BitVec.ofNat 64 (v * 2 ^ lo) &&& m)

/-- A register with the writable bits [hi:lo] taken from a written value. -/
def takeField (old new : Dword) (hi lo : Nat) : Dword := setField old hi lo (natBits new.toNat hi lo)

/-- Admitted units U of a core (R329). -/
def Core.admitted (c : Core) : Nat := natBits c.kpwr.toNat 31 16
/-- Budget B of a core (R329). -/
def Core.powerBudget (c : Core) : Nat := natBits c.kpwr.toNat 15 0

/-- GATE follows U and B (R326). -/
def Core.setGate (c : Core) : Core :=
  let g := if c.powerBudget < c.admitted then max 1 (16 * c.powerBudget / c.admitted) else 16
  { c with kpwr := setField c.kpwr 47 40 g }

/-- The core with U set. -/
def Core.setAdmitted (c : Core) (u : Nat) : Core := ({ c with kpwr := setField c.kpwr 31 16 u } : Core).setGate

/-! ### Live values (R16, R126) -/

/-- Two staged writes in the order in which they commit: element, slot, outer and inner iteration. -/
def Staged.le (a b : Staged) : Bool :=
  decide (a.elem < b.elem) || (a.elem == b.elem && (decide (a.slot < b.slot) || (a.slot == b.slot &&
    (decide (a.outT < b.outT) || (a.outT == b.outT && decide (a.innT ≤ b.innT))))))

/-- A staged write placed in commit order, after those before or equal to it. -/
def insertStaged (x : Staged) : List Staged → List Staged
  | [] => [x]
  | y :: l => if y.le x then y :: insertStaged x l else x :: y :: l

/-- Commit the staged writes of a thread. -/
def Thread.commitStaged (t : Thread) : Thread :=
  let order := t.staged.foldl (fun l x => insertStaged x l) []
  { t with live := order.foldl (fun m (x : Staged) => m.put x.lv x.val) t.live, staged := [] }

/-! ### Tokens of a thread that leaves (R139 step 5) -/

/-- A core without the tokens of a thread; engine operations that it has issued go on and emit nothing. -/
def Core.dropTokens (c : Core) (k t : Nat) : Core :=
  let mine := fun (f : Firing) => f.thread == t && !f.mute
  let quiet := fun (f : Firing) => if f.core = k ∧ f.thread = t then { f with mute := true } else f
  let calls := fun (l : List MxCtl) => l.any (fun (m : MxCtl) => mine m.f)
  { c with
    flights := c.flights.filter (fun (x : Flight) => x.tag.slot.toNat != t)
    pendings := c.pendings.filter (fun (x : Pending) => x.tag.slot.toNat != t)
    headers := c.headers.filter (fun (x : Pending) => x.tag.slot.toNat != t)
    blocks := c.blocks.filter (fun (x : BlockState) => x.tag.slot.toNat != t)
    groups := c.groups.map (fun (g : Group) => match (c.span g.span).members.findIdx? (fun x => x == t) with
      | some i => { g with left := insertNat g.left i }
      | none => g)
    merges := c.merges.filter (fun (x : MergeState) => x.tag.slot.toNat != t)
    rq := c.rq.filter (fun f => !mine f)
    parked := c.parked.filter (fun (x : Parked) => !mine x.f)
    loops := c.loops.filter (fun (i : LoopInst) => i.thread != t)
    feeds := if calls c.mxQueue then c.feeds
      else c.feeds.filter (fun (x : FeedTok) => x.tag.slot.toNat != t)
    misses := c.misses.map (fun (m : L1Miss) => { m with f := quiet m.f })
    mxSent := c.mxSent.map (fun (m : MxCtl) => { m with f := quiet m.f })
    mxQueue := c.mxQueue.map (fun (m : MxCtl) => { m with f := quiet m.f })
    transfers := c.transfers.map (fun (x : Transfer) => { x with f := quiet x.f }) }

/-- Spans and expansion contexts whose lanes have all left are gone (R222). -/
def Core.dropSpans (c : Core) : Core :=
  let live := fun (p : Span) => (List.range p.count).any (fun i => !c.laneLeft p i)
  let gone := (c.spans.filter (fun p => !live p)).map Span.id
  { c with
    spans := c.spans.filter live
    groups := c.groups.filter (fun (g : Group) => !gone.contains g.span)
    xctxs := c.xctxs.filter (fun (x : XCtx) => !gone.contains x.span)
    overflows := c.overflows.filter (fun x => !gone.contains x.1) }

/-- A thread's accesses at memory tiles, its core's or those of its cluster, go on and emit nothing (R139 step 5). -/
def State.quietTiles (s : State) (k t : Nat) : State :=
  let quiet := fun (f : Firing) => if f.core = k ∧ f.thread = t then { f with mute := true } else f
  { s with cores := s.cores.map (fun (kc : Nat × Core) => (kc.1, { kc.2 with
    tileReqs := kc.2.tileReqs.map (fun (r : TileReq) => { r with f := quiet r.f }) })) }

/-- Every token of a thread that has left its load is discarded; groups that waited for it may fire (R205). -/
def State.purge (s : State) (k t : Nat) : State :=
  let s := ((s.muteHeld k t).quietTiles k t).onCore k (fun (c : Core) => (c.dropTokens k t).dropSpans)
  let out := fun (f : Firing) => f.core == k && f.thread == t && !f.mute && !f.live
  let s := { s with ready := s.ready.filter (fun f => !out f), issued := s.issued.filter (fun f => !out f) }
  let s := { s with graphs := s.graphs.map (fun (g : Graph) =>
    { g with waiters := g.waiters.filter (fun x => !(x.2.2.core == k && x.2.2.thread == t)) }) }
  s.groupsGo k

/-! ### Barriers (R143) -/

/-- Live threads of a workgroup: core and slot. -/
def State.wgThreads (s : State) (launch wgid : Nat) : List (Nat × Nat) :=
  match s.wg? launch wgid with
  | none => []
  | some w => w.cores.flatMap (fun k =>
      ((s.core k).parts.filter (fun (p : Part) => p.launch == launch && p.wgid == wgid)).flatMap (fun (p : Part) =>
        p.slots.map (fun t => (k, t))))

/-- A thread when the phase of barrier b completes. -/
def Thread.phaseEnds (t : Thread) (b now : Nat) : Thread :=
  let bit : BitVec 16 := BitVec.ofNat 16 (2 ^ b)
  let t := { t with arrived := (t.arrived &&& ~~~bit) ||| (t.arrivedAgain &&& bit), arrivedAgain := t.arrivedAgain &&& ~~~bit }
  if t.state = .parked ∧ t.barrier = some b then { t with state := .waiting, barrier := none, since := now } else t

/-- Barrier b completes its phase if every thread that is neither FREE nor EXITING has arrived. -/
def State.barrierTry (s : State) (launch wgid b : Nat) : State :=
  let ths := s.wgThreads launch wgid
  let live := ths.filter (fun x => (s.thread x.1 x.2).state != .exiting && (s.thread x.1 x.2).state != .free)
  let aborted := ((s.wg? launch wgid).map Workgroup.aborted).getD true
  if !aborted && !live.isEmpty && live.all (fun x => (s.thread x.1 x.2).arrived.getLsbD b) then
    let s := ths.foldl (fun s x => s.onThread x.1 x.2 (fun th => th.phaseEnds b s.time)) s
    s.onWg launch wgid (fun (w : Workgroup) => { w with phases := w.phases.modify b (· + 1) })
  else s

/-- Every barrier of a workgroup completes the phases that it can: one, and the next when arrivals wait for it. -/
def State.barriers (s : State) (launch wgid : Nat) : State :=
  (List.range 16 ++ List.range 16).foldl (fun s b => s.barrierTry launch wgid b) s

/-! ### Records of a stage graph (R260, R346) -/

/-- Units of a slab (R345). -/
def slabUnits : Nat := 4096

/-- A node without a record in use: a slab that holds none returns to the free list (R346). -/
def GNode.freeUnit (n : GNode) (u : Nat) : GNode × List Nat :=
  let used := n.used.filter (fun x => x != u)
  let idle := n.slabs.filter (fun b => !used.any (fun x => decide (b ≤ x) && decide (x < b + slabUnits)))
  ({ n with used := used, slabs := n.slabs.filter (fun b => !idle.contains b) }, idle)

/-- A record is freed (R346, R355). -/
def Graph.freeUnit (g : Graph) (u : Nat) : Graph :=
  if g.nodes.any (fun (n : GNode) => n.used.contains u) then
    let r := g.nodes.map (fun (n : GNode) => if n.used.contains u then n.freeUnit u else (n, []))
    let size := (g.nodes.find? (fun (n : GNode) => n.used.contains u)).elim 0 GNode.record
    { g with
      nodes := r.map (·.1)
      freeSlabs := (r.flatMap (·.2)).foldl insertNat g.freeSlabs
      blank := g.blank.filter (fun b => !(decide (16 * u ≤ b) && decide (b < 16 * u + size)))
      live := g.live - 1 }
  else g

/-- The running graph of a launch, changed. -/
def State.onGraph (s : State) (launch : Nat) (f : Graph → Graph) : State :=
  { s with graphs := s.graphs.map (fun (g : Graph) => if g.launch = launch then f g else g) }

/-- A node of a graph changed. -/
def Graph.onNode (g : Graph) (i : Nat) (f : GNode → GNode) : Graph := { g with nodes := g.nodes.modify i f }

/-! ### Retirement (R25, R31, R324, R326) -/

/-- Accumulator slots that handles bind. -/
def Part.bound (p : Part) : List Nat :=
  p.handles.flatMap (fun kh => match kh.2 with | .unbound => [] | .b32 a => [a] | .b64 a b => [a, b])

/-- Accumulator slots that an accepted `mxrel` of a part has not returned yet (R231). -/
def Core.releasing (c : Core) (p : Part) : Nat :=
  (c.mxQueue.filter (fun (m : MxCtl) => m.launch == p.launch && m.wgid == p.wgid)).foldl (fun t (m : MxCtl) => t + m.freeSlots.length) 0

/-- Slots of a part's reservation that it has not drawn (R231, R324). -/
def Core.reserveLeft (c : Core) (p : Part) : Nat := p.acc - (p.bound.length + c.releasing p)

/-- Free accumulator slots that no part and no reserve admission reserves (R231, R233, R324). -/
def Core.unreserved (c : Core) : Nat :=
  c.accFree.length - (c.parts.foldl (fun t (p : Part) => t + c.reserveLeft p) 0 +
    (c.reserves.filter (fun (r : Reserve) => r.busy.isNone)).foldl (fun t (r : Reserve) => t + r.acc) 0)

/-- A kernel without a part or reserve admission gives its rows back (R312). -/
def Core.dropRows (c : Core) (kernel : Nat) : Core :=
  if c.parts.any (fun (q : Part) => q.kernel == kernel) || c.reserves.any (fun (r : Reserve) => r.kernel == kernel) then c
  else { c with rows := c.rows.del kernel }

/-- A reserve admission is free again (R353). -/
def Core.fillReserve (c : Core) (r : Reserve) : Core :=
  { c with reserves := c.reserves.map (fun (q : Reserve) => if q.launch = r.launch ∧ q.node = r.node then { q with busy := none } else q) }

/-- A part retires: its accumulator slots return to the free list and are counted, its energy units are given back; the
reserve admission of a reserve group is free again (R353). Its scratchpad is kept until the workgroup retires (R25, R242). -/
def Core.retirePart (c : Core) (p : Part) : Core :=
  let c := c.bumpStat 2 p.bound.length
  let c := { c with
    parts := c.parts.filter (fun (q : Part) => !(q.launch == p.launch && q.wgid == p.wgid && q.index == p.index))
    keptSpads := c.keptSpads ++ [(p.launch, p.wgid, p.kernel)]
    accFree := p.bound.foldl insertNat c.accFree }
  let c := c.setAdmitted (c.admitted - p.units)
  let c := match c.reserves.find? (fun (r : Reserve) => r.launch == p.launch && r.busy == some p.wgid) with
    | some r => c.fillReserve r
    | none => c
  c.dropRows p.kernel

/-- A core gives up the scratchpad that it kept for a workgroup. -/
def Core.dropSpad (c : Core) (launch wgid : Nat) : Core :=
  { c with keptSpads := c.keptSpads.filter (fun x => !(x.1 == launch && x.2.1 == wgid)) }

/-- A workgroup without parts has retired (R25): its scratchpads are free, and its launch and graph node count it. -/
def State.retireWg (s : State) (launch wgid : Nat) : State :=
  match s.wg? launch wgid with
  | none => s
  | some w =>
    if w.cores.any (fun k => (s.core k).parts.any (fun (p : Part) => p.launch == launch && p.wgid == wgid)) then s
    else
      let s := w.cores.foldl (fun s k => s.onCore k (fun (c : Core) => c.dropSpad launch wgid)) s
      let s := { s with wgs := s.wgs.filter (fun (x : Workgroup) => !(x.launch == launch && x.wgid == wgid)) }
      let s := s.onLaunch launch (fun (l : Launch) => { l with
        running := removeNat l.running wgid
        releasedWgs := removeNat l.releasedWgs wgid })
      match w.node with
      | none => s
      | some n => s.onGraph launch (fun (g : Graph) =>
          let g := { g with runningGroups := g.runningGroups - 1 }
          g.onNode n (fun (x : GNode) => { x with abortedGroups := x.abortedGroups + (if w.aborted then 1 else 0) }))

/-- A workgroup has released when all its threads have (R146). -/
def State.wgReleases (s : State) (launch wgid : Nat) : State :=
  if (s.wgThreads launch wgid).all (fun x => (s.thread x.1 x.2).released) then
    s.onLaunch launch (fun (l : Launch) => { l with releasedWgs := insertNat l.releasedWgs wgid })
  else s

/-- A thread becomes FREE (R23, R260): its slot leaves its part, its records are freed, its part and workgroup may retire, and its
leaving may complete a barrier phase. -/
def State.freeThread (s : State) (k t : Nat) : State :=
  let th := s.thread k t
  let s := s.purge k t
  let units := th.owned ++ th.recUnit.toList
  let s := s.onGraph th.launch (fun g => units.foldl Graph.freeUnit g)
  let s := s.onCore k (fun (c : Core) =>
    let c := c.bumpStat 3 th.owned.length
    let c := c.onThread t (fun th => { th with
      state := .free, faultAt := none, staged := [], owned := [], recUnit := none, barrier := none, aborted := false, handler := false, closing := false,
      cntCopy := 0, cntMatrix := 0, cntGather := 0, cntRemote := 0 })
    let c := { c with parts := c.parts.map (fun (p : Part) => { p with slots := p.slots.filter (fun x => x != t) }) }
    (c.parts.filter (fun (p : Part) => p.slots.isEmpty)).foldl Core.retirePart c)
  let s := s.wgReleases th.launch th.wgid
  let s := s.barriers th.launch th.wgid
  s.retireWg th.launch th.wgid

/-! ### Counters (R42) -/

/-- An operation of a class completes: the counter falls, and an EXITING thread whose counters are zero becomes FREE (R23). -/
def State.countDown (s : State) (k t : Nat) (cls : CntClass) : State :=
  let s := s.onThread k t (fun th => th.setCnt cls (th.cnt cls - 1))
  let th := s.thread k t
  if th.state = .exiting ∧ th.quiet then s.freeThread k t else s

/-- An operation of a class is counted, if the counter has room (R42). -/
def State.countUp (s : State) (k t : Nat) (cls : CntClass) : State :=
  s.onThread k t (fun th => th.setCnt cls (th.cnt cls + 1))

/-- The counter of a class has room for one more. -/
def State.countRoom (s : State) (k t : Nat) (cls : CntClass) : Bool := (s.thread k t).cnt cls != 255

/-- An issue held on a full counter (R42): it parks, and is counted once. -/
def State.parkCounter (s : State) (f : Firing) : State :=
  (s.onCore f.core (fun (c : Core) => c.bumpStat 7 1)).park f .counter

/-! ### Drained threads (R23, R365, R367) -/

/-- FAULTED_DRAINED can happen: a thread of an aborted workgroup is freed once its counters are zero (R367); a FAULTED thread goes
on when its tokens have drained and its record is written (R23, R364), and its draining may let a group fire (R221). -/
def State.canDrain (s : State) (k t : Nat) : Bool :=
  let th := s.thread k t
  if th.state == .free then false
  else if th.aborted then th.quiet
  else th.state == .faulted && ((s.drained k t && !s.recordPending k t) || (s.idleBut k t && s.groupsCan k))

/-- FAULTED_DRAINED (R23, R365, R367). -/
def execFaultedDrained (core thread : Nat) (s : State) : Host.Outcome State Fault Refusal :=
  if s.canDrain core thread then
    if (s.thread core thread).aborted then .next (s.freeThread core thread)
    else if !s.drained core thread || s.recordPending core thread then .next (s.groupsGo core)
    else
      let s := s.divert core thread
      .next (s.purge core thread)
  else .next s

end Sys2Proof.Machine
end

