-- ==== Sys2Proof/Machine/Routing.lean ====
section
/-! DEFINITION. The routing instructions, opcodes 0x70 to 0x76 (spec 04 R123 to R131). -/

namespace Sys2Proof.Machine

/-- `entry` (R124): one data token with payload 0. -/
def execEntry (w : SlotWord) (s : State) : Host.Outcome State Fault Refusal :=
  .next (s.emitBoth s.fire w (if s.ended s.fire then .pass else .data 0))

/-- The token that a live value gives (R125); a poisoned dword of the stacks gives Poison, as a load of one does (R183, log 74). -/
def LiveVal.val (l : LiveVal) : Val := if l.mark then .err .poison else if l.isErr then .err (Sub.ofCode (l.word.toNat % 256)) else .data l.word

/-- `lvr` (R125): the live value that the thread entered the load with. -/
def execLvr (w : SlotWord) (s : State) : Host.Outcome State Fault Refusal :=
  let f := s.fire
  .next (s.triggered f w (fun s =>
    s.emitBoth f w (((s.ft f).live.look (w.immBits 6 0)).getD ⟨false, 0, false⟩).val))

/-- `lvw` (R126): A's value is staged and forwarded. -/
def execLvw (w : SlotWord) (s : State) : Host.Outcome State Fault Refusal :=
  let f := s.fire
  .next (s.triggered f w (fun s =>
    (s.send f 0 (.stacks (BitVec.ofNat 7 (w.immBits 6 0))) false (s.opA f w) f.tag).emitBoth f w (s.opA f w)))

/-- A token on all four destinations of `fan` (R127). -/
def State.emitFan (s : State) (f : Firing) (w : SlotWord) (v : Val) : State :=
  (dstsOf 0x73 w).foldl (fun s d => s.send f d.1 d.2 false v f.tag) s

/-- `fan` (R127). -/
def execFan (w : SlotWord) (s : State) : Host.Outcome State Fault Refusal :=
  let f := s.fire
  match s.go f w with
  | .skip => .next (s.emitFan f w .pass)
  | .stop k => .next (s.emitFan f w (.err k))
  | .poison => .next (s.commit f 0x20 .none none 0)
  | .fire => .next (s.emitFan f w (s.opA f w))

/-- `steer` (R128). -/
def execSteer (w : SlotWord) (s : State) : Host.Outcome State Fault Refusal :=
  let f := s.fire
  let v := s.opA f w
  match s.opB f w with
  | .pass => .next (s.emitBoth f w .pass)
  | .err .poison => .next (s.commit f 0x20 .none none 0)
  | .err k => .next (s.emitBoth f w (.err k))
  | .data c => .next (if c != 0 then s.emit2 f w v .pass else s.emit2 f w .pass v)

/-- The token of one port of `merge.first`, when this firing brings it. -/
def State.mergeSide (s : State) (f : Firing) (x : Src) (tok : Option Val) : Option Val :=
  if x = .token then tok.map (fun _ => s.operand f x tok) else some (s.operand f x tok)

/-- `merge.first` (R129): the first token that is not a pass token is forwarded at once, the other is absorbed; of two pass tokens
the second is. -/
def execMergeFirst (w : SlotWord) (s : State) : Host.Outcome State Fault Refusal :=
  let f := s.fire
  let here := fun (m : MergeState) => m.elem == f.elem && m.slot == f.slot && m.tag == f.tag
  let drop := fun (s : State) => s.onCore f.core (fun (c : Core) => { c with merges := c.merges.filter (fun m => !here m) })
  match s.mergeSide f w.a f.a, s.mergeSide f w.b f.b with
  | some a, some b => .next (s.emitBoth f w (if a = .pass then b else a))
  | none, none => .next s
  | a, b =>
    let v := (a.orElse (fun _ => b)).getD .pass
    match (s.core f.core).merges.find? here with
    | some m => .next (if m.forwarded then drop s else (drop s).emitBoth f w v)
    | none =>
      let s := s.onCore f.core (fun (c : Core) => { c with
        merges := c.merges ++ [(⟨f.elem, f.slot, f.tag, v != .pass, f.place⟩ : MergeState)] })
      .next (if v = .pass then s else s.emitBoth f w v)

/-- `merge.join` (R130). -/
def execMergeJoin (w : SlotWord) (s : State) : Host.Outcome State Fault Refusal :=
  .next (s.emitBoth s.fire w (s.opA s.fire w))

/-- `sink` (R131). -/
def execSink (_w : SlotWord) (s : State) : Host.Outcome State Fault Refusal := .next s

end Sys2Proof.Machine
end

