-- ==== Sys2Proof/Machine/Control.lean ====
section
/-! DEFINITION. Block terminators, dependent launch and traps, opcodes 0x7B to 0x84 (spec 04 R139 to R148; 01 R20). The return
from the trap handler is any terminator (13 R365). -/

namespace Sys2Proof.Machine

/-! ### Leaving a load (R139) -/

/-- The staged writes of a thread are committed, its header is changed, and its other tokens are discarded. -/
def State.leave (s : State) (f : Firing) (g : Thread → Thread) : State :=
  (s.onThread f.core f.thread (fun th => { g th.commitStaged with closing := false })).purge f.core f.thread

/-- The thread waits at a block entry (R23). -/
def State.leaveTo (s : State) (f : Firing) (entry : Nat) (g : Thread → Thread) : State :=
  s.leave f (fun th => { g th with state := .waiting, next := BitVec.ofNat 7 entry, since := s.time })

/-- A terminator acts for a thread that is in the load and has not faulted (R139); one that a page held is muted by a fault. -/
def State.terminates (s : State) (f : Firing) : Bool := (s.ft f).state == .inload && !(s.ft f).aborted && !f.mute

/-- `br` (R140). -/
def execBr (w : SlotWord) (s : State) : Host.Outcome State Fault Refusal :=
  let f := s.fire
  if s.terminates f then
    match s.opA f w with
    | .err .poison => .next (s.commit f 0x20 .none none 0)
    | .err _ => .next (s.commit f 0x33 .none none 0)
    | v => .next (s.leaveTo f (if v.bits != 0 then w.immBits 6 0 else w.immBits 14 8) id)
  else .next s

/-- `jmp` (R140). -/
def execJmp (w : SlotWord) (s : State) : Host.Outcome State Fault Refusal :=
  let f := s.fire
  if s.terminates f then .next (s.leaveTo f (w.immBits 6 0) id) else .next s

/-- `brx` (R141). -/
def execBrx (w : SlotWord) (s : State) : Host.Outcome State Fault Refusal :=
  let f := s.fire
  if s.terminates f then
    match s.opA f w with
    | .err .poison => .next (s.commit f 0x20 .none none 0)
    | .data i =>
      if i.toNat < w.immBits 15 8 + 1 then
        .next (s.leaveTo f (((s.core f.core).load.branches[w.immBits 7 0 + i.toNat]?).getD 0) id)
      else .next (s.commit f 0x33 .none none 0)
    | _ => .next (s.commit f 0x33 .none none 0)
  else .next s

/-! ### The return stack (R20) -/

/-- Entry k of the ring in HDR2 and HDR3 (R17). -/
def Thread.rs (t : Thread) (k : Nat) : Byte :=
  if k < 8 then t.hdr2.extractLsb' (8 * k) 8 else t.hdr3.extractLsb' (8 * (k - 8)) 8

/-- The ring with entry k set. -/
def Thread.setRs (t : Thread) (k : Nat) (b : Byte) : Thread :=
  if k < 8 then { t with hdr2 := setByte t.hdr2 k b } else { t with hdr3 := setByte t.hdr3 (k - 8) b }

/-- Global virtual address of spill byte i of a thread (R21). -/
def State.spillVa (s : State) (f : Firing) (i : Nat) : Nat :=
  s.privBase f.core f.thread + (s.kernelAt f.core f.thread).privRound + 128 + i

/-- A `call` or `ret` whose spill byte cannot be reached yet waits in step 4 of R139 (R20): its staged writes have been committed, and what
its thread sends to the stacks later is discarded. -/
def State.stopSpill (s : State) (f : Firing) (kind : AccessKind) (va : Nat) (e : Stop) : State :=
  let s := match e with
    | .absent _ _ | .ats _ | .notReady _ => s.onThread f.core f.thread (fun th => { th.commitStaged with closing := true })
    | _ => s
  s.stopAccess f kind va e

/-- `call` (R140): rs_push. -/
def execCall (w : SlotWord) (s : State) : Host.Outcome State Fault Refusal :=
  let f := s.fire
  if s.terminates f then
    let th := s.ft f
    let d := th.depth.toNat + 1
    let k := (d - 1) % 16
    let ret := BitVec.ofNat 8 (w.immBits 14 8)
    let go := fun (s : State) => s.leaveTo f (w.immBits 6 0) (fun th =>
      { th.setRs k ret with depth := BitVec.ofNat 11 d })
    if (s.kernelAt f.core f.thread).calldepth < d then .next (s.commit f 0x31 .none none 0)
    else if d ≤ 16 then .next (go s)
    else
      let va := s.spillVa f (d - 17)
      match s.locate f.core f.thread (.va va) false true with
      | (s, .error e) => .next (s.stopSpill f .write va e)
      | (s, .ok p) => .next (go (s.writePlace .write (dieOf f.core) th.launch th.wgid p [th.rs k])).settle
  else .next s

/-- `ret` (R140): rs_pop. -/
def execRet (_w : SlotWord) (s : State) : Host.Outcome State Fault Refusal :=
  let f := s.fire
  if s.terminates f then
    let th := s.ft f
    let d := th.depth.toNat
    let k := (d - 1) % 16
    let e := (th.rs k).toNat % 128
    if d = 0 then .next (s.commit f 0x30 .none none 0)
    else if d ≤ 16 then .next (s.leaveTo f e (fun th => { th with depth := BitVec.ofNat 11 (d - 1) }))
    else
      let va := s.spillVa f (d - 17)
      match s.locate f.core f.thread (.va va) true false with
      | (s, .error x) => .next (s.stopSpill f .read va x)
      | (s, .ok p) =>
        match s.readPlace .read (dieOf f.core) th.launch th.wgid p 1 with
        | (s, b, poison) =>
          if poison then .next (s.commit f 0x20 .read (some va) 0).settle
          else .next (s.leaveTo f e (fun th =>
            { th.setRs k (BitVec.ofNat 8 b) with depth := BitVec.ofNat 11 (d - 1) })).settle
  else .next s

/-! ### The end of a thread, and barriers -/

/-- `exit` (R142). -/
def execExit (_w : SlotWord) (s : State) : Host.Outcome State Fault Refusal :=
  let f := s.fire
  if s.terminates f then
    let th := s.ft f
    if th.quiet then .next (s.freeThread f.core f.thread)
    else
      let s := s.leave f (fun th => { th with state := .exiting })
      .next (s.barriers th.launch th.wgid)
  else .next s

/-- A thread arrives at a barrier: in its phase, or, when it has arrived already, for the next (R143). -/
def Thread.arrive (t : Thread) (b : Nat) : Thread :=
  let bit : BitVec 16 := BitVec.ofNat 16 (2 ^ b)
  if t.arrived.getLsbD b then { t with arrivedAgain := t.arrivedAgain ||| bit } else { t with arrived := t.arrived ||| bit }

/-- A thread PARKED on a barrier. -/
def Thread.parkAt (t : Thread) (b cont : Nat) : Thread :=
  { t with state := .parked, next := BitVec.ofNat 7 cont, barrier := some b }

/-- A thread that goes on from a barrier at once. -/
def Thread.passAt (t : Thread) (cont now : Nat) : Thread :=
  { t with state := .waiting, next := BitVec.ofNat 7 cont, since := now }

/-- What a `bar` does to its thread, and then to its workgroup (R143). An arrival is a release at wg scope: it waits for the accesses of
earlier loads (R144, R186). -/
def State.atBarrier (s : State) (f : Firing) (arrives : Bool) (g : Thread → Thread) : State :=
  let th := s.ft f
  if arrives && s.earlierPending f then s.park f .release else (s.leave f g).barriers th.launch th.wgid

/-- `bar.sync` (R143). -/
def execBarSync (w : SlotWord) (s : State) : Host.Outcome State Fault Refusal :=
  let f := s.fire
  let b := w.immBits 11 8
  if s.terminates f then .next (s.atBarrier f true (fun th => (th.arrive b).parkAt b (w.immBits 6 0))) else .next s

/-- `bar.arrive` (R143): a thread that has arrived already stays PARKED until the phase completes. -/
def execBarArrive (w : SlotWord) (s : State) : Host.Outcome State Fault Refusal :=
  let f := s.fire
  let b := w.immBits 11 8
  let again := (s.ft f).arrived.getLsbD b
  if s.terminates f then
    .next (s.atBarrier f true (fun th =>
      if again then (th.arrive b).parkAt b (w.immBits 6 0) else (th.arrive b).passAt (w.immBits 6 0) s.time))
  else .next s

/-- `bar.wait` (R143). -/
def execBarWait (w : SlotWord) (s : State) : Host.Outcome State Fault Refusal :=
  let f := s.fire
  let b := w.immBits 11 8
  let pending := (s.ft f).arrived.getLsbD b
  if s.terminates f then
    .next (s.atBarrier f false (fun th => if pending then th.parkAt b (w.immBits 6 0) else th.passAt (w.immBits 6 0) s.time))
  else .next s

/-! ### Dependent launch and traps -/

/-- A launch has released (R146): it has completed, or all its workgroups have released. A running stage graph, whose groups are no
workgroups of a launch record, releases when it completes (log 69). -/
def State.launchReleased (s : State) (id : Nat) : Bool :=
  match s.launch? id with
  | none => true
  | some l => !l.graph && decide (l.wgCount ≤ l.nextWg) && l.running.all (fun w => l.releasedWgs.contains w)

/-- Every predecessor of a thread's launch has released (R145). -/
def State.gateOpen (s : State) (f : Firing) : Bool :=
  match s.launch? (s.ft f).launch with
  | none => true
  | some l => l.preds.all s.launchReleased

/-- `gate` (R145). -/
def execGate (w : SlotWord) (s : State) : Host.Outcome State Fault Refusal :=
  let f := s.fire
  if s.opA f w = .pass then .next (s.emitBoth f w .pass)
  else if s.gateOpen f then .next (s.emitBoth f w (s.opA f w))
  else .next (s.park f .predecessors)

/-- `release` (R146): a release at dev scope, which waits for the accesses of earlier loads (R186). -/
def execRelease (w : SlotWord) (s : State) : Host.Outcome State Fault Refusal :=
  let f := s.fire
  let v := s.opA f w
  if v = .pass then .next (s.emitBoth f w .pass)
  else if s.earlierPending f then .next (s.parkRelease f 0 (.va 0))
  else
    let s := if s.owns f then s.onThread f.core f.thread (fun th => { th with released := true }) else s
    .next ((s.wgReleases (s.ft f).launch (s.ft f).wgid).emitBoth f w v)

/-- A terminator whose firing commits a fault (R140, R141; R139 step 2). -/
def State.faultsAtEnd (s : State) (f : Firing) (opc : Nat) (w : SlotWord) : Bool :=
  match opc with
  | 0x7B => (match s.opA f w with | .err _ => true | _ => false)
  | 0x7D => (match s.opA f w with | .data i => decide (w.immBits 15 8 < i.toNat) | _ => true)
  | 0x7E => decide ((s.kernelAt f.core f.thread).calldepth ≤ (s.ft f).depth.toNat)
  | 0x7F => (s.ft f).depth == 0
  | _ => false

/-- Payload of a token, the subkind of an error token (R33). -/
def Val.payload (v : Val) : Nat :=
  match v with
  | .data x => x.toNat
  | .pass => 0
  | .err k => k.code

/-- `trap` (R148). -/
def execTrap (w : SlotWord) (s : State) : Host.Outcome State Fault Refusal :=
  let f := s.fire
  match s.go f w with
  | .poison => .next (s.commit f 0x20 .none none 0)
  | .fire =>
    let v := s.opA f w
    if v = .pass then .next s else .next (s.commit f 0x34 .none (some v.payload) 0)
  | _ => .next s

end Sys2Proof.Machine
end

