-- ==== Sys2Proof/Machine/MemInstr.lean ====
section
/-! DEFINITION. Memory, atomic and synchronisation instructions, opcodes 0x90 to 0x9C (spec 06 R177 to R204). An access performs in
the step in which its instance fires, but for one that is held, that waits at a memory tile or for a fill of CACHE tiles (log 7). -/

namespace Sys2Proof.Machine

/-! ### Values to be written (R182) -/

/-- store_image (R182): none when the value is Poison. -/
def storeImage (t : Ty) (v : Val) : Option Nat :=
  match v with
  | .err .poison => none
  | .err k =>
    if t.isFloat || t.isPacked then some (spread t ((fmtOf t).image k))
    else match t.width with
      | 8 => some 0
      | 16 => some ((fmtOf .f16).image k)
      | 32 => some ((fmtOf .f32).image k)
      | _ => some ((fmtOf .f64).image k)
  | v => some (readBits t v.bits)

/-! ### Release and acquire (R186) -/

/-- The generic address and the target of an access: those that a held one keeps, or what its operand forms. -/
def State.targetOf (s : State) (f : Firing) (w : SlotWord) (n : Nat) (v : Val) : Except (Nat × Option Nat) (Nat × Target) :=
  match f.kept with
  | some h => .ok (h.g, h.target)
  | none => s.formAddress f w.space n n v

/-- An access to the place of an address operand (R179, R181): `g` runs with the generic address and the place. A release waits for the
accesses of earlier loads (R186). -/
def State.withPlace (s : State) (f : Firing) (w : SlotWord) (n : Nat) (kind : AccessKind) (rd wr : Bool) (v : Val)
    (g : State → Nat → Place → State) : State :=
  match s.targetOf f w n v with
  | .error (c, va) => s.commit f c kind va 0
  | .ok (ga, x) =>
    if wr && (w.ordering == .rel || w.ordering == .ar) && s.earlierPending f then s.parkRelease f ga x
    else match s.locateOf f x rd wr with
      | (s, .error e) => s.stopAccess f kind ga e
      | (s, .ok q) => g s ga q

/-- Domain or system scope. -/
def wideScope (c : Scope) : Bool := c == .dom || c == .sys

/-- The actions of a release at a scope before it performs (R186, R301). -/
def State.releaseActs (s : State) (f : Firing) (o : Ordering3) (c : Scope) : State :=
  if (o == .rel || o == .ar) && wideScope c then s.remoteWriteBack (dieOf f.core) else s

/-- A device that a release at a scope must write words home to and cannot reach (R301, R431). -/
def State.releaseBlocked (s : State) (f : Firing) (o : Ordering3) (c : Scope) : Option Nat :=
  if (o == .rel || o == .ar) && wideScope c then s.homeSilent (dieOf f.core) else none

/-- A release at a scope: its write-backs, and then `g` (R186, R301). One that cannot reach a home commits 0x71, as an access to that device
does (R431; log 29). -/
def State.releasing (s : State) (f : Firing) (o : Ordering3) (c : Scope) (kind : AccessKind) (va : Option Nat) (g : State → State) : State :=
  match s.releaseBlocked f o c with
  | some dev => s.commit f 0x71 kind va dev
  | none => g (s.releaseActs f o c)

/-- The actions of an acquire at a scope after it performs (R186, R301). -/
def State.acquireActs (s : State) (f : Firing) (o : Ordering3) (c : Scope) : State :=
  if (o == .acq || o == .ar) && wideScope c then s.remoteInvalidate (dieOf f.core) else s

/-! ### CACHE tiles (R293) -/

/-- Line number PA[38:7] of a CACHE tile word's key. -/
def l1Line (key : Nat) : Nat := key % 2 ^ 36 / 16

/-- A dword is filled into the CACHE tiles of a core (R293): the way filled earliest is replaced when all four ways of its set hold
words. R293 does not say which fill dates a way whose words were filled at several times: the oldest of its words that it still holds
dates it (DESIGN CHOICE, log 84). -/
def Core.l1Fill (c : Core) (key : Nat) (d : Dword) (poison : Bool) : Core :=
  let n := (c.load.tilesOf .cache).length
  if n = 0 ∨ c.l1.any (fun (w : L1Word) => w.key == key) then c
  else
    let set := fun (k : Nat) => (l1Line k % n, l1Line k / n % 64)
    let lines := ((c.l1.filter (fun (w : L1Word) => set w.key == set key)).map (fun (w : L1Word) => w.key / 16)).dedup
    let out := if lines.contains (key / 16) ∨ lines.length < 4 then none else
      (c.l1.find? (fun (w : L1Word) => set w.key == set key)).map (fun (w : L1Word) => w.key / 16)
    { c with l1 := c.l1.filter (fun (w : L1Word) => some (w.key / 16) != out) ++ [⟨key, d, poison⟩] }

/-- The key by which the CACHE tiles name the dword of a place (R293); host memory is cached only under CXL.cache. -/
def State.l1Key (s : State) (q : Place) : Option Nat :=
  match q with
  | .dev pa => some (pa / 8)
  | .remote dev a => some (remoteL1Key dev (a / 8))
  | .host ba => if s.hostCached then some (hostL1Key (ba / 8)) else none
  | .spad _ _ => none

/-- Byte offset of a place in its dword. -/
def Place.offset : Place → Nat
  | .dev a | .host a | .remote _ a | .spad _ a => a % 8

/-- A die's slice supplies the dword of a key: the state after it, the dword and its mark. -/
def State.sliceWord (s : State) (die key : Nat) : State × Dword × Bool :=
  if key < 4096 * 2 ^ 49 then
    let s := s.getS die key
    (s, s.viewDword key, s.viewPoison key)
  else if key < 2 ^ 62 then
    let dev := key / 2 ^ 49 - 4096
    let n := key % 2 ^ 49
    let s := s.remoteFetch die dev n
    (s, s.remoteDword die dev n, s.remoteMark die dev n)
  else
    let n := key - 2 ^ 62
    (s.hostOwn die (8 * n) 8, cellDword s.hostMem n, false)

/-- A dword is filled into the CACHE tiles of a core from its die's slice. -/
def State.fillWord (s : State) (k key : Nat) : State :=
  let r := s.sliceWord (dieOf k) key
  r.1.onCore k (fun (c : Core) => c.l1Fill key r.2.1 r.2.2)

/-- The line that holds a place is brought into the CACHE tiles of a core, if they may hold it. -/
def State.fillLine (s : State) (k : Nat) (q : Place) : State :=
  match s.l1Key q with
  | some key => (lineWords (key / 16) 0xFFFF).foldl (fun s n => s.fillWord k n) s
  | none => s

/-- What a lookup in the CACHE tiles of a load finds for an `ld` (R293, R294). -/
inductive Lookup where
  | direct                        -- the load has no CACHE tile, or the place is not cached: the access goes to its memory
  | hit (d : Dword) (poison : Bool)
  | miss (key : Nat)
  deriving DecidableEq, Repr

/-- The lookup of an instance; one whose thread has left goes to its memory. -/
def State.lookup (s : State) (f : Firing) (q : Place) : Lookup :=
  let c := s.core f.core
  if f.mute ∨ (c.load.tilesOf .cache).isEmpty then .direct
  else match s.l1Key q with
    | none => .direct
    | some key => match c.l1.find? (fun (x : L1Word) => x.key == key) with
      | some x => .hit x.data x.poison
      | none => .miss key

/-! ### Loads and stores -/

/-- Launch and workgroup of an instance: those of its thread, or those that a held one keeps. -/
def State.groupOf (s : State) (f : Firing) : Nat × Nat :=
  match f.kept, f.who with
  | some _, some x => (x.1, x.2.1)
  | _, _ => ((s.ft f).launch, (s.ft f).wgid)

/-- What an instance's access reads at a place. -/
def State.readAt (s : State) (kind : AccessKind) (f : Firing) (q : Place) (n : Nat) : State × Nat × Bool :=
  s.readPlace kind (dieOf f.core) (s.groupOf f).1 (s.groupOf f).2 q n

/-- Bytes that an instance's access writes at a place. -/
def State.writeAt (s : State) (kind : AccessKind) (f : Firing) (q : Place) (bs : List Byte) : State :=
  s.writePlace kind (dieOf f.core) (s.groupOf f).1 (s.groupOf f).2 q bs

/-! ### Requests to memory tiles (R202, R288, R292) -/

/-- A request joins the queue of a core's tile: of the requests of one cycle, the core's own go first, and then those of other cores by
core (R288). -/
def joinQueue (k : Nat) (r : TileReq) : List TileReq → List TileReq
  | [] => [r]
  | x :: l =>
    if x.since = r.since ∧ x.f.core ≠ k ∧ (r.f.core = k ∨ r.f.core < x.f.core) then r :: x :: l else x :: joinQueue k r l

/-- A request is sent to a core's tile (R202). -/
def State.tileSend (s : State) (f : Firing) (k key width : Nat) (op : TileOp) (acq : Bool) : State :=
  s.onCore k (fun (c : Core) => { c with
    tileReqs := joinQueue k ⟨f, key / Config.tileBytes, key % Config.tileBytes, width, op, acq, s.time, none⟩ c.tileReqs })

/-- An access of an instance to a scratchpad byte goes to the request ports of its tile (R287, R288); a workgroup that has retired has no
tile left for it. -/
def State.spadSend (s : State) (f : Firing) (k off width : Nat) (op : TileOp) (acq : Bool) : State :=
  let tiles := s.spadTilesAt k (s.groupOf f).1 (s.groupOf f).2
  if tiles.isEmpty then s else s.tileSend f k (spadKey tiles off) width op acq

/-- An access is an acquire that acts beyond its device (R186). -/
def acquires (w : SlotWord) : Bool := (w.ordering == .acq || w.ordering == .ar) && wideScope w.scope

/-- An `ld` delivers what it has read (R189): the acquire's actions come between its performance and its tokens (R186). -/
def State.deliver (s : State) (f : Firing) (w : SlotWord) (v : Nat) (poison : Bool) : State :=
  (s.acquireActs f w.ordering w.scope).emit2 f w (if poison then .err .poison else bitsVal w.ty v) .order

/-- `ld` (R189): a hit in the CACHE tiles returns at once, a miss waits for its fill (R294), and a scratchpad access goes to its tile. -/
def execLd (w : SlotWord) (s : State) : Host.Outcome State Fault Refusal :=
  let f := s.fire
  let n := w.ty.bytes
  .next (s.operation f w false [s.opA f w] (fun s =>
    s.withPlace f w n .read true false (s.opA f w) (fun s _ q =>
      match q with
      | .spad k off => s.spadSend f k off n (.read w.ty) (acquires w)
      | q =>
        match s.lookup f q with
        | .hit d poison => s.deliver f w (d.toNat / 2 ^ (8 * q.offset) % 2 ^ (8 * n)) poison
        | .miss key => s.onCore f.core (fun (c : Core) => { c with misses := c.misses ++ [(⟨f, w, key, q.offset, false, s.epoch⟩ : L1Miss)] })
        | .direct =>
          match s.readAt .read f q n with
          | (s, v, poison) => s.deliver f w v poison))).settle

/-- `st` (R190). -/
def execSt (w : SlotWord) (s : State) : Host.Outcome State Fault Refusal :=
  let f := s.fire
  let n := w.ty.bytes
  .next (s.operation f w true [s.opA f w, s.opB f w] (fun s =>
    s.withPlace f w n .write false true (s.opA f w) (fun s g q =>
      match storeImage w.ty (s.opB f w) with
      | none => s.commit f 0x20 .write (some g) 0
      | some b =>
        s.releasing f w.ordering w.scope .write (some g) (fun s =>
          match q with
          | .spad k off => s.spadSend f k off n (.write b) false
          | q => (s.writeAt .write f q (bytesLE n b)).emitBoth f w .order)))).settle

/-! ### Atomics (R191 to R195) -/

/-- Which of the paths of R195 performs an atomic operation on host memory: performed, not completed by the host, or none. -/
inductive HostPath where
  | done | failed | missing
  deriving DecidableEq, Repr

/-- The path of a host atomic of a width in bits (R195, R393). -/
def State.hostPath (s : State) (bits : Nat) : HostPath :=
  let listed := natBit s.hostcap.toNat (if bits = 32 then 2 else if bits = 64 then 3 else 4)
  if natBit s.hostcap.toNat 10 then .done
  else if listed then (if Config.hostCompletes bits then .done else .failed)
  else if s.assisted 2 then .done
  else .missing

/-- The state before a read-modify-write reads at a place: the die slice of a device target holds its words in M (R194, R296). -/
def State.ownPlace (s : State) (f : Firing) (q : Place) (n : Nat) : State :=
  match q with
  | .dev pa => ((s.accessAs .rmw (s.groupOf f).1).devOwn (dieOf f.core) (dwordsOf pa n)).settle
  | _ => s

/-- A read-modify-write of n bytes at a place (R183, R194): `g` gives the new number, none for no write. Its answer is the old
number, none when the target is poisoned. A remote target is performed at its home, past the die's own copy. -/
def State.rmwAt (s : State) (f : Firing) (q : Place) (n : Nat) (g : Nat → Option Nat) : State × Option Nat :=
  match q with
  | .remote dev a =>
    let s := (dwordsOf a n).foldl (fun s i => s.remoteSend (dieOf f.core) dev i) s
    let old := readLE (cellRead s.remoteMem) (remoteAddr dev a) n
    if (dwordsOf a n).any (fun i => s.remotePoison.contains (dev * 2 ^ 49 + i)) then (s, none)
    else
      let s := match g old with
        | some v => { s with remoteMem := cellWrites s.remoteMem (remoteAddr dev a) (bytesLE n v) }
        | none => s
      (s, some old)
  | q =>
    match (s.ownPlace f q n).readAt .rmw f q n with
    | (s, _, true) => (s, none)
    | (s, old, false) =>
      match g old with
      | some v => (s.writeAt .rmw f q (bytesLE n v), some old)
      | none => (s, some old)

/-- The scope at which an atomic is performed at a place (R194): at least domain at another device, system at the host. -/
def atomicScope (q : Place) (c : Scope) : Scope :=
  match q with
  | .remote _ _ => if wideScope c then c else .dom
  | .host _ => .sys
  | _ => c

/-- An atomic instance at its place (R192, R193, R194): at a memory tile, which it asks for `op`; elsewhere with release and acquire
actions, host paths, and what follows the old value. -/
def State.atomicAt (s : State) (f : Firing) (w : SlotWord) (n : Nat) (ga : Nat) (q : Place) (op : TileOp) (g : Nat → Option Nat)
    (give : State → Option Nat → State) : State :=
  let go := fun (s : State) =>
    s.releasing f w.ordering (atomicScope q w.scope) .rmw (some ga) (fun s =>
      match s.rmwAt f q n g with
      | (s, old) => give (s.acquireActs f w.ordering (atomicScope q w.scope)) old)
  match q with
  | .spad k off =>
    s.releasing f w.ordering w.scope .rmw (some ga) (fun s => s.spadSend f k off n op (acquires w))
  | .host _ =>
    match s.hostPath (8 * n) with
    | .done => go s
    | .failed => s.refuse f { s.firingRec f 0x11 2 .rmw 5 with va := some ga }
    | .missing => s.commit f 0x70 .rmw (some ga) 0
  | _ => go s

/-- The new value of `atom` (R191): operation MOD on the old bits and b. -/
def atomNew (mod : Nat) (t : Ty) (old b : Nat) : Nat :=
  let io := if t.signed then toSigned t.width old else old
  let ib := if t.signed then toSigned t.width b else b
  let fl := fun (op : Nat) (f : Fmt) (x y : Nat) =>
    f.deliver .rne (if op = 10 then fAdd .rne (f.decode x) (f.decode y) else fPick (op == 12) (f.decode x) (f.decode y))
  match mod with
  | 0 => wrap t.width (io + ib)
  | 1 => wrap t.width (io - ib)
  | 2 => old &&& b
  | 3 => old ||| b
  | 4 => Nat.xor old b
  | 5 => if io ≤ ib then old else b
  | 6 => if ib ≤ io then old else b
  | 7 => b
  | 8 => if b ≤ old then 0 else old + 1
  | 9 => if old = 0 ∨ b < old then b else old - 1
  | op =>
    if t.isPacked then
      fl op (fmtOf t) (old % 65536) (b % 65536) + 65536 * fl op (fmtOf t) (old / 65536) (b / 65536)
    else fl op (fmtOf t) old b

/-- The value token of an old value (R183, R192). -/
def oldVal (t : Ty) (old : Option Nat) : Val :=
  match old with
  | none => .err .poison
  | some v => bitsVal t v

/-- `atom` (R192). -/
def execAtom (w : SlotWord) (s : State) : Host.Outcome State Fault Refusal :=
  let f := s.fire
  let n := w.ty.bytes
  .next (s.operation f w false [s.opA f w, s.opB f w] (fun s =>
    s.withPlace f w n .rmw true true (s.opA f w) (fun s g q =>
      match storeImage w.ty (s.opB f w) with
      | none => s.commit f 0x20 .rmw (some g) 0
      | some b => s.atomicAt f w n g q (.atom w.mod.toNat w.ty b) (fun old => some (atomNew w.mod.toNat w.ty old b))
          (fun s old => s.emit2 f w (oldVal w.ty old) .order)))).settle

/-- `cas` (R193). -/
def execCas (w : SlotWord) (s : State) : Host.Outcome State Fault Refusal :=
  let f := s.fire
  let n := w.ty.bytes
  .next (s.operation f w false [s.opA f w, s.opB f w, s.opC f w] (fun s =>
    s.withPlace f w n .rmw true true (s.opA f w) (fun s g q =>
      match storeImage w.ty (s.opB f w), storeImage w.ty (s.opC f w) with
      | some e, some v => s.atomicAt f w n g q (.cas w.ty e v) (fun old => if old = e then some v else none)
          (fun s old => s.emit2 f w (oldVal w.ty old) .order)
      | _, _ => s.commit f 0x20 .rmw (some g) 0))).settle

/-- The four tokens of a `cas2` (R193), the tail firing with its head. -/
def State.emitFour (s : State) (f : Firing) (w : SlotWord) (lo ord hi ok : Val) : State :=
  (s.emit2 f w lo ord).emit2 (s.casTail f).2 (s.casTail f).1 hi ok

/-- The low and the high dword and the flag that a `cas2` returns (R183, R193). -/
def cas2Vals (old : Option Nat) (e : Nat) : Val × Val × Val :=
  (oldVal .b64 (old.map (fun o => o % 2 ^ 64)), oldVal .b64 (old.map (fun o => o / 2 ^ 64)),
    match old with
    | none => .err .poison
    | some o => .data (flag (decide (o = e))))

/-- `cas2` (R193): the head runs for the pair; a tail fires with its head. -/
def execCas2 (w : SlotWord) (s : State) : Host.Outcome State Fault Refusal :=
  let f := s.fire
  let wt := (s.casTail f).1
  let nlo := s.operand f wt.a f.ta
  let nhi := s.operand f wt.b f.tb
  if w.mod = 1 then .next s
  else match s.go f w with
    | .skip => .next (s.emitFour f w .pass .pass .pass .pass)
    | .stop k => .next (s.emitFour f w (.err k) .pass (.err k) (.err k))
    | .poison => .next (s.commit f 0x20 .none none 0)
    | .fire =>
      if [s.opA f w, s.opB f w, s.opC f w, nlo, nhi].contains .pass then .next (s.emitFour f w .pass .pass .pass .pass)
      else .next (s.withPlace f w 16 .rmw true true (s.opA f w) (fun s g q =>
        match storeImage .b64 (s.opB f w), storeImage .b64 (s.opC f w), storeImage .b64 nlo, storeImage .b64 nhi with
        | some el, some eh, some vl, some vh =>
          let e := el + 2 ^ 64 * eh
          let v := vl + 2 ^ 64 * vh
          s.atomicAt f w 16 g q (.cas2 e v) (fun old => if old = e then some v else none) (fun s old =>
            s.emitFour f w (cas2Vals old e).1 .order (cas2Vals old e).2.1 (cas2Vals old e).2.2)
        | _, _, _, _ => s.commit f 0x20 .rmw (some g) 0)).settle

/-! ### Fences (R196, R197) -/

/-- What a fence does when it performs. -/
def State.fenceActs (s : State) (f : Firing) (w : SlotWord) : State :=
  s.releasing f w.ordering w.scope .none none (fun s => (s.acquireActs f w.ordering w.scope).emitBoth f w .order)

/-- What a fence waits for has performed (R197): reads alone for `.acq`. -/
def State.fenceFree (s : State) (f : Firing) (w : SlotWord) : Bool :=
  if w.mod = 0 ∧ w.ordering = .acq then !s.earlierReads f else !s.earlierPending f

/-- `fence` (R197): it waits for the accesses of earlier loads. A `.sc` fence takes a ticket of its scope's sequencer, which at dom and
sys scope may answer later (R432). -/
def execFence (w : SlotWord) (s : State) : Host.Outcome State Fault Refusal :=
  let f := s.fire
  if s.opA f w = .pass then .next (s.emitBoth f w .pass)
  else if !s.fenceFree f w then .next (s.parkRelease f 0 (.va 0))
  else if w.mod = 1 ∧ wideScope w.scope then .next (s.park (s.keep f 0 0) .ticket)
  else
    let s := if w.mod = 1 then { s with tickets := s.tickets + 1 } else s
    .next (s.fenceActs f w)

/-! ### Window queries (R198, R199) -/

/-- Window code of a generic address (R39). -/
def windowCode (a : Nat) : Nat :=
  match natBits a 63 60 with
  | 0x0 => 0
  | 0xC => 1
  | 0xD => 2
  | 0xE => 3
  | _ => 7

/-- `sptest` (R198). -/
def execSptest (w : SlotWord) (s : State) : Host.Outcome State Fault Refusal :=
  .next (s.value s.fire w (fun a _ _ => .data (BitVec.ofNat 64 (windowCode a.toNat))))

/-- An instance whose data may raise a contained fault: the predicate and R34, then `g` on A's payload. -/
def State.castOp (s : State) (f : Firing) (w : SlotWord) (g : Nat → Except Nat Nat) : State :=
  match s.go f w with
  | .skip => s.emitBoth f w .pass
  | .stop k => s.emitBoth f w (.err k)
  | .poison => s.commit f 0x20 .none none 0
  | .fire =>
    match s.opA f w with
    | .data a =>
      match g a.toNat with
      | .ok v => s.emitBoth f w (.data (BitVec.ofNat 64 v))
      | .error c => s.commit f c .none (some a.toNat) 0
    | v => s.emitBoth f w v

/-- `spcast.to` (R199). -/
def execSpcastTo (w : SlotWord) (s : State) : Host.Outcome State Fault Refusal :=
  .next (s.castOp s.fire w (fun a =>
    match w.space with
    | .g => if windowCode a = 0 then .ok (natBits a 55 0) else .error 0x12
    | .p => if windowCode a = 1 then .ok (natBits a 55 0) else .error 0x12
    | .s => if windowCode a = 2 then .ok (natBits a 19 0) else .error 0x12
    | .c => if windowCode a = 3 then .ok (natBits a 22 0) else .error 0x12
    | .x => .ok a))

/-- `spcast.from` (R199). -/
def execSpcastFrom (w : SlotWord) (s : State) : Host.Outcome State Fault Refusal :=
  .next (s.castOp s.fire w (fun a => composeAddress w.space s.fire.core a))

/-! ### Prefetch (R200) -/

/-- The first byte of the line that holds a place. -/
def Place.lineStart : Place → Place
  | .dev a => .dev (a / 128 * 128)
  | .host a => .host (a / 128 * 128)
  | .remote d a => .remote d (a / 128 * 128)
  | .spad k a => .spad k a

/-- `pref` (R200): a global address that translates brings its line in; anything else does nothing. R177 gives it no type, so that its
address is checked for one byte, and R200 does not speak of a Poison predicate, which commits 0x20 as R77 says (DEDUCED, log 80). -/
def execPref (w : SlotWord) (s : State) : Host.Outcome State Fault Refusal :=
  let f := s.fire
  .next (s.operation f w true [s.opA f w] (fun s =>
    let done := fun (s : State) => s.emitBoth f w .order
    match s.formAddress f w.space 1 1 (s.opA f w) with
    | .ok (g, .va a) =>
      if windowCode g ≠ 0 then done s
      else match s.locate f.core f.thread (.va a) true false with
        | (s, .ok q) =>
          match s.l1Key q with
          | none => done s
          | some _ =>
            let line := q.lineStart
            let s := (s.readAt .read f line 128).1
            done (if w.mod = 1 then s.fillLine f.core line else s)
        | (s, _) => done s
    | _ => done s)).settle

/-! ### Memory tiles (R201 to R203) -/

/-- The offset operand of a tile access of n bytes (R201). -/
def State.tileOffset (s : State) (f : Firing) (w : SlotWord) (n align : Nat) (v : Val) : Except Nat Nat :=
  match v with
  | .err .poison => .error 0x20
  | .err _ => .error 0x12
  | v =>
    let off := v.bits.toNat
    if s.tileRoom f w < off + n then .error 0x12 else if off % align ≠ 0 then .error 0x15 else .ok off

/-- `gth` (R201): the value follows when the tile has served the request. -/
def execGth (w : SlotWord) (s : State) : Host.Outcome State Fault Refusal :=
  let f := s.fire
  let n := w.ty.bytes
  .next (s.operation f w false [s.opA f w] (fun s =>
    match s.tileOffset f w n n (s.opA f w) with
    | .error c => s.commit f c .read none 0
    | .ok off => s.tileSend f f.core (s.tileKey f w off) n (.read w.ty) false))

/-- `sct` (R201). -/
def execSct (w : SlotWord) (s : State) : Host.Outcome State Fault Refusal :=
  let f := s.fire
  let n := w.ty.bytes
  .next (s.operation f w true [s.opA f w, s.opB f w] (fun s =>
    match s.tileOffset f w n n (s.opA f w) with
    | .error c => s.commit f c .write none 0
    | .ok off =>
      match storeImage w.ty (s.opB f w) with
      | none => s.commit f 0x20 .write none 0
      | some b => s.tileSend f f.core (s.tileKey f w off) n (.write b) false))

/-- The bank that an access needs, counted over the eight banks of each tile (R286). -/
def TileReq.bank (r : TileReq) : Nat := 8 * r.tile + r.off / 8 % 8

/-- The banks that an access needs: a `cas2` takes two. -/
def TileReq.banks (r : TileReq) : List Nat := if 8 < r.width then [r.bank, r.bank + 1] else [r.bank]

/-- The oldest access of a bank that has not been served, among the 256 that its tile's scoreboard tracks (R286, R292). -/
def Core.bankNext (c : Core) (bank : Nat) : Option TileReq :=
  ((c.tileReqs.filter (fun (r : TileReq) => r.tile == bank / 8)).take 256).find? (fun (r : TileReq) =>
    r.got.isNone && r.banks.contains bank)

/-- What an access finds at its tile bytes, and what it writes there (R183, R192, R193, R201): the old number is none where a dword is
poisoned. -/
def TileOp.serve (op : TileOp) (old : Option Nat) : List Val × Option Nat :=
  match op with
  | .read ty => ([oldVal ty old], none)
  | .write v => ([.order], some v)
  | .atom mod ty b => ([oldVal ty old], old.map (fun o => atomNew mod ty o b))
  | .cas ty e v => ([oldVal ty old], if old = some e then some v else none)
  | .cas2 e v =>
    ([(cas2Vals old e).1, (cas2Vals old e).2.1, (cas2Vals old e).2.2], if old = some e then some v else none)

/-- The tokens of an access that its tile answers: order, a value, or those of a `cas2`; an acquire acts before them (R186). -/
def State.tileAnswer (s : State) (r : TileReq) : State :=
  let s := if r.acq then s.remoteInvalidate (dieOf r.f.core) else s
  match s.fieldsOf r.f, r.got with
  | some w, some [v] => match r.op with
    | .write _ => s.emitBoth r.f w .order
    | _ => s.emit2 r.f w v .order
  | some w, some [lo, hi, ok] => s.emitFour r.f w lo .order hi ok
  | _, _ => s

/-- A vector request whose accesses have all been served answers them together (R292). -/
def State.tileAnswers (s : State) (core : Nat) (r : TileReq) : State :=
  let mine := fun (x : TileReq) => x.tile == r.tile && x.f.together r.f
  let all := (s.core core).tileReqs.filter mine
  if all.all (fun x => x.got.isSome) then
    all.foldl State.tileAnswer (s.onCore core (fun (c : Core) => { c with tileReqs := c.tileReqs.filter (fun x => !mine x) }))
  else s

/-- TILE_REQUEST_SERVICE: a bank of a tile serves the oldest access that needs it (R202, R292). -/
def execTileRequestService (core bank : Nat) (s : State) : Host.Outcome State Fault Refusal :=
  let c := s.core core
  match c.bankNext bank with
  | none => .next s
  | some r =>
    if r.banks.any (fun b => c.bankNext b != some r) then .next s
    else
      let key := Config.tileBytes * r.tile + r.off
      let bad := (List.range r.width).any (fun i => c.tileMark (key + i))
      let out := r.op.serve (if bad then none else some (readLE c.tileByte key r.width))
      let c := { c with tileReqs := c.tileReqs.map (fun x => if x = r then { x with got := some out.1 } else x) }
      let c := match out.2 with
        | some v => c.tileStore key (bytesLE r.width v)
        | none => c
      .next ((s.setCore core c).tileAnswers core r)

/-! ### Engine transfers of memory tiles (R203) -/

/-- A transfer with nothing set. -/
def Transfer.blank (f : Firing) : Transfer where
  id := 0
  op := .cpy
  cls := .copy
  f := f
  launch := 0
  wgid := 0
  lane := 0
  ctx := 0
  dst := 0
  src := 0
  bytes := 0
  cursor := 0
  poison := false
  chan := none
  port := 0
  port2 := 0
  ag := none
  mask := 0
  tile := 0
  buf := 0
  held := false
  discard := false
  counted := true
  queue := none
  index := 0
  era := 0
  signal := 0
  status := 0
  srcBad := none
  dstBad := none

/-- A transfer of an instance's thread enters its core's engines and is counted (R235, R236). -/
def State.startTransfer (s : State) (x : Transfer) : State :=
  let f := x.f
  let th := s.ft f
  let ctx := s.ctxAt f.core f.thread
  let s := s.countUp f.core f.thread x.cls
  s.onCore f.core (fun (c : Core) => { c with
    transfers := c.transfers ++ [{ x with
      id := c.nextTransfer, launch := th.launch, wgid := th.wgid, lane := th.lane, ctx := ctx }]
    nextTransfer := c.nextTransfer + 1 })

/-- The address by which an engine reaches an offset of a tile's buffer, or of the scratchpad. -/
def State.tileAddr (s : State) (f : Firing) (w : SlotWord) (off : Nat) : Nat :=
  if w.tile = 32 then 0xD * 2 ^ 60 + f.core * 2 ^ 47 + off else s.tileKey f w off

/-- Issue of `mtld` and `mtst` (R203), the first fault found committed. R203 states no effect of an error token other than Poison on the
count, which commits 0x44 here as R239 has it for copies (DEDUCED, log 81). -/
def State.tileMove (s : State) (f : Firing) (w : SlotWord) (op : TOp) : State :=
  let kind := if op = .mtld then AccessKind.engineRead else .engineWrite
  match s.opC f w with
  | .err .poison => s.commit f 0x20 kind none 0
  | .data n =>
    let n := n.toNat
    if n % 8 ≠ 0 ∨ n < 8 ∨ 32768 < n then s.commit f 0x44 kind none 0
    else match s.formAddress f w.space n 8 (s.opA f w) with
      | .error (c, va) => s.commit f c kind va 0
      | .ok (g, _) =>
        match s.tileOffset f w n 8 (s.opB f w) with
        | .error c => s.commit f c kind none 0
        | .ok off =>
          if s.countRoom f.core f.thread .gather then
            let t : Transfer := { Transfer.blank f with
              op := op, cls := .gather, bytes := n, tile := w.tile, buf := w.buffer
              dst := if op = .mtld then s.tileAddr f w off else g
              src := if op = .mtld then g else s.tileAddr f w off }
            (s.startTransfer t).emitBoth f w .order
          else s.parkCounter f
  | _ => s.commit f 0x44 kind none 0

/-- `mtld` (R203). -/
def execMtld (w : SlotWord) (s : State) : Host.Outcome State Fault Refusal :=
  .next (s.operation s.fire w true [s.opA s.fire w, s.opB s.fire w, s.opC s.fire w] (fun s => s.tileMove s.fire w .mtld))

/-- `mtst` (R203). -/
def execMtst (w : SlotWord) (s : State) : Host.Outcome State Fault Refusal :=
  .next (s.operation s.fire w true [s.opA s.fire w, s.opB s.fire w, s.opC s.fire w] (fun s => s.tileMove s.fire w .mtst))

end Sys2Proof.Machine
end

