-- ==== Sys2Proof/Machine/Packets.lean ====
section
/-! DEFINITION. Queue descriptors, memory as the hub die reaches it for packets, completion signals and queue errors (spec 14 R395
to R401). -/

namespace Sys2Proof.Machine

/-! ### Queue descriptors (R397) -/

/-- A queue; an unlisted one is a queue after reset. -/
def State.queue (s : State) (q : Nat) : Queue := (s.queues.look q).getD Queue.reset

/-- The state with one queue changed. -/
def State.onQueue (s : State) (q : Nat) (f : Queue → Queue) : State := { s with queues := s.queues.put q (f (s.queue q)) }

/-- STATE: 0 DISABLED, 1 ACTIVE, 2 ERROR. -/
def Queue.state (q : Queue) : Nat := natBits q.qctl.toNat 63 62
/-- Translation context of the queue's packets. -/
def Queue.ctx (q : Queue) : Nat := natBits q.qctl.toNat 23 12
/-- Priority. -/
def Queue.prio (q : Queue) : Nat := natBits q.qctl.toNat 25 24
/-- Pre-emption depth: 3 acts as 1. -/
def Queue.pdepth (q : Queue) : Nat := if natBits q.qctl.toNat 27 26 = 3 then 1 else natBits q.qctl.toNat 27 26
/-- Ring size. -/
def Queue.size (q : Queue) : Nat := 2 ^ clamp 4 16 (natBits q.qctl.toNat 4 0)

/-- A queue enters ERROR (R401). -/
def State.queueError (s : State) (q code index : Nat) : State :=
  s.onQueue q (fun (x : Queue) => { x with
    qctl := setField (setField x.qctl 63 62 2) 39 32 code, qerridx := BitVec.ofNat 64 index, header := none })

/-! ### The hub die's accesses -/

/-- Why an access of the hub die does not go on. -/
inductive HubStop where
  | wait | denied | silent
  deriving DecidableEq, Repr

/-- Number under which holds name the hub die; the C-dies are 0 to 7. -/
def hubDie : Nat := 8

/-- The record of an access of the hub die: one of a graph's seeds is an engine's, and names the graph (R344). -/
def State.hubRec (s : State) (ctx va : Nat) (rd wr : Bool) (i : HeldItem) (cause cls detail : Nat) : FaultRec :=
  let seeds := match i with | .seeds id => some id | _ => none
  let kind := if seeds.isSome then (if wr then AccessKind.engineWrite else .engineRead)
    else if rd && wr then .rmw else if wr then .write else .read
  { s.blankRec cause cls kind detail with va := some va, ctx := some ctx, launch := seeds.getD 0 }

/-- The place of a global virtual address for the hub die (R375, R400): an absent page holds the access with a record, a refused one is
recorded (R361). -/
def State.hubPlace (s : State) (ctx va : Nat) (rd wr : Bool) (i : HeldItem) : State × Except HubStop Place :=
  match s.hubTranslate (match i with | .seeds id => id | _ => 0) ctx va rd wr with
  | (s, .page e) =>
    match e.place va with
    | .dev pa => if s.stackOpen pa then (s, .ok (.dev pa)) else (s, .error .wait)
    | .remote dev a => if s.unreachable dev (a / 128) then (s, .error .silent) else (s, .ok (.remote dev a))
    | q => (s, .ok q)
  | (s, .absent d) =>
    (s.hold hubDie ctx va i { s.hubRec ctx va rd wr i 0x10 1 d with held := true }, .error .wait)
  | (s, .ats) => (s.atsWait hubDie ctx va i, .error .wait)
  | (s, .denied d pa) => (s.fqPost { s.hubRec ctx va rd wr i 0x11 2 d with pa := pa } none, .error .denied)

/-- Bytes that the hub die reads at a place, by an access of a kind for a launch (R469). -/
def State.hubReadAs (s : State) (kind : AccessKind) (launch : Nat) (q : Place) (n : Nat) : State × List Byte :=
  match q with
  | .dev pa => let s := ((s.accessAs kind launch).hubFetch pa n).settle; (s, readBytes s.viewByte pa n)
  | .host ba => (s, readBytes (cellRead s.hostMem) ba n)
  | .remote dev a => (s, readBytes (cellRead s.remoteMem) (remoteAddr dev a) n)
  | .spad _ _ => (s, List.replicate n 0)

/-- Bytes that the hub die reads for a packet, an access that names no launch. -/
def State.hubRead (s : State) (q : Place) (n : Nat) : State × List Byte := s.hubReadAs .read 0 q n

/-- Bytes that the hub die writes at a place, by an access of a kind for a launch. -/
def State.hubWriteAs (s : State) (kind : AccessKind) (launch : Nat) (q : Place) (bs : List Byte) : State :=
  match q with
  | .dev pa => ((s.accessAs kind launch).hubStore pa bs).settle
  | .host ba => s.hostPut ba bs
  | .remote dev a => { s with remoteMem := cellWrites s.remoteMem (remoteAddr dev a) bs }
  | .spad _ _ => s

/-- Bytes that the hub die writes for a packet. -/
def State.hubWrite (s : State) (q : Place) (bs : List Byte) : State := s.hubWriteAs .write 0 q bs

/-- The state before an atomic that the hub die issues reads n bytes of device memory: the slices of the home dies hold the words in M
(R194, R296), and an error that the fetch finds is reported (R469). -/
def State.hubOwn (s : State) (pa n : Nat) : State :=
  ((dwordsOf pa n).foldl (fun s i => s.devOwn (s.homeOf (8 * i)) [i]) (s.accessAs .rmw 0)).settle

/-- A release at sys scope that the hub die makes for threads of every die: their dirty remote-homed words are written home (R186, R301). -/
def State.hubRelease (s : State) : State := Sys2Proof.Machine.dies.foldl State.remoteWriteBack s

/-- Launch id of the packet at an index of a queue (R402). -/
def launchId (q index : Nat) : Nat := q * 2 ^ 22 + index % 2 ^ 22

/-- Under what number holds keep the completion of a packet; the start of a queue's next packet is kept under the queue. -/
def doneKey (q index : Nat) : Nat := 1024 + launchId q index

/-- An access kept under a number is held (R371) or waits for a translation answer (R377). -/
def State.keyHeld (s : State) (key : Nat) : Bool :=
  s.heldItems.contains (.packet key)

/-! ### Completion (R400) -/

/-- A completion signal is decremented by 1, as an atomic release at sys scope (R400, R272): what the work wrote is home before (R301), and a
poisoned signal is left as it is (R183). The answer says whether the completion is
over; it waits while its page is held. A path that is missing, a page that refuses, or a device that does not answer puts the
queue in ERROR and leaves the signal unchanged. -/
def State.signalDown (s : State) (q index ctx signal : Nat) : State × Bool :=
  if signal = 0 then (s, true)
  else match s.hubPlace ctx signal true true (.packet (doneKey q index)) with
    | (s, .error .wait) => (s, false)
    | (s, .error .denied) => (s.queueError q 4 index, true)
    | (s, .error .silent) => (s.queueError q 7 index, true)
    | (s, .ok p) =>
      let down := fun (s : State) =>
        match s.hubReadAs .rmw 0 p 8 with
        | (s, bs) => s.hubWriteAs .rmw 0 p (bytesLE 8 ((fromLE bs + 2 ^ 64 - 1) % 2 ^ 64))
      match p with
      | .host _ => if s.hostPath 64 = .done then (down s.hubRelease, true) else (s.queueError q 6 index, true)
      | .dev pa =>
        let s := s.hubRelease.hubOwn pa 8
        (if s.devPoisoned pa 8 then s else down s, true)
      | _ => (down s.hubRelease, true)

/-- A packet of a queue is marked, that of an index and of the enabling in which it started. -/
def Queue.mark (x : Queue) (index era : Nat) (f : Packet → Packet) : Queue :=
  let all := x.started.map (fun (p : Packet) => if p.index = index ∧ p.era = era then f p else p)
  { x with started := all.filter (fun (p : Packet) => !(p.retired && p.completed)) }

/-- A started packet completes: its signal is decremented, and then it counts as complete (R398 BARRIER, R400). -/
def State.completePacket (s : State) (q index era ctx signal : Nat) : State × Bool :=
  match s.signalDown q index ctx signal with
  | (s, true) => (s.onQueue q (fun x => x.mark index era (fun (p : Packet) => { p with completed := true })), true)
  | (s, false) => (s, false)

end Sys2Proof.Machine
end

