-- ==== Sys2Proof/Machine/Copy.lean ====
section
/-! DEFINITION. The copy and stream class, opcodes 0xE0 to 0xEA (spec 08 R235 to R253; 11 R336, R337; 20 R463), and the transfers of
memory tiles (06 R203): issue, bursts, holds and completion. -/

namespace Sys2Proof.Machine

/-! ### Channels -/

/-- A channel counts words (R251). -/
def Core.chanCount (c : Core) (ch : Option Nat) (words : Nat) : Core :=
  match ch with
  | none => c
  | some n =>
    match c.chans.look n with
    | some x => { c with chans := c.chans.put n { x with count := x.count + words } }
    | none => c

/-! ### Addresses of a transfer -/

/-- Element size of an address generator in bytes (R98). -/
def AgFields.elem (a : AgFields) : Nat := 2 ^ a.elemLog

/-- Address number n of a generator (R98): inner first, modulo 2^64. -/
def AgFields.addr (a : AgFields) (base n : Nat) : Nat :=
  wrap 64 ((base : Int) + (n % a.c0 : Nat) * a.s0 + (n / a.c0 : Nat) * a.s1)

/-- Unit in which a stream copy moves: a dword, or an element (R236). -/
def Transfer.unit (x : Transfer) : Nat := match x.ag with | some a => a.elem | none => 8

/-- Generic address of byte o of a stream copy (R244). -/
def Transfer.addrAt (x : Transfer) (base o : Nat) : Nat :=
  match x.ag with
  | some a => a.addr base (o / a.elem)
  | none => base + o

/-- The place of n bytes at a generic address for a transfer (R241): its thread's windows, or, for a COPY packet, global. -/
def State.engineAt (s : State) (k : Nat) (x : Transfer) (g n : Nat) (rd wr : Bool) : State × Except Stop Place :=
  match (if x.queue.isSome then .ok (Target.va g) else s.window k x.f.thread g n 1) with
  | .error e => (s, .error (.fault e 0))
  | .ok t => (s.accessAs .none x.launch).locateCtx k x.ctx t rd wr

/-- The record of a transfer (R363, R364, R463): the port field is zero for a memory-to-memory copy (R241), and none for `mtld` and
`mtst`. -/
def State.transferRec (s : State) (k : Nat) (x : Transfer) (cause cls : Nat) (kind : AccessKind) (g detail : Nat) :
    FaultRec :=
  let tile := x.op == .mtld || x.op == .mtst
  let port := if kind = .inStream ∨ kind = .outStream then some (0x40 + x.port) else if tile then none else some 0
  if x.queue.isSome then
    { s.blankRec cause cls kind detail with core := some k, va := some g, ctx := some x.ctx, port := port }
  else
    { s.firingRec x.f cause cls kind detail with
      launch := x.launch, lane := some x.lane, ctx := some x.ctx, va := some g, port := port }

/-- A transfer waits for its translation: it takes no turns (R336). -/
def State.pauseTransfer (s : State) (k : Nat) (x : Transfer) : State :=
  s.onCore k (fun (c : Core) => c.onTransfer x.id (fun (x : Transfer) => { x with held := true }))

/-- A transfer is held at an absent page (R181, R243): the port of a stream copy becomes HELD. -/
def State.holdTransfer (s : State) (k : Nat) (x : Transfer) : State :=
  (s.pauseTransfer k x).onCore k (fun (c : Core) =>
    if x.op = .cpyms ∨ x.op = .cpysm then
      c.onPort x.port (fun (q : Port) => if q.state = .opened then { q with state := .held } else q)
    else c)

/-- A refused page (R241): the workgroup of the transfer is aborted, or its packet's status becomes 0x11; the transfer ends with the bytes
that it has moved. -/
def State.denyTransfer (s : State) (k : Nat) (x : Transfer) (kind : AccessKind) (g detail : Nat) (pa : Option Nat) : State :=
  let s := s.onCore k (fun (c : Core) => c.onTransfer x.id (fun (x : Transfer) => { x with discard := true, status := 0x11 }))
  if x.queue.isSome then s
  else s.abortFault k x.f.thread { s.transferRec k x 0x11 2 kind g detail with pa := pa }

/-- What a stop does to a transfer that waits on it: an absent page is held with its record. While a translation answer is awaited there is
no fault yet, and the port of a stream copy stays OPEN (R243, R377, R463). -/
def State.stallTransfer (s : State) (k : Nat) (x : Transfer) (kind : AccessKind) (g : Nat) (e : Stop) : State :=
  match e with
  | .absent va d =>
    (s.hold (dieOf k) x.ctx va (.transfer k x.id) { s.transferRec k x 0x10 1 kind g d with held := true }).holdTransfer k x
  | .ats va => (s.atsWait (dieOf k) x.ctx va (.transfer k x.id)).pauseTransfer k x
  | .denied d pa => s.denyTransfer k x kind g d pa
  | _ => s

/-! ### Memory-to-memory copies (R240 to R242, R203) -/

/-- Dwords of a memory copy. -/
def Transfer.dwords (x : Transfer) : Nat := x.bytes / 8

/-- A copy goes downwards when its destination overlaps its source from above, so that each source dword is still there. -/
def Transfer.down (x : Transfer) : Bool := x.op == .cpy && decide (x.src < x.dst) && decide (x.dst < x.src + x.bytes)

/-- The dword that a step of a copy moves. -/
def Transfer.dwordAt (x : Transfer) (step : Nat) : Nat := if x.down then x.dwords - 1 - step else step

/-- Source dword whose value before the copy a destination dword takes (R240): its own, or, where the ranges overlap, the one whose
value the copy writes there; which is open (log 14). -/
def Transfer.pick (x : Transfer) (k : Nat) : Nat → Nat → Nat
  | 0, i => i
  | fuel + 1, i =>
    let hop := Config.overlapChoice ((k * 2 ^ 32 + x.id) * 2 ^ 32 + i)
    if x.op = .cpy ∧ hop then
      let up := (x.src - x.dst) / 8
      let dn := (x.dst - x.src) / 8
      if x.dst < x.src ∧ i + up < x.dwords then x.pick k fuel (i + up)
      else if x.src < x.dst ∧ dn ≤ i then x.pick k fuel (i - dn)
      else i
    else i

/-- A class-3 record of an access that a transfer could not make: queued when the transfer has not failed at that page since it last
reached memory (log 76). -/
def State.failNote (s : State) (k : Nat) (x : Transfer) (cause : Nat) (kind : AccessKind) (write : Bool) (g detail : Nat) : State :=
  let page := some (g / 4096)
  if (if write then x.dstBad else x.srcBad) = page then s
  else (s.fqPost (s.transferRec k x cause 3 kind g detail) none).onCore k (fun (c : Core) =>
    c.onTransfer x.id (fun (x : Transfer) => if write then { x with dstBad := page } else { x with srcBad := page }))

/-- A transfer has reached memory: a later failure at the same page is reported again. -/
def State.reached (s : State) (k : Nat) (x : Transfer) (write : Bool) : State :=
  if (if write then x.dstBad else x.srcBad).isNone then s
  else s.onCore k (fun (c : Core) =>
    c.onTransfer x.id (fun (x : Transfer) => if write then { x with dstBad := none } else { x with srcBad := none }))

/-- A dword that a copy carries: its value and its mark; `none` marks a dword that no source supplied. -/
inductive Carry where
  | word (v : Nat) (poison : Bool)
  | stopped
  deriving DecidableEq, Repr

/-- Read the source dword of a step (R241). -/
def State.copyRead (s : State) (k : Nat) (x : Transfer) (step : Nat) : State × Carry :=
  let i := x.pick k x.dwords (x.dwordAt step)
  let g := x.src + 8 * i
  if x.op = .mtst ∧ x.tile ≠ 32 then
    let c := s.core k
    (s, .word (readLE c.tileByte g 8) (c.tileMark g))
  else
    match s.engineAt k x g 8 true false with
    | (s, .ok p) =>
      match s.readPlace .engineRead (dieOf k) x.launch x.wgid p 8 with
      | (s, v, poison) => (s.reached k x false, .word v poison)
    | (s, .error (.fault c d)) => (s.failNote k x c .engineRead false g d, .word 0 true)
    | (s, .error (.absent va d)) =>
      if x.poison then (s.failNote k x 0x10 .engineRead false g d, .word 0 true)
      else (s.stallTransfer k x .engineRead g (.absent va d), .stopped)
    | (s, .error e) => (s.stallTransfer k x .engineRead g e, .stopped)

/-- Write a dword at a place with its mark. -/
def State.putDword (s : State) (k : Nat) (x : Transfer) (p : Place) (v : Nat) (poison : Bool) : State :=
  if poison then s.poisonPlace .engineWrite (dieOf k) x.launch x.wgid p else s.writePlace .engineWrite (dieOf k) x.launch x.wgid p (bytesLE 8 v)

/-- Cores of a cluster that a mask selects (R242). -/
def maskCores (core mask : Nat) : List Nat := ((List.range 8).filter (fun i => mask.testBit i)).map (fun i => core / 8 * 8 + i)

/-- Write the destination dword of a step (R241, R242): the words written, none when the transfer stops. -/
def State.copyWrite (s : State) (k : Nat) (x : Transfer) (step v : Nat) (poison : Bool) : State × Option Nat :=
  let g := x.dst + 8 * x.dwordAt step
  if x.op = .mtld ∧ x.tile ≠ 32 then
    let s := s.onCore k (fun (c : Core) =>
      if poison then (c.tileStore g (List.replicate 8 0)).tileMarkPoison g else c.tileStore g (bytesLE 8 v))
    (s, some 2)
  else if x.op = .cpymc then
    let cores := maskCores k x.mask
    (cores.foldl (fun s i => s.putDword k x (.spad i g) v poison) s, some (2 * cores.length))
  else
    match s.engineAt k x g 8 false true with
    | (s, .ok p) => ((s.putDword k x p v poison).reached k x true, some 2)
    | (s, .error (.fault c d)) => (s.failNote k x c .engineWrite true g d, some 0)
    | (s, .error (.absent va d)) =>
      if x.poison then (s.failNote k x 0x10 .engineWrite true g d, some 0)
      else (s.stallTransfer k x .engineWrite g (.absent va d), none)
    | (s, .error e) => (s.stallTransfer k x .engineWrite g e, none)

/-- Move the dword at a transfer's cursor. The answer says whether it moved. -/
def State.copyStep (s : State) (k : Nat) (x : Transfer) : State × Bool :=
  let step := x.cursor / 8
  match s.copyRead k x step with
  | (s, .stopped) => (s, false)
  | (s, .word v poison) =>
    match s.copyWrite k x step v poison with
    | (s, none) => (s, false)
    | (s, some n) =>
      (s.onCore k (fun (c : Core) =>
        (c.onTransfer x.id (fun (x : Transfer) => { x with cursor := x.cursor + 8 })).chanCount x.chan n), true)

/-! ### Streams (R243 to R246) -/

/-- Copies ahead of a transfer in a port's queue have moved all their bytes. -/
def Core.headAt (c : Core) (n id : Nat) : Bool :=
  ((c.port n).queue.takeWhile (fun i => i != id)).all (fun i =>
    match c.transfer? i with | some x => x.discard || decide (x.bytes ≤ x.cursor) | none => true)

/-- Bytes of an inbound copy's unit enter its port (R244). -/
def State.streamIn (s : State) (k : Nat) (x : Transfer) : State × Bool :=
  let c := s.core k
  let u := x.unit
  let g := x.addrAt x.src x.cursor
  let add := fun (s : State) (v : Nat) (poison : Bool) =>
    s.onCore k (fun (c : Core) =>
      (c.onPort x.port (fun (q : Port) => { q with buf := q.buf ++ (bytesLE u v).map (fun b => (b, poison)) })).onTransfer
        x.id (fun (x : Transfer) => { x with cursor := x.cursor + u }))
  if !c.headAt x.port x.id || decide (4096 < (c.port x.port).buf.length + u) then (s, false)
  else match s.engineAt k x g u true false with
    | (s, .ok p) =>
      match s.readPlace .inStream (dieOf k) x.launch x.wgid p u with
      | (s, v, poison) => (add (s.reached k x false) v poison, true)
    | (s, .error (.fault cause d)) => (add (s.failNote k x cause .inStream false g d) 0 true, true)
    | (s, .error e) => (s.stallTransfer k x .inStream g e, false)

/-- A unit of an outbound copy leaves its port for memory (R245); a pending `sclose` lets a shorter last run out (R249). -/
def State.streamOut (s : State) (k : Nat) (x : Transfer) : State × Bool :=
  let c := s.core k
  let q := c.port x.port
  let u := match q.closing with | some r => min r x.unit | none => x.unit
  let g := x.addrAt x.dst x.cursor
  let take := fun (s : State) (words : Nat) =>
    s.onCore k (fun (c : Core) =>
      (((c.onPort x.port (fun (q : Port) => { q with buf := q.buf.drop u, closing := q.closing.map (fun r => r - u) })).onTransfer
        x.id (fun (x : Transfer) => { x with cursor := x.cursor + u })).chanCount x.chan words).portCheck x.port)
  if !c.headAt x.port x.id then (s, false)
  else if q.closing = some 0 then (s.onCore k (fun (c : Core) => c.portClose x.port), false)
  else if q.buf.length < u then (s, false)
  else match s.engineAt k x g u false true with
    | (s, .ok p) =>
      let bs := q.buf.take u
      let s := if bs.any (fun b => b.2) && u == 8 then s.poisonPlace .outStream (dieOf k) x.launch x.wgid p
        else s.writePlace .outStream (dieOf k) x.launch x.wgid p (bs.map (fun b => b.1))
      (take (s.reached k x true) ((x.cursor + u) / 4 - x.cursor / 4), true)
    | (s, .error (.fault cause d)) => (take (s.failNote k x cause .outStream true g d) 0, true)
    | (s, .error e) => (s.stallTransfer k x .outStream g e, false)

/-- Bytes of `cpyss` pass from its outbound port to its inbound port (R246). -/
def State.streamJoin (s : State) (k : Nat) (x : Transfer) : State × Bool :=
  let c := s.core k
  let out := c.port x.port
  let into := c.port x.port2
  let n := min (min out.buf.length (4096 - into.buf.length)) (min 128 (x.bytes - x.cursor))
  if !c.headAt x.port x.id || !c.headAt x.port2 x.id then (s, false)
  else if out.closing = some 0 then (s.onCore k (fun (c : Core) => c.portClose x.port), false)
  else if n = 0 then (s, false)
  else
    let n := match out.closing with | some r => min r n | none => n
    (s.onCore k (fun (c : Core) =>
      let c := c.onPort x.port (fun (q : Port) => { q with buf := q.buf.drop n, closing := q.closing.map (fun r => r - n) })
      let c := c.onPort x.port2 (fun (q : Port) => { q with buf := q.buf ++ out.buf.take n })
      (c.onTransfer x.id (fun (x : Transfer) => { x with cursor := x.cursor + n })).portCheck x.port), true)

/-! ### Bursts and completion (R236, R336) -/

/-- One unit of a transfer. -/
def State.transferStep (s : State) (k : Nat) (x : Transfer) : State × Bool :=
  match x.op with
  | .cpyms => s.streamIn k x
  | .cpysm => s.streamOut k x
  | .cpyss => s.streamJoin k x
  | _ => s.copyStep k x

/-- A held transfer's access is replayed: its port is OPEN again, or closes as an `sclose` asked (R243). -/
def Core.reopen (c : Core) (x : Transfer) : Core :=
  if x.op = .cpyms ∨ x.op = .cpysm then
    let q := c.port x.port
    if q.state = .held then
      let c := c.onPort x.port (fun (q : Port) => { q with state := .opened })
      if q.closing.isSome && !q.out then c.portClose x.port else c
    else c
  else c

/-- The 128-byte line that the next unit of a transfer touches in memory; its generic address numbers it. -/
def Transfer.lineAt (x : Transfer) : Nat :=
  (match x.op with
   | .cpyms => x.addrAt x.src x.cursor
   | .cpysm => x.addrAt x.dst x.cursor
   | .mtld => x.src + x.cursor
   | .mtst => x.dst + x.cursor
   | .cpyss => 0
   | _ => x.src + 8 * x.dwordAt (x.cursor / 8)) / 128

/-- A burst (R336): the units of a transfer in one line, one after the other. -/
def State.burst (s : State) (k id line : Nat) : Nat → State
  | 0 => s
  | n + 1 =>
    match (s.core k).transfer? id with
    | none => s
    | some x =>
      if x.held || x.discard || decide (x.bytes ≤ x.cursor) || x.lineAt != line then s
      else match s.transferStep k x with
        | (s, true) => if x.op = .cpyss then s else s.burst k id line n
        | (s, false) => s

/-- A transfer can take a turn (R237, R336): it is neither held nor over, and a stream copy is at the head of its port's queue and finds
bytes there, or room. -/
def Core.canMove (c : Core) (x : Transfer) : Bool :=
  !x.held && !x.discard && decide (x.cursor < x.bytes) &&
    (let q := c.port x.port
     match x.op with
     | .cpyms => c.headAt x.port x.id && decide (q.buf.length + x.unit ≤ 4096)
     | .cpysm => c.headAt x.port x.id && (decide (x.unit ≤ q.buf.length) || q.closing.any (fun r => decide (r ≤ q.buf.length)))
     | .cpyss => c.headAt x.port x.id && c.headAt x.port2 x.id &&
         (q.closing == some 0 || (!q.buf.isEmpty && decide ((c.port x.port2).buf.length < 4096)))
     | _ => true)

/-- A transfer of the memory tiles' engines, which the copy island's queue does not hold (R203, R336). -/
def Transfer.ofTiles (x : Transfer) : Bool := x.op == .mtld || x.op == .mtst

/-- The transfers that advance at once (R336): the oldest 16 of the copy island that can move, and those of memory tiles beside them. -/
def Core.advancing (c : Core) : List Nat :=
  let able := c.transfers.filter c.canMove
  let copies := (able.filter (fun (x : Transfer) => !x.ofTiles)).take 16
  (able.filter (fun (x : Transfer) => x.ofTiles || copies.any (fun y => y.id == x.id))).map (fun x => x.id)

/-- The transfer whose turn it is (R336): the next of those in round-robin order. -/
def Core.copyTurn (c : Core) : Option Nat := (c.advancing.find? (fun i => decide (c.lastTurn < i))).orElse (fun _ => c.advancing.head?)

/-- COPY_BURST: a transfer takes its turn (R336). -/
def execCopyBurst (core transfer : Nat) (s : State) : Host.Outcome State Fault Refusal :=
  let c := s.core core
  if c.copyTurn ≠ some transfer then .next s
  else
    let line := ((c.transfer? transfer).map Transfer.lineAt).getD 0
    .next ((s.setCore core { c with lastTurn := transfer }).burst core transfer line 128).settle

/-- A transfer leaves its hold and makes its access again (R181, R243, R372). -/
def State.replayTransfer (s : State) (k id : Nat) : State :=
  match (s.core k).transfer? id with
  | none => s
  | some x =>
    let s := s.onCore k (fun (c : Core) => (c.onTransfer id (fun (x : Transfer) => { x with held := false })).reopen x)
    (s.burst k id x.lineAt 128).settle

/-- Bytes of a transfer that still stand in the buffer of its inbound port. -/
def Core.unread (c : Core) (n id : Nat) : Bool :=
  let q := c.port n
  let later := (q.queue.dropWhile (fun i => i != id)).drop 1
  let theirs := later.foldl (fun t i => t + ((c.transfer? i).map Transfer.cursor).getD 0) 0
  decide (theirs < q.buf.length)

/-- A transfer has completed (R236, R244 to R246). -/
def Core.transferDone (c : Core) (x : Transfer) : Bool :=
  x.discard || (decide (x.bytes ≤ x.cursor) &&
    (match x.op with
     | .cpyms => !c.unread x.port x.id
     | .cpyss => !c.unread x.port2 x.id
     | _ => true))

/-- A transfer leaves its core; a port whose queue has emptied is CLOSED. -/
def Core.dropTransfer (c : Core) (x : Transfer) : Core :=
  let c := { c with transfers := c.transfers.filter (fun (y : Transfer) => y.id != x.id) }
  let drop := fun (c : Core) (n : Nat) =>
    (c.onPort n (fun (q : Port) => { q with queue := removeNat q.queue x.id })).portCheck n
  match x.op with
  | .cpyms | .cpysm => drop c x.port
  | .cpyss => drop (drop c x.port) x.port2
  | _ => c

/-- A COPY packet is over (R399): its status is written, and the packet completes. The answer is false while a page holds it. -/
def State.copyPacketDone (s : State) (q index era ctx statusVa signal status : Nat) : State × Bool :=
  if s.keyHeld (doneKey q index) then (s, false)
  else if statusVa = 0 then s.completePacket q index era ctx signal
  else match s.hubPlace ctx statusVa false true (.packet (doneKey q index)) with
    | (s, .error .wait) => (s, false)
    | (s, .error .denied) => (s.queueError q 4 index).completePacket q index era ctx signal
    | (s, .error .silent) => (s.queueError q 7 index).completePacket q index era ctx signal
    | (s, .ok p) => (s.hubWrite p (bytesLE 4 status)).completePacket q index era ctx signal

/-- ENGINE_OPERATION_COMPLETE (R42, R236): the counter of the issuing thread falls; a COPY packet completes. -/
def execEngineOperationComplete (core transfer : Nat) (s : State) : Host.Outcome State Fault Refusal :=
  let c := s.core core
  match c.transfer? transfer with
  | none => .next s
  | some x =>
    if !c.transferDone x then .next s
    else match x.queue with
      | some q =>
        match s.copyPacketDone q x.index x.era x.ctx x.mask x.signal x.status with
        | (s, true) => .next (s.onCore core (fun (c : Core) => c.dropTransfer x))
        | (s, false) => .next s
      | none =>
        let s := s.onCore core (fun (c : Core) => c.dropTransfer x)
        .next (if x.counted then s.countDown core x.f.thread x.cls else s)

/-! ### Issue (R236, R239) -/

/-- Counter class of a copy: MOD[0] is `.rmt` (R235). -/
def copyClass (w : SlotWord) : CntClass := if w.mod.getLsbD 0 then .remote else .copy

/-- Entries of the copy queue in use (R236). -/
def Core.copyQueue (c : Core) : Nat := (c.transfers.filter (fun (x : Transfer) => !x.ofTiles)).length

/-- A stream port has room in its queue (R243). -/
def Core.portRoom (c : Core) (n : Nat) : Bool := decide ((c.port n).queue.length < 8)

/-- What a copy that has passed its checks will do (R236): its transfer, the ports at which it queues, and its token on D0. -/
structure CopyPlan where
  x : Transfer
  ports : List Nat
  d0 : Val
  deriving DecidableEq, Repr

/-- The fault that a check of a copy's description commits (R236, R239): one of a port, or one of an access. -/
inductive CopyFault where
  | port (n : Nat)
  | access (cause : Nat) (kind : AccessKind) (va : Option Nat) (detail : Nat)
  deriving DecidableEq, Repr

/-- The copy queue and the queues of some ports have room for one more copy (R236, R243). -/
def Core.copyRoom (c : Core) (ports : List Nat) : Bool := decide (c.copyQueue < 64) && ports.all c.portRoom

/-- A copy that has passed its checks is issued, or waits for a queue entry or a counter (R236, R42). -/
def State.issueCopy (s : State) (f : Firing) (w : SlotWord) (p : CopyPlan) : State :=
  let c := s.core f.core
  if !c.copyRoom p.ports then s.park f .copyQueue
  else if !s.countRoom f.core f.thread p.x.cls then s.parkCounter f
  else
    let id := c.nextTransfer
    let s := s.startTransfer p.x
    let s := s.onCore f.core (fun (c : Core) => p.ports.foldl (fun (c : Core) n =>
      c.onPort n (fun (q : Port) => { q with
        queue := q.queue ++ [id], begun := true, state := if q.state = .closed then .opened else q.state })) c)
    s.emit2 f w p.d0 .order

/-- A fault that names a stream port (R362). -/
def State.portFault (s : State) (f : Firing) (n : Nat) : State :=
  s.contain f.core f.thread { s.firingRec f 0x43 0 .none 0 with port := some (0x40 + n) }

/-- A checked copy is issued, or its fault is committed (R236). -/
def State.runCopy (s : State) (f : Firing) (w : SlotWord) (p : Except CopyFault CopyPlan) : State :=
  match p with
  | .ok p => s.issueCopy f w p
  | .error (.port n) => s.portFault f n
  | .error (.access c kind va detail) => s.commit f c kind va detail

/-- A count operand (R239): the number, or the fault. -/
def countOperand (v : Val) : Except Nat Nat :=
  match v with
  | .err .poison => .error 0x20
  | .err _ => .error 0x44
  | v => .ok v.bits.toNat

/-- A byte count of a memory copy (R240). -/
def copySize (v : Val) : Except Nat Nat :=
  match countOperand v with
  | .error c => .error c
  | .ok n => if n % 8 ≠ 0 ∨ n < 8 ∨ 2 ^ 32 - 8 < n then .error 0x44 else .ok n

/-- A range of a copy (R240): its generic address, or the fault with the address. -/
def State.copyRange (s : State) (f : Firing) (n : Nat) (v : Val) : Except (Nat × Option Nat) Nat :=
  match s.formAddress f .x n 8 v with
  | .error e => .error e
  | .ok (g, _) => .ok g

/-- The checks of `cpy` (R240). -/
def State.planCpy (s : State) (f : Firing) (w : SlotWord) : Except CopyFault CopyPlan :=
  match copySize (s.opC f w) with
  | .error c => .error (.access c .none none 0)
  | .ok n =>
    match s.copyRange f n (s.opA f w), s.copyRange f n (s.opB f w) with
    | .error (c, va), _ => .error (.access c .engineWrite va 0)
    | _, .error (c, va) => .error (.access c .engineRead va 0)
    | .ok d, .ok g =>
      .ok ⟨{ Transfer.blank f with
        op := .cpy, cls := copyClass w, dst := d, src := g, bytes := n, poison := w.poisonMode, chan := w.channel }, [], .order⟩

/-- `cpy` (R240). -/
def execCpy (w : SlotWord) (s : State) : Host.Outcome State Fault Refusal :=
  let f := s.fire
  .next (s.operation f w true [s.opA f w, s.opB f w, s.opC f w] (fun s => s.runCopy f w (s.planCpy f w)))

/-- Mask bits of `cpymc` whose cores hold no part of the workgroup (R242). -/
def State.maskIgnored (s : State) (f : Firing) (mask : Nat) : Nat :=
  let th := s.ft f
  let cores := ((s.wg? th.launch th.wgid).map Workgroup.cores).getD []
  (List.range 8).foldl (fun m i =>
    if mask.testBit i ∧ !cores.contains (f.core / 8 * 8 + i) then m + 2 ^ i else m) 0

/-- A mask bit names a fenced core, or one that is not ready (R242, R415). -/
def State.maskBad (s : State) (f : Firing) (mask : Nat) : Bool :=
  (maskCores f.core mask).any (fun k =>
    s.fenceCores.contains k || !natBit s.funcReady.toNat (18 + k / 8) || !natBit s.funcReady.toNat (10 + dieOf k))

/-- The checks of `cpymc` (R240, R242). -/
def State.planCpymc (s : State) (f : Firing) (w : SlotWord) : Except CopyFault CopyPlan :=
  let mask := w.immBits 7 0
  match copySize (s.opC f w), countOperand (s.opA f w) with
  | .error c, _ => .error (.access c .none none 0)
  | .ok n, off =>
    match s.copyRange f n (s.opB f w), off with
    | .error (c, va), _ => .error (.access c .engineRead va 0)
    | .ok _, .error c => .error (.access c .engineWrite none 0)
    | .ok g, .ok off =>
      if s.spadBytes f.core f.thread < off + n then .error (.access 0x12 .engineWrite none 0)
      else if off % 8 ≠ 0 then .error (.access 0x15 .engineWrite none 0)
      else if s.maskBad f mask then .error (.access 0x42 .engineWrite none mask)
      else
        let ign := s.maskIgnored f mask
        .ok ⟨{ Transfer.blank f with
          op := .cpymc, dst := off, src := g, bytes := n, poison := w.poisonMode, chan := w.channel, mask := mask - ign },
          [], .data (BitVec.ofNat 64 (ign + 256 * (mask - ign)))⟩

/-- `cpymc` (R240, R242). -/
def execCpymc (w : SlotWord) (s : State) : Host.Outcome State Fault Refusal :=
  let f := s.fire
  .next (s.operation f w false [s.opA f w, s.opB f w, s.opC f w] (fun s => s.runCopy f w (s.planCpymc f w)))

/-- Size and generator of a stream copy (R244): n bytes from B, or the generator's elements. -/
def State.streamSize (s : State) (f : Firing) (n : Nat) (b : Val) : Except Nat (Nat × Option AgFields) :=
  let c := s.core f.core
  match (c.port n).ag.bind c.ags.look with
  | some a => .ok (a.elem * (a.c0 * a.c1), some a)
  | none =>
    match copySize b with
    | .error e => .error e
    | .ok n => .ok (n, none)

/-- The first generator address that fails the checks of R38, of `fuel` addresses from number n on (R244). -/
def State.agBad (s : State) (f : Firing) (a : AgFields) (g : Nat) : Nat → Nat → Option (Nat × Nat)
  | 0, _ => none
  | fuel + 1, n =>
    match s.window f.core f.thread (a.addr g n) a.elem a.elem with
    | .error e => some (e, a.addr g n)
    | .ok _ => s.agBad f a g fuel (n + 1)

/-- The addresses of a stream copy (R244): every byte of the range, or every generator address. -/
def State.streamRange (s : State) (f : Firing) (n : Nat) (ag : Option AgFields) (v : Val) :
    Except (Nat × Option Nat) Nat :=
  match ag with
  | none => s.copyRange f n v
  | some a =>
    match v with
    | .err .poison => .error (0x20, none)
    | .err _ => .error (0x12, none)
    | v =>
      match s.agBad f a v.bits.toNat (a.c0 * a.c1) 0 with
      | some (e, at_) => .error (e, some at_)
      | none => .ok v.bits.toNat

/-- The checks of `cpyms` and `cpysm` (R244, R245). -/
def State.planStream (s : State) (f : Firing) (w : SlotWord) (out : Bool) : Except CopyFault CopyPlan :=
  let n := w.port
  let kind := if out then AccessKind.outStream else .inStream
  if !(s.core f.core).portBound n out then .error (.port n)
  else match s.streamSize f n (s.opB f w) with
    | .error c => .error (.access c kind none 0)
    | .ok (bytes, ag) =>
      match s.streamRange f bytes ag (s.opA f w) with
      | .error (c, va) => .error (.access c kind va 0)
      | .ok g =>
        .ok ⟨{ Transfer.blank f with
          op := if out then .cpysm else .cpyms, cls := copyClass w, dst := g, src := g, bytes := bytes, ag := ag, port := n
          chan := if out then w.channel else none }, [n], .order⟩

/-- `cpyms` (R244). -/
def execCpyms (w : SlotWord) (s : State) : Host.Outcome State Fault Refusal :=
  let f := s.fire
  .next (s.operation f w true [s.opA f w, s.opB f w] (fun s => s.runCopy f w (s.planStream f w false)))

/-- `cpysm` (R245). -/
def execCpysm (w : SlotWord) (s : State) : Host.Outcome State Fault Refusal :=
  let f := s.fire
  .next (s.operation f w true [s.opA f w, s.opB f w] (fun s => s.runCopy f w (s.planStream f w true)))

/-- The checks of `cpyss` (R246). -/
def State.planCpyss (s : State) (f : Firing) (w : SlotWord) : Except CopyFault CopyPlan :=
  let out := w.port
  let into := w.immBits 15 12
  let c := s.core f.core
  if out = into ∨ !c.portBound out true then .error (.port out)
  else if !c.portBound into false then .error (.port into)
  else match countOperand (s.opA f w) with
    | .error e => .error (.access e .none none 0)
    | .ok n =>
      if n = 0 ∨ 2 ^ 32 ≤ n then .error (.access 0x44 .none none 0)
      else .ok ⟨{ Transfer.blank f with op := .cpyss, bytes := n, port := out, port2 := into }, [out, into], .order⟩

/-- `cpyss` (R246). -/
def execCpyss (w : SlotWord) (s : State) : Host.Outcome State Fault Refusal :=
  let f := s.fire
  .next (s.operation f w true [s.opA f w] (fun s => s.runCopy f w (s.planCpyss f w)))

/-! ### Credit of the copy island and of stream ports (R330) -/

/-- What a copy instance would issue: none for one that skips, passes on or faults. -/
def State.copyPlan (s : State) (f : Firing) (opc : Nat) (w : SlotWord) : Option CopyPlan :=
  let plan := fun (p : Except CopyFault CopyPlan) =>
    if s.go f w ≠ .fire ∨ [s.opA f w, s.opB f w, s.opC f w].contains .pass then none else p.toOption
  match opc with
  | 0xE0 => plan (s.planCpy f w)
  | 0xE1 => plan (s.planStream f w false)
  | 0xE2 => plan (s.planStream f w true)
  | 0xE3 => plan (s.planCpyss f w)
  | 0xE4 => plan (s.planCpymc f w)
  | _ => none

/-- The copy island has room for a copy, beside those that have issued in this cycle (R236, R243): one that faults needs none. -/
def State.copyCredit (s : State) (f : Firing) (opc : Nat) (w : SlotWord) : Bool :=
  match s.copyPlan f opc w with
  | none => true
  | some p =>
    let c := s.core f.core
    let asked := (s.pendingIssue f.core).filterMap (fun g => match c.load.opc g.node, c.load.fields g.node with
      | some o, some v => s.copyPlan g o v
      | _, _ => none)
    decide (c.copyQueue + asked.length < 64) && p.ports.all (fun n =>
      decide ((c.port n).queue.length + (asked.filter (fun a => a.ports.contains n)).length < 8))

/-! ### Ports in use (R247 to R249) -/

/-- Bytes that the instances of `sget` that have issued in this cycle take from a port. -/
def State.portTaken (s : State) (k n : Nat) : Nat :=
  let l := (s.core k).load
  (s.pendingIssue k).foldl (fun t g => match l.opc g.node, l.fields g.node with
    | some 0xE5, some v => if v.port = n then t + v.ty.bytes else t
    | _, _ => t) 0

/-- The stream of a port holds what an `sget` takes, or has ended (R247, R463). -/
def State.getCan (s : State) (f : Firing) (w : SlotWord) : Bool :=
  let c := s.core f.core
  let q := c.port w.port
  let taken := s.portTaken f.core w.port
  c.streamTurn f && (q.state == .closed || decide (taken + w.ty.bytes ≤ q.buf.length) ||
    (q.state == .opened && decide (taken < q.buf.length) && c.portFetched q))

/-- What an `sput` appends (R248): the number of bytes and their value, or the fault that it commits. -/
def State.planPut (s : State) (f : Firing) (w : SlotWord) : Except Nat (Nat × Nat) :=
  match storeImage w.ty (s.opA f w), (if w.b = .absent then .ok w.ty.bytes else countOperand (s.opB f w)) with
  | none, _ => .error 0x20
  | _, .error e => .error e
  | some v, .ok nb => if nb = 0 ∨ w.ty.bytes < nb then .error 0x44 else .ok (nb, v)

/-- An outbound port has room for an `sput`, beside what else will be appended (R248, R337). -/
def State.putCan (s : State) (f : Firing) (w : SlotWord) (nb : Nat) : Bool :=
  let c := s.core f.core
  c.streamTurn f && decide ((c.port w.port).buf.length + s.portOwed f.core (BitVec.ofNat 4 w.port) + nb ≤ 4096)

/-- The stream port of an `sget` or `sput` can serve it (R247, R248): one that skips, passes on or faults asks nothing of it. -/
def State.streamCredit (s : State) (f : Firing) (opc : Nat) (w : SlotWord) : Bool :=
  if s.go f w ≠ .fire ∨ [s.opA f w, s.opB f w].contains .pass then true
  else match opc with
    | 0xE5 => !(s.core f.core).portBound w.port false || s.getCan f w
    | 0xE6 => !(s.core f.core).portBound w.port true || (match s.planPut f w with
      | .ok x => s.putCan f w x.1
      | .error _ => true)
    | _ => true

/-- `sget` (R247). -/
def execSget (w : SlotWord) (s : State) : Host.Outcome State Fault Refusal :=
  let f := s.fire
  let n := w.port
  let u := w.ty.bytes
  .next (s.operation f w false [s.opA f w] (fun s =>
    let c := s.core f.core
    let q := c.port n
    let give := fun (s : State) (bs : List (Byte × Bool)) =>
      s.emit2 f w (if bs.any (fun b => b.2) then .err .poison else bitsVal w.ty (fromLE (bs.map (fun b => b.1)))) .order
    if !c.portBound n false then s.portFault f n
    else if !c.streamTurn f then s.park f .stream
    else if q.state = .closed ∧ q.buf.isEmpty then s.emitBoth f w .pass
    else if u ≤ q.buf.length then
      give (s.onCore f.core (fun (c : Core) => (c.onPort n (fun (q : Port) => { q with buf := q.buf.drop u })).portCheck n)) (q.buf.take u)
    else if q.state = .opened ∧ c.portFetched q then
      give (s.onCore f.core (fun (c : Core) => (c.onPort n (fun (q : Port) => { q with buf := [] })).portCheck n)) q.buf
    else s.park f .stream))

/-- `sput` (R248). -/
def execSput (w : SlotWord) (s : State) : Host.Outcome State Fault Refusal :=
  let f := s.fire
  let n := w.port
  .next (s.operation f w true [s.opA f w, s.opB f w] (fun s =>
    let c := s.core f.core
    if !c.portBound n true then s.portFault f n
    else match s.planPut f w with
      | .error e => s.commit f e .outStream none 0
      | .ok (nb, v) =>
        if !s.putCan f w nb then s.park f .stream
        else
          let s := s.onCore f.core (fun (c : Core) =>
            c.onPort n (fun (q : Port) => { q with buf := q.buf ++ (bytesLE nb v).map (fun b => (b, false)) }))
          s.emitBoth f w .order))

/-- `sclose` (R249): its tokens leave once the port is CLOSED. -/
def execSclose (w : SlotWord) (s : State) : Host.Outcome State Fault Refusal :=
  let f := s.fire
  let n := w.port
  .next (s.operation f w true [s.opA f w] (fun s =>
    let c := s.core f.core
    let q := c.port n
    match q.state with
    | .unbound => s.portFault f n
    | .closed => s.emitBoth f w .order
    | .held =>
      (s.onCore f.core (fun (c : Core) => c.onPort n (fun (q : Port) => { q with
        closing := some (q.closing.getD (if q.out then q.buf.length else 0)) }))).park f .stream
    | .opened =>
      if q.out && !q.buf.isEmpty then
        (s.onCore f.core (fun (c : Core) => c.onPort n (fun (q : Port) => { q with
          closing := some (q.closing.getD q.buf.length) }))).park f .stream
      else (s.onCore f.core (fun (c : Core) => c.portClose n)).emitBoth f w .order))

/-! ### Channels, waits and generators (R250 to R253) -/

/-- A channel is complete (R251). -/
def Core.chanComplete (c : Core) (n : Nat) : Bool :=
  match c.chans.look n with
  | some x => decide (x.declared ≤ x.count)
  | none => false

/-- `chdone` (R252). -/
def execChdone (w : SlotWord) (s : State) : Host.Outcome State Fault Refusal :=
  let f := s.fire
  .next (s.operation f w true [s.opA f w] (fun s =>
    if (s.core f.core).chanComplete (w.immBits 21 16) then s.emitBoth f w .order else s.park f .channel))

/-- Counter class that `ewait` names by MOD (R239). -/
def waitClass (w : SlotWord) : CntClass :=
  match w.mod.toNat with | 0 => .copy | 1 => .matrix | 2 => .gather | _ => .remote

/-- `ewait` (R253). -/
def execEwait (w : SlotWord) (s : State) : Host.Outcome State Fault Refusal :=
  let f := s.fire
  .next (s.operation f w true [s.opA f w] (fun s =>
    if ((s.ft f).cnt (waitClass w)).toNat ≤ w.immBits 7 0 then s.emitBoth f w .order else s.park f .engine))

/-- A generator's field set from a value (R250): none when it is out of range. -/
def AgFields.set (a : AgFields) (mod : Nat) (x : Dword) : Option AgFields :=
  let n := x.toNat
  let i := x.toInt
  let stride := decide (-(2 ^ 31 : Int) ≤ i) && decide (i < 2 ^ 31) && decide (i % (a.elem : Int) = 0)
  match mod with
  | 0 => if 1 ≤ n ∧ n ≤ 65536 then some { a with c0 := n } else none
  | 1 => if 1 ≤ n ∧ n ≤ 65536 then some { a with c1 := n } else none
  | 2 => if stride then some { a with s0 := i } else none
  | _ => if stride then some { a with s1 := i } else none

/-- `agcfg` (R250). -/
def execAgcfg (w : SlotWord) (s : State) : Host.Outcome State Fault Refusal :=
  let f := s.fire
  let n := w.immBits 3 0
  .next (s.operation f w true [s.opA f w] (fun s =>
    match s.opA f w with
    | .err .poison => s.commit f 0x20 .none none 0
    | .data x =>
      match ((s.core f.core).ags.look n).bind (fun a => a.set w.mod.toNat x) with
      | some a => (s.onCore f.core (fun (c : Core) => { c with ags := c.ags.put n a })).emitBoth f w .order
      | none => s.commit f 0x44 .none none 0
    | _ => s.commit f 0x44 .none none 0))

end Sys2Proof.Machine
end

