-- ==== Sys2Proof/Machine/Image.lean ====
section
/-! DEFINITION. Kernel images as bytes: headers, sections, compressed columns, roles, bindings and tables (spec 03 R90 to R99),
with the checks of R101 that they fail (14 to 18, 19 for the branch table, 23 to 27). An image is the function from an offset to
its byte there. -/

namespace Sys2Proof.Machine

/-- A failed check (R101, R102): its number, whether it concerns the kernel alone, the load, the element and slot of a word that it
concerns. -/
structure Reject where
  check : Nat
  kern : Bool
  load : Nat
  elem : Option Nat
  slot : Nat
  deriving DecidableEq, Repr

/-- A failure that concerns the kernel. -/
def Reject.kernel (check : Nat) : Reject := ⟨check, true, 0, none, 0⟩

/-- A failure that concerns a load and no single word. -/
def Reject.whole (check load : Nat) : Reject := ⟨check, false, load, none, 0⟩

/-- A failure that concerns a node of a load. -/
def Reject.node (check load n : Nat) : Reject := ⟨check, false, load, some (n / 16), n % 16⟩

/-- The kernel header (R90). -/
structure ImgHead where
  bytes : Nat
  live : Nat
  energy : Nat
  acc : Nat
  entries : Nat
  spad : Nat
  priv : Nat
  calldepth : Nat
  handler : Nat
  loads : Nat
  cat : Nat
  params : Nat
  paramBytes : Nat
  entryOff : Nat
  paramOff : Nat
  catOff : Nat
  ltabOff : Nat
  dataOff : Nat
  dataBytes : Nat
  dataPos : Nat
  deriving DecidableEq, Repr

/-- The header of an image (R90). -/
def ImgHead.read (b : Nat → Byte) : ImgHead where
  bytes := readLE b 0x08 4
  live := readLE b 0x0C 1
  energy := readLE b 0x0D 1
  acc := readLE b 0x0E 1
  entries := readLE b 0x0F 1
  spad := readLE b 0x10 4
  priv := readLE b 0x14 4
  calldepth := readLE b 0x18 2
  handler := readLE b 0x1A 1
  loads := readLE b 0x1B 1
  cat := readLE b 0x1C 2
  params := readLE b 0x1E 2
  paramBytes := readLE b 0x20 4
  entryOff := readLE b 0x24 4
  paramOff := readLE b 0x28 4
  catOff := readLE b 0x2C 4
  ltabOff := readLE b 0x30 4
  dataOff := readLE b 0x34 4
  dataBytes := readLE b 0x38 4
  dataPos := readLE b 0x3C 4

/-- Check 23 (R90): magic, version, reserved bytes and ranges. -/
def ImgHead.ok (h : ImgHead) (b : Nat → Byte) : Bool :=
  readLE b 0 4 == 0x4B563701 && readLE b 4 2 == 1 && readLE b 6 2 == 0 && h.bytes % 16 == 0 &&
    decide (8 ≤ h.live) && decide (h.live ≤ 128) && decide (h.energy ≤ 7) && decide (h.acc ≤ 128) &&
    decide (1 ≤ h.entries) && decide (h.entries ≤ 128) && decide (h.spad ≤ 1048576) && decide (h.priv ≤ 1048576) &&
    decide (h.calldepth ≤ 1024) && decide (1 ≤ h.loads) && decide (h.loads ≤ 128) && decide (h.cat ≤ 4096) &&
    decide (h.params ≤ 256) && decide (h.paramBytes ≤ 65536) && (h.dataBytes != 0 || h.dataOff == 0) && h.dataPos % 16 == 0

/-! ### Sections (R91, R94, R95) -/

/-- Offset and length of each load in the load table (R95). -/
def ImgHead.loadSpans (h : ImgHead) (b : Nat → Byte) : List (Nat × Nat) :=
  (List.range h.loads).map (fun i => (readLE b (h.ltabOff + 8 * i) 4, readLE b (h.ltabOff + 8 * i + 4) 4))

/-- The tables and the data area: start and length. -/
def ImgHead.tables (h : ImgHead) : List (Nat × Nat) :=
  [(h.entryOff, 4 * h.entries), (h.paramOff, 8 * h.params), (h.ltabOff, 8 * h.loads), (h.dataOff, h.dataBytes)]

/-- The catalogue section (R94). -/
def ImgHead.catalogue (h : ImgHead) (b : Nat → Byte) : Nat × Nat :=
  if h.cat = 0 then (h.catOff, 0)
  else
    let starts := ((h.tables ++ h.loadSpans b).filter (fun x => x.2 != 0 && decide (h.catOff < x.1))).map (fun x => x.1)
    (h.catOff, starts.foldl min h.bytes - h.catOff)

/-- A non-empty section is aligned, beyond the header and inside the image (R91). -/
def ImgHead.inside (h : ImgHead) (x : Nat × Nat) : Bool :=
  x.2 == 0 || (x.1 % 16 == 0 && decide (0x40 ≤ x.1) && decide (x.1 + x.2 ≤ h.bytes))

/-- No two of some sections overlap. -/
def apart : List (Nat × Nat) → Bool
  | [] => true
  | x :: rest => rest.all (fun y => decide (x.1 + x.2 ≤ y.1) || decide (y.1 + y.2 ≤ x.1)) && apart rest

/-- Check 24 (R91, R94, R95): a load is no table, so that even one of length 0 keeps to the rules. -/
def ImgHead.sectionsOk (h : ImgHead) (b : Nat → Byte) : Bool :=
  h.tables.all h.inside && (h.dataBytes == 0 || decide (h.dataPos + h.dataBytes ≤ h.paramBytes)) &&
    (h.loadSpans b).all (fun x => x.1 % 16 == 0 && decide (0x40 ≤ x.1) && decide (x.1 + x.2 ≤ h.bytes)) &&
    (let c := h.catalogue b
     let all := (c :: h.tables ++ h.loadSpans b).filter (fun x => x.2 != 0)
     (h.cat == 0 || decide (8 * h.cat ≤ c.2)) && all.all h.inside && apart all)

/-- Entry descriptor i (R92): none when it is malformed. -/
def ImgHead.entryAt (h : ImgHead) (b : Nat → Byte) (i : Nat) : Option EntryDesc :=
  let d := readLE b (h.entryOff + 4 * i) 4
  if natBits d 31 12 = 0 ∧ natBits d 9 8 ≠ 3 ∧ natBits d 7 0 < h.loads then
    some ⟨natBits d 7 0, 16 * 2 ^ natBits d 9 8, natBits d 12 10 + 1⟩
  else none

/-- Entry descriptors, when all are well formed (check 25). -/
def ImgHead.entryList (h : ImgHead) (b : Nat → Byte) : Option (List EntryDesc) :=
  if h.handler = 0xFF ∨ (1 ≤ h.handler ∧ h.handler < h.entries) then (List.range h.entries).mapM (h.entryAt b) else none

/-- Check 26 (R93). -/
def ImgHead.paramsOk (h : ImgHead) (b : Nat → Byte) : Bool :=
  let one := fun i => readLE b (h.paramOff + 8 * i) 8
  let spans := (List.range h.params).map (fun i => (natBits (one i) 31 0, natBits (one i) 47 32))
  (List.range h.params).all (fun i =>
    let d := one i
    natBits d 63 51 == 0 && decide (1 ≤ natBits d 47 32) && decide (natBits d 47 32 ≤ 256) &&
      natBits d 31 0 % 2 ^ natBits d 50 48 == 0 && decide (natBits d 31 0 + natBits d 47 32 ≤ h.paramBytes)) &&
    apart (spans ++ (if h.dataBytes = 0 then [] else [(h.dataPos, h.dataBytes)]))

/-- Check 27 (R94). -/
def ImgHead.fragmentsOk (h : ImgHead) (b : Nat → Byte) : Bool :=
  (List.range h.cat).all (fun i =>
    let d := readLE b (h.catOff + 8 * i) 8
    natBits d 31 8 == 0 && decide (natBits d 63 32 + natBits d 7 0 + 1 ≤ (h.catalogue b).2))

/-- Fragment i (R94). -/
def ImgHead.fragment (h : ImgHead) (b : Nat → Byte) (i : Nat) : Option (List Byte) :=
  if i < h.cat then
    let d := readLE b (h.catOff + 8 * i) 8
    some (readBytes b (h.catOff + natBits d 63 32) (natBits d 7 0 + 1))
  else none

/-! ### Compressed columns (R96) -/

/-- The bytes that a compressed stream of `left` bytes at `p` stands for; none when it is malformed. Every item takes a byte, so
the length bounds the items. -/
def inflate (b : Nat → Byte) (frag : Nat → Option (List Byte)) : Nat → Nat → Nat → Option (List Byte)
  | _, _, 0 => some []
  | 0, _, _ + 1 => none
  | fuel + 1, p, left =>
    let h := (b p).toNat
    if h < 0x80 then
      if left < h + 2 then none
      else (inflate b frag fuel (p + h + 2) (left - (h + 2))).map (fun r => readBytes b (p + 1) (h + 1) ++ r)
    else if h < 0x90 then
      if left < 2 then none
      else match frag ((h - 0x80) * 256 + (b (p + 1)).toNat) with
        | none => none
        | some x => (inflate b frag fuel (p + 2) (left - 2)).map (fun r => x ++ r)
    else if h < 0xC0 then none
    else (inflate b frag fuel (p + 1) (left - 1)).map (fun r => List.replicate ((h - 0xBF) * 16) 0 ++ r)

/-- Words of occupied slots taken from decoded bytes. -/
def takeSlots : List Nat → List Byte → Option (Table (BitVec 128) × List Byte)
  | [], bs => some ([], bs)
  | n :: rest, bs =>
    if bs.length < 16 then none
    else (takeSlots rest (bs.drop 16)).map (fun r => ((n, BitVec.ofNat 128 (fromLE (bs.take 16))) :: r.1, r.2))

/-- The slots of some elements taken from decoded bytes, which must end with the last. -/
def takeElems : List Nat → List Byte → Option (Table (BitVec 128))
  | [], bs => if bs.isEmpty then some [] else none
  | e :: rest, bs =>
    if bs.length < 2 then none
    else
      let mask := fromLE (bs.take 2)
      let nodes := ((List.range 16).filter (fun i => mask.testBit i)).map (fun i => 16 * e + i)
      (takeSlots nodes (bs.drop 2)).bind (fun r => (takeElems rest r.2).map (fun t => r.1 ++ t))

/-- The slots of the columns from x on, whose compressed sections stand at `p` with the lengths given. -/
def takeColumns (b : Nat → Byte) (frag : Nat → Option (List Byte)) : Nat → Nat → List Nat → Option (Table (BitVec 128))
  | _, _, [] => some []
  | x, p, len :: rest =>
    (inflate b frag len p len).bind (fun bs =>
      (takeElems ((List.range 16).map (fun i => 16 * x + i)) bs).bind (fun t =>
        (takeColumns b frag (x + 1) (p + roundUp len 16) rest).map (fun u => t ++ u)))

/-! ### Tile roles and bindings (R97, R98, R338) -/

/-- A tile role word (R97). -/
def roleOf (x : Nat) : Option TileRole :=
  let role := match natBits x 3 0 with
    | 0 => some Role.off | 1 => some .spad | 2 => some .buf | 3 => some .fifo | 4 => some .line | 5 => some .cache
    | _ => none
  match role with
  | none => none
  | some r =>
    let size := natBits x 19 8
    let nb := natBits x 5 4
    if natBits x 127 20 = 0 ∧ natBits x 7 6 = 0 ∧ (size = 0 ∨ r = .line ∨ (r = .fifo ∧ size < 2048)) ∧
        (nb = 0 ∨ (r = .buf ∧ nb ≠ 3)) then
      some ⟨r, size, if r = .buf then 2 ^ nb else 0⟩
    else none

/-- The destination of an inbound stream binding: nothing, or port B of a slot (R98, R338). -/
def bindDst (x : Nat) : Option (Option (Nat × Nat)) :=
  match Dst.decode (BitVec.ofNat 16 x) with
  | .ok .none => some none
  | .ok (.port e s .b) => some (some (e.toNat, s.toNat))
  | _ => none

/-- An edge binding word (R98). -/
def bindOf (x : Nat) : Option Bind :=
  match natBits x 3 0 with
  | 1 =>
    let out := natBit x 12
    let agv := natBit x 13
    match bindDst (natBits x 47 32) with
    | some d =>
      if natBits x 7 4 = 0 ∧ natBits x 31 18 = 0 ∧ natBits x 127 48 = 0 ∧ (agv ∨ natBits x 17 14 = 0) ∧
          (!out ∨ natBits x 47 32 = 0) then
        some (.port (natBits x 11 8) out (if agv then some (natBits x 17 14) else none) d)
      else none
    | none => none
  | 2 =>
    let size := 2 ^ natBits x 9 8
    let s0 := toSigned 32 (natBits x 95 64)
    let s1 := toSigned 32 (natBits x 127 96)
    if natBits x 31 10 = 0 ∧ s0 % size = 0 ∧ s1 % size = 0 then
      some (.ag (natBits x 7 4) ⟨natBits x 9 8, natBits x 47 32 + 1, natBits x 63 48 + 1, s0, s1⟩)
    else none
  | 3 =>
    let src := natBit x 12
    if natBits x 7 4 = 0 ∧ natBits x 11 8 < 4 ∧ natBits x 15 13 = 0 ∧ natBits x 127 20 = 0 ∧ (src ∨ natBits x 19 16 = 0) ∧
        (!src ∨ natBits x 11 8 < 2) then
      some (.feed (natBits x 11 8) (if src then some (natBits x 19 16) else none))
    else none
  | 4 =>
    if natBits x 31 10 = 0 ∧ natBits x 127 64 = 0 ∧ natBits x 63 32 ≠ 0 then some (.chan (natBits x 9 4) (natBits x 63 32))
    else none
  | _ => none

/-- What a binding word binds, as one number for each port, generator, feed and channel. -/
def Bind.key : Bind → Nat
  | .port n _ _ _ => n
  | .ag n _ => 64 + n
  | .feed n _ => 128 + n
  | .chan n _ => 192 + n

/-- Stream feeds of a load: feed and stream port. -/
def Load.streamFeeds (l : Load) : List (Nat × Nat) :=
  l.binds.filterMap (fun x => match x with | .feed f (some p) => some (f, p) | _ => none)

/-- The binding of a stream port: whether it is outbound, its generator, its destination. -/
def Load.portBind (l : Load) (n : Nat) : Option (Bool × Option Nat × Option (Nat × Nat)) :=
  l.binds.findSome? (fun x => match x with | .port m o g d => if m = n then some (o, g, d) else none | _ => none)

/-- The binding of a feed: its stream port, none for the fabric edge. -/
def Load.feedBind (l : Load) (n : Nat) : Option (Option Nat) :=
  l.binds.findSome? (fun x => match x with | .feed m p => if m = n then some p else none | _ => none)

/-- A load binds a generator. -/
def Load.hasAg (l : Load) (n : Nat) : Bool := l.binds.any (fun x => match x with | .ag m _ => m == n | _ => false)

/-- A load binds a channel. -/
def Load.hasChan (l : Load) (n : Nat) : Bool := l.binds.any (fun x => match x with | .chan m _ => m == n | _ => false)

/-- Check 17 (R98, R229, R338): nothing is bound twice, generators exist, inbound destinations are port B of an `sget`, and feeds
have sources of the right kind. -/
def Load.bindsOk (l : Load) : Bool :=
  decide (l.binds.map Bind.key).Nodup &&
    l.binds.all (fun x => match x with
      | .port n out g d =>
        (match g with | some m => l.hasAg m | none => true) &&
          (out || (match d with
            | some t => l.opc (16 * t.1 + t.2) == some 0xE5
            | none => l.streamFeeds.any (fun y => y.2 == n)))
      | .feed f (some p) =>
        (match l.portBind p with | some (out, _, d) => !out && d.isNone | none => false) && decide (f < 2)
      | .feed f none => f < 2 || l.feedBind (f - 2) == some none || (l.feedBind (f - 2)).isNone
      | _ => true)

/-! ### A load (R95, R99) -/

/-- Offsets within a load: after the columns, the tile roles, bindings, pool, live-value map, entry table and branch table. -/
structure LoadPlan where
  index : Nat
  nent : Nat
  pool : Nat
  binds : Nat
  nbr : Nat
  clen : List Nat
  atRoles : Nat
  atBinds : Nat
  atPool : Nat
  atMap : Nat
  atEnt : Nat
  atBr : Nat
  fin : Nat
  deriving DecidableEq, Repr

/-- The plan of the load at `o` (R95). -/
def LoadPlan.read (b : Nat → Byte) (o : Nat) : LoadPlan :=
  let pool := readLE b (o + 4) 2
  let binds := readLE b (o + 6) 2
  let nent := readLE b (o + 2) 1
  let nbr := readLE b (o + 8) 2
  let clen := (List.range 8).map (fun i => readLE b (o + 0x10 + 2 * i) 2)
  let roles := clen.foldl (fun p n => p + roundUp n 16) 64
  let atBinds := roles + 512
  let atPool := atBinds + 16 * binds
  let atMap := atPool + roundUp (8 * pool) 16
  let atEnt := atMap + 32
  let atBr := atEnt + roundUp (4 * nent) 16
  ⟨readLE b o 2, nent, pool, binds, nbr, clen, o + roles, o + atBinds, o + atPool, o + atMap, o + atEnt, o + atBr,
    atBr + roundUp (4 * nbr) 16⟩

/-- Check 14 (R95). -/
def LoadPlan.ok (p : LoadPlan) (b : Nat → Byte) (i o len : Nat) : Bool :=
  p.index == i && decide (1 ≤ p.nent) && decide (p.nent ≤ 128) && readLE b (o + 3) 1 == 0 && decide (p.pool ≤ 1024) &&
    decide (p.binds ≤ 100) && decide (p.nbr ≤ 256) && readLE b (o + 0x0A) 2 == 0 && readLE b (o + 0x0C) 4 == len &&
    readLE b (o + 0x20) 32 == 0 && p.fin == len

/-- Entry-table words (R99): id, element, slot; none when other bits are set. -/
def entryWord (x : Nat) : Option (Nat × Nat × Nat) :=
  if natBit x 7 ∨ natBit x 15 ∨ natBits x 31 20 ≠ 0 then none else some (natBits x 6 0, natBits x 14 8, natBits x 19 16)

/-- Check 18 (R99): the table lists exactly the entries that the descriptors place in load i. -/
def Load.entriesOk (l : Load) (i : Nat) (ds : List EntryDesc) : Bool :=
  let want := (List.range ds.length).filter (fun e => ((ds[e]?).map EntryDesc.load) == some i)
  let ids : List Nat := l.entries.map (fun x => x.1)
  decide ids.Nodup && want.all (fun e => ids.contains e) && ids.all (fun e => want.contains e)

/-- Check 18 (R99, R124) on slots: the first node that the table lists and that holds no `entry` of its id, or the first `entry`
that it does not list (log 39). -/
def Load.strayEntry (l : Load) : Option Nat :=
  let listed := l.entries.find? (fun x =>
    let n := 16 * x.2.1 + x.2.2
    !(l.opc n == some 0x70 && ((l.fields n).map (fun w => w.imm.toNat)) == some x.1))
  match listed with
  | some x => some (16 * x.2.1 + x.2.2)
  | none => l.nodes.find? (fun n => l.opc n == some 0x70 && !(l.entries.any (fun x => 16 * x.2.1 + x.2.2 == n)))

/-- The sections of load i, or the first of the checks 14, 15, 16, 17, 12, 18 and 19 that they fail, in the order in which the
sections stand. `spad` is the list of SPAD tiles of the load before, none for the first. -/
def readLoad (h : ImgHead) (b : Nat → Byte) (ds : List EntryDesc) (i o len : Nat) (spad : Option (List Nat)) :
    Except Reject Load :=
  let p := LoadPlan.read b o
  let bad := fun (k : Nat) => (Except.error (Reject.whole k i) : Except Reject Load)
  if !p.ok b i o len then bad 14
  else match takeColumns b (h.fragment b) 0 (o + 64) p.clen with
    | none => bad 15
    | some slots =>
      match (List.range 32).mapM (fun t => roleOf (readLE b (p.atRoles + 16 * t) 16)) with
      | none => bad 16
      | some roles =>
        let l := { Load.empty with slots := slots, roles := roles }
        let sp := l.tilesOf .spad
        if sp.length != (h.spad + 32767) / 32768 || spad.getD sp != sp then bad 16
        else match (List.range p.binds).mapM (fun t => bindOf (readLE b (p.atBinds + 16 * t) 16)) with
          | none => bad 17
          | some binds =>
            let l := { l with
              binds := binds
              pool := (List.range p.pool).map (fun t => BitVec.ofNat 64 (readLE b (p.atPool + 8 * t) 8))
              rdMask := BitVec.ofNat 128 (readLE b p.atMap 16)
              wrMask := BitVec.ofNat 128 (readLE b (p.atMap + 16) 16) }
            if !l.bindsOk then bad 17
            else if (l.rdMask ||| l.wrMask).toNat / 2 ^ h.live ≠ 0 then bad 12
            else match (List.range p.nent).mapM (fun t => entryWord (readLE b (p.atEnt + 4 * t) 4)) with
              | none => bad 18
              | some ents =>
                let br := (List.range p.nbr).map (fun t => readLE b (p.atBr + 4 * t) 4)
                let l := { l with entries := ents, branches := br }
                if !l.entriesOk i ds then bad 18
                else if br.any (fun t => decide (h.entries ≤ t)) then bad 19
                else .ok l

end Sys2Proof.Machine
end

