-- ==== Sys2Proof/Machine/Matrix.lean ====
section
/-! DEFINITION. The matrix class, opcodes 0xD0 to 0xD6, and the matrix island (spec 07 R225 to R234; 11 R331 to R335, R476; 02 R66
to R70): control tokens, handles, feeds and executions. -/

namespace Sys2Proof.Machine

/-! ### Control tokens (R226) -/

/-- Kind of a matrix opcode. -/
def MxKind.ofOpc (o : Nat) : MxKind :=
  match o with
  | 0xD0 => .op | 0xD1 => .zero | 0xD2 => .load | 0xD3 => .read | 0xD4 => .store | 0xD5 => .rel | _ => .info

/-- Width of the accumulators that a matrix instruction names (R231). -/
def accWidth (w : SlotWord) : Nat := if w.ty = .f64 then 64 else 32

/-- Bytes of a whole accumulator (R232). -/
def accBytes (w : SlotWord) : Nat := if w.ty = .f64 then 2048 else 1024

/-- Source of a matrix feed (R227, R228): a stream port, or none for the fabric edge. -/
def Load.feedSource (l : Load) (feed : Nat) : Option Nat :=
  (l.binds.findSome? (fun b => match b with
    | .feed f src => if f = feed then some src else none
    | _ => none)).join

/-- An offset operand of `mxld` and `mxst` (R226, R232): the cause that it raises, or 0, and the offset. -/
def State.mxOffset (s : State) (f : Firing) (w : SlotWord) (v : Val) : Nat × Nat :=
  match v with
  | .err .poison => (0x20, 0)
  | .err _ => (0x12, 0)
  | v =>
    let off := v.bits.toNat
    if s.tileRoom f w < off + accBytes w then (0x12, off) else if off % 8 ≠ 0 then (0x15, off) else (0, off)

/-- An index operand of `mxrd` (R226, R233). -/
def mxIndex (v : Val) : Nat × Nat :=
  match v with
  | .err .poison => (0x20, 0)
  | .err _ => (0x12, 0)
  | v => (0, v.bits.toNat % 256)

/-- A firing matrix instance sends its control token (R226). -/
def State.mxSend (s : State) (w : SlotWord) (kind : MxKind) (opnd : Nat × Nat) : State :=
  let f := s.fire
  let th := s.ft f
  let l := (s.core f.core).load
  let m : MxCtl := {
    kind := kind, w := w, f := f, launch := th.launch, wgid := th.wgid, off := opnd.2, bad := opnd.1
    key := if w.tile = 32 then none else some (s.tileKey f w 0)
    srcA := l.feedSource 0, srcB := l.feedSource 1, held := false, counted := false, acc := .unbound, freeSlots := [] }
  s.onCore f.core (fun (c : Core) => { c with mxSent := c.mxSent ++ [m] })

/-- A matrix instance (R226): its data 0 tokens are values. -/
def State.mxFire (s : State) (w : SlotWord) (kind : MxKind) (opnd : Nat × Nat) : State :=
  s.triggered s.fire w (fun s => s.mxSend w kind opnd)

/-- `mxop` (R225, R230). -/
def execMxop (w : SlotWord) (s : State) : Host.Outcome State Fault Refusal := .next (s.mxFire w .op (0, 0))

/-- `mxzero` (R231). -/
def execMxzero (w : SlotWord) (s : State) : Host.Outcome State Fault Refusal := .next (s.mxFire w .zero (0, 0))

/-- `mxld` (R232). -/
def execMxld (w : SlotWord) (s : State) : Host.Outcome State Fault Refusal :=
  .next (s.mxFire w .load (s.mxOffset s.fire w (s.opA s.fire w)))

/-- `mxrd` (R233). -/
def execMxrd (w : SlotWord) (s : State) : Host.Outcome State Fault Refusal :=
  .next (s.mxFire w .read (mxIndex (s.opA s.fire w)))

/-- `mxst` (R232). -/
def execMxst (w : SlotWord) (s : State) : Host.Outcome State Fault Refusal :=
  .next (s.mxFire w .store (s.mxOffset s.fire w (s.opA s.fire w)))

/-- `mxrel` (R231). -/
def execMxrel (w : SlotWord) (s : State) : Host.Outcome State Fault Refusal := .next (s.mxFire w .rel (0, 0))

/-- `mxinfo` (R233). -/
def execMxinfo (w : SlotWord) (s : State) : Host.Outcome State Fault Refusal := .next (s.mxFire w .info (0, 0))

/-! ### Handles (R30, R231, R335) -/

/-- Lowest number of a list. -/
def lowest (l : List Nat) : Option Nat := l.foldl (fun m n => some (match m with | some k => min k n | none => n)) none

/-- Lowest aligned pair in a list of slots. -/
def lowestPair (l : List Nat) : Option Nat := lowest (l.filter (fun n => n % 2 == 0 && l.contains (n + 1)))

/-- Slots of a handle. -/
def Handle.slots : Handle → List Nat
  | .unbound => []
  | .b32 a => [a]
  | .b64 a b => [a, b]

/-- A handle after the contents of slot a have moved to slot b. -/
def Handle.moved (h : Handle) (a b : Nat) : Handle :=
  match h with
  | .b32 n => .b32 (if n = a then b else n)
  | h => h

/-- The contents of a slot move to a free one, and every name of it with them: slot numbers are not visible to programs (log 41). -/
def Core.moveSlot (c : Core) (a b : Nat) : Core :=
  let name := fun (n : Nat) => if n = a then b else n
  { c with
    accFree := insertNat (removeNat c.accFree b) a
    acc := (c.acc.filter (fun x => x.1 / 256 == a)).foldl (fun t x => t.put (256 * b + x.1 % 256) x.2)
      (c.acc.filter (fun x => x.1 / 256 != a && x.1 / 256 != b))
    parts := c.parts.map (fun (p : Part) => { p with handles := p.handles.map (fun x => (x.1, x.2.moved a b)) })
    mxQueue := c.mxQueue.map (fun (m : MxCtl) => { m with acc := m.acc.moved a b, freeSlots := m.freeSlots.map name }) }

/-- Two free slots without a partner become an aligned pair: the partner of the lowest moves to the next. -/
def Core.makePair (c : Core) : Core :=
  match lowest c.accFree with
  | none => c
  | some a =>
    match lowest (removeNat c.accFree a) with
    | none => c
    | some b => c.moveSlot (if a % 2 = 0 then a + 1 else a - 1) b

/-- The binding of a width for a part (R231), with the core as it leaves it: the part's reservation is drawn on first and then the
unreserved free slots. A single slot leaves aligned pairs whole where it can, and a pair is made where none is left (log 41). -/
def Core.bindHandle (c : Core) (p : Part) (wd : Nat) : Option (Core × Handle) :=
  if c.reserveLeft p + c.unreserved < wd / 32 then none
  else if wd = 64 then
    let c := if (lowestPair c.accFree).isSome then c else c.makePair
    (lowestPair c.accFree).map (fun n => (c, .b64 n (n + 1)))
  else
    let single := c.accFree.filter (fun b => !(c.accFree.contains (if b % 2 = 0 then b + 1 else b - 1)))
    ((lowest single).orElse (fun _ => lowest c.accFree)).map (fun n => (c, .b32 n))

/-- A handle's width matches. -/
def Handle.fits (h : Handle) (wd : Nat) : Bool :=
  match h with
  | .unbound => false
  | .b32 _ => wd == 32
  | .b64 _ _ => wd == 64

/-- What R231 answers for a control token. -/
inductive HandleRule where
  | fault
  | take (h : Handle)
  | binds
  | drop (h : Handle)
  | none
  deriving DecidableEq, Repr

/-- The handle rules at acceptance (R231). -/
def handleRule (m : MxCtl) (h : Handle) : HandleRule :=
  match m.kind with
  | .info => .none
  | .rel => if h = .unbound then .fault else .drop h
  | k =>
    if h = .unbound then
      (if k = .zero ∨ (k = .op ∧ !m.w.mod.getLsbD 0) then .binds else .fault)
    else if h.fits (accWidth m.w) then .take h else .fault

/-- The part of a control token's workgroup on its core. -/
def Core.partOf (c : Core) (m : MxCtl) : Option Part :=
  c.parts.find? (fun (p : Part) => p.launch == m.launch && p.wgid == m.wgid)

/-- The core with one part changed. -/
def Core.onPart (c : Core) (p : Part) (g : Part → Part) : Core :=
  { c with parts := c.parts.map (fun (q : Part) =>
      if q.launch = p.launch ∧ q.wgid = p.wgid ∧ q.index = p.index then g q else q) }

/-- A part's handle set to a binding, whose slots leave the free list. -/
def Core.bindPart (c : Core) (p : Part) (n : Nat) (h : Handle) : Core :=
  let c := c.onPart p (fun (q : Part) => { q with handles := q.handles.put n h })
  { c with accFree := c.accFree.filter (fun x => !h.slots.contains x) }

/-! ### Acceptance (R226, R331) -/

/-- Operations that CNT_MATRIX counts. -/
def MxKind.counted : MxKind → Bool
  | .read | .info => false
  | _ => true

/-- The oldest control token is gone, and a binding hold with it. -/
def State.mxPop (s : State) (k : Nat) : State :=
  s.onCore k (fun (c : Core) => { c with mxSent := c.mxSent.drop 1, mxHold := none })

/-- A control token is accepted: it joins the queue, is counted while its thread stands, and its order tokens leave. -/
def State.mxTake (s : State) (k : Nat) (m : MxCtl) : State :=
  let s := s.mxPop k
  let m := { m with counted := m.kind.counted && s.owns m.f }
  let s := s.onCore k (fun (c : Core) => { c with mxQueue := c.mxQueue ++ [m] })
  let s := if m.counted then s.countUp k m.f.thread .matrix else s
  if m.kind = .read ∨ m.kind = .info then s else s.emitBoth m.f m.w .order

/-- A control token fails at acceptance; the record of a handle fault names the handle (R362). -/
def State.mxFail (s : State) (k : Nat) (m : MxCtl) (cause : Nat) : State :=
  let kind := match m.kind with | .load => AccessKind.read | .store => .write | _ => .none
  (s.mxPop k).commit m.f cause kind none (if cause = 0x40 ∨ cause = 0x41 then m.w.handle else 0)

/-- MATRIX_ACCEPT (R226, R231, R331): the oldest control token, while the queue has room. A thread whose counter is full, and a
binding that finds no slots, hold acceptance. A control token of an aborted workgroup goes no further (R367). -/
def execMatrixAccept (core : Nat) (s : State) : Host.Outcome State Fault Refusal :=
  let c := s.core core
  match c.mxSent with
  | [] => .next s
  | m :: rest =>
    if (s.ft m.f).aborted ∧ !m.f.mute then .next (s.mxPop core)
    else if 16 ≤ c.mxQueue.length then .next s
    else match c.partOf m with
      | none => .next (s.mxPop core)
      | some p =>
        let n := m.w.handle
        let rule := handleRule m ((p.handles.look n).getD .unbound)
        if rule = .fault then .next (s.mxFail core m 0x41)
        else if m.bad ≠ 0 then .next (s.mxFail core m m.bad)
        else if m.kind.counted && s.owns m.f && !s.countRoom core m.f.thread .matrix then
          .next (if m.held then s else s.setCore core ({ c with mxSent := { m with held := true } :: rest }.bumpStat 7 1))
        else match rule with
          | .binds =>
            match c.bindHandle p (accWidth m.w) with
            | some (c, h) => .next ((s.setCore core (c.bindPart p n h)).mxTake core { m with acc := h })
            | none => .next (s.setCore core { c with mxHold := some (c.mxHold.getD s.time) })
          | .drop h =>
            .next ((s.setCore core (c.onPart p (fun (q : Part) => { q with handles := q.handles.del n }))).mxTake core
              { m with freeSlots := h.slots })
          | .take h => .next (s.mxTake core { m with acc := h })
          | _ => .next (s.mxTake core m)

/-- ACC_EXHAUSTED (R335): a binding hold has reached its bound. -/
def execAccExhausted (core : Nat) (s : State) : Host.Outcome State Fault Refusal :=
  let c := s.core core
  match c.mxSent, c.mxHold with
  | m :: _, some t0 =>
    let stuck : Bool := match c.partOf m with
      | some p => (c.bindHandle p (accWidth m.w)).isNone
      | none => false
    if stuck ∧ !s.frozen core ∧ t0 + 2 ^ clamp 10 30 (natBits c.ksched.toNat 60 56) ≤ s.time then .next (s.mxFail core m 0x40) else .next s
  | _, _ => .next s

/-! ### Feeds (R227 to R229, R333) -/

/-- Mantissa width of a feed's elements (R225). -/
def mxWidth (w : SlotWord) (feed : Nat) : Nat := (if feed = 0 then natBits w.xf.toNat 5 3 else natBits w.xf.toNat 2 0) + 1

/-- Bytes of an operand set of a stream feed (R227). -/
def setBytes (w : SlotWord) (feed : Nat) : Nat :=
  if w.mxBlock then 16 * (1 + mxK w * mxWidth w feed / 8) else 256 * w.ty.bytes

/-- An operand set (R227): its elements by position, as values that their consumer reads, what forms no term being a pass token;
and the exponents of its blocks. -/
structure OpSet where
  vals : List Val
  exps : List Nat
  deriving DecidableEq, Repr

/-- The set that the bytes of a stream hold (R227, R62). -/
def streamSet (w : SlotWord) (feed : Nat) (bs : List (Byte × Bool)) : OpSet :=
  let m := mxWidth w feed
  let k := mxK w
  let part := fun (o n : Nat) => (bs.drop o).take n
  if w.mxBlock then
    let size := 1 + k * m / 8
    let image := fun (q : Nat) => fromLE ((part (size * (q / k)) size).map (fun b => b.1))
    let vals := (List.range (16 * k)).map (fun q =>
      let blk := part (size * (q / k)) size
      let img := image q
      if 8 * blk.length < 8 + m * (q % k + 1) then .pass
      else if blk.any (fun b => b.2) then .err .poison
      else readElem m (img % 256) (.data (BitVec.ofNat 64 (img / 256 / 2 ^ (m * (q % k)) % 2 ^ m))))
    ⟨vals, (List.range 16).map (fun i => image (k * i) % 256)⟩
  else
    let vals := (List.range 256).map (fun q =>
      let e := part (w.ty.bytes * q) w.ty.bytes
      if e.length < w.ty.bytes then .pass
      else if e.any (fun b => b.2) then .err .poison
      else .data (BitVec.ofNat 64 (fromLE (e.map (fun b => b.1)))))
    ⟨vals, []⟩

/-- A stream feed can give its next set: all its bytes have come, or no more will. A port that no copy has opened yet has not
become CLOSED, so its set waits (R227, log 40). -/
def Core.streamReady (c : Core) (n : Nat) (w : SlotWord) (feed : Nat) : Bool :=
  let q := c.port n
  decide (setBytes w feed ≤ q.buf.length) || (q.state == .closed && q.begun) || (q.state == .opened && c.portFetched q)

/-- The element tokens of a thread at a feed in the cyclic order of R228, from an iteration field on. -/
def takeFeed (feed thread : Nat) : Nat → Nat → List FeedTok → List (Option FeedTok) × List FeedTok
  | 0, _, l => ([], l)
  | n + 1, i, l =>
    match l.find? (fun (x : FeedTok) => x.feed == feed && x.tag.slot.toNat == thread && x.iter == i) with
    | some x =>
      let r := takeFeed feed thread n ((i + 1) % 64) (l.erase x)
      (some x :: r.1, r.2)
    | none =>
      let r := takeFeed feed thread n ((i + 1) % 64) l
      (none :: r.1, r.2)

/-- Block tag of an element token (R163). -/
def FeedTok.block (x : FeedTok) (k : Nat) : Tag :=
  let base := BitVec.ofNat 6 (x.iter / k * k)
  if x.tag.inn ≠ 0 ∨ x.iter ≠ x.tag.out.toNat then { x.tag with inn := base } else { x.tag with out := base }

/-- The scale tokens of the rows or columns of a set (R229), with those left over: each row takes the oldest of its block tag that no row
before it took, since a loop of more than 64 iterations uses a tag again. -/
def takeScales (feed k : Nat) : List (List (Option FeedTok)) → List FeedTok → List (Option FeedTok) × List FeedTok
  | [], l => ([], l)
  | row :: rows, l =>
    let y := (row.head?.join).bind (fun x => l.find? (fun (y : FeedTok) => y.feed == feed + 2 && y.tag == x.block k))
    let r := takeScales feed k rows (match y with | some y => l.erase y | none => l)
    (y :: r.1, r.2)

/-- The next set of a thread at the fabric edge with the tokens left over; none while it is not complete. A thread that has left
its load or that no longer runs, and has nothing in transit, sends no more: what it has not sent are pass tokens (R24). -/
def State.fabricSet (s : State) (k : Nat) (m : MxCtl) (feed : Nat) : Option (OpSet × Core) :=
  let c := s.core k
  let t := m.f.thread
  let n := 16 * mxK m.w
  let next := (c.feedNext.look (4 * t + feed)).getD 0
  let r := takeFeed feed t n next c.feeds
  let over_ := m.f.mute || ((s.ft m.f).dead && s.idleBut k t)
  let rows := (List.range 16).map (fun i => (r.1.drop (mxK m.w * i)).take (mxK m.w))
  let taken := takeScales feed (mxK m.w) rows r.2
  let scales := taken.1
  let ready := r.1.all Option.isSome && (!m.w.mxBlock || scales.all Option.isSome)
  if !ready && !over_ then none
  else
    let vals := rows.zipWith (fun row sc => row.map (fun x =>
      match x, m.w.mxBlock, sc with
      | none, _, _ => Val.pass
      | some x, false, _ => x.val
      | some x, true, some e => readElem (mxWidth m.w feed) (e.val.bits.toNat % 256) x.val
      | some _, true, none => .pass)) scales
    let exps := scales.map (fun (e : Option FeedTok) => (e.map (fun (x : FeedTok) => x.val.bits.toNat % 256)).getD 0)
    some (⟨vals.flatten, exps⟩, { c with
      feeds := if m.w.mxBlock then taken.2 else r.2
      feedNext := c.feedNext.put (4 * t + feed) ((next + n) % 64) })

/-- The next operand set of one feed for an `mxop`, with the core without it. -/
def State.feedSet (s : State) (k : Nat) (m : MxCtl) (feed : Nat) : Option (OpSet × Core) :=
  match (if feed = 0 then m.srcA else m.srcB) with
  | none => s.fabricSet k m feed
  | some n =>
    let c := s.core k
    if c.streamReady n m.w feed then
      let b := setBytes m.w feed
      some (streamSet m.w feed ((c.port n).buf.take b),
        (c.onPort n (fun (q : Port) => { q with buf := q.buf.drop b })).portCheck n)
    else none

/-! ### Contributions (R66 to R70) -/

/-- Format in which a matrix operation accumulates. -/
def mxFmt (w : SlotWord) : Fmt := if w.ty = .f64 then fmtOf .f64 else fmtOf .f32

/-- One step of the chain of R67: the running sum stands before the operands in NaN order. -/
def chainStep (f : Fmt) (acc : Option Nat) (t : FVal × FVal) : Option Nat :=
  match acc with
  | none => some (f.deliver .rne (fMul t.1 t.2))
  | some x =>
    let s := f.decode x
    some (f.deliver .rne ((firstNan [s, t.1, t.2]).getD (fFma .rne t.1 t.2 s)))

/-- The exact sum of a group of products, rounded once to FP32 (R68). -/
def groupSum (g : List (FVal × FVal)) : Nat :=
  let f := fmtOf .f32
  match g with
  | [] => 0
  | g =>
    let ps := g.map (fun t => mulVal t.1 t.2)
    f.deliver .rne ((firstNan (g.flatMap (fun t => [t.1, t.2]))).getD
      (if ps.contains none then .invalid else sumVals .rne (ps.filterMap id)))

/-- Is the value an error token? -/
def Val.isErr (v : Val) : Bool := match v with | .err _ => true | _ => false

/-- The contribution of an affected pass (R70): the IEEE result of the exact sum of its terms with the images of the error elements. A NaN
image or an invalid combination, of a product or of infinite products, gives the canonical NaN, a NaN among the data delivers itself (R51), and otherwise the sum is infinite.
For .f64 operands, of whose format R70 does not speak, it is the binary64 result (log 65). -/
def affectedPass (f : Fmt) (value : Val → FVal) (ts : List (Val × Val)) : Nat :=
  let nan := fun (v : Val) => !v.isErr && (value v).isNan
  let sound := (ts.filter (fun t => !(nan t.1 || nan t.2))).map (fun t => mulVal (value t.1) (value t.2))
  if ts.any (fun t => t.1 == .err .nan || t.2 == .err .nan) ∨ sound.contains none then f.nan
  else match sumVals .rne (sound.filterMap id), firstNan (ts.flatMap (fun t => [value t.1, value t.2])) with
    | .invalid, _ => f.nan
    | _, some x => f.deliver .rne x
    | .inf neg, none => f.withSign neg f.inf
    | _, none => f.nan

/-- The contribution of an IEEE pass of 16 k-steps to one output element (R66 to R68, R70): none is Poison. The groups of R68 are counted
from the pass's first k, and a group without a term gives +0 (log 65). -/
def passTerm (w : SlotWord) (pairs : List (Val × Val)) : Option Nat :=
  let src := fmtOf w.ty
  let value := fun (v : Val) => if v.isErr then imageOf v else src.decode (readBits w.ty v.bits)
  let ts := pairs.zipIdx.filter (fun p => p.1.1 != .pass && p.1.2 != .pass)
  if ts.any (fun p => p.1.1 == .err .poison || p.1.2 == .err .poison) then none
  else
    let vs := ts.map (fun p => ((value p.1.1, value p.1.2), p.2))
    if ts.any (fun p => p.1.1.isErr || p.1.2.isErr) then some (affectedPass (mxFmt w) value (ts.map (fun p => p.1)))
    else if w.ty = .f32 ∨ w.ty = .f64 then some (((vs.map (fun p => p.1)).foldl (chainStep src) none).getD 0)
    else
      let group := fun (g : Nat) => groupSum ((vs.filter (fun p => p.2 / 4 == g)).map (fun p => p.1))
      some ([1, 2, 3].foldl (fun t g => addF32 t (group g)) (group 0))

/-- The contribution of an `mxop` to output element (i, j): the k-steps of an IEEE pass at or beyond kc form no term (R66, R227). -/
def mxTerm (w : SlotWord) (a b : OpSet) (i j : Nat) : Option Nat :=
  let k := mxK w
  let steps := if w.mxBlock then k else w.immBits 11 8 + 1
  let pairs := (List.range k).map (fun x =>
    if x < steps then ((a.vals[k * i + x]?).getD .pass, (b.vals[k * j + x]?).getD .pass) else (.pass, .pass))
  if w.mxBlock then
    blockTerm (mxWidth w 0) (mxWidth w 1) ((a.exps[i]?).getD 0) ((b.exps[j]?).getD 0) pairs
  else passTerm w pairs

/-! ### Executions (R230, R232, R233) -/

/-- Accumulator slot under which a handle's elements stand. -/
def Handle.base : Handle → Nat
  | .unbound => 0
  | .b32 a => a
  | .b64 a _ => a

/-- An accumulator element; an unwritten one is +0. -/
def Core.accAt (c : Core) (h : Handle) (q : Nat) : AccElem := (c.acc.look (256 * h.base + q)).getD ⟨false, 0⟩

/-- Every element of an accumulator written. -/
def Core.accFill (c : Core) (h : Handle) (g : Nat → AccElem) : Core :=
  { c with acc := (List.range 256).foldl (fun m q => m.put (256 * h.base + q) (g q)) c.acc }

/-- An accumulator element after a contribution (R66, R70). -/
def accStep (w : SlotWord) (old : AccElem) (t : Option Nat) : AccElem :=
  match t with
  | none => ⟨true, 0⟩
  | some v =>
    if !w.mod.getLsbD 0 then ⟨false, BitVec.ofNat 64 v⟩
    else if old.poison then old
    else
      let f := mxFmt w
      ⟨false, BitVec.ofNat 64 (f.deliver .rne (fAdd .rne (f.decode old.bits.toNat) (f.decode v)))⟩

/-- Tile byte of byte b of an `mxld` or `mxst` (R232). -/
def State.mxKey (s : State) (k : Nat) (m : MxCtl) (b : Nat) : Nat :=
  match m.key with
  | some key => key + m.off + b
  | none => spadKey (s.spadTilesAt k m.launch m.wgid) (m.off + b)

/-- `mxld` (R232): a poisoned dword gives Poison elements. -/
def State.mxLoad (s : State) (k : Nat) (m : MxCtl) : State :=
  let n := accBytes m.w / 256
  let c := s.core k
  s.setCore k (c.accFill m.acc (fun q =>
    let key := s.mxKey k m (n * q)
    if c.tileMark key then ⟨true, 0⟩
    else ⟨false, BitVec.ofNat 64 (fromLE ((List.range n).map (fun i => c.tileByte (s.mxKey k m (n * q + i)))))⟩))

/-- `mxst` (R232): a Poison element marks its dword. -/
def State.mxStore (s : State) (k : Nat) (m : MxCtl) : State :=
  let n := accBytes m.w / 256
  let per := 8 / n
  (List.range (accBytes m.w / 8)).foldl (fun s d =>
    let c := s.core k
    let els := (List.range per).map (fun i => c.accAt m.acc (per * d + i))
    let bs := els.flatMap (fun (e : AccElem) => bytesLE n (if e.poison then 0 else e.bits.toNat))
    let key := s.mxKey k m (8 * d)
    let c := c.tileStore key bs
    s.setCore k (if els.any (fun (e : AccElem) => e.poison) then c.tileMarkPoison key else c)) s

/-- The slots that an `mxrel` returns to the free list (R231). -/
def Core.accReturn (c : Core) (m : MxCtl) : Core := { c with accFree := m.freeSlots.foldl insertNat c.accFree }

/-- The status of `mxinfo` (R233). -/
def Core.mxStatus (c : Core) (m : MxCtl) : Val :=
  let p := c.partOf m
  .data (BitVec.ofNat 64 (((p.map (fun q => q.bound.length)).getD 0) % 256 + ((p.map Part.acc).getD 0) % 256 * 256 +
    c.unreserved * 65536))

/-- What an accepted control token does when its operands are there; none while an operand set is not complete. -/
def State.mxRun (s : State) (k : Nat) (m : MxCtl) : Option State :=
  let c := s.core k
  match m.kind with
  | .op =>
    match s.feedSet k m 0 with
    | none => none
    | some (a, c) =>
      let s := s.setCore k c
      match s.feedSet k m 1 with
      | none => none
      | some (b, c) =>
        some (s.setCore k (c.accFill m.acc (fun q => accStep m.w (c.accAt m.acc q) (mxTerm m.w a b (q / 16) (q % 16)))))
  | .zero => some (s.setCore k (c.accFill m.acc (fun _ => ⟨false, 0⟩)))
  | .load => some (s.mxLoad k m)
  | .store => some (s.mxStore k m)
  | .read =>
    let e := c.accAt m.acc m.off
    some (s.emitBoth m.f m.w (if e.poison then .err .poison else bitsVal m.w.ty e.bits.toNat))
  | .rel => some (s.setCore k (c.accReturn m))
  | .info => some (s.emitBoth m.f m.w (c.mxStatus m))

/-- MATRIX_EXECUTE_COMPLETE (R226, R230): the oldest accepted control token executes and completes. -/
def execMatrixExecuteComplete (core : Nat) (s : State) : Host.Outcome State Fault Refusal :=
  match (s.core core).mxQueue with
  | [] => .next s
  | m :: _ =>
    match s.mxRun core m with
    | none => .next s
    | some s =>
      let s := s.onCore core (fun (c : Core) => { c with mxQueue := c.mxQueue.drop 1 })
      .next (if m.counted then s.countDown core m.f.thread .matrix else s)

end Sys2Proof.Machine
end

