-- ==== Sys2Proof/Machine/Records.lean ====
section
/-! DEFINITION. The record class, opcodes 0xF0 to 0xF4 (spec 08 R254 to R260), and the reserve of a stage graph (12 R345 to R347,
R349, R354, R355). -/

namespace Sys2Proof.Machine

/-! ### The reserve (R345, R346) -/

/-- Records of a node that a slab holds. -/
def GNode.perSlab (n : GNode) : Nat := 65536 / n.record

/-- Units of the records of a node's guaranteed region. -/
def GNode.regionUnits (n : GNode) : List Nat := (List.range (2 * n.group)).map (fun k => n.regionBase + k * (n.record / 16))

/-- Units of the records of a slab of a node. -/
def GNode.slabRecords (n : GNode) (b : Nat) : List Nat := (List.range n.perSlab).map (fun k => b + k * (n.record / 16))

/-- Free records of a node in its region and its slabs, in the order in which they are taken. -/
def GNode.freeUnits (n : GNode) : List Nat :=
  (n.regionUnits ++ n.slabs.flatMap n.slabRecords).filter (fun u => !n.used.contains u)

/-- Records that an allocation for a node could take (R259). -/
def Graph.available (g : Graph) (n : GNode) : Nat := n.freeUnits.length + g.freeSlabs.length * n.perSlab

/-- Byte offsets of a record in the pool. -/
def recordBytes (n : GNode) (u : Nat) : List Nat := (List.range n.record).map (fun i => 16 * u + i)

/-- A record taken for node i (R346): its unit and the graph without it. -/
def Graph.take (g : Graph) (i : Nat) : Option (Nat × Graph) :=
  match g.nodes[i]? with
  | none => none
  | some n =>
    let add := fun (g : Graph) (u : Nat) (slabs : List Nat) =>
      { (g.onNode i (fun (x : GNode) => { x with used := insertNat x.used u, slabs := slabs })) with
        live := g.live + 1, blank := (recordBytes n u).foldl insertNat g.blank }
    match n.freeUnits with
    | u :: _ => some (u, add g u n.slabs)
    | [] =>
      match g.freeSlabs with
      | b :: rest => some (b, add { g with freeSlabs := rest } b (insertNat n.slabs b))
      | [] => none

/-- Slabs of a graph's shared part. -/
def Graph.slabCount (g : Graph) : Nat :=
  let region := g.nodes.foldl (fun t (n : GNode) => t + (2 * n.group * n.record + 65535) / 65536 * 65536) 0
  (g.poolSize - region) / 65536

/-- Entries of a node's queue ring (R345). -/
def Graph.ringSize (g : Graph) (n : GNode) : Nat := 2 * n.group + g.slabCount * n.perSlab

/-- Global virtual address of entry k of node i's queue ring. -/
def Graph.ringVa (g : Graph) (i k : Nat) : Nat :=
  let before := (g.nodes.take i).foldl (fun t (n : GNode) => t + 4 * g.ringSize n) 0
  g.control + 64 * g.nodes.length + before + 4 * k

/-- Bytes that the hub die writes at a global virtual address, page by page; a page that does not translate leaves its bytes
unwritten (log 19). -/
def State.controlWrites (s : State) (launch ctx : Nat) : Nat → Nat → List Byte → State
  | 0, _, _ => s
  | fuel + 1, va, bs =>
    let m := min bs.length (4096 - va % 4096)
    if m = 0 then s
    else
      let s := match s.hubTranslate launch ctx va false true with
        | (s, .page e) => s.hubWriteAs .write launch (e.place va) (bs.take m)
        | (s, _) => s
      s.controlWrites launch ctx fuel (va + m) (bs.drop m)

/-- Bytes that the hub die writes in the control area of a launch's graph. -/
def State.controlWrite (s : State) (launch ctx va : Nat) (bs : List Byte) : State :=
  s.controlWrites launch ctx (bs.length / 4096 + 2) va bs

/-- A record joins the tail of its node's queue (R349), and its ring entry is written (R345). -/
def State.enqueue (s : State) (launch i u depth : Nat) : State :=
  match s.graph? launch, (s.graph? launch).bind (fun g => g.nodes[i]?) with
  | some g, some n =>
    let k := (n.qhead + n.queue.length) % max 1 (g.ringSize n)
    let s := s.controlWrite launch (((s.launch? launch).map Launch.ctx).getD 0) (g.ringVa i k) (bytesLE 4 u)
    s.onGraph launch (fun g => g.onNode i (fun (n : GNode) => { n with queue := n.queue ++ [(u, s.time, depth)] }))
  | _, _ => s

/-! ### Handles (R254) -/

/-- A record handle. -/
def recordHandle (node depth unit : Nat) : Dword := BitVec.ofNat 64 (2 ^ 63 + node * 2 ^ 48 + depth * 2 ^ 42 + unit)

/-- A null handle with its reason. -/
def nullHandle (reason : Nat) : Dword := BitVec.ofNat 64 reason

/-- The record that a handle names, when its thread owns it (R257): node and unit. -/
def State.ownedRecord (s : State) (f : Firing) (h : Nat) : Option (GNode × Nat × Nat) :=
  let th := s.ft f
  let u := natBits h 27 0
  match (s.graph? th.launch).bind (fun g => g.nodes[natBits h 55 48]?) with
  | some n =>
    if natBit h 63 ∧ natBits h 62 56 = 0 ∧ natBits h 41 28 = 0 ∧ th.owned.contains u ∧ n.used.contains u ∧
        natBits h 47 42 = th.recDepth.toNat + 1 then some (n, natBits h 55 48, u) else none
  | none => none

/-- A fault of a record instruction; its record names the node, or 0xFF for none (R362). -/
def State.recFault (s : State) (f : Firing) (cause : Nat) (kind : AccessKind) (node : Option Nat) : State :=
  s.commit f cause kind none (if 0x50 ≤ cause then node.getD 0xFF else 0)

/-- A handle or node operand (R255): its number, or the cause that it commits. -/
def recordOperand (v : Val) : Except Nat Nat :=
  match v with
  | .err .poison => .error 0x20
  | .err _ => .error 0x52
  | v => .ok v.bits.toNat

/-- An offset of w bytes in a record (R257): range before alignment, as R38 checks them. Error tokens on it are as on a handle (DEDUCED,
log 81). -/
def recordOffset (size w : Nat) (v : Val) : Except Nat Nat :=
  match recordOperand v with
  | .error c => .error c
  | .ok off => if size < off + w then .error 0x52 else if off % w ≠ 0 then .error 0x15 else .ok off

/-! ### Meanings -/

/-- Two firings are one instance: node, tag, and the cycle in which it matched. -/
def Firing.same (f g : Firing) : Bool := f.core == g.core && f.node == g.node && f.tag == g.tag && f.since == g.since

/-- A graph for whose records an instance no longer waits. -/
def Graph.unwait (g : Graph) (f : Firing) : Graph := { g with waiters := g.waiters.filter (fun x => !x.2.2.same f) }

/-- An allocation that has a record (R256, R355). -/
def State.recGive (s : State) (f : Firing) (w : SlotWord) (i u : Nat) (g : Graph) : State :=
  let th := s.ft f
  let s := s.onGraph th.launch (fun _ => g.unwait f)
  let s := s.onThread f.core f.thread (fun th => { th with owned := th.owned ++ [u] })
  s.emit2 f w (.data (recordHandle i (th.recDepth.toNat + 1) u)) .order

/-- An older allocation waits for the same node (R347). -/
def Graph.waitsBefore (g : Graph) (i : Nat) (f : Firing) : Bool :=
  ((g.waiters.takeWhile (fun x => !x.2.2.same f)).any (fun x => x.1 == i))

/-- An allocation waits for a record of node i: it keeps its place in the order, and its bound runs from the cycle in which it
began (R347). -/
def State.recWait (s : State) (f : Firing) (g : Graph) (i : Nat) : State :=
  let old := g.waiters.find? (fun x => x.2.2.same f)
  let s := if old.isSome then s else s.onGraph g.launch (fun g => { g with waiters := g.waiters ++ [(i, s.time, f)] })
  s.onCore f.core (fun (c : Core) => { c with
    parked := c.parked ++ [(⟨f, .record, (old.map (fun x => x.2.1)).getD s.time⟩ : Parked)] })

/-- An instance whose thread has ended waits for no record. -/
def State.unwait (s : State) (f : Firing) : State :=
  if s.ended f then s.onGraph (s.ft f).launch (fun g => g.unwait f) else s

/-- `recalloc` (R256, R347). -/
def execRecalloc (w : SlotWord) (s : State) : Host.Outcome State Fault Refusal :=
  let f := s.fire
  .next ((s.unwait f).operation f w false [s.opA f w] (fun s =>
    let th := s.ft f
    match recordOperand (s.opA f w) with
    | .error c => s.recFault f c .none none
    | .ok i =>
      match s.graph? th.launch, (s.graph? th.launch).bind (fun g => g.nodes[i]?) with
      | some g, some n =>
        let null := fun (r : Nat) => s.emit2 f w (.data (nullHandle r)) .order
        let waits := th.owned.isEmpty && !((s.wg? th.launch th.wgid).map Workgroup.reserve).getD false
        let park := s.recWait f g i
        if n.maxDepth < th.recDepth.toNat + 1 then (if w.tryForm then null 2 else s.recFault f 0x51 .none (some i))
        else if w.tryForm ∨ !waits then
          match g.take i with
          | some (u, g) => s.recGive f w i u g
          | none => if w.tryForm then null 1 else s.recFault f 0x50 .none (some i)
        else if g.waitsBefore i f then park
        else match g.take i with
          | some (u, g) => s.recGive f w i u g
          | none => park
      | _, _ => s.recFault f 0x52 .none none))

/-- A waiting allocation can go on: it is the oldest of its node, and a record is there. -/
def State.recordReady (s : State) (f : Firing) : Bool :=
  match s.graph? (s.ft f).launch with
  | none => true
  | some g =>
    match g.waiters.find? (fun x => x.2.2.same f) with
    | none => true
    | some x => !g.waitsBefore x.1 f && (g.take x.1).isSome

/-- RECORD_POOL_EXHAUSTED (R347): a waiting allocation has reached its bound. -/
def execRecordPoolExhausted (core index : Nat) (s : State) : Host.Outcome State Fault Refusal :=
  let c := s.core core
  match c.parked[index]? with
  | none => .next s
  | some p =>
    match s.graph? (s.ft p.f).launch with
    | none => .next s
    | some g =>
      if p.why = .record ∧ p.since + 2 ^ g.poolWait ≤ s.time ∧ !s.recordReady p.f then
        let s := s.setCore core { c with parked := c.parked.eraseIdx index }
        let s := s.onGraph g.launch (fun g => g.unwait p.f)
        .next (s.recFault p.f 0x50 .none ((g.waiters.find? (fun x => x.2.2.same p.f)).map (fun x => x.1)))
      else .next s

/-- Global virtual address of a record's byte. -/
def Graph.recordVa (g : Graph) (u off : Nat) : Nat := g.poolBase + 16 * u + off

/-- A `recw` whose checks have passed writes at a global virtual address (R257). -/
def State.recStore (s : State) (f : Firing) (w : SlotWord) (va b : Nat) : State :=
  let n := w.ty.bytes
  match s.locateOf f (.va va) false true with
  | (s, .error e) => s.stopAccess f .write va e
  | (s, .ok q) =>
    let s := s.writeAt .write f q (bytesLE n b)
    let s := s.onGraph (s.groupOf f).1 (fun g => { g with
      blank := g.blank.filter (fun x => !(decide (va ≤ g.poolBase + x) && decide (g.poolBase + x < va + n))) })
    s.emitBoth f w .order

/-- `recw` (R257): a held one goes on where it went. -/
def execRecw (w : SlotWord) (s : State) : Host.Outcome State Fault Refusal :=
  let f := s.fire
  let n := w.ty.bytes
  .next (s.operation f w true [s.opA f w, s.opB f w, s.opC f w] (fun s =>
    let th := s.ft f
    if f.kept.isSome then s.recStore f w ((f.kept.map Kept.va).getD 0) ((storeImage w.ty (s.opC f w)).getD 0)
    else match recordOperand (s.opA f w) with
    | .error c => s.recFault f c .write none
    | .ok h =>
      match s.graph? th.launch, s.ownedRecord f h with
      | some g, some (nd, i, u) =>
        match recordOffset nd.record n (s.opB f w) with
        | .error c => s.recFault f c .write (some i)
        | .ok off =>
          match storeImage w.ty (s.opC f w) with
          | none => s.commit f 0x20 .write (some (g.recordVa u off)) 0
          | some b => s.recStore f w (g.recordVa u off) b
      | _, _ => s.recFault f 0x52 .write (if natBit h 63 then some (natBits h 55 48) else none))).settle

/-- The bytes of a record as `recrd` finds them: one that nothing has written is undefined (R256). -/
def State.recordImage (s : State) (g : Graph) (va n v : Nat) : Nat :=
  fromLE ((bytesLE n v).zipIdx.map (fun bi =>
    if g.blank.contains (va - g.poolBase + bi.2) then Config.freeByte (2 ^ 20 * s.stepNo + (va + bi.2) % 2 ^ 20) else bi.1))

/-- A `recrd` whose checks have passed reads at a global virtual address (R257). -/
def State.recLoad (s : State) (f : Firing) (w : SlotWord) (va : Nat) : State :=
  let n := w.ty.bytes
  match s.locateOf f (.va va) true false with
  | (s, .error e) => s.stopAccess f .read va e
  | (s, .ok q) =>
    match s.readAt .read f q n with
    | (s, v, poison) =>
      match s.graph? (s.groupOf f).1 with
      | some g => s.emit2 f w (if poison then .err .poison else bitsVal w.ty (s.recordImage g va n v)) .order
      | none => s

/-- `recrd` (R257): a held one goes on where it went. -/
def execRecrd (w : SlotWord) (s : State) : Host.Outcome State Fault Refusal :=
  let f := s.fire
  let n := w.ty.bytes
  .next (s.operation f w false [s.opA f w] (fun s =>
    let th := s.ft f
    let i := (s.wg? th.launch th.wgid).bind Workgroup.node
    let nd := (s.graph? th.launch).bind (fun g => i.bind (fun i => g.nodes[i]?))
    if f.kept.isSome then s.recLoad f w ((f.kept.map Kept.va).getD 0)
    else match s.graph? th.launch, nd, th.recUnit with
    | some g, some nd, some u =>
      match recordOffset nd.record n (s.opA f w) with
      | .error c => s.recFault f c .read i
      | .ok off => s.recLoad f w (g.recordVa u off)
    | _, _, _ => s.recFault f 0x52 .read none)).settle

/-- `recemit` (R258, R349): a release at dev scope, which waits for the accesses of earlier loads (R186). -/
def execRecemit (w : SlotWord) (s : State) : Host.Outcome State Fault Refusal :=
  let f := s.fire
  .next (s.operation f w true [s.opA f w] (fun s =>
    let th := s.ft f
    if !s.owns f then s
    else match recordOperand (s.opA f w) with
    | .error c => s.recFault f c .none none
    | .ok h =>
      match s.ownedRecord f h with
      | some (_, i, u) =>
        if s.earlierPending f then s.parkRelease f 0 (.va 0)
        else
          let s := s.releaseActs f .rel .dev
          let s := s.onThread f.core f.thread (fun th => { th with owned := removeNat th.owned u })
          (s.enqueue th.launch i u (th.recDepth.toNat + 1)).emitBoth f w .order
      | none => s.recFault f 0x52 .none (if natBit h 63 then some (natBits h 55 48) else none))).settle

/-- `recinfo` (R259). Outside a stage graph, or with a number that names no node, it commits 0x52 (DEDUCED, log 81). -/
def execRecinfo (w : SlotWord) (s : State) : Host.Outcome State Fault Refusal :=
  let f := s.fire
  .next (s.operation f w false [s.opA f w] (fun s =>
    match recordOperand (s.opA f w) with
    | .error c => s.recFault f c .none none
    | .ok i =>
      match s.graph? (s.ft f).launch, (s.graph? (s.ft f).launch).bind (fun g => g.nodes[i]?) with
      | some g, some n =>
        s.emit2 f w (.data (BitVec.ofNat 64 (g.available n % 2 ^ 32 + n.maxDepth * 2 ^ 32 + n.record / 16 * 2 ^ 40))) .order
      | _, _ => s.recFault f 0x52 .none none))

end Sys2Proof.Machine
end

