-- ==== Sys2Proof/Machine/System.lean ====
section
/-! DEFINITION. The system class, opcodes 0xF8 to 0xFF (spec 08 R261 to R265). -/

namespace Sys2Proof.Machine

/-- An instance that forwards A's token (R262). -/
def State.forward (s : State) (w : SlotWord) : State :=
  let f := s.fire
  s.triggered f w (fun s => s.emitBoth f w (s.opA f w))

/-- `nop` (R262); the delay of a LINE tile lies before its port A (R291). -/
def execNop (w : SlotWord) (s : State) : Host.Outcome State Fault Refusal := .next (s.forward w)

/-- `hint` (R262): the scheduler of the model uses none. -/
def execHint (w : SlotWord) (s : State) : Host.Outcome State Fault Refusal := .next ((s.forward w))

/-- `rdclk` (R263). -/
def execRdclk (w : SlotWord) (s : State) : Host.Outcome State Fault Refusal :=
  let f := s.fire
  .next (s.triggered f w (fun s => s.emitBoth f w (.data (BitVec.ofNat 64 s.time))))

/-- A counter of a core (R263): NOLOAD is the rest of the cycles since the warm reset. -/
def State.counter (s : State) (k i : Nat) : Dword :=
  let c := s.core k
  if i = 5 then BitVec.ofNat 64 (s.time - s.warmAt - c.admitCycles) else (c.kstat[i]?).getD 0

/-- `rdctr` (R263). -/
def execRdctr (w : SlotWord) (s : State) : Host.Outcome State Fault Refusal :=
  let f := s.fire
  .next (s.triggered f w (fun s => s.emitBoth f w (.data (s.counter f.core (w.immBits 7 0)))))

/-- A system register as a program reads it (R264). -/
def State.sysReg (s : State) (f : Firing) (r : Nat) : Nat :=
  let th := s.ft f
  let c := s.core f.core
  match r with
  | 0 => th.launch
  | 1 => ((s.launch? th.launch).map Launch.queue).getD 0
  | 2 => c.powerBudget
  | 3 => natBits c.ksched.toNat 15 0
  | 4 => (((s.wg? th.launch th.wgid).map Workgroup.cores).getD []).foldl (fun m k => m + 2 ^ (k % 8)) 0
  | _ => s.devid.toNat

/-- `sysrd` (R264). -/
def execSysrd (w : SlotWord) (s : State) : Host.Outcome State Fault Refusal :=
  let f := s.fire
  .next (s.triggered f w (fun s => s.emitBoth f w (.data (BitVec.ofNat 64 (s.sysReg f (w.immBits 11 0))))))

/-- `syswr` to UEVT (R264): a release at sys scope, which waits for the accesses of earlier loads (R186), then the event. -/
def execSyswr (w : SlotWord) (s : State) : Host.Outcome State Fault Refusal :=
  let f := s.fire
  .next (s.triggered f w (fun s =>
    match storeImage .b64 (s.opA f w) with
    | none => s.commit f 0x20 .none none 0
    | some v =>
      let id := if s.owns f then (s.ft f).launch else (f.who.map (fun x => x.1)).getD 0
      if s.earlierPending f then s.parkRelease f 0 (.va 0)
      else s.releasing f .rel .sys .none none (fun s => (s.raiseEvent 8 id (BitVec.ofNat 64 v) id).emitBoth f w .order)))

/-- `brk` (R262). -/
def execBrk (w : SlotWord) (s : State) : Host.Outcome State Fault Refusal :=
  let f := s.fire
  match s.go f w with
  | .poison => .next (s.commit f 0x20 .none none 0)
  | .fire => if s.opA f w = .pass then .next s else .next (s.commit f 0x35 .none (some (w.immBits 15 0)) 0)
  | _ => .next s

/-- A dword of the held fault record of an instance's thread (R265): `g` runs with its token when the read returns. A held read goes on
where it went. -/
def State.heldRecord (s : State) (w : SlotWord) (g : State → State) : State :=
  let f := s.fire
  s.triggered f w (fun s =>
    let th := s.ft f
    if !th.fvalid && f.kept.isNone then g (s.emitBoth f w (.data 0))
    else
      let va := (f.kept.map Kept.va).getD
        (s.privBase f.core f.thread + (s.kernelAt f.core f.thread).privRound + 8 * w.immBits 2 0)
      match s.locateOf f (.va va) true false with
      | (s, .error e) => s.stopAccess f .read va e
      | (s, .ok q) =>
        match s.readAt .read f q 8 with
        | (s, v, poison) => g (s.emitBoth f w (if poison then .err .poison else .data (BitVec.ofNat 64 v))))

/-- `fltrd` (R265). -/
def execFltrd (w : SlotWord) (s : State) : Host.Outcome State Fault Refusal := .next (s.heldRecord w id).settle

/-- `fltrd.clr` (R265). -/
def execFltrdClr (w : SlotWord) (s : State) : Host.Outcome State Fault Refusal :=
  let f := s.fire
  .next (s.heldRecord w (fun s =>
    if s.owns f then s.onThread f.core f.thread (fun th => { th with fvalid := false, fcause := 0 }) else s)).settle

end Sys2Proof.Machine
end

