-- ==== Sys2Proof/Machine/Sched.lean ====
section
/-! DEFINITION. Elements and tokens (spec 11 R305 to R311), the block scheduler (R312 to R319), workgroup admission (R324 to R329),
parked instances (R330), the watchdogs (R318; 13 R382) and the ordering point of `.sc` fences (14 R432). -/

namespace Sys2Proof.Machine

/-! ### Ports that a slot reads (R77 to R79) -/

/-- Port P is a predicate or carries an order-in token (R77, R78). -/
def readsP (opc : Nat) (w : SlotWord) : Bool :=
  w.pm != .none ||
    (w.ordin && ((0x90 ≤ opc && opc ≤ 0x9C) || (0xE0 ≤ opc && opc ≤ 0xEA) || (0xF0 ≤ opc && opc ≤ 0xF4)))

/-- Token ports of a word. Port B of a header is apart: its `ltail` delivers there (R136).
Port B of an `sget` is apart too: it receives the inbound stream and matches no tag (R247). -/
def tokenPorts (opc : Nat) (w : SlotWord) : List PortId :=
  (if w.a = .token then [.a] else []) ++ (if w.b = .token ∧ !isHeaderOpc opc ∧ opc ≠ 0xE5 then [.b] else []) ++
    (if w.c = .token then [.c] else []) ++ (if readsP opc w then [.p] else [])

/-! ### Matching (R305) -/

/-- A blank entry of a slot and tag. -/
def Pending.blank (elem slot : Nat) (tag : Tag) : Pending := ⟨elem, slot, tag, none, none, none, none, none, none, 0, none⟩

/-- A token written into its port in some cycle. -/
def Pending.put (x : Pending) (p : PortId) (tail : Bool) (v : Val) (now : Nat) : Pending :=
  match p, tail with
  | .a, true => { x with ta := some v }
  | _, true => { x with tb := some v }
  | .a, false => { x with a := some v, due := now }
  | .b, false => { x with b := some v }
  | .c, false => { x with c := some v }
  | .p, false => { x with p := some v }

/-- Token at a port of an entry. -/
def Pending.at_ (x : Pending) (p : PortId) : Option Val :=
  match p with | .a => x.a | .b => x.b | .c => x.c | .p => x.p

/-- Every input of an entry has arrived; the pair of a `cas2` counts the inputs of both slots (R193). -/
def Load.matched (l : Load) (x : Pending) : Bool :=
  let n := 16 * x.elem + x.slot
  match l.opc n, l.fields n with
  | some o, some w =>
    (tokenPorts o w).all (fun p => (x.at_ p).isSome) &&
      (if l.casHead n then
        match l.fields (n + 1) with
        | some t => (t.a != .token || x.ta.isSome) && (t.b != .token || x.tb.isSome)
        | none => true
       else true)
  | _, _ => false

/-- Scale inputs of a consumer, which are matched with its elements (R165, R305); those of `bsfwd` never are (R176). -/
def scalesOf (opc : Nat) : Nat := match opc with | 0x62 | 0x63 | 0x64 => 1 | 0x66 => 2 | _ => 0

/-- Inputs that a slot reads, with those of its tail for a `cas2` (R193, R305). -/
def Load.inputs (l : Load) (n : Nat) : Nat :=
  match l.opc n, l.fields n with
  | some o, some w =>
    let tail := if l.casHead n then (l.fields (n + 1)).elim 0 (fun t =>
      (if t.a = .token then 1 else 0) + (if t.b = .token then 1 else 0)) else 0
    (tokenPorts o w).length + scalesOf o + tail
  | _, _ => 0

/-- The ready queue of an element has room for an instance of a single-input slot (R306); one that waits in its block's entry has its
place in the queue. -/
def Core.queueRoom (c : Core) (elem : Nat) : Bool :=
  decide (((c.rq ++ c.blocks.flatMap (fun (b : BlockState) => b.waiting)).filter
    (fun (f : Firing) => f.elem == elem && f.place.isNone)).length < 64)

/-- An instance that has matched becomes ready (R306); one of a block-FP consumer may wait in its block's entry first (R166). -/
def State.matchedIn (s : State) (f : Firing) : State :=
  match (s.core f.core).load.opc f.node, (s.core f.core).load.fields f.node with
  | some o, some w =>
    if 0x62 ≤ o ∧ o ≤ 0x66 then s.blockReady f o w else s.onCore f.core (fun (c : Core) => { c with rq := c.rq ++ [f] })
  | _, _ => s

/-- A token joins the entry of its instance, which is matched when its last input arrives (R305). A slot with one input uses no entry,
but the ready queue. No answer means that there is no place: the token waits. -/
def State.join (s : State) (k elem slot : Nat) (tag : Tag) (p : PortId) (tail : Bool) (v : Val) : Option State :=
  let c := s.core k
  let n := 16 * elem + slot
  let here := fun (x : Pending) => x.elem == elem && x.slot == slot && x.tag == tag
  if ((c.load.opc n).map isHeaderOpc).getD false then
    let x := ((c.headers.find? here).getD (Pending.blank elem slot tag)).put p tail v s.time
    let rest := c.headers.filter (fun y => !here y)
    if c.load.matched x then some (s.setCore k { c with headers := rest, rq := c.rq ++ [x.firing k s.time] })
    else some (s.setCore k { c with headers := rest ++ [x] })
  else if c.load.inputs n < 2 then
    if c.queueRoom elem then some (s.matchedIn (((Pending.blank elem slot tag).put p tail v s.time).firing k s.time)) else none
  else
    let old := c.pendings.find? here
    match old.elim (c.freePlace elem slot tag) (fun x => x.place) with
    | none => none
    | some place =>
      let x := { (old.getD (Pending.blank elem slot tag)).put p tail v s.time with place := some place }
      let c := { c with pendings := c.pendings.filter (fun y => !here y) }
      if c.load.matched x then some ((s.setCore k c).matchedIn (x.firing k s.time))
      else some (s.setCore k { c with pendings := c.pendings ++ [x] })

/-- One side of a `merge.first` pair arrives (R129): the two sides share one entry. -/
def State.mergeJoin (s : State) (k elem slot : Nat) (tag : Tag) (p : PortId) (v : Val) : Option State :=
  let c := s.core k
  let n := 16 * elem + slot
  let x := (Pending.blank elem slot tag).put p false v s.time
  if c.load.inputs n < 2 then
    if c.queueRoom elem then some (s.setCore k { c with rq := c.rq ++ [x.firing k s.time] }) else none
  else
    let fs := c.rq ++ c.parked.map Parked.f ++ s.pendingIssue k
    let other := ((fs.find? (fun f => f.node == n && f.tag == tag)).bind (fun f => f.place)).orElse (fun _ =>
      (c.merges.find? (fun (m : MergeState) => m.elem == elem && m.slot == slot && m.tag == tag)).bind (fun m => m.place))
    match other.orElse (fun _ => c.freePlace elem slot tag) with
    | none => none
    | some place => some (s.setCore k { c with rq := c.rq ++ [({ x with place := some place } : Pending).firing k s.time] })

/-! ### Arrival (R307, R291, R165) -/

/-- A token passes the delay line of its `nop` (R291). -/
def Core.delay (c : Core) (tile : Nat) (v : Val) : Core × Val :=
  let n := c.load.sizeOf tile + 1
  let x := (c.lines.look tile).getD ⟨0, []⟩
  match x.vals with
  | old :: rest =>
    if n ≤ x.count then ({ c with lines := c.lines.put tile ⟨x.count + 1, rest ++ [v]⟩ }, old)
    else ({ c with lines := c.lines.put tile ⟨x.count + 1, x.vals ++ [v]⟩ }, .pass)
  | [] => ({ c with lines := c.lines.put tile ⟨x.count + 1, [v]⟩ }, .pass)

/-- A scale token arrives (R165, R166): `bsfwd` forwards it at once (R176), a consumer keeps it in the entry of its block. -/
def State.scaleArrives (s : State) (k : Nat) (x : Flight) (opc : Nat) (w : SlotWord) : Option State :=
  let c := s.core k
  let e : Byte := BitVec.ofNat 8 x.val.bits.toNat
  if opc = 0x67 then
    some (s.send { Firing.none with core := k, elem := x.elem, slot := x.slot, tag := x.tag } 0 w.d0 true x.val x.tag)
  else
    let b := c.block x.elem x.slot x.tag
    if b.place.isNone ∧ (c.freePlace x.elem x.slot x.tag).isNone then none
    else some (s.setCore k (c.stepBlock (if x.port = .b then { b with s1 := some e } else { b with s0 := some e }) opc w))

/-- A token arrives at a slot's port. No answer means that its element has no place for it, so that it waits (R305, R306). -/
def State.tokenArrives (s : State) (k : Nat) (x : Flight) : Option State :=
  let c := s.core k
  let n := 16 * x.elem + x.slot
  match c.load.opc n, c.load.fields n with
  | some o, some w =>
    if x.scale then s.scaleArrives k x o w
    else
      let r := match (if o = 0xF8 ∧ x.port = .a then c.load.lineOfNop n else none) with
        | some tile => c.delay tile x.val
        | none => (c, x.val)
      let s := s.setCore k r.1
      if o = 0x75 ∧ w.mod = 0 then s.mergeJoin k x.elem x.slot x.tag x.port r.2
      else if c.load.casTail n then s.join k x.elem (x.slot - 1) x.tag x.port true r.2
      else s.join k x.elem x.slot x.tag x.port false r.2
  | _, _ => some s

/-- A flight is the first of its edge: an edge delivers in order (R290). -/
def Core.firstOfEdge (c : Core) (index : Nat) (x : Flight) : Bool :=
  !(c.flights.take index).any (fun (y : Flight) =>
    y.srcElem == x.srcElem && y.srcSlot == x.srcSlot && y.srcDst == x.srcDst && y.elem == x.elem && y.slot == x.slot)

/-- TOKEN_ARRIVAL (R307). -/
def execTokenArrival (core index : Nat) (s : State) : Host.Outcome State Fault Refusal :=
  let c := s.core core
  match c.flights[index]? with
  | none => .next s
  | some x =>
    if c.firstOfEdge index x then
      .next (((s.setCore core { c with flights := c.flights.eraseIdx index }).tokenArrives core x).getD s)
    else .next s

/-! ### Issue (R306, R326, R330) -/

/-- Instances that a slot issues at once (R306). -/
def Load.lanes (l : Load) (n : Nat) : Nat :=
  match l.opc n, l.fields n with
  | some o, some w => if o ≤ 0x4E ∧ w.ty.width = 64 then 4 else 8
  | _, _ => 8

/-- Sides of a `merge.first` pair go in order of arrival, A first in a tie of one cycle (R129). -/
def State.mergeReady (s : State) (f : Firing) : Bool :=
  let c := s.core f.core
  let isMerge := c.load.opc f.node == some 0x75 && ((c.load.fields f.node).map (fun w => w.mod == 0)).getD false
  let pair := (c.rq ++ c.parked.map Parked.f).filter (fun g => g.node == f.node && g.tag == f.tag && g != f)
  !isMerge || (if f.a.isSome then pair.all (fun g => decide (f.since ≤ g.since))
    else decide (f.since < s.time) && pair.all (fun g => decide (f.since < g.since)))

/-- A matched instance may issue by the orders that R129, R247 and R248 set. -/
def State.orderReady (s : State) (f : Firing) : Bool := s.mergeReady f && s.streamReady f

/-- Ready instances of a slot. -/
def State.readyAt (s : State) (k n : Nat) : List Firing := (s.core k).rq.filter (fun (f : Firing) => f.node == n && s.orderReady f)

/-- The oldest of a list of instances. -/
def oldestSince (l : List Firing) (now : Nat) : Nat := l.foldl (fun m (f : Firing) => min m f.since) now

/-- The slot of an element that issues next (R306). -/
def State.pickSlot (s : State) (k elem : Nat) : Option Nat :=
  let l := (s.core k).load
  let slots := (List.range 16).filter (fun i => !(s.readyAt k (16 * elem + i)).isEmpty)
  let old := slots.filter (fun i => decide (oldestSince (s.readyAt k (16 * elem + i)) s.time + 64 ≤ s.time))
  let score := fun (i : Nat) => min (l.lanes (16 * elem + i)) (s.readyAt k (16 * elem + i)).length
  match old with
  | i :: _ => some i
  | [] =>
    match slots with
    | [] => none
    | i :: rest => some (rest.foldl (fun b j => if score b < score j then j else b) i)

/-- The oldest of some instances first, the order of arrival kept among equals. -/
def bySince : List Firing → List Firing
  | [] => []
  | f :: l => insert_ f (bySince l)
where
  insert_ (f : Firing) : List Firing → List Firing
    | [] => [f]
    | g :: l => if f.since ≤ g.since then f :: g :: l else g :: insert_ f l

/-- An instance takes the scales that its block entry holds (R166). -/
def Core.withScales (c : Core) (f : Firing) : Firing :=
  match c.load.opc f.node, c.load.fields f.node with
  | some o, some w =>
    if 0x60 ≤ o ∧ o ≤ 0x67 then
      let b := c.block f.elem f.slot (blockTag w f.tag)
      { f with s0 := b.s0, s1 := b.s1 }
    else f
  | _, _ => f

/-- Whether the channels of an instance have credit (R330): those of its destinations, the copy island and its stream port. -/
def State.creditFor (s : State) (f : Firing) : Bool :=
  match (s.core f.core).load.opc f.node, (s.core f.core).load.fields f.node with
  | some o, some w => s.hasCredit f o w && s.copyCredit f o w && s.streamCredit f o w
  | _, _ => true

/-- The issue cycles of a frame that KPWR.GATE enables (R326). -/
def State.issueEnabled (s : State) (k : Nat) : Bool := decide (s.time % 16 < natBits (s.core k).kpwr.toNat 47 40)

/-- An instance issues when its channels have credit, and takes effect at the end of the cycle; else it parks in an entry of the
matching store (R330). -/
def State.issueOne (s : State) (f : Firing) : State :=
  let c := s.core f.core
  let out := { c with rq := c.rq.erase f }
  if s.creditFor f then { s.setCore f.core out with issued := s.issued ++ [s.stamp (c.withScales f)] }
  else
    let g := c.placed f
    if g.place.isNone then s else s.setCore f.core { out with parked := c.parked ++ [(⟨g, .credit, s.time⟩ : Parked)] }

/-- ELEMENT_ISSUE (R306): the oldest instances of one slot issue or park, one after the other, and those that issue are counted. -/
def execElementIssue (core elem : Nat) (s : State) : Host.Outcome State Fault Refusal :=
  if !s.issueEnabled core then .next s
  else match s.pickSlot core elem with
    | none => .next s
    | some i =>
      let n := 16 * elem + i
      let go := (bySince (s.readyAt core n)).take ((s.core core).load.lanes n)
      let t := go.foldl State.issueOne s
      let new := t.issued.length - s.issued.length
      .next (if new = 0 then t else t.onCore core (fun (c : Core) => (c.bumpStat 0 1).bumpStat 1 new))

/-- Counter class of a counted instruction (R235). -/
def counterOf (opc : Nat) (w : SlotWord) : CntClass :=
  if opc = 0x9B ∨ opc = 0x9C then .gather else if opc = 0xE0 ∨ opc = 0xE1 ∨ opc = 0xE2 then copyClass w else .copy

/-- An instance that waits at its port can go on (R247 to R249). -/
def State.streamCan (s : State) (f : Firing) (opc : Nat) (w : SlotWord) : Bool :=
  if opc = 0xE7 then ((s.core f.core).port w.port).state == .closed else s.streamCredit f opc w

/-- What an instance of a thread that is in its load waits for is there. -/
def State.canReturn (s : State) (p : Parked) : Bool :=
  let f := p.f
  let c := s.core f.core
  match p.why with
  | .stack | .closed => true
  | .release => s.ended f || s.mayRelease f
  | .credit => s.ended f || s.creditFor f
  | why =>
    match c.load.opc f.node, c.load.fields f.node with
    | some o, some w =>
      s.ended f || (match why with
        | .counter => s.countRoom f.core f.thread (counterOf o w)
        | .copyQueue => s.copyCredit f o w
        | .engine => decide (((s.ft f).cnt (waitClass w)).toNat ≤ w.immBits 7 0)
        | .channel => c.chanComplete (w.immBits 21 16)
        | .predecessors => s.gateOpen f
        | .record => s.recordReady f
        | .ticket => false
        | .stream => s.streamCan f o w
        | _ => true)
    | _, _ => true

/-- CREDIT_RETURN (R330): a parked instance issues, or goes on, when what it waits for is there. An `sclose` whose port has closed sends its
tokens (R249). -/
def execCreditReturn (core index : Nat) (s : State) : Host.Outcome State Fault Refusal :=
  let c := s.core core
  match c.parked[index]? with
  | none => .next s
  | some p =>
    if !s.canReturn p then .next s
    else
      let c := { c with parked := c.parked.eraseIdx index }
      match p.why, c.load.fields p.f.node with
      | .credit, _ => .next (s.setCore core { c with rq := c.rq ++ [p.f] })
      | .closed, some w =>
        .next (if s.ended p.f then { s.setCore core c with ready := s.ready ++ [p.f] } else (s.setCore core c).emitBoth p.f w .order)
      | _, _ => .next { s.setCore core c with ready := s.ready ++ [p.f] }

/-! ### The wait matrix (R312, R313) -/

/-- A row with waiters: kernel, entry, row number, its load, its waiting slots in ascending order, the age of the oldest. -/
structure WaitRow where
  kernel : Nat
  entry : Nat
  row : Nat
  load : Nat
  slots : List Nat
  age : Nat
  deriving DecidableEq, Repr

/-- Rows of a core that have waiters. -/
def State.waitRows (s : State) (k : Nat) : List WaitRow :=
  let c := s.core k
  let waiting := c.threads.filter (fun kt => kt.2.state == .waiting)
  c.rows.flatMap (fun kr =>
    (kr.2.zipIdx).filterMap (fun re =>
      let here := waiting.filter (fun kt => kt.2.next.toNat == re.2 && ((c.partAt kt.1).map Part.kernel) == some kr.1)
      match here with
      | [] => none
      | x :: rest =>
        let oldest := rest.foldl (fun m kt => min m kt.2.since) x.2.since
        some ⟨kr.1, re.2, re.1, (((s.kernel kr.1).entries[re.2]?).map EntryDesc.load).getD 0, here.map (fun kt => kt.1),
          s.time - oldest⟩))

/-- Aging bound of a core (R319). -/
def Core.ageBound (c : Core) : Nat := max 256 (natBits c.ksched.toNat 15 0)

/-- A row is aged (R313 rule 1). -/
def Core.aged (c : Core) (r : WaitRow) : Bool := decide (c.ageBound < r.age)

/-- A row ranks above another by rules 2 to 4 of R313. -/
def Core.outranks (c : Core) (a b : WaitRow) : Bool :=
  let present := fun (r : WaitRow) => c.shadow.load == some (r.kernel, r.load)
  decide (b.slots.length < a.slots.length) || (a.slots.length == b.slots.length &&
    ((present a && !present b) || (present a == present b && decide (a.row < b.row))))

/-- The first row in rank order by rules 2 to 4. -/
def Core.topBy (c : Core) (l : List WaitRow) : Option WaitRow :=
  match l with
  | [] => none
  | r :: rest => some (rest.foldl (fun a b => if c.outranks b a then b else a) r)

/-- The highest-ranked row of a list (R313). -/
def Core.top (c : Core) (l : List WaitRow) : Option WaitRow :=
  match l.filter c.aged with
  | [] => c.topBy l
  | old => c.topBy old

/-- A choice that the aging rule decides is counted (KSTAT.AGED). -/
def Core.countAged (c : Core) (l : List WaitRow) : Core :=
  match c.top l with
  | some r => if c.aged r && c.topBy l != some r then c.bumpStat 6 1 else c
  | none => c

/-- Rows of the active load. -/
def Core.inside (c : Core) (l : List WaitRow) : List WaitRow :=
  l.filter (fun r => c.active.load == some (r.kernel, r.load))

/-- Rows of other loads. -/
def Core.outside (c : Core) (l : List WaitRow) : List WaitRow :=
  l.filter (fun r => c.active.load != some (r.kernel, r.load))

/-- The active load admits (R315, R316). -/
def Core.admitting (c : Core) : Bool := c.active.load.isSome && c.switchTo.isNone

/-- A core is ready and unfenced (R415, R417). -/
def State.coreUp (s : State) (k : Nat) : Bool :=
  natBit s.funcReady.toNat (18 + k / 8) && natBit s.funcReady.toNat (10 + dieOf k) && !s.fenceCores.contains k

/-- The validated copy that a core has of a kernel's image, known by its physical pages and its place in the first of them (R91,
R100). -/
def State.validCopy (s : State) (k kern : Nat) : Option Nat :=
  (s.core k).validated.find? (fun v =>
    (s.kernel v).pages == (s.kernel kern).pages && (s.kernel v).va % 4096 == (s.kernel kern).va % 4096)

/-! ### What waits for validation (R100) -/

/-- Kernels that a launch may need on a core: image address, and its id once some core has validated it. A graph needs those of
its nodes on their home dies (R343). -/
def State.kernelsWanted (s : State) (l : Launch) (k : Nat) : List (Nat × Option Nat) :=
  if l.graph then
    match s.graph? l.id with
    | some g => (g.nodes.filter (fun (n : GNode) => n.home == dieOf k)).map (fun (n : GNode) => (n.kernelVa, n.kernel))
    | none => []
  else [(l.kernelVa, l.kernel)]

/-- The packet of a launch has been retired, which its validation and all that follows wait for (R442); a post of the mailbox has none. -/
def State.packetOver (s : State) (l : Launch) : Bool :=
  !((s.queues.look l.queue).elim [] Queue.started).any (fun (p : Packet) => p.index == l.index && p.era == l.era && !p.retired)

/-- The first kernel of a launch that a core has still to validate. -/
def State.validationAt (s : State) (l : Launch) (k : Nat) : Option Nat :=
  if l.status.isSome ∨ !s.packetOver l ∨ (l.rejects.look k).isSome ∨ !s.coreUp k then none
  else ((s.kernelsWanted l k).find? (fun x => match x.2 with
    | some id => (s.validCopy k id).isNone
    | none => true)).map (fun x => x.1)

/-- A kernel waits for validation on a core, or is being validated there. -/
def State.validationWaits (s : State) (k : Nat) : Bool := s.launches.any (fun (l : Launch) => (s.validationAt l k).isSome)

/-- A validation of a core has begun and has not ended, and the launch that asks for it still does. -/
def State.validatingNow (s : State) (k : Nat) : Bool :=
  (s.core k).validating.any (fun id => s.launches.any (fun (l : Launch) => l.id == id && (s.validationAt l k).isSome))

/-- A kernel waits for its validation on a core, and none is under way. -/
def State.validationDue (s : State) (k : Nat) : Bool := s.validationWaits k && !s.validatingNow k

/-! ### Residency in the configuration cache (R309) -/

/-- Bytes of the configuration cache that its loads and the catalogues of resident kernels take (R309). -/
def State.cacheBytes (s : State) (c : Core) : Nat :=
  c.cache.foldl (fun t x => t + (((s.kernel x.1).extents[x.2]?).map (fun e => e.2)).getD 0) 0 +
    c.rows.foldl (fun t kr => t + (s.kernel kr.1).catalogue.2) 0

/-- Least recently configured loads leave the cache until it holds at most 256 KiB; the loads of the planes stay (R309). -/
def State.trimCache (s : State) : Nat → Core → Core
  | 0, c => c
  | fuel + 1, c =>
    if s.cacheBytes c ≤ 262144 then c
    else match c.cache.find? (fun x => c.planeA.load != some x && c.planeB.load != some x && c.decoding != some x) with
      | some x => s.trimCache fuel { c with cache := c.cache.erase x }
      | none => c

/-! ### Snapshots (R27, R316) -/

/-- Threads that hold a place in the admission window (R322): one that has faulted, or whose workgroup has been aborted, until its tokens
have drained. -/
def State.placesUsed (s : State) (k : Nat) : Nat :=
  ((s.core k).threads.filter (fun kt =>
    (kt.2.state == .inload || kt.2.state == .faulted) && !(kt.2.dead && s.drained k kt.1))).length

/-- A thread as it enters the load (R19, R27, R44). -/
def Thread.enter (t : Thread) (span lane entry : Nat) : Thread :=
  { t with state := .inload, span := span, lane := lane, entry := entry, latch := t.fpmode, staged := [] }

/-- The `entry` slot of an entry in a load (R99). -/
def Load.entryNode (l : Load) (e : Nat) : Option (Nat × Nat) :=
  (l.entries.find? (fun x => x.1 == e)).map (fun x => x.2)

/-- A snapshot of a row (R27): its threads enter in lane order, each firing its `entry` slot. -/
def State.snapshot (s : State) (k : Nat) (r : WaitRow) : State :=
  let c := s.core k
  match (r.slots.head?).bind c.partAt, (s.kernel r.kernel).entries[r.entry]?, c.load.entryNode r.entry with
  | some p, some d, some (el, sl) =>
    let mine := r.slots.filter (fun t => p.slots.contains t)
    let n := min (d.g * d.s) (c.load.window - s.placesUsed k)
    let members := mine.take n
    if members.isEmpty then s
    else
      let id := c.nextSpan
      let c := { c with spans := c.spans ++ [(⟨id, r.kernel, r.entry, d.g, d.s, members⟩ : Span)], nextSpan := id + 1 }
      let c := members.zipIdx.foldl (fun (c : Core) tj => c.onThread tj.1 (fun th => th.enter id tj.2 r.entry)) c
      let idle := members.filter (fun t => !c.mxQueue.any (fun (m : MxCtl) => m.f.thread == t))
      let c := { c with
        feedNext := c.feedNext.filter (fun kv => !idle.contains (kv.1 / 4))
        rq := c.rq ++ members.map (fun t =>
          { Firing.none with core := k, elem := el, slot := sl, tag := ⟨BitVec.ofNat 13 t, 0, 0⟩, since := s.time }) }
      s.setCore k c
  | _, _, _ => s

/-- GANG_SNAPSHOT (R27, R316): the rows of the active load have their snapshots in rank order, each once in a round. -/
def execGangSnapshot (core : Nat) (s : State) : Host.Outcome State Fault Refusal :=
  let c := s.core core
  if !c.admitting ∨ s.frozen core then .next s
  else
    let all := c.inside (s.waitRows core)
    let left := all.filter (fun r => !c.round.contains r.row)
    let rows := if left.isEmpty then all else left
    match c.top rows with
    | none => .next s
    | some r =>
      if c.load.window ≤ s.placesUsed core then .next s
      else
        let c := { c.countAged rows with round := r.row :: (if left.isEmpty then [] else c.round) }
        .next ((s.setCore core c).snapshot core r)

/-! ### Switches (R314, R315, R317) -/

/-- Cycles of the residency quantum, 0 for none (R328). -/
def Core.residency (c : Core) : Nat := 256 * natBits c.ksched.toNat 31 16

/-- The load to which a switch begins (R315). -/
def State.switchChoice (s : State) (k : Nat) : Option WaitRow :=
  let c := s.core k
  let rows := s.waitRows k
  let out := c.outside rows
  match c.top out with
  | none => none
  | some r =>
    if (c.inside rows).isEmpty || out.any c.aged ||
        (c.residency != 0 && decide (c.activeSince + c.residency ≤ s.time) && c.top rows == some r) then some r else none

/-- SWITCH_BEGIN (R315). A switch to a kernel that has left its core ends; a kernel that waits for validation waits for one switch at
most (R100). -/
def execSwitchBegin (core : Nat) (s : State) : Host.Outcome State Fault Refusal :=
  let c := s.core core
  match c.switchTo with
  | some x => if (c.rows.look x.1).isNone then .next (s.setCore core { c with switchTo := none }) else .next s
  | none =>
    if s.validationDue core then .next s else
    match s.switchChoice core with
    | none => .next s
    | some r =>
      let c := c.countAged (c.outside (s.waitRows core))
      .next (s.setCore core { c with switchTo := some (r.kernel, r.load) })

/-- The active load is pinned (R317). -/
def Core.pinned (c : Core) : Bool :=
  c.ports.any (fun q => q.2.state == .opened || q.2.state == .held) ||
    c.transfers.any (fun (x : Transfer) => x.chan.isSome || ((x.op == .mtld || x.op == .mtst) && x.tile != 32)) ||
    c.loops.any (fun (i : LoopInst) => !i.finished) || !c.headers.isEmpty || !c.mxQueue.isEmpty ||
    c.mxSent.any (fun (m : MxCtl) => (m.kind == .load || m.kind == .store) && m.key.isSome)

/-- A thread is in the active load (R315, R322). -/
def State.occupied (s : State) (k : Nat) : Bool := s.placesUsed k != 0

/-- Edge state of a load as it is configured (R41, R243, R250, R251). -/
def Core.bindLoad (c : Core) (l : Load) : Core :=
  l.binds.foldl (fun (c : Core) b =>
    match b with
    | .port n out ag _ => { c with ports := c.ports.put n ⟨.closed, out, ag, [], [], none, false⟩ }
    | .ag n f => { c with ags := c.ags.put n f }
    | .chan n words => { c with chans := c.chans.put n ⟨words, 0, false⟩ }
    | .feed _ _ => c) { c with ports := [], ags := [], chans := [] }

/-- Tiles cleared with their marks and written bits (R289); an access that still waits at one of them was its last user's. -/
def Core.clearTiles (c : Core) (tiles : List Nat) : Core :=
  { c with
    tileReqs := c.tileReqs.filter (fun (r : TileReq) => !tiles.contains r.tile)
    tiles := c.tiles.filter (fun kv => !tiles.contains (kv.1 / Config.tileBytes))
    tilePoison := c.tilePoison.filter (fun n => !tiles.contains (8 * n / Config.tileBytes))
    tileWritten := c.tileWritten.filter (fun n => !tiles.contains (8 * n / Config.tileBytes)) }

/-- The planes are exchanged, and the load that becomes active starts afresh (R308, R44, R289, R291, R293). -/
def Core.flip (c : Core) (now : Nat) : Core :=
  let was := c.load.tilesOf .buf
  let c := { c with activeB := !c.activeB, switchTo := none, activeSince := now, idleSince := none, round := [] }
  let c := (c.bindLoad c.load).clearTiles (was ++ c.load.tilesOf .buf)
  let c := { c with parked := c.parked.map (fun (x : Parked) => { x with f := { x.f with place := none } }) }
  ({ c with lines := [], l1 := [], misses := c.misses.map (fun (m : L1Miss) => { m with stale := true }), feeds := [], pendings := [], blocks := [], merges := [], groups := [] }).bumpStat 4 1

/-- FLIP (R315). -/
def execFlip (core : Nat) (s : State) : Host.Outcome State Fault Refusal :=
  let c := s.core core
  match c.switchTo with
  | none => .next s
  | some x =>
    if s.occupied core ∨ c.pinned ∨ c.shadow.load ≠ some x ∨ !c.shadow.ready ∨ c.decoding.isSome ∨ s.validatingNow core then .next s
    else .next (s.setCore core (c.flip s.time))

/-! ### Decoding (R309, R310, R314) -/

/-- The core with its shadow plane set. -/
def Core.setShadow (c : Core) (p : Plane) : Core := if c.activeB then { c with planeA := p } else { c with planeB := p }

/-- The load that the shadow plane should hold (R314, R315). -/
def State.wanted (s : State) (k : Nat) : Option (Nat × Nat) :=
  let c := s.core k
  match c.switchTo with
  | some x => some x
  | none => (c.top (c.outside (s.waitRows k))).map (fun r => (r.kernel, r.load))

/-- DECODE_START (R314): a kernel that waits for validation goes before a pre-decode, and after a switch that has begun (R100). -/
def execDecodeStart (core : Nat) (s : State) : Host.Outcome State Fault Refusal :=
  let c := s.core core
  match s.wanted core with
  | none => .next s
  | some x =>
    if c.decoding.isSome ∨ s.validatingNow core ∨ c.shadow.load = some x ∨ (c.switchTo.isNone ∧ s.validationWaits core) then .next s
    else .next (s.setCore core { (c.setShadow Plane.empty) with decoding := some x })

/-- DECODE_READY (R310): the load stands in the shadow plane. Its bytes must be in the configuration cache (R309), of which it
becomes the most recent. -/
def execDecodeReady (core : Nat) (s : State) : Host.Outcome State Fault Refusal :=
  let c := s.core core
  match c.decoding with
  | none => .next s
  | some x =>
    if !c.cache.contains x then .next s
    else
      let img := ((s.kernel x.1).loads[x.2]?).getD Load.empty
      let c := { (c.setShadow ⟨some x, true, [], img⟩) with decoding := none, cache := c.cache.erase x ++ [x] }
      .next (s.setCore core c)

/-! ### Watchdogs (R318, R382) -/

/-- The condition that the pin watchdog times (R318). -/
def State.pinIdle (s : State) (k : Nat) : Bool :=
  let c := s.core k
  c.pinned && !s.occupied k && !s.frozen k &&
    (let rows := s.waitRows k
     (c.inside rows).isEmpty && !(c.outside rows).isEmpty)

/-- Ports of a core that are OPEN or HELD. -/
def Core.busyPorts (c : Core) : List Nat :=
  (c.ports.filter (fun q => q.2.state == .opened || q.2.state == .held)).map (fun q => q.1)

/-- A transfer that queues at one of some ports. -/
def Transfer.atPort (x : Transfer) (ports : List Nat) : Bool :=
  match x.op with
  | .cpyms | .cpysm => ports.contains x.port
  | .cpyss => ports.contains x.port || ports.contains x.port2
  | _ => false

/-- Every OPEN or HELD port closes as `sclose` closes it, and channels with incomplete copies no longer pin (R318 step 1). -/
def Core.closeAll (c : Core) : Core :=
  let ports := c.busyPorts
  let c := ports.foldl (fun (c : Core) n =>
    let q := c.port n
    if q.state = .opened ∧ q.out ∧ !q.buf.isEmpty then
      c.onPort n (fun (q : Port) => { q with closing := some (q.closing.getD q.buf.length) })
    else c.portClose n) c
  let held := (c.transfers.filterMap (fun (x : Transfer) => x.chan)).dedup
  { c with
    chans := c.chans.map (fun kv => if held.contains kv.1 then (kv.1, { kv.2 with closed := true }) else kv)
    transfers := c.transfers.map (fun (x : Transfer) => { x with chan := none })
    idleSince := none }

/-- PIN_WATCHDOG (R318): the record names no thread, and the launch of the first workgroup that is aborted. -/
def execPinWatchdog (core : Nat) (s : State) : Host.Outcome State Fault Refusal :=
  let c := s.core core
  match c.idleSince with
  | none => .next s
  | some t0 =>
    if !s.pinIdle core ∨ s.time < t0 + 2 ^ clamp 10 30 (natBits c.ksched.toNat 44 40) then .next s
    else
      let ports := c.busyPorts
      let theirs := c.transfers.filter (fun (x : Transfer) => x.chan.isSome || x.atPort ports)
      let chans := theirs.filterMap (fun (x : Transfer) => x.chan)
      let wgs := ((theirs.filter (fun (x : Transfer) => x.queue.isNone)).map (fun (x : Transfer) => (x.launch, x.wgid))).dedup
      let port := match lowest ports with | some n => some (0x40 + n) | none => lowest chans
      let s := s.dropHeld (fun i => match i with
        | .transfer k id => k == core && theirs.any (fun (x : Transfer) => x.id == id && x.atPort ports)
        | _ => false)
      let s := s.onCore core Core.closeAll
      let r := { s.blankRec 0x7F 2 .none 2 with
        core := some core, port := port, launch := ((wgs.head?).map (fun w => w.1)).getD 0 }
      let s := s.fqPost r none
      .next (wgs.foldl (fun s w => s.abortWg w.1 w.2) s)

/-- WAIT_WATCHDOG (R382). -/
def execWaitWatchdog (core index : Nat) (s : State) : Host.Outcome State Fault Refusal :=
  let c := s.core core
  match c.parked[index]? with
  | none => .next s
  | some p =>
    if (p.why = .engine ∨ p.why = .channel) ∧ !s.canReturn p ∧ !s.frozen core ∧
        p.since + 2 ^ clamp 10 30 (natBits c.kwdog.toNat 4 0) ≤ s.time then
      let s := s.setCore core { c with parked := c.parked.eraseIdx index }
      .next (s.abortFault core p.f.thread (s.firingRec p.f 0x7F 2 .none 1))
    else .next s

/-! ### Tickets of `.sc` fences (R197, R432) -/

/-- The hub die is the ordering point of `.sc` fences (R432). -/
def State.ordersFences (s : State) : Bool := !natBit s.mwOrd.toNat 12 || natBits s.mwOrd.toNat 11 0 == s.devid.toNat

/-- The ordering device does not answer a ticket request, which goes out on the lowest port of its route entry (R431, R432). -/
def State.ticketSilent (s : State) : Bool :=
  let dev := natBits s.mwOrd.toNat 11 0
  match (List.range 16).find? (fun p => ((s.routes.look dev).getD 0).getLsbD p) with
  | none => true
  | some p => !s.portUp p || s.silent.contains dev

/-- No ticket request has come to the hub die before that of a parked fence: requests are answered in order of arrival (R432). -/
def State.ticketTurn (s : State) (core index since : Nat) : Bool :=
  !s.cores.any (fun kc => kc.2.parked.zipIdx.any (fun xi => xi.1.why == .ticket &&
    (decide (xi.1.since < since) || (xi.1.since == since && (decide (kc.1 < core) || (kc.1 == core && decide (xi.2 < index)))))))

/-- SC_TICKET (R432): the ordering point answers, or cannot be reached. The fence may belong to a thread that has left its load. -/
def execScTicket (core index : Nat) (s : State) : Host.Outcome State Fault Refusal :=
  let c := s.core core
  match c.parked[index]? with
  | none => .next s
  | some p =>
    if p.why ≠ .ticket ∨ !s.ticketTurn core index p.since then .next s
    else
      let s := s.setCore core { c with parked := c.parked.eraseIdx index }
      let own := s.ordersFences
      if s.ended p.f then .next { s with ready := s.ready ++ [p.f] }
      else if !own ∧ s.ticketSilent then .next (s.commit p.f 0x71 .none none (natBits s.mwOrd.toNat 11 0))
      else match s.fieldsOf p.f with
        | some w => .next ((if own then { s with tickets := s.tickets + 1 } else s).fenceActs p.f w)
        | none => .next s

/-! ### Admission (R324 to R327, R402 to R406) -/

/-- Energy weight of a class (R326). -/
def energyWeight (c : Nat) : Nat := match c with | 0 => 1 | 1 => 2 | 2 => 3 | 3 => 4 | 4 => 6 | 5 => 8 | 6 => 11 | _ => 16

/-- Energy units of a part of n threads (R326). -/
def Kernel.cost (k : Kernel) (n : Nat) : Nat := energyWeight k.energy * ((n + 255) / 256)

/-- Scratchpad tiles that a part of a kernel holds (R325). -/
def Kernel.heldTiles (k : Kernel) : List Nat := if k.spad = 0 then [] else k.spadTiles

/-- Tiles to which a load of a kernel gives a role other than OFF. -/
def Kernel.roleTiles (k : Kernel) : List Nat :=
  (List.range 32).filter (fun t => k.loads.any (fun (l : Load) => ((l.roles[t]?).map TileRole.role).getD .off != .off))

/-- Two lists share an element. -/
def meets (a b : List Nat) : Bool := a.any (fun x => b.contains x)

/-- A part is a reserve group's: it runs in the resources that its node's reserve admission holds (R353). -/
def Core.inReserve (c : Core) (p : Part) : Bool := c.reserves.any (fun (r : Reserve) => r.launch == p.launch && r.busy == some p.wgid)

/-- Thread slots that the parts and reserve admissions of a core hold (R324, R353). -/
def State.slotsHeld (s : State) (k : Nat) : Nat :=
  let c := s.core k
  let mine := fun (t : Nat) => match c.partAt t with | some p => !c.inReserve p | none => true
  (c.threads.filter (fun kt => kt.2.state != .free && mine kt.1)).length + c.reserves.foldl (fun t (r : Reserve) => t + r.n) 0

/-- Dwords of the stacks that they hold. -/
def State.dwordsHeld (s : State) (k : Nat) : Nat :=
  let c := s.core k
  (c.parts.filter (fun p => !c.inReserve p)).foldl (fun t (p : Part) => t + p.count * ((s.kernel p.kernel).live + 4)) 0 +
    c.reserves.foldl (fun t (r : Reserve) => t + r.n * (r.live + 4)) 0

/-- Scratchpad tiles that they hold (R325), with those of workgroups that run on elsewhere (R25). -/
def State.tilesHeld (s : State) (k : Nat) : List Nat :=
  let c := s.core k
  c.parts.flatMap (fun (p : Part) => (s.kernel p.kernel).heldTiles) ++ c.keptSpads.flatMap (fun x => (s.kernel x.2.2).heldTiles) ++
    c.reserves.flatMap (fun (r : Reserve) => (s.kernel r.kernel).heldTiles)

/-- A core can take a part of n threads of a kernel (R324 to R326), beside what its parts and its reserve admissions hold (R353). -/
def State.fits (s : State) (k : Nat) (kern : Kernel) (n : Nat) : Bool :=
  let c := s.core k
  let others := s.tilesHeld k
  let foreign := (c.rows.filter (fun kr => kr.1 != kern.id)).flatMap (fun kr => (s.kernel kr.1).roleTiles)
  let rows := c.rows.foldl (fun t kr => t + kr.2.length) 0
  decide (s.slotsHeld k + n ≤ Config.threadSlots) && decide (s.dwordsHeld k + n * (kern.live + 4) ≤ Config.stackDwords) &&
    ((c.rows.look kern.id).isSome || decide (rows + kern.entries.length ≤ 128)) &&
    !meets kern.heldTiles others && (kern.spad == 0 || !meets kern.heldTiles foreign) &&
    !meets (kern.roleTiles.filter (fun t => !kern.heldTiles.contains t)) others &&
    decide (kern.acc ≤ c.unreserved) &&
    (decide (c.admitted + kern.cost n ≤ c.powerBudget) ||
      (decide (128 < kern.cost n) && c.parts.isEmpty && c.reserves.isEmpty && decide (128 ≤ c.powerBudget)))

/-- Parts of a workgroup of n threads on c cores (R327): first `%tid` and thread count of each. -/
def partsOf (n c : Nat) : List (Nat × Nat) :=
  let per := (n + c - 1) / max 1 c
  let count := (n + per - 1) / max 1 per
  (List.range count).map (fun p => (p * per, min n ((p + 1) * per) - p * per))

/-- A core holds an unretired part of a launch. -/
def Core.holdsLaunch (c : Core) (id : Nat) : Bool := c.parts.any (fun (p : Part) => p.launch == id)

/-- Cores for the parts of a workgroup, in ascending order (R327): `ok` tells which core can take which part. -/
def placeParts (ok : Nat → Nat → Bool) : List Nat → List (Nat × Nat) → Option (List Nat)
  | _, [] => some []
  | [], _ :: _ => none
  | k :: cores, p :: parts =>
    if ok k p.2 then (placeParts ok cores parts).map (fun l => k :: l) else placeParts ok cores (p :: parts)

/-- Cores of a cluster. -/
def clusterCores (cl : Nat) : List Nat := (List.range 8).map (fun i => 8 * cl + i)

/-- Threads of a launch's workgroups. -/
def Launch.threads (l : Launch) : Nat := l.dimX * l.dimY * l.dimZ

/-- The kernel as a core runs it. -/
def State.kernelOn (s : State) (k kern : Nat) : Kernel := s.kernel ((s.validCopy k kern).getD kern)

/-- Every core that may be used has validated a launch's kernel (R100). -/
def State.validatedAll (s : State) (kern : Nat) (cores : List Nat) : Bool :=
  cores.all (fun k => !s.coreUp k || (s.validCopy k kern).isSome)

/-- Where a cluster's arbiter can place the next workgroup of a launch (R327, R147). -/
def State.placeIn (s : State) (l : Launch) (cl : Nat) : Option (List Nat) :=
  placeParts (fun k n => s.coreUp k && !(l.preds.any (fun p => (s.core k).holdsLaunch p)) && s.fits k (s.kernelOn k (l.kernel.getD 0)) n)
    (clusterCores cl) (partsOf l.threads l.cores)

/-- All cores. -/
def allCores : List Nat := List.range Config.cores

/-- Dispatch of a launch has begun. -/
def Launch.begun (l : Launch) : Bool := !l.running.isEmpty || (!l.graph && decide (0 < l.nextWg))

/-- A launch of the same queue that started earlier has been pre-empted, and resumes first (R406). -/
def State.behindStopped (s : State) (l : Launch) : Bool :=
  (s.launches.takeWhile (fun (x : Launch) => x.id != l.id)).any (fun (x : Launch) =>
    x.queue == l.queue && x.stopped && x.status.isNone)

/-- A launch's next workgroup may be dispatched (R100, R147, R383, R404, R406). -/
def State.dispatchable (s : State) (l : Launch) : Bool :=
  !l.graph && s.packetOver l && l.status.isNone && !l.stopped && l.rejects.isEmpty && decide (l.nextWg < l.wgCount) && !s.behindStopped l &&
    !((s.queue l.queue).halted && !l.begun) &&
    (match l.kernel with
     | some id => s.validatedAll id allCores
     | none => false) &&
    l.preds.all (fun p => match s.launch? p with
      | some q => decide (q.wgCount ≤ q.nextWg)
      | none => true)

/-- Rank of a launch at an arbiter (R406): priority, then the turn. -/
def State.launchPrio (s : State) (l : Launch) : Nat :=
  2 * (s.queue l.queue).prio + (if (s.queue l.queue).turnSince.isSome then 1 else 0)

/-- A launch goes before another at an arbiter; launches stand in start order. -/
def State.goesFirst (s : State) (a b : Launch) : Bool :=
  decide (s.launchPrio b < s.launchPrio a) || (s.launchPrio a == s.launchPrio b &&
    decide (s.launches.findIdx (fun (x : Launch) => x.id == a.id) < s.launches.findIdx (fun (x : Launch) => x.id == b.id)))

/-- A new thread (R14, R17, R18). -/
def Thread.admitted (launch wgid tid fpmode now : Nat) : Thread :=
  { Thread.free with
    state := .waiting, launch := launch, wgid := wgid, tidw := BitVec.ofNat 16 tid
    fpmode := if fpmode = 0 then 1 else BitVec.ofNat 8 fpmode, since := now }

/-- Rows for a kernel: the lowest free ones (R312). -/
def Core.takeRows (c : Core) (kern : Kernel) : Core :=
  if (c.rows.look kern.id).isSome then c
  else
    let used := c.rows.flatMap (fun kr => kr.2)
    { c with rows := c.rows.put kern.id (((List.range 128).filter (fun r => !used.contains r)).take kern.entries.length) }

/-- A core takes the rows of a kernel, whose catalogue enters its configuration cache (R309, R312). -/
def State.takeRows (s : State) (k : Nat) (kern : Kernel) : Core :=
  let c := (s.core k).takeRows kern
  s.trimCache c.cache.length c

/-- A part is admitted on a core, in its lowest free slots (R14, R289, R324, R326); a reserve group takes what its reserve admission set
apart, its energy units among them (R353). -/
def State.admitPart (s : State) (k : Nat) (kern : Kernel) (launch wgid index : Nat) (p : Nat × Nat) (fpmode : Nat)
    (own : Option Reserve) : State :=
  let slots := ((List.range Config.threadSlots).filter (fun t => (s.thread k t).state == .free)).take p.2
  let c := s.takeRows k kern
  let c := match own with
    | some r => { c with reserves := c.reserves.map (fun (q : Reserve) => if q = r then { q with busy := some wgid } else q) }
    | none => c
  let units := if own.isSome then 0 else kern.cost p.2
  let part : Part := {
    launch := launch, wgid := wgid, index := index, kernel := kern.id, tidLo := p.1, count := p.2, slots := slots
    handles := [], acc := kern.acc, units := units }
  let c := { c with parts := c.parts ++ [part] }
  let c := (c.setAdmitted (c.admitted + units)).clearTiles kern.heldTiles
  let c := slots.zipIdx.foldl (fun (c : Core) ti =>
    c.onThread ti.1 (fun _ => Thread.admitted launch wgid (p.1 + ti.2) fpmode s.time)) c
  s.setCore k c

/-- A workgroup as it is admitted. -/
def Workgroup.admitted (launch wgid n : Nat) (cores : List Nat) (node : Option Nat) (reserve : Bool) : Workgroup :=
  ⟨launch, wgid, cores, n, List.replicate 16 0, false, node, false, reserve⟩

/-- The next workgroup of a launch is admitted on some cores. -/
def State.admitNext (s : State) (l : Launch) (cores : List Nat) : State :=
  let parts := partsOf l.threads l.cores
  let s := { s with wgs := s.wgs ++ [Workgroup.admitted l.id l.nextWg l.threads cores none false] }
  let s := (cores.zip parts).zipIdx.foldl (fun s x =>
    s.admitPart x.1.1 (s.kernelOn x.1.1 (l.kernel.getD 0)) l.id l.nextWg x.2 x.1.2 l.fpmode.toNat none) s
  s.onLaunch l.id (fun (x : Launch) => { x with nextWg := l.nextWg + 1, running := insertNat x.running l.nextWg })

/-- ADMIT_WORKGROUP (R327): at the lowest cluster that can take it, after every launch that ranks higher there. -/
def execAdmitWorkgroup (launch cluster : Nat) (s : State) : Host.Outcome State Fault Refusal :=
  match s.launch? launch with
  | none => .next s
  | some l =>
    if !s.dispatchable l then .next s
    else
      let better := s.launches.any (fun (x : Launch) => s.goesFirst x l && s.dispatchable x &&
        (s.placeIn x cluster).isSome)
      let lower := (List.range cluster).any (fun cl => (s.placeIn l cl).isSome)
      if better || lower then .next s
      else match s.placeIn l cluster with
        | some cores => if cluster < 40 then .next (s.admitNext l cores) else .next s
        | none => .next s

end Sys2Proof.Machine
end

