-- ==== Sys2Proof/Machine/LoadCheck.lean ====
section
/-! DEFINITION. The checks of R101 that a slot word fails in its load (1 to 13, 19) and the load-wide checks 20, 21, 22 and 32
(spec 01 R36; 04 R137; 05 R163, R165, R171; 06 R178, R193; 07 R206 to R229; 08 R239, R244; 11 R320 to R323, R334). -/

namespace Sys2Proof.Machine

/-- What the words of a load are checked against in their kernel: L, SPAD and the entry descriptors. -/
structure KernelFacts where
  live : Nat
  spad : Nat
  entries : List EntryDesc
  deriving DecidableEq, Repr

/-- The first number whose condition holds, in ascending numbers. -/
def firstBad (l : List (Nat × Bool)) : Option Nat := (l.find? (fun x => x.2)).map (fun x => x.1)

/-- The predicate mode of the word at a node as it stands there, the reserved 0b11 among them (R77, R81). -/
def Load.predMode (l : Load) (n : Nat) : Nat := ((l.bits n).map (fun x => (x.extractLsb' 110 2).toNat)).getD 0

/-- Token ports of the word at a node as R79, R77 and R78 read them; a port P is read with any PM but 0b00 (R81), so that check 4 of
its own word finds a reserved one. -/
def Load.readsPort (l : Load) (n : Nat) (p : PortId) : Bool :=
  match l.opc n, l.fields n with
  | some o, some w =>
    match p with
    | .a => w.a == .token
    | .b => w.b == .token
    | .c => w.c == .token
    | .p => readsP o w || l.predMode n != 0
  | _, _ => false

/-- The block entries from which a node is reached (R206). -/
def Load.blocksOf (l : Load) (n : Nat) : List Nat :=
  (l.entries.filter (fun x =>
    (reach l.succs (fun _ => false) l.fuel [16 * x.2.1 + x.2.2] []).contains n)).map (fun x => x.1)

/-- Gang widths and span sizes of the blocks that hold a node. -/
def Load.shapesOf (l : Load) (k : KernelFacts) (n : Nat) : List (Nat × Nat) :=
  (l.blocksOf n).filterMap (fun e => (k.entries[e]?).map (fun d => (d.g, d.s)))

/-- Scale inputs that an opcode has (R165). -/
def scaleInputs (o : Nat) : Nat :=
  if o = 0x66 then 2 else if o = 0x62 ∨ o = 0x63 ∨ o = 0x64 ∨ o = 0x67 then 1 else 0

/-! ### One word in its load -/

/-- Check 2 for `xround` and `xend` (R216): the type of the loop's `xbegin`, or of its `xsegred`. -/
def Load.expandTypes (l : Load) (n : Nat) (o : Nat) (w : SlotWord) : Bool :=
  let tyOf := fun (m : Option Nat) => (m.bind l.fields).map SlotWord.ty
  if o = 0xC8 then
    match tyOf (l.xbeginOfRound n) with
    | some t => w.ty == t
    | none => true
  else if o = 0xCA then
    match (l.xbeginOfEnd n).bind l.xroundOf with
    | some h => match tyOf (l.xsegredOf h) with
      | some t => w.ty == t
      | none => w.ty == .b32
    | none => true
  else true

/-- Pool indices of a word lie below POOL (R79). -/
def Load.poolOk (l : Load) (w : SlotWord) : Bool :=
  [w.a, w.b, w.c].all (fun x => match x with | .pool i => decide (i.toNat < l.pool.length) | _ => true)

/-- The two slots of a `cas2` stand together (R193). -/
def Load.casOk (l : Load) (n o : Nat) (w : SlotWord) : Bool :=
  if o ≠ 0x94 then true
  else if w.mod = 0 then n % 16 != 15 && l.casTail (n + 1) else n % 16 != 0 && l.casHead (n - 1)

/-- Operand B of a stream copy against the binding of its port (R244). -/
def Load.streamOperandOk (l : Load) (o : Nat) (w : SlotWord) : Bool :=
  if o = 0xE1 ∨ o = 0xE2 then
    match l.portBind w.port with
    | some (_, g, _) => (w.b == .absent) == g.isSome
    | none => true
  else true

/-- Tile codes (R178). -/
def Load.tileOk (l : Load) (k : KernelFacts) (o : Nat) (w : SlotWord) : Bool :=
  if [0x99, 0x9A, 0x9B, 0x9C, 0xD2, 0xD4].contains o then
    if w.tile < 32 then
      match l.roles[w.tile]? with
      | some r => r.role == .buf && decide (w.buffer < r.nbuf)
      | none => false
    else w.tile == 32 && k.spad != 0 && w.buffer == 0
  else true

/-- Channels, generators and `sget` ports that IMM names are bound (R239). -/
def Load.boundOk (l : Load) (n o : Nat) (w : SlotWord) : Bool :=
  (if [0xE0, 0xE2, 0xE4, 0xE8].contains o then
    match w.channel with
    | some c => l.hasChan c
    | none => true
   else true) &&
    (o != 0xEA || l.hasAg (w.immBits 3 0)) &&
    (o != 0xE5 || (match l.portBind w.port with
      | some (false, _, d) => d == some (n / 16, n % 16)
      | _ => true))

/-- Widths that a gang instruction needs (R206, R208). -/
def Load.widthOk (l : Load) (k : KernelFacts) (n o : Nat) (w : SlotWord) : Bool :=
  (l.shapesOf k n).all (fun x =>
    let wd := if w.span then x.1 * x.2 else x.1
    if (o = 0xC2 ∧ w.mod = 2) ∨ o = 0xC6 then decide (wd ≤ 64)
    else if o = 0xC5 then decide (w.immBits 7 0 < wd)
    else true)

/-- Check 10 (R81, R165): a destination names a port that its slot reads as a token; a scale destination, a scale input of a
consumer with the same n in the same loop, or `mxsa` or `mxsb`. A token destination that names one of these two fails this check
too (log 71). -/
def Load.dstOk (l : Load) (n o : Nat) (w : SlotWord) (x : Nat × Dst) : Bool :=
  let scale := isScaleDst o x.1
  match x.2 with
  | .none => true
  | .stacks _ => !scale
  | .island q => scale == (q == .mxsa || q == .mxsb)
  | .port e s p =>
    let t := 16 * e.toNat + s.toNat
    if scale then
      match l.opc t, l.fields t with
      | some o', some w' =>
        ((p == .a && scaleInputs o' != 0) || (p == .b && scaleInputs o' == 2)) && w'.blockLen == w.blockLen &&
          l.innermost t == l.innermost n
      | _, _ => false
    else l.readsPort t p

/-- Check 11 (R82, R227 to R229): islands are bound as their destinations need, one slot names a feed, and an `mxop` finds its
feeds bound. -/
def Load.islandOk (l : Load) (n o : Nat) (w : SlotWord) : Bool :=
  let one := fun (q : IslandPort) => match q with
    | .sp p => match l.portBind p.toNat with
      | some (out, _, _) => out
      | none => false
    | .mxa => l.feedBind 0 == some none
    | .mxb => l.feedBind 1 == some none
    | .mxsa => l.feedBind 2 == some none
    | .mxsb => l.feedBind 3 == some none
  let names := fun (m : Nat) (q : IslandPort) => (l.dsts m).any (fun x => x.2 == .island q)
  (dstsOf o w).all (fun x => match x.2 with | .island q => one q | _ => true) &&
    [IslandPort.mxa, .mxb].all (fun q => !names n q || !(l.nodes.any (fun m => decide (m < n) && names m q))) &&
    (o != 0xD0 || ((l.feedBind 0).isSome && (l.feedBind 1).isSome &&
      (!w.mxBlock || [0, 1].all (fun f => l.feedBind f != some none || (l.feedBind (f + 2)).isSome))))

/-- Check 12 (R15, R99). -/
def Load.liveOk (l : Load) (k : KernelFacts) (o : Nat) (w : SlotWord) : Bool :=
  let lv := w.immBits 6 0
  (o != 0x71 || (decide (lv < k.live) && l.rdMask.getLsbD lv)) &&
    (o != 0x72 || (decide (lv < k.live) && l.wrMask.getLsbD lv)) &&
    (dstsOf o w).all (fun x => match x.2 with
      | .stacks m => decide (m.toNat < k.live) && l.wrMask.getLsbD m.toNat
      | _ => true)

/-- Check 13 (R165): every token port is fed, and every scale input by one scale destination. -/
def Load.fedOk (l : Load) (n o : Nat) : Bool :=
  let bound := l.binds.any (fun x => match x with | .port _ _ _ (some t) => 16 * t.1 + t.2 == n | _ => false)
  [PortId.a, .b, .c, .p].all (fun p => !l.readsPort n p || !(l.feeders n p false).isEmpty || (p == .b && bound)) &&
    (List.range (scaleInputs o)).all (fun i => (l.feeders n (if i = 0 then .a else .b) true).length == 1)

/-- Check 19 for terminators (R140, R141, R143). -/
def Load.targetsOk (l : Load) (k : KernelFacts) (o : Nat) (w : SlotWord) : Bool :=
  let lo := decide (w.immBits 6 0 < k.entries.length)
  let hi := decide (w.immBits 14 8 < k.entries.length)
  if o = 0x7B ∨ o = 0x7E then lo && hi
  else if o = 0x7C ∨ o = 0x81 then lo
  else if o = 0x7D then decide (w.immBits 7 0 + w.immBits 15 8 + 1 ≤ l.branches.length)
  else true

/-- The first check that the word at a node fails. -/
def Load.wordCheck (l : Load) (k : KernelFacts) (n : Nat) : Option Nat :=
  match l.bits n, l.opc n, l.fields n with
  | some x, some o, some w =>
    let own := match decodeWord x with
      | .error e => some e
      | .ok _ => none
    if own = some 1 then own
    else firstCheck own (firstBad
      [(2, !l.expandTypes n o w), (7, !(l.poolOk w && l.casOk n o w && l.streamOperandOk o w)),
       (8, !(l.tileOk k o w && l.boundOk n o w && l.widthOk k n o w)), (10, !(dstsOf o w).all (l.dstOk n o w)),
       (11, !l.islandOk n o w), (12, !l.liveOk k o w), (13, !l.fedOk n o), (19, !l.targetsOk k o w)])
  | _, _, _ => none

/-! ### Check 20 -/

/-- A node stands in the body of a header. -/
def Load.within (l : Load) (h n : Nat) : Bool := h != n && (l.body h).contains n

/-- A header and its loop (R36, R137). -/
def Load.headerOk (l : Load) (h : Nat) : Bool :=
  let tails := l.nodes.filter (fun n => l.opc n == some 0x79 &&
    (l.dsts n).any (fun x => match x.2 with | .port e s .b => 16 * e.toNat + s.toNat == h | _ => false))
  let exits := (l.body h).filter (fun n => l.opc n == some 0x7A && l.innermost n == some h)
  let carried := l.opc h == some 0x77 && ((l.fields h).map (fun w => w.c != .absent)).getD false
  let outer := l.headers.filter (fun g => l.within g h)
  tails.length == 1 && decide (exits.length ≤ 1) && (!carried || exits.length == 1) &&
    (if l.levelOf h = 1 then outer.length == 1 && outer.all (fun g => l.levelOf g == 0) else outer.isEmpty)

/-- A node of the block-FP class (R163). -/
def Load.blockFpOk (l : Load) (n : Nat) : Bool :=
  match l.innermost n with
  | none => false
  | some h =>
    let w := ((l.fields h).map SlotWord.window).getD 1
    let breaks := ((l.lexitOf h).bind l.fields).map (fun w => w.b != .absent)
    l.opc h != some 0xC8 && ((l.fields n).map SlotWord.level) == some (l.levelOf h) && w % l.blockOf h == 0 &&
      !(breaks.getD false)

/-- A gang or expand instruction stands outside the loops, or in the body of an `xround` loop (R207, R222). -/
def Load.gangOk (l : Load) (n o : Nat) : Bool :=
  match l.innermost n with
  | none => o != 0xC9
  | some h => o == 0xC8 || (l.opc h == some 0xC8 && o != 0xC7 && o != 0xCA)

/-- The structure around an `xbegin` (R222). -/
def Load.expandOk (l : Load) (b : Nat) : Bool :=
  let front := (l.dsts b).filterMap (fun d => if d.1 = 0 then dstNode d.2 else none)
  let stop := fun n => l.opc n == some 0xC8 || l.opc n == some 0xC7
  let rounds := (reach l.succs stop l.fuel front []).filter (fun n => l.opc n == some 0xC8)
  let ends := l.nodes.filter (fun n => l.opc n == some 0xCA && l.xbeginOfEnd n == some b)
  match rounds with
  | [h] =>
    let segs := (l.body h).filter (fun n => l.opc n == some 0xC9)
    let d1 := (l.dsts h).filterMap (fun d => if d.1 = 1 then dstNode d.2 else none)
    let from1 := reach l.succs (fun n => l.ends n || n == h) l.fuel d1 []
    l.levelOf h == 0 && ends.length == 1 && decide (segs.length ≤ 1) &&
      segs.all (fun g => (l.feeders g .b false).any (fun f => f == (h, 1) || from1.contains f.1))
  | _ => false

/-- An `xround` without its `xbegin`, or an `xend` without one, breaks the structure of R222; the `lexit` of an `xround` loop reads
no condition (R219). -/
def Load.roundOk (l : Load) (n o : Nat) : Bool :=
  if o = 0xC8 then
    (l.xbeginOfRound n).isSome && !((((l.lexitOf n).bind l.fields).map (fun w => w.b != .absent)).getD false)
  else if o = 0xCA then (l.xbeginOfEnd n).isSome
  else true

/-- The producer of a fabric-edge feed stands in the body of a loop other than an `xround` loop (R228). -/
def Load.feedOk (l : Load) (n : Nat) : Bool :=
  !((l.dsts n).any (fun x => x.2 == .island .mxa || x.2 == .island .mxb)) ||
    (match l.innermost n with
     | some h => l.opc h != some 0xC8
     | none => false)

/-- Opcodes that may not stand in a loop body (R137): `entry`, the terminators, `gate`, `release`. -/
def banned (o : Nat) : Bool := o == 0x70 || (0x7B ≤ o && o ≤ 0x83)

/-- Check 20 at a node. -/
def Load.loopCheck (l : Load) (n : Nat) : Bool :=
  match l.opc n with
  | none => true
  | some o =>
    (!isHeaderOpc o || l.headerOk n) &&
      (!banned o || (l.innermost n).isNone) &&
      (!(0x60 ≤ o && o ≤ 0x67) || l.blockFpOk n) &&
      (!(0xC0 ≤ o && o ≤ 0xCA && o != 0xC8) || l.gangOk n o) &&
      (o != 0xC7 || l.expandOk n) && l.roundOk n o && l.feedOk n

/-! ### Checks 21 and 22 -/

/-- Check 21 (R171, R311) for a queued edge of the first kind: it passes through a FIFO of depth at least n, and its producer feeds
the `bmax` too, directly or through `fan`s below it; the check number for an edge from elsewhere is the model's (log 71). -/
def Load.quantOk (l : Load) (e : Nat × Nat × Nat) : Bool :=
  let n := ((l.fields e.2.2).map SlotWord.blockLen).getD 32
  let fans := fun m => (l.succs m).filter (fun t => l.opc t == some 0x73)
  let near := reach fans (fun _ => false) l.fuel [e.1] []
  (match l.fifoOf e.1 e.2.1 with
   | some t => decide (n ≤ l.sizeOf t + 1)
   | none => false) &&
    (match l.fromBmax l.fuel e.2.2 with
     | some m => (l.feeders m .a false).any (fun f => near.contains f.1)
     | none => true)

/-- Nodes whose inputs check 22 keeps apart from matrix results (R334). -/
def Load.feedSide (l : Load) : List Nat :=
  let names := l.nodes.filter (fun n => (l.dsts n).any (fun x => match x.2 with
    | .island (.sp _) => false
    | .island _ => true
    | _ => false))
  let heads := l.headers.filter (fun h => names.any (fun n => l.within h n))
  let ports := l.streamFeeds.map (fun x => x.2)
  let copies := l.nodes.filter (fun n => match l.opc n, l.fields n with
    | some 0xE1, some w => ports.contains w.port
    | some 0xE3, some w => ports.contains (w.immBits 15 12)
    | _, _ => false)
  names ++ heads ++ copies

/-- Nodes that a node sends tokens to: scale edges are apart (R165, R176). -/
def Load.tokenSuccs (l : Load) (n : Nat) : List Nat :=
  (l.dsts n).filterMap (fun d => if ((l.opc n).map (fun o => isScaleDst o d.1)).getD false then none else dstNode d.2)

/-- Nodes that matrix results reach through token edges (R334). -/
def Load.matrixSide (l : Load) : List Nat :=
  let front := l.nodes.flatMap (fun n => match l.opc n with
    | some o => if 0xD0 ≤ o ∧ o ≤ 0xD6 then l.succs n else []
    | none => [])
  reach l.tokenSuccs (fun _ => false) l.fuel front []

/-! ### Check 32 (R320 to R323) -/

/-- A slot of this opcode sends to a channel of R330 other than a FIFO tile or an island port. -/
def sendsOpc (o : Nat) : Bool := queuedOpc o && o != 0x96 && o != 0x97

/-- m_s of a node in thirty-seconds (R320). -/
def Load.weight (l : Load) (n : Nat) : Nat :=
  match l.opc n, l.fields n with
  | some o, some w =>
    if o = 0x70 ∨ isHeaderOpc o ∨ o = 0x67 then 0
    else
      let inputs := ([PortId.a, .b, .c, .p].filter (l.readsPort n)).length + scaleInputs o
      let sends := sendsOpc o || (dstsOf o w).any (fun x =>
        (match x.2 with | .island _ => true | _ => false) || (l.fifoOf n x.1).isSome)
      let block := if o = 0x66 then 64 / w.blockLen else if 0x60 ≤ o ∧ o ≤ 0x64 ∧ o ≠ 0x61 then 32 / w.blockLen else 0
      (if 2 ≤ inputs ∨ sends then 32 else 0) + block
  | _, _ => 0

/-- L_e or O_e of an element in thirty-seconds. -/
def Load.elemWeight (l : Load) (inLoop : Bool) (e : Nat) : Nat :=
  (l.nodes.filter (fun n => n / 16 == e && (l.innermost n).isSome == inLoop)).foldl (fun t n => t + l.weight n) 0

/-- The iteration budget Q (R321). -/
def Load.findBudget (l : Load) : Nat :=
  if l.headers.isEmpty then 0
  else (List.range 128).foldl (fun m e =>
    let x := l.elemWeight true e
    if x = 0 then m else min m (256 * 32 / x)) 2048

/-- The quotient of an element under A (R321). -/
def Load.quotient (l : Load) (q e : Nat) : Option Nat :=
  let o := l.elemWeight false e
  if o = 0 then none else some ((512 * 32 - q * l.elemWeight true e) / o)

/-- The admission window A (R321). -/
def Load.findWindow (l : Load) (q : Nat) : Nat :=
  (List.range 128).foldl (fun m e => match l.quotient q e with | some x => min m x | none => m) 2048

/-- The reservation unit of a header (R323). -/
def Load.reservation (l : Load) (k : KernelFacts) (h : Nat) : Nat :=
  if l.opc h = some 0xC8 then (l.shapesOf k h).foldl (fun m x => max m (x.1 * x.2)) 1
  else max 1 (l.blockOf h)

/-- Check 32 (R321): the element that it names. -/
def Load.budgetCheck (l : Load) (k : KernelFacts) : Option Nat :=
  let q := l.findBudget
  let a := l.findWindow q
  if a < 64 then (List.range 128).find? (fun e => l.quotient q e == some a)
  else if l.headers.any (fun h => decide (q < l.reservation k h)) then
    let top := (List.range 128).foldl (fun m e => max m (l.elemWeight true e)) 0
    (List.range 128).find? (fun e => l.elemWeight true e == top)
  else none

/-! ### A whole load -/

/-- A load with its words and load-wide rules checked (R100): its window and budget, or the first failing check. A load-wide check 20, 21
or 22 names the lowest node that fails it, whose element becomes BLOCKED (log 66); the part of check 18 that compares the words with the
entry table belongs to no single word (log 39). -/
def Load.validate (l : Load) (k : KernelFacts) (i : Nat) : Except Reject Load :=
  match l.nodes.findSome? (fun n => (l.wordCheck k n).map (fun c => Reject.node c i n)) with
  | some r => .error r
  | none =>
    match l.strayEntry with
    | some n => .error (Reject.node 18 i n)
    | none =>
      match l.nodes.find? (fun n => !l.loopCheck n) with
      | some n => .error (Reject.node 20 i n)
      | none =>
        match l.quantEdges.find? (fun e => !l.quantOk e) with
        | some e => .error (Reject.node 21 i e.2.2)
        | none =>
          let side := l.feedSide
          match (l.nodes.filter side.contains).find? (fun n => l.matrixSide.contains n) with
          | some n => .error (Reject.node 22 i n)
          | none =>
            match l.budgetCheck k with
            | some e => .error ⟨32, false, i, some e, 0⟩
            | none => .ok { l with window := l.findWindow l.findBudget, budget := l.findBudget }

/-- The loads of an image from index i on. -/
def validateLoads (h : ImgHead) (b : Nat → Byte) (k : KernelFacts) : Nat → Option (List Nat) → List (Nat × Nat) →
    Except Reject (List Load)
  | _, _, [] => .ok []
  | i, spad, x :: rest =>
    match readLoad h b k.entries i x.1 x.2 spad with
    | .error r => .error r
    | .ok l =>
      match l.validate k i with
      | .error r => .error r
      | .ok l =>
        match validateLoads h b k (i + 1) (some (l.tilesOf .spad)) rest with
        | .error r => .error r
        | .ok t => .ok (l :: t)

/-- A kernel image validated (R100, R101): the kernel, or the first failing check. -/
def validateImage (b : Nat → Byte) (ctx va : Nat) (pages : List Nat) : Except Reject Kernel :=
  let h := ImgHead.read b
  if !h.ok b then .error (Reject.kernel 23)
  else if !h.sectionsOk b then .error (Reject.kernel 24)
  else match h.entryList b with
    | none => .error (Reject.kernel 25)
    | some ds =>
      if !h.paramsOk b then .error (Reject.kernel 26)
      else if !h.fragmentsOk b then .error (Reject.kernel 27)
      else
        let k : KernelFacts := ⟨h.live, h.spad, ds⟩
        match validateLoads h b k 0 none (h.loadSpans b) with
        | .error r => .error r
        | .ok loads => .ok {
            id := 0
            ctx := ctx
            va := va
            pages := pages
            live := h.live
            energy := h.energy
            acc := h.acc
            spad := h.spad
            priv := h.priv
            calldepth := h.calldepth
            handler := if h.handler = 0xFF then none else some h.handler
            paramBytes := h.paramBytes
            entries := ds
            loads := loads
            extents := h.loadSpans b
            catalogue := h.catalogue b }

/-- The configuration error word (R102) on a core, for a load decoded into plane B or A. A failure before any load is decoded (KERN = 1)
has no plane: the bit is 0 (log 66). -/
def Reject.word (r : Reject) (core : Nat) (planeB : Bool) : Dword :=
  BitVec.ofNat 64 ((if r.check = 32 then 2 else 1) * 2 ^ 56 + core * 2 ^ 47 + r.load * 2 ^ 40 + r.elem.getD 0xFF * 2 ^ 32 +
    (if planeB && !r.kern then 2 ^ 31 else 0) + r.slot * 2 ^ 27 + r.check * 2 ^ 19 + (if r.kern then 2 ^ 18 else 0))

/-- The elements that a failed check leaves BLOCKED (R102): the one of the slot word that it concerns. -/
def Reject.blocked (r : Reject) : List Nat := if r.check = 32 then [] else r.elem.toList

end Sys2Proof.Machine
end

