-- ==== Sys2Proof/Machine/Loader.lean ====
section
/-! DEFINITION. The loader of a core: validation of kernel images (spec 03 R91, R100 to R103; 12 R343) and fills of the
configuration cache (11 R309). -/

namespace Sys2Proof.Machine

/-! ### The bytes of an image -/

/-- What a configuration fetch finds. -/
inductive Fetched where
  | pages (l : List Place)
  | waits                         -- an absent page holds it, or its translation is outstanding
  | denied (cause detail : Nat) (va : Nat) (pa : Option Nat)
  deriving DecidableEq, Repr

/-- Pages of an image from `va` on, translated by a core (R309, R371, R375). -/
def State.imagePages (s : State) (core ctx : Nat) : Nat → Nat → State × Fetched
  | 0, _ => (s, .pages [])
  | n + 1, va =>
    match s.translate core ctx va true false with
    | (s, .page e) =>
      let p := e.place va
      match p with
      | .dev pa =>
        if !s.stackOpen pa then (s, .waits)
        else match s.imagePages core ctx n (va + 4096) with
          | (s, .pages l) => (s, .pages (p :: l))
          | x => x
      | .remote dev a =>
        if s.unreachable dev (a / 128) then (s, .denied 0x71 dev va none)
        else match s.imagePages core ctx n (va + 4096) with
          | (s, .pages l) => (s, .pages (p :: l))
          | x => x
      | _ =>
        match s.imagePages core ctx n (va + 4096) with
        | (s, .pages l) => (s, .pages (p :: l))
        | x => x
    | (s, .absent d) =>
      (s.hold (dieOf core) ctx va (.config core)
        { s.blankRec 0x10 1 .configFetch d with held := true, core := some core, va := some va, ctx := some ctx }, .waits)
    | (s, .ats) => (s.atsWait (dieOf core) ctx va (.config core), .waits)
    | (s, .denied d pa) => (s, .denied 0x11 d va pa)

/-- The number that names a physical page. -/
def Place.page : Place → Nat
  | .dev pa => pa / 4096
  | .host ba => 2 ^ 60 + ba / 4096
  | .remote d a => 2 ^ 61 + d * 2 ^ 40 + a / 4096
  | .spad _ _ => 0

/-- A byte of an image from offset `off` of its first page. A poisoned dword of it gives no byte (log 20). -/
def State.imageByte (s : State) (core : Nat) (l : List Place) (off : Nat) : Byte :=
  let o := off % 4096
  match l[off / 4096]? with
  | some (.dev a) =>
    if s.viewPoison ((a + o) / 8) then Config.freeByte (2 ^ 64 + 2 ^ 40 * s.stepNo + a + o) else s.viewByte (a + o)
  | some (.host a) => cellRead s.hostMem (a + o)
  | some (.remote dev a) => s.remoteByte (dieOf core) dev (a + o)
  | _ => 0

/-- The n bytes of an image from byte `off` of its first page on are read through the core's die slices (R309). -/
def State.readImage (s : State) (core : Nat) (l : List Place) (off n : Nat) : State :=
  l.zipIdx.foldl (fun s pi =>
    let lo := max off (4096 * pi.2) - 4096 * pi.2
    let len := min (off + n) (4096 * pi.2 + 4096) - 4096 * pi.2 - lo
    if len = 0 then s
    else match pi.1 with
      | .dev pa => (s.accessAs .configFetch s.access.2).devFetch (dieOf core) (pa + lo) len
      | .remote dev a => (dwordsOf (a + lo) len).foldl (fun s i => s.remoteFetch (dieOf core) dev i) s
      | .host ba => s.hostOwn (dieOf core) (ba + lo) len
      | .spad _ _ => s) s

/-! ### What waits for a page -/

/-- A fetch of a core waits for a page. -/
def State.configHeld (s : State) (k : Nat) : Bool := s.heldItems.contains (.config k)

/-! ### VALIDATE_KERNEL -/

/-- An equal kernel keeps its id; a new one takes the next. -/
def State.internKernel (s : State) (k : Kernel) : State × Nat :=
  match s.kernels.find? (fun (x : Kernel) => decide ({ x with id := 0 } = { k with id := 0 })) with
  | some x => (s, x.id)
  | none =>
    let id := s.kernels.foldl (fun m (x : Kernel) => max m (x.id + 1)) 1
    ({ s with kernels := s.kernels ++ [{ k with id := id }] }, id)

/-- The launch, or its nodes of that image, take the id of their kernel. -/
def State.nameKernel (s : State) (launch va id : Nat) : State :=
  let s := s.onLaunch launch (fun (l : Launch) => if !l.graph ∧ l.kernel.isNone then { l with kernel := some id } else l)
  s.onGraph launch (fun (g : Graph) => { g with
    nodes := g.nodes.map (fun (n : GNode) => if n.kernelVa = va ∧ n.kernel.isNone then { n with kernel := some id } else n) })

/-- A load enters the cache of a core as its most recent. -/
def State.cacheLoad (s : State) (c : Core) (x : Nat × Nat) : Core :=
  let c := { c with cache := c.cache.erase x ++ [x] }
  s.trimCache c.cache.length c

/-- A core's validation ends (R100): the shadow plane holds no load. Where the loader has written that plane, `blocked` names the element of
a word that failed; where it has written nothing there, a BLOCKED element stays so (R102). -/
def Core.validationEnds (c : Core) (blocked : Option (List Nat)) : Core :=
  { c.setShadow { Plane.empty with blocked := blocked.getD c.shadow.blocked } with validating := none }

/-- A core has validated a kernel for a launch. -/
def State.validated (s : State) (core launch va : Nat) (k : Kernel) : State :=
  let r := s.internKernel k
  let s := r.1.nameKernel launch va r.2
  let c := (s.core core).validationEnds (some [])
  let c := { c with validated := insertNat c.validated r.2 }
  s.setCore core ((List.range k.loads.length).foldl (fun c i => s.cacheLoad c (r.2, i)) c)

/-- A core rejects a launch's kernel with a configuration error word (R102, R103). -/
def State.rejectKernel (s : State) (core launch : Nat) (word : Dword) (blocked : Option (List Nat)) : State :=
  let s := s.onCore core (fun c => c.validationEnds blocked)
  s.onLaunch launch (fun (l : Launch) => { l with rejects := l.rejects.put core word })

/-- The record of a fetch that is refused (R361, R362). -/
def State.fetchRec (s : State) (core ctx launch cause cls detail va : Nat) (pa : Option Nat) : FaultRec :=
  { s.blankRec cause cls .configFetch detail with
    core := some core, launch := launch, va := some va, pa := pa, ctx := some ctx }

/-- A fetch of an image is refused: its record is queued, and the kernel is rejected with error word 0 (log 20). -/
def State.refuseFetch (s : State) (core : Nat) (l : Launch) (cause detail va : Nat) (pa : Option Nat) : State :=
  let cls := if cause = 0x71 then 3 else 2
  (s.rejectKernel core l.id 0 none).fqPost (s.fetchRec core l.ctx l.id cause cls detail va pa) none

/-- A core validates the image at an address for a launch. One that it has validated is not validated again, and its planes stay as they
are (R100). -/
def State.validateAt (s : State) (core : Nat) (l : Launch) (va : Nat) : State :=
  let base := va / 4096 * 4096
  let s := s.onCore core (fun (c : Core) => { c with validating := some l.id })
  match (s.accessAs .configFetch l.id).imagePages core l.ctx 1 base with
  | (s, .waits) => s
  | (s, .denied cause d a pa) => s.refuseFetch core l cause d a pa
  | (s, .pages first) =>
    let h := ImgHead.read (fun o => s.imageByte core first (va - base + o))
    let fine := h.ok (fun o => s.imageByte core first (va - base + o))
    match s.imagePages core l.ctx (if fine then (va - base + h.bytes + 4095) / 4096 else 1) base with
    | (s, .waits) => s
    | (s, .denied cause d a pa) => s.refuseFetch core l cause d a pa
    | (s, .pages places) =>
      let s := s.readImage core places (va - base) h.bytes
      let old := (s.core core).validated.find? (fun v =>
        (s.kernel v).pages == places.map Place.page && (s.kernel v).va % 4096 == va % 4096)
      match old with
      | some id => (s.nameKernel l.id va id).onCore core (fun (c : Core) => { c with validating := none })
      | none =>
        match validateImage (fun o => s.imageByte core places (va - base + o)) l.ctx va (places.map Place.page) with
        | .ok k => s.validated core l.id va k
        | .error r => s.rejectKernel core l.id (r.word core (!(s.core core).activeB)) (if r.kern then none else some r.blocked)

/-- VALIDATE_KERNEL (R100): kernels are taken in the order in which their launches were accepted (R103). -/
def execValidateKernel (core launch : Nat) (s : State) : Host.Outcome State Fault Refusal :=
  let c := s.core core
  match s.launch? launch with
  | none => .next s
  | some l =>
    let earlier := s.launches.takeWhile (fun (x : Launch) => x.id != launch)
    match s.validationAt l core with
    | none => .next s
    | some va =>
      if c.decoding.isSome ∨ (c.switchTo.isSome ∧ c.validating ≠ some launch) ∨ s.configHeld core ∨
          earlier.any (fun (x : Launch) => (s.validationAt x core).isSome) then .next s
      else .next (s.validateAt core l va).settle

/-! ### CONFIG_CACHE_FILL -/

/-- A fetch of the load that a core decodes is refused: its record is queued, and the workgroups of its kernel on the core are aborted
(log 20). -/
def State.refuseDecode (s : State) (core cause detail va : Nat) (pa : Option Nat) : State :=
  let c := s.core core
  match c.decoding with
  | none => s
  | some x =>
    let wgs := (c.parts.filter (fun (p : Part) => p.kernel == x.1)).map (fun (p : Part) => (p.launch, p.wgid))
    let cls := if cause = 0x71 then 3 else 2
    let s := s.fqPost (s.fetchRec core (s.kernel x.1).ctx (((wgs.head?).map (fun w => w.1)).getD 0) cause cls detail va pa) none
    let s := s.onCore core (fun (c : Core) => { c with decoding := none, switchTo := none })
    wgs.foldl (fun s w => s.abortWg w.1 w.2) s

/-- CONFIG_CACHE_FILL (R309): the bytes of the load that is being decoded are fetched. A refused fetch takes the workgroups of the
kernel with it (log 20). -/
def execConfigCacheFill (core : Nat) (s : State) : Host.Outcome State Fault Refusal :=
  let c := s.core core
  match c.decoding with
  | none => .next s
  | some x =>
    let k := s.kernel x.1
    let e := (k.extents[x.2]?).getD (0, 0)
    if c.cache.contains x ∨ s.configHeld core then .next s
    else
      let va := k.va + e.1
      let base := va / 4096 * 4096
      match (s.accessAs .configFetch 0).imagePages core k.ctx ((va - base + e.2 + 4095) / 4096) base with
      | (s, .waits) => .next s
      | (s, .denied cause d a pa) => .next (s.refuseDecode core cause d a pa)
      | (s, .pages places) =>
        let s := s.readImage core places (va - base) e.2
        .next (s.setCore core (s.cacheLoad (s.core core) x)).settle

end Sys2Proof.Machine
end

