-- ==== Sys2Proof/Machine/Queue.lean ====
section
/-! DEFINITION. Queues, their packets and the launches that they start (spec 14 R395 to R407), up to the completion of a launch, and
the launch mailbox (R413). -/

namespace Sys2Proof.Machine

/-! ### Turns (R406) -/

/-- A queue stands in the rotation of its priority: it is ACTIVE, with a packet ready to start or a launch running. -/
def State.inTurn (s : State) (q : Nat) : Bool :=
  (s.queue q).state == 1 && ((s.queue q).header.isSome || s.launches.any (fun (l : Launch) => l.queue == q))

/-- The rotations follow the queues: a queue that has come to its head takes the turn now. -/
def State.rotate (s : State) : State :=
  let now := (s.queues.map (fun kv => kv.1)).filter s.inTurn
  let rot := s.rotation.filter s.inTurn ++ now.filter (fun q => !s.rotation.contains q)
  let first := fun (q : Nat) => rot.find? (fun x => (s.queue x).prio == (s.queue q).prio) == some q
  { s with
    rotation := rot
    queues := s.queues.map (fun (kv : Nat × Queue) =>
      (kv.1, { kv.2 with turnSince := if first kv.1 then some (kv.2.turnSince.getD s.time) else none })) }

/-! ### Notify and enable (R396, R397) -/

/-- NOTIFY (R396). -/
def execNotify (queue : Nat) (index : BitVec 64) (s : State) : Host.Outcome State Fault Refusal :=
  let x := s.queue queue
  if x.state ≠ 1 ∨ index.toNat ≤ x.qwr.toNat then .next s
  else if x.size < index.toNat - x.qrd.toNat then .next (s.queueError queue 3 index.toNat).rotate
  else .next ((s.onQueue queue (fun (x : Queue) => { x with qwr := index })).raiseEvent 1 queue index 0)

/-- A packet that completes by its retirement (R399). -/
def selfDone (type : Nat) : Bool := type == 0 || type == 4 || type == 5

/-- EN written 1 while the queue is DISABLED (R397); what an earlier enabling has started goes on by itself. -/
def Queue.enable (x : Queue) : Queue :=
  { x with
    qctl := setField (setField x.qctl 63 62 1) 31 31 1, qwr := 0, qrd := 0, nextPkt := 0, header := none, pollAt := 0, era := x.era + 1
    started := (x.started.filter (fun (p : Packet) => selfDone p.type)).map (fun (p : Packet) => { p with retired := true }) }

/-- EN written 0 (R397). -/
def Queue.disable (x : Queue) : Queue :=
  { x with qctl := setField (setField x.qctl 63 62 0) 31 31 0, header := none }

/-- QCTL_ENABLE (R397). -/
def execQctlEnable (queue : Nat) (s : State) : Host.Outcome State Fault Refusal :=
  if (s.queue queue).state ≠ 0 then .next s else .next (s.onQueue queue Queue.enable).rotate

/-- QCTL_DISABLE (R397, R407). -/
def execQctlDisable (queue : Nat) (s : State) : Host.Outcome State Fault Refusal :=
  .next (s.onQueue queue Queue.disable).rotate

/-! ### Packets as bytes (R398, R399, R401) -/

/-- A field of n bytes at an offset. -/
def bytesAt (bs : List Byte) (o n : Nat) : Nat := readLE (fun i => (bs[i]?).getD 0) o n

/-- Bytes from an offset up to another are zero. -/
def zeroFrom (bs : List Byte) (lo hi : Nat) : Bool := ((bs.drop lo).take (hi - lo)).all (fun b => b == 0)

/-- Reserved fields of a packet are zero (R398, R399). -/
def packetClean (bs : List Byte) : Bool :=
  let h := bytesAt bs 0 8
  natBits h 7 2 == 0 && natBits h 63 16 == 0 &&
    (match bytesAt bs 1 1 with
     | 0 => zeroFrom bs 16 64
     | 3 => decide (bytesAt bs 48 1 < 2) && zeroFrom bs 49 64
     | 4 => decide (bytesAt bs 32 1 < 4) && zeroFrom bs 33 64
     | 5 => zeroFrom bs 56 64
     | _ => zeroFrom bs 24 64)

/-- Signals that a BARRIER_AND names. -/
def barrierSignals (bs : List Byte) : List Nat :=
  ((List.range 5).map (fun i => bytesAt bs (16 + 8 * i) 8)).filter (fun a => a != 0)

/-- Addresses of a packet are aligned (R398, R399). -/
def packetAligned (bs : List Byte) : Bool :=
  bytesAt bs 8 8 % 8 == 0 &&
    (match bytesAt bs 1 1 with
     | 0 => true
     | 3 => bytesAt bs 40 8 % 4 == 0
     | 4 => bytesAt bs 16 8 % 8 == 0
     | 5 => (barrierSignals bs).all (fun a => a % 8 == 0)
     | _ => bytesAt bs 16 8 % 128 == 0)

/-- The rule of R398 or R399 that a packet breaks, as an ERRCODE (R401). -/
def packetError (bs : List Byte) : Option Nat :=
  if 5 < bytesAt bs 1 1 then some 1
  else if !packetClean bs then some 2
  else if !packetAligned bs then some 4
  else none

/-! ### Reading a packet (R395, R396) -/

/-- Address of the packet with an index (R395). -/
def Queue.packetAddr (x : Queue) (k : Nat) : Nat := natBits x.qbase.toNat 55 6 * 64 + 64 * (k % x.size)

/-- The place of a packet's header. -/
def State.packetPlace (s : State) (q ctx addr : Nat) (bus rd wr : Bool) : State × Except HubStop Place :=
  if bus then (s, .ok (.host addr)) else s.hubPlace ctx addr rd wr (.packet q)

/-- An access for a queue's packet does not go on: it waits, or the queue enters ERROR (R401). -/
def State.packetStop (s : State) (q index : Nat) (e : HubStop) : State :=
  match e with
  | .wait => s
  | .denied => (s.queueError q 4 index).rotate
  | .silent => (s.queueError q 7 index).rotate

/-- Cycles of 1 µs of fabric clock (R396; 1.7 GHz). -/
def microsecond : Nat := 1700

/-- The NOTIFY token of a pair. -/
def notifyOf (p : Event × Event) : Option Event :=
  if p.1.kind = 1 then some p.1 else if p.2.kind = 1 then some p.2 else none

/-- A hart runs the handler task of a queue's NOTIFY pair, which starts the queue's packets (R441). -/
def State.handled (s : State) (q : Nat) : Bool :=
  s.harts.any (fun (h : Hart) => ((h.task.bind notifyOf).map Event.key) == some q)

/-- PACKET_HEADER_POLL (R396, R401, R411, R415, R441): in hardware mode, once the control complex is ready, the handler task of the queue
reads the header of the next packet, after the packet before it has retired. -/
def execPacketHeaderPoll (queue : Nat) (s : State) : Host.Outcome State Fault Refusal :=
  let x := s.queue queue
  if x.state ≠ 1 ∨ !s.handled queue ∨ s.assisted 1 ∨ !natBit s.funcReady.toNat 1 ∨ x.header.isSome ∨ x.qwr.toNat ≤ x.nextPkt ∨ s.time < x.pollAt ∨
      x.started.any (fun (p : Packet) => !p.retired) ∨ s.keyHeld queue then .next s
  else match s.packetPlace queue x.ctx (x.packetAddr x.nextPkt) (natBit x.qbase.toNat 63) true false with
    | (s, .error e) => .next (s.packetStop queue x.nextPkt e)
    | (s, .ok p) =>
      match s.hubRead p 64 with
      | (s, bs) =>
        if bytesAt bs 0 1 % 2 = 0 then
          .next (s.onQueue queue (fun (x : Queue) => { x with pollAt := s.time + microsecond })).settle
        else match packetError bs with
          | some c => .next (s.queueError queue c x.nextPkt).rotate.settle
          | none => .next (s.onQueue queue (fun (x : Queue) => { x with header := some bs })).rotate.settle

/-! ### Starting packets (R400) -/

/-- The packet of a type that the handler task of a queue may start now (R400, R441). -/
def State.startable (s : State) (q type : Nat) : Option (List Byte) :=
  let x := s.queue q
  match x.header with
  | none => none
  | some bs =>
    if x.state = 1 ∧ s.handled q ∧ bytesAt bs 1 1 = type ∧ x.started.all (fun (p : Packet) => p.retired) ∧
        (natBit (bytesAt bs 0 1) 1 → x.started.isEmpty) ∧ !s.keyHeld q ∧ x.pollAt ≤ s.time then some bs else none

/-- A packet has started. -/
def State.startPacket (s : State) (q : Nat) (bs : List Byte) : State :=
  s.onQueue q (fun (x : Queue) => { x with
    header := none, nextPkt := x.nextPkt + 1
    started := x.started ++ [(⟨x.nextPkt, x.era, bytesAt bs 1 1, bytesAt bs 8 8, x.packetAddr x.nextPkt, natBit x.qbase.toNat 63, x.ctx,
      false, false⟩ : Packet)] })

/-- PACKET_NOP (R399). -/
def execPacketNop (queue : Nat) (s : State) : Host.Outcome State Fault Refusal :=
  match s.startable queue 0 with
  | none => .next s
  | some bs => .next (s.startPacket queue bs).rotate

/-- A packet's next look at its signals is 1 µs away (R399). -/
def State.pollLater (s : State) (q : Nat) : State :=
  s.onQueue q (fun (x : Queue) => { x with pollAt := s.time + microsecond })

/-- The condition of WAITSIG (R399), signed. -/
def signalCondition (c : Nat) (a b : Nat) : Bool :=
  let x := toSigned 64 a
  let y := toSigned 64 b
  match c with
  | 0 => x == y
  | 1 => x != y
  | 2 => decide (x < y)
  | _ => decide (y ≤ x)

/-- PACKET_WAITSIG (R399). -/
def execPacketWaitsig (queue : Nat) (s : State) : Host.Outcome State Fault Refusal :=
  match s.startable queue 4 with
  | none => .next s
  | some bs =>
    match s.hubPlace (s.queue queue).ctx (bytesAt bs 16 8) true false (.packet queue) with
    | (s, .error e) => .next (s.packetStop queue (s.queue queue).nextPkt e)
    | (s, .ok p) =>
      match s.hubRead p 8 with
      | (s, v) =>
        if signalCondition (bytesAt bs 32 1) (fromLE v) (bytesAt bs 24 8) then .next (s.startPacket queue bs).rotate.settle
        else .next (s.pollLater queue).settle

/-- Reads of the signals of a BARRIER_AND: whether every one is 0, or why a read stops. -/
def State.signalsZero (s : State) (q ctx : Nat) : List Nat → State × Except HubStop Bool
  | [] => (s, .ok true)
  | a :: rest =>
    match s.hubPlace ctx a true false (.packet q) with
    | (s, .error e) => (s, .error e)
    | (s, .ok p) =>
      match s.hubRead p 8 with
      | (s, v) => if fromLE v = 0 then s.signalsZero q ctx rest else (s, .ok false)

/-- PACKET_BARRIER_AND (R399). -/
def execPacketBarrierAnd (queue : Nat) (s : State) : Host.Outcome State Fault Refusal :=
  match s.startable queue 5 with
  | none => .next s
  | some bs =>
    match s.signalsZero queue (s.queue queue).ctx (barrierSignals bs) with
    | (s, .error e) => .next (s.packetStop queue (s.queue queue).nextPkt e)
    | (s, .ok true) => .next (s.startPacket queue bs).rotate.settle
    | (s, .ok false) => .next (s.pollLater queue).settle

/-! ### Retirement (R400) -/

/-- PACKET_RETIRE (R400): the header dword becomes 0, then QRD advances; a packet that completes by it completes. -/
def execPacketRetire (queue : Nat) (s : State) : Host.Outcome State Fault Refusal :=
  match (s.queue queue).started.find? (fun (p : Packet) => !p.retired || selfDone p.type) with
  | none => .next s
  | some p =>
    if p.retired then
      if s.keyHeld (doneKey queue p.index) then .next s
      else .next (s.completePacket queue p.index p.era p.ctx p.signal).1.rotate.settle
    else if s.keyHeld queue then .next s
    else
      let ends := fun (s : State) (n : Nat) => s.onQueue queue (fun (x : Queue) =>
        ({ x with qrd := x.qrd + BitVec.ofNat 64 n } : Queue).mark p.index p.era (fun (p : Packet) => { p with retired := true }))
      match s.packetPlace queue p.ctx p.addr p.bus false true with
      | (s, .error .wait) => .next s
      | (s, .error e) => .next (ends (s.packetStop queue p.index e) 0)
      | (s, .ok q) => .next (ends (s.hubWrite q (List.replicate 8 0)) 1).settle

/-! ### Launches (R402, R403) -/

/-- FPMODE of a record (R402). -/
def fpmodeOk (m : Nat) : Bool := m == 0 || (natBits m 7 4 == 0 && decide (1 ≤ m % 8) && decide (m % 8 ≤ 5))

/-- Threads of a workgroup of a launch record, by dimension (R402). -/
def recordDim (bs : List Byte) (i : Nat) : Nat := bytesAt bs (0x24 + 2 * i) 2 + 1

/-- The ranges and alignments of a launch record (R402). -/
def launchRecordOk (bs : List Byte) : Bool :=
  bytesAt bs 0 8 % 64 == 0 && bytesAt bs 0x10 8 % 128 == 0 && bytesAt bs 0x18 8 % 65536 == 0 && bytesAt bs 0x20 4 != 0 &&
    decide (recordDim bs 0 * recordDim bs 1 * recordDim bs 2 ≤ 65536) && decide (1 ≤ bytesAt bs 0x2A 1) &&
    decide (bytesAt bs 0x2A 1 ≤ 8) && fpmodeOk (bytesAt bs 0x2B 1) && decide (bytesAt bs 0x2C 2 < 4096) &&
    decide (bytesAt bs 0x2E 1 ≤ 8) && bytesAt bs 0x2F 1 == 0 &&
    zeroFrom bs (0x30 + 4 * min 8 (bytesAt bs 0x2E 1)) 0x50 && zeroFrom bs 0x68 0x80

/-- What a packet or a post supplies for a launch or a graph: queue, index, enabling (0 for a post), record address, translation context of the record and
the signal, and the signal. -/
structure Post where
  queue : Nat
  index : Nat
  era : Nat
  recVa : Nat
  ctx : Nat
  signal : Nat
  deriving DecidableEq, Repr

/-- The launch of a record (R402); a malformed record is to complete with STATUS 3. -/
def Launch.ofRecord (p : Post) (bs : List Byte) : Launch where
  id := launchId p.queue p.index
  queue := p.queue
  index := p.index
  era := p.era
  recVa := p.recVa
  recCtx := p.ctx
  kernelVa := bytesAt bs 0 8
  param := bytesAt bs 8 8
  privBase := bytesAt bs 0x10 8
  saveBase := bytesAt bs 0x18 8
  wgCount := bytesAt bs 0x20 4
  dimX := recordDim bs 0
  dimY := recordDim bs 1
  dimZ := recordDim bs 2
  cores := bytesAt bs 0x2A 1
  fpmode := BitVec.ofNat 8 (bytesAt bs 0x2B 1)
  ctx := bytesAt bs 0x2C 2
  preds := (List.range (min 8 (bytesAt bs 0x2E 1))).map (fun i => bytesAt bs (0x30 + 4 * i) 4)
  nextWg := bytesAt bs 0x50 4
  aborted := 0
  firstSeq := none
  status := if launchRecordOk bs then none else some 3
  kernel := none
  rejects := []
  running := []
  releasedWgs := []
  stopped := false
  preempt := 0
  signal := p.signal
  graph := false

/-- The scheduler can start a launch or graph (R403); an id that a running one bears is not given again (log 23). -/
def State.launchRoom (s : State) (id : Nat) : Bool :=
  decide (s.launches.length < 256) && !s.launches.any (fun (l : Launch) => l.id == id)

/-- A launch starts: predecessors that are not running count as released (R402). -/
def State.startLaunch (s : State) (p : Post) (bs : List Byte) : State :=
  let l := Launch.ofRecord p bs
  { s with launches := s.launches ++ [{ l with preds := l.preds.filter (fun i => (s.launch? i).isSome) }] }

/-- The post of a queue's next packet. -/
def State.packetPost (s : State) (q : Nat) (bs : List Byte) : Post :=
  ⟨q, (s.queue q).nextPkt, (s.queue q).era, bytesAt bs 16 8, (s.queue q).ctx, bytesAt bs 8 8⟩

/-- The post that the mailbox is taking in for a queue (R413). -/
def State.mailPost (s : State) (q type : Nat) : Option Post :=
  if s.lmbBusy ∧ natBits s.lmbCtl.toNat 9 0 = q ∧ natBits s.lmbCtl.toNat 17 16 = type ∧ !s.keyHeld q then
    some ⟨q, s.lmbIdx.toNat, 0, s.lmbRec.toNat, (s.queue q).ctx, s.lmbSig.toNat⟩
  else none

/-- The mailbox has taken its post in. -/
def State.mailTaken (s : State) : State := { s with lmbBusy := false, lmbResult := 1 }

/-- Work that a queue starts with a record, from its next packet or from the mailbox: `go` starts it once the record has been
read. -/
def State.takeRecord (s : State) (q type : Nat) (go : State → Post → List Byte → State) : State :=
  match s.mailPost q type with
  | some p =>
    if p.recVa % 128 ≠ 0 ∨ p.signal % 8 ≠ 0 then (s.packetStop q p.index .denied).mailTaken
    else if !s.launchRoom (launchId q p.index) then s
    else match s.hubPlace p.ctx p.recVa true false (.packet q) with
      | (s, .error .wait) => s
      | (s, .error e) => (s.packetStop q p.index e).mailTaken
      | (s, .ok at_) =>
        match s.hubRead at_ 128 with
        | (s, r) => (go s p r).mailTaken.rotate
  | none =>
    match s.startable q type with
    | none => s
    | some bs =>
      let p := s.packetPost q bs
      if !s.launchRoom (launchId q p.index) then s
      else match s.hubPlace p.ctx p.recVa true false (.packet q) with
        | (s, .error e) => s.packetStop q p.index e
        | (s, .ok at_) =>
          match s.hubRead at_ 128 with
          | (s, r) => ((go s p r).startPacket q bs).rotate

/-- PACKET_LAUNCH (R402, R403). -/
def execPacketLaunch (queue : Nat) (s : State) : Host.Outcome State Fault Refusal :=
  .next (s.takeRecord queue 1 State.startLaunch).settle

/-! ### COPY packets (R399) -/

/-- The die that homes an address, when this device's memory holds it. -/
def State.homeDie (s : State) (ctx va : Nat) (rd wr : Bool) : Option Nat :=
  match (s.hubTranslate 0 ctx va rd wr).2 with
  | .page e =>
    match e.place va with
    | .dev pa => some (s.homeOf pa)
    | _ => none
  | _ => none

/-- The executing die of a COPY packet (R399). -/
def State.copyDie (s : State) (q ctx dst src : Nat) : Nat :=
  ((s.homeDie ctx dst false true).orElse (fun _ => s.homeDie ctx src true false)).getD (q % 8)

/-- The checks of R240 on a COPY packet (R399): its addresses are global. -/
def copyCheck (dst src n : Nat) : Nat :=
  let range := fun (a : Nat) => if 2 ^ 56 < a + n then 0x12 else if a % 8 ≠ 0 then 0x15 else 0
  if n % 8 ≠ 0 ∨ n < 8 ∨ 2 ^ 32 - 8 < n then 0x44
  else if range dst ≠ 0 then range dst else range src

/-- PACKET_COPY (R399, R401): the lowest ready core of the executing die takes the copy when its copy queue has room. -/
def execPacketCopy (queue : Nat) (s : State) : Host.Outcome State Fault Refusal :=
  match s.startable queue 3 with
  | none => .next s
  | some bs =>
    let ctx := (s.queue queue).ctx
    let k := (s.queue queue).nextPkt
    let dst := bytesAt bs 16 8
    let src := bytesAt bs 24 8
    let n := bytesAt bs 32 8
    let status := bytesAt bs 40 8
    let bad := copyCheck dst src n
    if bad ≠ 0 ∧ status = 0 then .next (s.queueError queue 5 k).rotate
    else
      let die := s.copyDie queue ctx dst src
      match (List.range Config.cores).find? (fun c => dieOf c == die && s.coreUp c) with
      | none => .next s
      | some c =>
        if 64 ≤ (s.core c).copyQueue then .next s
        else
          let x : Transfer := { Transfer.blank Firing.none with
            id := (s.core c).nextTransfer, ctx := ctx, dst := dst, src := src, bytes := if bad = 0 then n else 0,
            poison := natBit (bytesAt bs 48 1) 0, mask := status, counted := false, queue := some queue, index := k, era := (s.queue queue).era,
            signal := bytesAt bs 8 8, status := bad }
          let s := s.onCore c (fun (c : Core) => { c with transfers := c.transfers ++ [x], nextTransfer := c.nextTransfer + 1 })
          .next (s.startPacket queue bs).rotate

/-! ### Completion of launches (R400, R402, R404, R443) -/

/-- A core has the resources of R324 for a part of a kernel, with nothing else admitted. -/
def holdsPart (k : Kernel) (n : Nat) : Bool :=
  decide (n ≤ Config.threadSlots) && decide (n * (k.live + 4) ≤ Config.stackDwords) && decide (k.acc ≤ Config.accSlots)

/-- A workgroup of a launch cannot be placed (R404): its parts need more than an empty core has, as far as its kernel is known, or no
cluster holds enough unfenced cores. -/
def State.cannotPlace (s : State) (l : Launch) : Bool :=
  let parts := partsOf l.threads l.cores
  !(parts.all (fun p => match l.kernel with
      | some id => holdsPart (s.kernel id) p.2
      | none => decide (p.2 ≤ Config.threadSlots))) ||
    !(List.range 40).any (fun cl =>
      decide (parts.length ≤ ((clusterCores cl).filter (fun k => !s.fenceCores.contains k)).length))

/-- Every ready core has passed or rejected a launch's kernel (R100, R103). -/
def State.decided (s : State) (l : Launch) : Bool := allCores.all (fun k => (s.validationAt l k).isNone)

/-- The STATUS with which a launch completes now, if it does (R402, R404): once its packet has been retired (R442), so that QRD has passed it
and its header is zero (R444), and once the abort records of the cycle are queued (R366). -/
def State.outcome (s : State) (l : Launch) : Option Nat :=
  if !s.packetOver l ∨ s.copies.any (fun y => y.1.launch == l.id) then none
  else match l.status with
  | some x => some x
  | none =>
    if l.graph ∨ !l.running.isEmpty then none
    else if l.wgCount ≤ l.nextWg then some (if l.aborted = 0 then 0 else 2)
    else if !l.rejects.isEmpty then (if s.decided l then some 1 else none)
    else if s.cannotPlace l then some 4
    else none

/-- The bytes that completion writes to a record, from the first one on (R402, R405, R443): a graph record has no ABORTED field. CONFIGERR
is 0 for any STATUS but 1 (R443), that of a graph that fails to start among them (log 53). -/
def Launch.epilogue (l : Launch) (status : Nat) : List Byte :=
  let word := if status = 1 then ((l.rejects.head?).map (fun kv => kv.2.toNat)).getD 0 else 0
  (if l.graph then [] else bytesLE 4 (l.aborted % 2 ^ 32)) ++ bytesLE 4 status ++
    bytesLE 4 (l.firstSeq.getD 0xFFFFFFFF) ++ bytesLE 8 word

/-- A launch or graph is over: its packet is complete, and DONE and a ROOM event are raised (R400, R409; ROOM log 24). -/
def State.endLaunch (s : State) (l : Launch) (status : Nat) : State :=
  let s := { s with
    cores := s.cores.map (fun (kc : Nat × Core) =>
      (kc.1, if kc.2.validating = some l.id then { kc.2 with validating := none } else kc.2))
    launches := s.launches.filter (fun (x : Launch) => x.id != l.id)
    graphs := s.graphs.filter (fun (g : Graph) => g.launch != l.id)
    saved := s.saved.filter (fun (x : Saved) => x.launch != l.id) }
  let s := s.raiseEvent 3 l.id (BitVec.ofNat 64 status) l.id
  (s.raiseEvent 2 (l.queue % 8) 0 0).rotate

/-- A launch or graph completes (R400): the record's fields, then the signal. A page that is absent keeps it waiting; a page that
refuses, or a device that does not answer, leaves the fields unwritten and puts the queue in ERROR. -/
def State.finishLaunch (s : State) (l : Launch) (status : Nat) : State :=
  let tail := fun (s : State) =>
    match s.completePacket l.queue l.index l.era l.recCtx l.signal with
    | (s, true) => s.endLaunch l status
    | (s, false) => s
  if s.keyHeld (doneKey l.queue l.index) then s
  else match s.hubPlace l.recCtx l.recVa false true (.packet (doneKey l.queue l.index)) with
    | (s, .error .wait) => s
    | (s, .error e) => tail (s.packetStop l.queue l.index e)
    | (s, .ok p) =>
      let at_ := fun (o : Nat) => match p with
        | .dev a => Place.dev (a + o) | .host a => .host (a + o) | .remote d a => .remote d (a + o) | x => x
      let s := if status = 4 ∧ !l.graph then s.hubWrite (at_ 0x50) (bytesLE 4 l.nextWg) else s
      tail (s.hubWrite (at_ (if l.graph then 0x58 else 0x54)) (l.epilogue status))

/-- LAUNCH_COMPLETE (R400). -/
def execLaunchComplete (launch : Nat) (s : State) : Host.Outcome State Fault Refusal :=
  match s.launch? launch with
  | none => .next s
  | some l =>
    match s.outcome l with
    | none => .next s
    | some status => .next (s.finishLaunch l status).settle

/-! ### The launch mailbox (R413) -/

/-- LMB_GO (R413): a write of LMB_CTL. The post is taken in by the step that reads its record. -/
def execLmbGo (value : BitVec 64) (s : State) : Host.Outcome State Fault Refusal :=
  let v := value.toNat
  if !natBit v 63 ∨ s.lmbBusy then .next s
  else if natBits v 17 16 = 0 ∨ natBits v 17 16 = 3 then .next { s with lmbResult := 4 }
  else if (s.queue (natBits v 9 0)).state ≠ 1 then .next { s with lmbResult := 3 }
  else if 256 ≤ s.launches.length then .next { s with lmbResult := 2 }
  else .next { s with lmbBusy := true, lmbResult := 0, lmbCtl := value }

/-- The words of a register that an access reads, as a mask. -/
def accMask : RegAccess → Dword
  | .dword => BitVec.ofNat 64 (2 ^ 64 - 1)
  | .low => BitVec.ofNat 64 (2 ^ 32 - 1)
  | .high => BitVec.ofNat 64 (2 ^ 64 - 2 ^ 32)

/-- An access of a register covers its low word. -/
def accLow (a : RegAccess) : Bool := a != .high
/-- An access of a register covers its high word. -/
def accHigh (a : RegAccess) : Bool := a != .low

/-- What the host reads of a register (R392). -/
def State.hostReads (s : State) (acc : RegAccess) (v : Nat) : State :=
  { s with hostData := bytesLE 8 (BitVec.ofNat 64 v &&& accMask acc).toNat, hostPoison := false }

/-- LMB_STAT as it reads. -/
def State.lmbStat (s : State) : Nat := (if s.lmbBusy then 2 ^ 63 else 0) + s.lmbResult.toNat

/-- LMB_STAT_READ (R413, R392): a read of the low word clears RESULT. -/
def execLmbStatRead (acc : RegAccess) (s : State) : Host.Outcome State Fault Refusal :=
  let r := s.hostReads acc s.lmbStat
  .next (if accLow acc then { r with lmbResult := 0 } else r)

end Sys2Proof.Machine
end

