-- ==== Sys2Proof/Machine/Graph.lean ====
section
/-! DEFINITION. Stage graphs (spec 12 R341 to R357; 14 R405): the GRAPH packet and the start of a graph, the coalescing launcher, and
completion. -/

namespace Sys2Proof.Machine

/-! ### Memory of the hub die across pages -/

/-- The places of n bytes at a global virtual address, page by page, with the bytes of each. -/
def State.hubChunks (s : State) (ctx : Nat) (rd wr : Bool) (i : HeldItem) :
    Nat → Nat → Nat → State × Except HubStop (List (Place × Nat))
  | 0, _, _ => (s, .ok [])
  | fuel + 1, va, n =>
    if n = 0 then (s, .ok [])
    else
      let m := min n (4096 - va % 4096)
      match s.hubPlace ctx va rd wr i with
      | (s, .error e) => (s, .error e)
      | (s, .ok p) =>
        match s.hubChunks ctx rd wr i fuel (va + m) (n - m) with
        | (s, .ok l) => (s, .ok ((p, m) :: l))
        | (s, .error e) => (s, .error e)

/-- Pages that n bytes at an address touch. -/
def pagesOf (va n : Nat) : Nat := (va % 4096 + n + 4095) / 4096

/-- The places of n bytes at an address. -/
def State.hubSpan (s : State) (ctx va n : Nat) (rd wr : Bool) (i : HeldItem) : State × Except HubStop (List (Place × Nat)) :=
  s.hubChunks ctx rd wr i (pagesOf va n) va n

/-- The bytes that some places hold, each with the mark of its dword (R183), read by an access of a kind for a launch. -/
def State.hubReadAll (s : State) (kind : AccessKind) (launch : Nat) : List (Place × Nat) → State × List (Byte × Bool)
  | [] => (s, [])
  | (p, n) :: rest =>
    match s.hubReadAs kind launch p n with
    | (s, bs) =>
      let mark := fun (i : Nat) => match p with
        | .dev pa => s.viewPoison ((pa + i) / 8)
        | .remote dev a => s.remotePoison.contains (dev * 2 ^ 49 + (a + i) / 8)
        | _ => false
      let here := bs.zipIdx.map (fun bi => (bi.1, mark bi.2))
      match s.hubReadAll kind launch rest with
      | (s, more) => (s, here ++ more)

/-- A dword that the hub die writes, with its poison mark (R183). -/
def State.hubPut (s : State) (p : Place) (bs : List (Byte × Bool)) : State :=
  let s := s.hubWrite p (bs.map (fun b => b.1))
  match p with
  | .dev pa => if bs.any (fun b => b.2) then s.devPoison (s.homeOf pa) (pa / 8) else s
  | _ => s

/-! ### Graph images (R341, R342) -/

/-- A graph image's header (R341). -/
structure GraphHead where
  nodes : Nat
  root : Nat
  bytes : Nat
  poolWait : Nat
  nodeOff : Nat
  deriving DecidableEq, Repr

/-- The header of a graph image, when it is well formed (R341). -/
def GraphHead.read (bs : List Byte) : Option GraphHead :=
  let h : GraphHead := ⟨bytesAt bs 6 1, bytesAt bs 7 1, bytesAt bs 8 4, bytesAt bs 0x0C 1, bytesAt bs 0x10 4⟩
  if bytesAt bs 0 4 = 0x4B563702 ∧ bytesAt bs 4 2 = 1 ∧ 1 ≤ h.nodes ∧ h.nodes ≤ 64 ∧ h.root < h.nodes ∧ h.bytes % 16 = 0 ∧
      (h.poolWait = 0 ∨ (10 ≤ h.poolWait ∧ h.poolWait ≤ 30)) ∧ zeroFrom bs 0x0D 0x10 ∧ zeroFrom bs 0x14 0x40 ∧
      h.nodeOff % 16 = 0 ∧ 0x40 ≤ h.nodeOff ∧ h.nodeOff + 32 * h.nodes ≤ h.bytes then some h else none

/-- A node descriptor, when it is well formed and its PARAM is aligned (R342, R343); a zero KERNEL is malformed (R457). -/
def GNode.read (bs : List Byte) : Option GNode :=
  let n : GNode := {
    kernelVa := bytesAt bs 0 8, kernel := none, group := bytesAt bs 8 2, record := 16 * bytesAt bs 0x0A 1,
    maxDepth := bytesAt bs 0x0B 1, home := bytesAt bs 0x0C 1, timer := bytesAt bs 0x10 4, param := bytesAt bs 0x18 8,
    regionBase := 0, slabs := [], used := [], queue := [], full := 0, timed := 0, drained := 0, records := 0,
    abortedGroups := 0, qhead := 0, groups := 0 }
  if n.kernelVa ≠ 0 ∧ n.kernelVa % 64 = 0 ∧ 1 ≤ n.group ∧ n.group ≤ 1024 ∧ 16 ≤ n.record ∧ n.record ≤ 256 ∧ n.maxDepth ≤ 63 ∧ n.home ≤ 7 ∧
      zeroFrom bs 0x0D 0x10 ∧ zeroFrom bs 0x14 0x18 ∧ n.param % 128 = 0 then some n else none

/-- Bytes of a node's guaranteed region (R345). -/
def GNode.region (n : GNode) : Nat := (2 * n.group * n.record + 65535) / 65536 * 65536

/-- Nodes with the units of their regions, from a unit on, and the unit after them (R345). -/
def layRegions : Nat → List GNode → List GNode × Nat
  | u, [] => ([], u)
  | u, n :: rest =>
    let r := layRegions (u + n.region / 16) rest
    ({ n with regionBase := u } :: r.1, r.2)

/-! ### The graph record (R405) -/

/-- The ranges and alignments of a graph record (R405, R345). -/
def graphRecordOk (bs : List Byte) : Bool :=
  bytesAt bs 8 8 % 65536 == 0 && bytesAt bs 0x10 8 % 65536 == 0 && decide (bytesAt bs 0x10 8 ≤ 2 ^ 32) &&
    decide (bytesAt bs 0x2C 2 < 4096) && fpmodeOk (bytesAt bs 0x2E 1) && bytesAt bs 0x2F 1 == 0 &&
    bytesAt bs 0x30 8 % 128 == 0 && bytesAt bs 0x38 8 % 65536 == 0 && zeroFrom bs 0x40 0x58 && zeroFrom bs 0x68 0x80

/-- The launch of a graph record: its kernel address is that of the graph image. -/
def Launch.ofGraph (p : Post) (bs : List Byte) : Launch where
  id := launchId p.queue p.index
  queue := p.queue
  index := p.index
  era := p.era
  recVa := p.recVa
  recCtx := p.ctx
  kernelVa := bytesAt bs 0 8
  param := 0
  privBase := bytesAt bs 0x30 8
  saveBase := bytesAt bs 0x38 8
  wgCount := 1
  dimX := 1
  dimY := 1
  dimZ := 1
  cores := 1
  fpmode := BitVec.ofNat 8 (bytesAt bs 0x2E 1)
  ctx := bytesAt bs 0x2C 2
  preds := []
  nextWg := 0
  aborted := 0
  firstSeq := none
  status := if graphRecordOk bs then none else some 3
  kernel := none
  rejects := []
  running := []
  releasedWgs := []
  stopped := false
  preempt := 0
  signal := p.signal
  graph := true

/-- A graph before its image has been read. -/
def Graph.ofRecord (p : Post) (bs : List Byte) : Graph where
  launch := launchId p.queue p.index
  root := 0
  poolWait := 24
  poolBase := bytesAt bs 8 8
  poolSize := bytesAt bs 0x10 8
  control := bytesAt bs 0x18 8
  seedsVa := bytesAt bs 0x20 8
  seeds := bytesAt bs 0x28 4
  nodes := []
  freeSlabs := []
  live := 0
  runningGroups := 0
  started := false
  stopped := false
  savedAt := 0
  waiters := []
  blank := []

/-- A graph is taken in. -/
def State.startGraph (s : State) (p : Post) (bs : List Byte) : State :=
  { s with launches := s.launches ++ [Launch.ofGraph p bs], graphs := s.graphs ++ [Graph.ofRecord p bs] }

/-! ### Starting (R343, R344) -/

/-- A launch's reserve admissions are given back (R356, R359); a group that still runs in one on the core keeps its energy units. -/
def Core.freeReserves (c : Core) (launch : Nat) : Core :=
  let mine := c.reserves.filter (fun (r : Reserve) => r.launch == launch)
  let c := { c with reserves := c.reserves.filter (fun (r : Reserve) => r.launch != launch) }
  let runs := fun (r : Reserve) (p : Part) => p.launch == launch && r.busy == some p.wgid
  let c := mine.foldl (fun (c : Core) (r : Reserve) =>
    if c.parts.any (runs r) then { c with parts := c.parts.map (fun (p : Part) => if runs r p then { p with units := r.units } else p) }
    else c.setAdmitted (c.admitted - r.units)) c
  mine.foldl (fun (c : Core) (r : Reserve) => c.dropRows r.kernel) c

/-- The reserve admissions of a graph are given back on every core. -/
def State.freeReserves (s : State) (launch : Nat) : State :=
  let cores := (s.cores.filter (fun kc => kc.2.reserves.any (fun (r : Reserve) => r.launch == launch))).map (fun kc => kc.1)
  cores.foldl (fun s k => s.onCore k (fun (c : Core) => c.freeReserves launch)) s

/-- A graph fails to start (R343, R344): the records already allocated and its reserve admissions are freed. -/
def State.failStart (s : State) (launch : Nat) : State :=
  let s := (s.freeReserves launch).onLaunch launch (fun (l : Launch) => { l with status := some 4 })
  s.onGraph launch (fun (g : Graph) => { g with
    live := 0, blank := [], nodes := g.nodes.map (fun (n : GNode) => { n with used := [], queue := [] }) })

/-- Why the hub die's access for a start does not go on. -/
def State.startStop (s : State) (launch : Nat) (e : HubStop) : State :=
  match e with
  | .wait => s
  | _ => s.failStart launch

/-- Slabs of a pool above the regions of its nodes, in ascending order (R345). -/
def slabsAbove (pool top : Nat) : List Nat :=
  (List.range ((pool - 16 * top) / 65536)).map (fun i => top + slabUnits * i)

/-- The home die of a node is fenced or has no ready cluster (R343). -/
def State.homeless (s : State) (n : GNode) : Bool := !allCores.any (fun k => dieOf k == n.home && s.coreUp k)

/-- A graph takes its header and the table of its nodes, unless they break a rule or the pool is too small (R341 to R343, R346). -/
def State.takeGraph (s : State) (id poolSize : Nat) (h : GraphHead) (table : List Byte) : State :=
  let ds := (List.range h.nodes).filterMap (fun i => GNode.read ((table.drop (32 * i)).take 32))
  let lay := layRegions 0 ds
  if ds.length < h.nodes ∨ poolSize < 16 * lay.2 ∨ ds.any s.homeless then s.failStart id
  else
    s.onGraph id (fun (g : Graph) => { g with
      root := h.root, poolWait := if h.poolWait = 0 then 24 else h.poolWait, nodes := lay.1
      freeSlabs := slabsAbove g.poolSize lay.2 })

/-- The header of a graph image, as far as its pages let it be read: none holds or stops the start. -/
def State.readHead (s : State) (l : Launch) : State × Except HubStop (List (Place × Nat)) :=
  s.hubSpan l.ctx l.kernelVa 64 true false (.packet (doneKey l.queue l.index))

/-- The node table is read after the header, and the pool is laid out (R341, R345). -/
def State.readNodes (s : State) (l : Launch) (g : Graph) (h : GraphHead) : State :=
  match s.hubSpan l.ctx (l.kernelVa + h.nodeOff) (32 * h.nodes) true false (.packet (doneKey l.queue l.index)) with
  | (s, .error e) => s.startStop l.id e
  | (s, .ok tab) =>
    match s.hubReadAll .read l.id tab with
    | (s, ts) => s.takeGraph l.id g.poolSize h (ts.map (fun b => b.1))

/-- The header of a graph image has been read: one that breaks a rule fails the start (R341, R343). -/
def State.afterHead (s : State) (l : Launch) (g : Graph) (h : Option GraphHead) : State :=
  match h with
  | none => s.failStart l.id
  | some h => s.readNodes l g h

/-- The image is read and the pool laid out (R341, R345). -/
def State.readGraph (s : State) (l : Launch) (g : Graph) : State :=
  match s.readHead l with
  | (s, .error e) => s.startStop l.id e
  | (s, .ok hd) =>
    match s.hubReadAll .read l.id hd with
    | (s, bs) => s.afterHead l g (GraphHead.read (bs.map (fun b => b.1)))

/-- Kernel of a node. -/
def State.nodeKernel (s : State) (n : GNode) : Kernel := s.kernel (n.kernel.getD 0)

/-- A node cannot run (R343): parameters without a block, or a group that no empty core can take. -/
def State.nodeUnfit (s : State) (n : GNode) : Bool :=
  (n.param == 0 && decide (0 < (s.nodeKernel n).paramBytes)) || !holdsPart (s.nodeKernel n) n.group

/-- Cores of a die. -/
def dieCores (d : Nat) : List Nat := allCores.filter (fun k => dieOf k == d)

/-- A reserve admission on a core, whose energy units count in U from now on (R353). -/
def Core.addReserve (c : Core) (r : Reserve) : Core :=
  ({ c with reserves := c.reserves ++ [r] } : Core).setAdmitted (c.admitted + r.units)

/-- A core beside what one part of it holds: whether it can take a part of n threads in that one's place (R324). -/
def State.fitsInstead (s : State) (k : Nat) (own : Part → Bool) (kern : Kernel) (n : Nat) : Bool :=
  let c := s.core k
  let mine := c.parts.filter own
  let slots := mine.flatMap Part.slots
  let c := { c with
    parts := c.parts.filter (fun p => !own p)
    threads := c.threads.filter (fun kt => !slots.contains kt.1) }
  (s.setCore k (c.setAdmitted (c.admitted - mine.foldl (fun t (p : Part) => t + p.units) 0))).fits k kern n

/-- The reserve admission of node i (R353), taken on the lowest core of its home die that can take a group. A reserve group that has
been restored runs in the resources of its node's reserve admission, which takes over its energy units (log 26); the core must have
them all (R324). -/
def State.reserveNode (s : State) (launch i : Nat) (n : GNode) : Option State :=
  match s.wgs.find? (fun (w : Workgroup) => w.launch == launch && w.node == some i && w.reserve) with
  | some w =>
    let k := (w.cores.head?).getD 0
    let kern := s.nodeKernel n
    let mine := fun (p : Part) => p.launch == launch && p.wgid == w.wgid
    if !s.fitsInstead k mine kern n.group then none
    else some (s.onCore k (fun (c : Core) =>
      let had := (c.parts.filter mine).foldl (fun t (p : Part) => t + p.units) 0
      let c := { c with parts := c.parts.map (fun (p : Part) => if mine p then { p with units := 0 } else p) }
      (c.setAdmitted (c.admitted - had)).addReserve {
        launch := launch, node := i, kernel := kern.id, n := n.group, live := kern.live, units := kern.cost n.group
        acc := kern.acc, busy := some w.wgid }))
  | none =>
  (((dieCores n.home).filter s.coreUp).find? (fun k => s.fits k (s.kernelOn k (n.kernel.getD 0)) n.group)).map (fun k =>
    let kern := s.kernelOn k (n.kernel.getD 0)
    s.setCore k ((s.takeRows k kern).addReserve {
      launch := launch, node := i, kernel := kern.id, n := n.group, live := kern.live, units := kern.cost n.group
      acc := kern.acc, busy := none }))

/-- The reserve admissions of the nodes from index i on, all of them or none (log 25). -/
def State.reserveNodes (s : State) (launch : Nat) : Nat → List GNode → Option State
  | _, [] => some s
  | i, n :: rest => (s.reserveNode launch i n).bind (fun s => s.reserveNodes launch (i + 1) rest)

/-- A graph has its reserve admissions. -/
def State.hasReserves (s : State) (launch : Nat) : Bool :=
  s.cores.any (fun kc => kc.2.reserves.any (fun (r : Reserve) => r.launch == launch))

/-- S records taken for the root (R344 step 3): their units, lowest first. -/
def Graph.takeSeeds (g : Graph) : Nat → Option (List Nat × Graph)
  | 0 => some ([], g)
  | n + 1 =>
    match g.take g.root with
    | none => none
    | some (u, g) => (g.takeSeeds n).map (fun r => (u :: r.1, r.2))

/-- A seed is copied into its record dword by dword with the marks of its source (R344). -/
def State.copySeed (s : State) (places : List (Place × Nat)) (bs : List (Byte × Bool)) : State :=
  match places with
  | [] => s
  | (p, n) :: rest =>
    let at_ := fun (o : Nat) => match p with
      | .dev a => Place.dev (a + o) | .host a => .host (a + o) | .remote d a => .remote d (a + o) | x => x
    let s := (List.range (n / 8)).foldl (fun s i => s.hubPut (at_ (8 * i)) ((bs.drop (8 * i)).take 8)) s
    s.copySeed rest (bs.drop n)

/-- The seeds are copied and enqueued (R344 steps 3 and 4). -/
def State.seedGraph (s : State) (l : Launch) (g : Graph) : State :=
  let item := HeldItem.seeds l.id
  let size := ((g.nodes[g.root]?).map GNode.record).getD 16
  if ((g.nodes[g.root]?).map g.available).getD 0 < g.seeds then s.failStart l.id
  else match g.takeSeeds g.seeds with
    | none => s.failStart l.id
    | some (units, g) =>
      match s.hubSpan l.ctx g.seedsVa (g.seeds * size) true false item with
      | (s, .error e) => s.startStop l.id e
      | (s, .ok src) =>
        match s.hubReadAll .engineRead l.id src with
        | (s, bs) =>
          let r := units.zipIdx.foldl (fun (r : State × Option HubStop) ui =>
            match r with
            | (s, some e) => (s, some e)
            | (s, none) =>
              match s.hubSpan l.ctx (g.recordVa ui.1 0) size false true item with
              | (s, .error e) => (s, some e)
              | (s, .ok dst) => (s.copySeed dst ((bs.drop (size * ui.2)).take size), none)) (s, none)
          match r with
          | (s, some e) => s.startStop l.id e
          | (s, none) =>
            let s := s.onGraph l.id (fun _ => { g with started := true, blank := [] })
            units.foldl (fun s u => s.enqueue l.id g.root u 0) s

/-- The seeds of a graph wait for a page. -/
def State.seedsHeld (s : State) (launch : Nat) : Bool := s.heldItems.contains (.seeds launch)

/-- A graph that has not started goes on with its start (R343, R344), unless its queue's dispatch is stopped (R383). -/
def State.graphStart (s : State) (l : Launch) (g : Graph) : State :=
  if s.keyHeld (doneKey l.queue l.index) ∨ s.seedsHeld l.id ∨ (s.queue l.queue).halted ∨ s.behindStopped l then s
  else if g.nodes.isEmpty then s.readGraph l g
  else if g.nodes.any s.homeless then s.failStart l.id
  else if !s.decided l then s
  else if !l.rejects.isEmpty ∨ g.nodes.any s.nodeUnfit then s.failStart l.id
  else if !s.hasReserves l.id then
    match s.reserveNodes l.id 0 g.nodes with
    | some s => s.seedGraph l g
    | none => s
  else s.seedGraph l g

/-- PACKET_GRAPH (R343, R344, R405): the next packet or post brings a graph, and the graphs of the queue that have not started go
on with their starts. -/
def execPacketGraph (queue : Nat) (s : State) : Host.Outcome State Fault Refusal :=
  let s := s.takeRecord queue 2 State.startGraph
  let mine := s.launches.filter (fun (l : Launch) => l.queue == queue && l.graph && l.status.isNone)
  .next (mine.foldl (fun s (l : Launch) =>
    match s.graph? l.id with
    | some g => if g.started then s else s.graphStart l g
    | none => s) s).settle

/-! ### The launcher (R349 to R353) -/

/-- Why a group is launched (R350). -/
inductive LaunchRow where
  | full | timer | drain
  deriving DecidableEq, Repr

/-- Whether a node is eligible at a tick, and its group size (R350). -/
def GNode.eligible (n : GNode) (tick : Nat) (draining : Bool) : Option (LaunchRow × Nat) :=
  let here := n.queue.filter (fun x => decide (x.2.1 < tick))
  match here with
  | [] => none
  | x :: _ =>
    if n.group ≤ here.length then some (.full, n.group)
    else if 0 < n.timer ∧ microsecond * n.timer ≤ tick - x.2.1 then some (.timer, here.length)
    else if draining then some (.drain, here.length)
    else none

/-- The graph is draining (R350): with no group running, no thread of it owns a record. -/
def Graph.draining (g : Graph) : Bool := g.runningGroups == 0

/-- Nodes homed on a die, as 64·launch + node, in ascending order from the one after the node launched last (R350; the order among
graphs is that of their launch ids, log 25). -/
def State.launchOrder (s : State) (die : Nat) : List Nat :=
  let gs := s.graphs.filter (fun (g : Graph) => g.started && !g.stopped &&
    ((s.launch? g.launch).map (fun (l : Launch) => l.status.isNone)).getD false)
  let all := (gs.flatMap (fun (g : Graph) =>
    (g.nodes.zipIdx.filter (fun ni => ni.1.home == die)).map (fun ni => 64 * g.launch + ni.2))).foldl insertNat []
  let last := s.nextLauncher.look die
  let after := fun (x : Nat) => match last with | some y => decide (y < x) | none => true
  all.filter after ++ all.filter (fun x => !after x)

/-- A cluster's arbiter takes a workgroup of a launch that ranks higher before a group of a graph (R327, R406). -/
def State.outrankedAt (s : State) (launch cl : Nat) : Bool :=
  match s.launch? launch with
  | none => false
  | some l => s.launches.any (fun (x : Launch) => s.goesFirst x l && s.dispatchable x && (s.placeIn x cl).isSome)

/-- The core for a group (R353): one that can take it, or the node's reserve admission, if it is free. -/
def State.groupCore (s : State) (launch i : Nat) (n : GNode) (g : Nat) : Option (Nat × Option Reserve) :=
  let cores := (dieCores n.home).filter s.coreUp
  match cores.find? (fun k => s.fits k (s.kernelOn k (n.kernel.getD 0)) g && !s.outrankedAt launch (k / 8)) with
  | some k => some (k, none)
  | none =>
    cores.findSome? (fun k =>
      ((s.core k).reserves.find? (fun (r : Reserve) => r.busy.isNone && r.launch == launch && r.node == i)).map (fun r => (k, some r)))

/-- A group of g records is admitted (R351, R352): one workgroup, one thread for each record. -/
def State.admitGroup (s : State) (l : Launch) (i : Nat) (n : GNode) (row : LaunchRow) (g k : Nat) (own : Option Reserve) : State :=
  let wgid := i * 2 ^ 32 + n.groups % 2 ^ 32
  let recs := n.queue.take g
  let s := { s with wgs := s.wgs ++ [Workgroup.admitted l.id wgid g [k] (some i) own.isSome] }
  let s := s.admitPart k (s.kernelOn k (n.kernel.getD 0)) l.id wgid 0 (0, g) l.fpmode.toNat own
  let s := s.onCore k (fun (c : Core) => { c with threads := c.threads.map (fun (kt : Nat × Thread) =>
    if kt.2.inWg l.id wgid then
      match recs[kt.2.tidw.toNat]? with
      | some r => (kt.1, { kt.2 with recUnit := some r.1, recDepth := BitVec.ofNat 6 r.2.2, grpCount := g })
      | none => kt
    else kt) })
  let s := s.onLaunch l.id (fun (x : Launch) => { x with running := insertNat x.running wgid })
  s.onGraph l.id (fun (gr : Graph) =>
    ({ gr with runningGroups := gr.runningGroups + 1 } : Graph).onNode i (fun (x : GNode) => { x with
      queue := x.queue.drop g, qhead := (x.qhead + g) % max 1 (gr.ringSize x), groups := x.groups + 1, records := x.records + g
      full := x.full + (if row = .full then 1 else 0), timed := x.timed + (if row = .timer then 1 else 0)
      drained := x.drained + (if row = .drain then 1 else 0) }))

/-- The first node of a list that is eligible and can be admitted launches. -/
def State.launchFirst (s : State) (die tick : Nat) : List Nat → State
  | [] => s
  | x :: rest =>
    match s.launch? (x / 64), s.graph? (x / 64) with
    | some l, some g =>
      match g.nodes[x % 64]? with
      | none => s.launchFirst die tick rest
      | some n =>
        match n.eligible tick g.draining with
        | none => s.launchFirst die tick rest
        | some (row, size) =>
          match s.groupCore l.id (x % 64) n size with
          | none => s.launchFirst die tick rest
          | some (k, own) =>
            { s.admitGroup l (x % 64) n row size k own with nextLauncher := s.nextLauncher.put die x }
    | _, _ => s.launchFirst die tick rest

/-! ### Completion (R355 to R357) -/

/-- A node's statistics block (R357). -/
def GNode.stats (n : GNode) : List Byte :=
  bytesLE 8 n.full ++ bytesLE 8 n.timed ++ bytesLE 8 n.drained ++ bytesLE 8 n.records ++ bytesLE 8 n.abortedGroups ++
    bytesLE 4 n.qhead ++ bytesLE 4 n.queue.length ++ bytesLE 8 ((n.queue.head?).elim 0 (fun x => x.2.1)) ++ bytesLE 8 0

/-- The launchers write the statistics blocks of a graph (R356, R357). -/
def State.writeStats (s : State) (l : Launch) (g : Graph) : State :=
  g.nodes.zipIdx.foldl (fun s ni => s.controlWrite l.id l.ctx (g.control + 64 * ni.2) ni.1.stats) s

/-- A graph completes in this cycle (R355). -/
def Graph.over (g : Graph) : Bool := g.started && g.live == 0 && g.runningGroups == 0

/-- GRAPH_COMPLETE (R355, R356). -/
def execGraphComplete (launch : Nat) (s : State) : Host.Outcome State Fault Refusal :=
  match s.launch? launch, s.graph? launch with
  | some l, some g =>
    if !g.over ∨ l.status.isSome ∨ !s.packetOver l ∨ s.copies.any (fun y => y.1.launch == launch) then .next s
    else
      let status := if l.aborted = 0 then 0 else 2
      let s := (s.writeStats l g).freeReserves launch
      let s := s.onLaunch launch (fun (l : Launch) => { l with status := some status })
      .next (s.finishLaunch { l with status := some status } status).settle
  | _, _ => .next s

end Sys2Proof.Machine
end

