-- ==== Sys2Proof/Machine/SaveArea.lean ====
section
/-! DEFINITION. The save areas of a load-boundary pre-emption (spec 13 R385 to R388; 07 R224): their bytes, and what a restore reads of
them. -/

namespace Sys2Proof.Machine

/-! ### Headers, threads and parts (R385, R386) -/

/-- HDR0 to HDR3 of a thread (R17). -/
def Thread.header (t : Thread) : List Byte :=
  let code := match t.state with
    | .free => 0 | .waiting => 1 | .inload => 2 | .parked => 3 | .exiting => 4 | .faulted => 5
  let bit := fun (b : Bool) => if b then 1 else 0
  bytesLE 8 (t.next.toNat + code * 2 ^ 8 + t.depth.toNat * 2 ^ 16 + t.cntCopy.toNat * 2 ^ 32 + t.cntMatrix.toNat * 2 ^ 40 +
      t.cntGather.toNat * 2 ^ 48 + t.cntRemote.toNat * 2 ^ 56) ++
    bytesLE 8 (t.fpmode.toNat + t.fcause.toNat * 2 ^ 8 + bit t.fvalid * 2 ^ 16 + bit t.handler * 2 ^ 17 +
      t.tidw.toNat * 2 ^ 32) ++ bytesLE 8 t.hdr2.toNat ++ bytesLE 8 t.hdr3.toNat

/-- A live value of a thread; one that was never written is data 0 (R15). -/
def Thread.lv (t : Thread) (n : Nat) : LiveVal := (t.live.look n).getD ⟨false, 0, false⟩

/-- A thread's entry in the THR section (R385, R386). -/
def Thread.entryBytes (t : Thread) (slot l : Nat) : List Byte :=
  let code := match t.state with
    | .free => 0 | .waiting => 1 | .inload => 2 | .parked => 3 | _ => 4
  let kinds := (List.range 128).foldl (fun m n => if (t.lv n).isErr then m + 2 ^ n else m) 0
  bytesLE 8 (slot + code * 2 ^ 16 + t.latch.toNat * 2 ^ 24) ++
    bytesLE 8 (t.arrived.toNat + t.arrivedAgain.toNat * 2 ^ 16) ++ bytesLE 16 kinds ++ t.header ++
    (List.range l).flatMap (fun n => bytesLE 8 (t.lv n).word.toNat)

/-- A number of n bytes at an offset of some bytes. -/
def numAt (bs : List Byte) (off n : Nat) : Nat := fromLE ((bs.drop off).take n)

/-- A thread as an entry of the THR section gives it back (R386, R388); `marks` are the poison marks of the entry's bytes. -/
def Thread.ofEntry (t : Thread) (l now : Nat) (bs : List Byte) (marks : List Bool) : Thread :=
  let d0 := numAt bs 0 8
  let d1 := numAt bs 8 8
  let kinds := numAt bs 16 16
  let h0 := numAt bs 32 8
  let h1 := numAt bs 40 8
  let value := fun (n : Nat) => LiveVal.mk (natBit kinds n) (BitVec.ofNat 64 (numAt bs (64 + 8 * n) 8))
    ((t.lv n).mark || ((marks.drop (64 + 8 * n)).take 8).any id)
  { t with
    state := match natBits d0 18 16 with | 0 => .free | 1 => .waiting | 2 => .inload | 3 => .parked | _ => .exiting
    latch := BitVec.ofNat 8 (natBits d0 31 24)
    arrived := BitVec.ofNat 16 (natBits d1 15 0)
    arrivedAgain := BitVec.ofNat 16 (natBits d1 31 16)
    next := BitVec.ofNat 7 (natBits h0 6 0)
    depth := BitVec.ofNat 11 (natBits h0 26 16)
    cntCopy := BitVec.ofNat 8 (natBits h0 39 32)
    cntMatrix := BitVec.ofNat 8 (natBits h0 47 40)
    cntGather := BitVec.ofNat 8 (natBits h0 55 48)
    cntRemote := BitVec.ofNat 8 (natBits h0 63 56)
    fpmode := BitVec.ofNat 8 (natBits h1 7 0)
    fcause := BitVec.ofNat 8 (natBits h1 15 8)
    fvalid := natBit h1 16
    handler := natBit h1 17
    tidw := BitVec.ofNat 16 (natBits h1 47 32)
    hdr2 := BitVec.ofNat 64 (numAt bs 48 8)
    hdr3 := BitVec.ofNat 64 (numAt bs 56 8)
    live := (List.range l).foldl (fun (m : Table LiveVal) n => m.put n (value n)) t.live
    since := now }

/-- A row of the WAIT section: the slots that wait at an entry. -/
def waitBytes (ths : List (Nat × Thread)) (entry : Nat) : List Byte :=
  let here := (ths.filter (fun kt => kt.2.state == .waiting && kt.2.next.toNat == entry)).map (fun kt => kt.1)
  (List.range 1024).map (fun b => BitVec.ofNat 8 ((List.range 8).foldl (fun m i => if here.contains (8 * b + i) then m + 2 ^ i else m) 0))

/-- An accumulator slot's element; one that was never written is 0. -/
def Core.accSlot (c : Core) (slot e : Nat) : AccElem := (c.acc.look (256 * slot + e)).getD ⟨false, 0⟩

/-- Bytes of an element of a handle. -/
def Handle.elemBytes (h : Handle) : Nat := if h.slots.length = 2 then 8 else 4

/-- The contents of a handle's slots: elements and Poison mask (R385). -/
def Core.handleBytes (c : Core) (h : Handle) : List Byte :=
  match h.slots with
  | [] => []
  | slot :: _ =>
    (List.range 256).flatMap (fun e => bytesLE h.elemBytes (c.accSlot slot e).bits.toNat) ++
      bytesLE 32 ((List.range 256).foldl (fun m e => if (c.accSlot slot e).poison then m + 2 ^ e else m) 0)

/-- The contents of a handle's slots are taken from the bytes that the save area holds of them. -/
def Core.fillHandle (c : Core) (h : Handle) (bs : List Byte) : Core :=
  match h.slots with
  | [] => c
  | slot :: _ =>
    let poison := numAt bs (256 * h.elemBytes) 32
    let elem := fun (e : Nat) => AccElem.mk (natBit poison e) (BitVec.ofNat 64 (numAt bs (h.elemBytes * e) h.elemBytes))
    { c with acc := (List.range 256).foldl (fun (m : Table AccElem) e => m.put (256 * slot + e) (elem e)) c.acc }

/-- A part's handle. -/
def Part.handleAt (p : Part) (n : Nat) : Handle := (p.handles.look n).getD .unbound

/-- A part's entry in the PART section. -/
def Core.partBytes (c : Core) (p : Part) : List Byte :=
  bytesLE 8 p.wgid ++
    (List.range 256).flatMap (fun n => bytesLE 2 (match p.handleAt n with | .unbound => 0 | .b32 _ => 1 | .b64 _ _ => 2)) ++
    (List.range 256).flatMap (fun n => c.handleBytes (p.handleAt n))

/-- A part's entry in the SPAD section: its bytes and their poison bits. -/
def Core.spadBytesOf (c : Core) (k : Kernel) : List Byte :=
  let key := spadKey k.spadTiles
  let n := (k.spad + 7) / 8
  (List.range k.spad).map (fun o => c.tileByte (key o)) ++
    bytesLE ((n + 7) / 8) ((List.range n).foldl (fun m i => if c.tileMark (key (8 * i)) then m + 2 ^ i else m) 0)

/-- A scratchpad as its entry in the SPAD section gives it back. -/
def Core.fillSpad (c : Core) (k : Kernel) (bs : List Byte) : Core :=
  let key := spadKey k.spadTiles
  let n := (k.spad + 7) / 8
  let poison := fromLE (bs.drop k.spad)
  (List.range n).foldl (fun (c : Core) i =>
    let c := c.tileStore (key (8 * i)) ((bs.take k.spad).drop (8 * i) |>.take 8)
    if natBit poison i then c.tileMarkPoison (key (8 * i)) else c) c

/-! ### Tokens (R387) -/

/-- KIND of a token (R32). -/
def Val.kind : Val → Nat
  | .data _ => 0 | .pass => 1 | .err _ => 2

/-- A token record (R387). -/
def tokenRecord (payload : Nat) (tag : Tag) (kind elem slotPort type count : Nat) : List Byte :=
  bytesLE 8 payload ++
    bytesLE 4 (tag.slot.toNat + tag.out.toNat * 2 ^ 13 + tag.inn.toNat * 2 ^ 19 + kind * 2 ^ 25) ++
    bytesLE 1 elem ++ bytesLE 1 slotPort ++ bytesLE 1 type ++ bytesLE 1 count

/-- An operand at rest. -/
def operandRecord (elem slot port : Nat) (tag : Tag) (v : Option Val) : List Byte :=
  match v with
  | none => []
  | some v => tokenRecord v.payload tag v.kind elem (slot + 16 * port) 0 0

/-- The operands of an instance at rest, those of its tail at the next slot. -/
def pendingRecords (elem slot : Nat) (tag : Tag) (a b c p ta tb : Option Val) : List Byte :=
  operandRecord elem slot 0 tag a ++ operandRecord elem slot 1 tag b ++ operandRecord elem slot 2 tag c ++
    operandRecord elem slot 3 tag p ++ operandRecord elem (slot + 1) 0 tag ta ++ operandRecord elem (slot + 1) 1 tag tb

/-- The operands of a waiting or held instance. -/
def Firing.records (f : Firing) : List Byte := pendingRecords f.elem f.slot f.tag f.a f.b f.c f.p f.ta f.tb

/-- The operands of a matching-store entry. -/
def Pending.records (x : Pending) : List Byte := pendingRecords x.elem x.slot x.tag x.a x.b x.c x.p x.ta x.tb

/-- Port code of a token record. -/
def portCode : PortId → Nat
  | .a => 0 | .b => 1 | .c => 2 | .p => 3

/-- A token that waits at its slot, in the memory tile or the channel before it. -/
def Flight.record (x : Flight) : List Byte :=
  operandRecord x.elem x.slot (portCode x.port + if x.scale then 4 else 0) x.tag (some x.val)

/-- Magnitude of a value as a number of its type (R168): the bits of a finite value without its sign, which rank as its magnitude does.
Error tokens, NaNs and infinities have none. -/
def finiteMagnitude (t : Ty) (v : Val) : Option Nat :=
  match v with
  | .data x =>
    match (fmtOf t).decode (readBits t x) with
    | .fin _ _ _ => some (readBits t x % 2 ^ ((fmtOf t).ebits + (fmtOf t).mbits))
    | _ => none
  | _ => none

/-- The running value of a block (R166, R168, R175, R387): the greatest |a| that has come to a `bmax`; of a `bdot`, the exact sum of the
products so far of the low m bits of its elements (R167). -/
def BlockState.running (b : BlockState) (opc : Nat) (w : SlotWord) : Nat :=
  if opc = 0x60 then (b.vals.filterMap (fun kv => finiteMagnitude w.ty kv.2.1)).foldl max 0
  else if opc = 0x66 then
    let mant := fun (m : Nat) (x : Dword) => toSigned m (elemField m x)
    (BitVec.ofInt 64 (b.vals.foldl (fun (s : Int) kv => match kv.2 with
      | (.data x, .data y) => s + mant w.mantWidth x * mant (w.immBits 18 16 + 1) y
      | _ => s) 0)).toNat
  else 0

/-- A block's scales, its state, and the elements that rest in it (R166, R387). -/
def BlockState.records (b : BlockState) (opc : Nat) (w : SlotWord) : List Byte :=
  let scale := fun (port : Nat) (v : Option Byte) => match v with
    | none => []
    | some e => tokenRecord e.toNat b.tag 0 b.elem (b.slot + 16 * port) 0 0
  scale 4 b.s0 ++ scale 5 b.s1 ++ tokenRecord (b.running opc w) b.tag 0 b.elem b.slot 2 b.fired ++
    (if opc = 0x60 ∨ opc = 0x66 then []
     else b.vals.flatMap (fun kv => operandRecord b.elem b.slot 0 b.tag (some kv.2.1))) ++
    b.waiting.flatMap Firing.records

/-- What the lanes of a group have brought (R205). -/
def Group.records (g : Group) (p : Span) : List Byte :=
  g.lanes.flatMap (fun kx =>
    let tag : Tag := ⟨BitVec.ofNat 13 ((p.members[kx.1]?).getD 0), g.out, g.inn⟩
    match kx.2 with
    | .active a b => operandRecord g.elem g.slot 0 tag (some a) ++ operandRecord g.elem g.slot 1 tag (some b)
    | .inactive => operandRecord g.elem g.slot 0 tag (some .pass)
    | .predError e => operandRecord g.elem g.slot 3 tag (some (.err e))
    | .gone => [])

/-- A token that waits at a feed of the island: its destination's island port in place of the element (R82). -/
def FeedTok.record (x : FeedTok) : List Byte := tokenRecord x.val.payload x.tag x.val.kind (128 + x.feed) 0 0 x.iter

/-- A `merge.first` pair of which one side has been forwarded (R129). -/
def MergeState.record (x : MergeState) : List Byte := tokenRecord 0 x.tag 1 x.elem x.slot 2 1

/-- A staged live-value write of a thread in a slot. -/
def Staged.record (x : Staged) (slot : Nat) : List Byte :=
  tokenRecord x.val.word.toNat ⟨BitVec.ofNat 13 slot, BitVec.ofNat 6 x.outT, BitVec.ofNat 6 x.innT⟩ (if x.val.isErr then 2 else 0)
    x.lv x.slot 1 0

/-! ### Sections (R385) -/

/-- Bytes filled up with zeros to a multiple of n. -/
def paddedTo (n : Nat) (l : List Byte) : List Byte := l ++ List.replicate ((n - l.length % n) % n) 0

/-- A place of n bytes that holds some bytes, and zeros after them. -/
def filledTo (n : Nat) (l : List Byte) : List Byte := l.take n ++ List.replicate (n - l.length) 0

/-- A section filled up to a multiple of 64 bytes. -/
def padded (l : List Byte) : List Byte := paddedTo 64 l

/-- What a core saves of a launch: the parts and threads, and the held instances that rest with them. -/
structure SaveView where
  c : Core
  parts : List Part
  kerns : List Kernel
  threads : List (Nat × Thread)
  held : List Firing
  transfers : List Transfer
  deriving DecidableEq, Repr

/-- Thread slots of a view. -/
def SaveView.slots (v : SaveView) : List Nat := v.threads.map (fun kt => kt.1)

/-- L of a save area. -/
def SaveView.live (v : SaveView) : Nat := v.kerns.foldl (fun m (x : Kernel) => max m x.live) 0

/-- ENTRIES of a save area. -/
def SaveView.entries (v : SaveView) : Nat := v.kerns.foldl (fun m (x : Kernel) => max m x.entries.length) 0

/-- A thread is suspended: the residue is present (R384, R385). -/
def SaveView.suspended (v : SaveView) : Bool := v.threads.any (fun kt => kt.2.state == .inload)

/-- Spans that the threads of a view form. -/
def SaveView.spans (v : SaveView) : List Span := v.c.spans.filter (fun (p : Span) => p.members.any (fun t => v.slots.contains t))

/-- The item of a flat index, once it has come. -/
def XCtx.arrived (x : XCtx) (f : Nat) : Option XItem := x.items.find? (fun (y : XItem) => y.f == f)

/-- Items of an owner that have come in order, under `.seq` (log 26). -/
def XCtx.inOrder (x : XCtx) (seq : Bool) (i : Nat) : Nat :=
  if seq then ((List.range ((x.lens[i]?).getD 0)).takeWhile (fun j => (x.arrived (prefixOf x.lens i + j)).isSome)).length else 0

/-- Items that have come before one of lower index of their owner (R220). -/
def XCtx.early (x : XCtx) (seq : Bool) : List XItem :=
  x.items.filter (fun (y : XItem) => decide (prefixOf x.lens y.owner + x.inOrder seq y.owner ≤ y.f))

/-- The instruction that collects the items of a context, if its loop has one. -/
def Core.collects (c : Core) (x : XCtx) : Option SlotWord :=
  ((c.load.xroundOf (16 * x.elem + x.slot)).bind c.load.xsegredOf).bind c.load.fields

/-- A context's items are combined in order (R220). -/
def Core.inSeq (c : Core) (x : XCtx) : Bool := (c.collects x).elim true (fun r => !r.xf.getLsbD 0)

/-- The entry of an expansion context in the XPD section (R224, R385): what an owner's items in order give, as far as they have come, is
its partial result under `.seq`; the others, and under `.pair` all, are early items (log 26). -/
def Core.xpdBytes (c : Core) (x : XCtx) : List Byte :=
  let round := c.load.xroundOf (16 * x.elem + x.slot)
  let red := c.collects x
  let p := c.span x.span
  let seq := c.inSeq x
  let window := (round.bind c.load.fields).elim 0 SlotWord.window
  let arrived := x.arrived
  let base := fun (i : Nat) => prefixOf x.lens i
  let len := fun (i : Nat) => (x.lens[i]?).getD 0
  let inOrder := x.inOrder seq
  let lane := fun (i : Nat) =>
    let inst := c.loops.find? (fun (l : LoopInst) => l.ctx == some x.id && l.lane == i)
    bytesLE 8 ((x.starts[i]?).getD 0) ++ bytesLE 4 (len i) ++
      bytesLE 4 (inst.elim (if x.fin.contains i then (x.total + x.n - 1) / max 1 x.n else 0) LoopInst.t)
  let owner := fun (i : Nat) =>
    let before := x.part.look i
    let seen := (List.range (inOrder i)).filterMap (fun j => arrived (base i + j))
    let v := red.bind (fun r => (seen.map XItem.val).foldl (comb r.redOp r.ty (c.laneCtx r p i)) (before.map (fun q => q.1)))
    bytesLE 8 (v.elim 0 Val.payload) ++ bytesLE 4 (seen.countP (fun y => y.val.isSome) + before.elim 0 (fun q => q.2.1)) ++
      bytesLE 4 ((if seen.any XItem.bad || before.any (fun q => q.2.2) then 1 else 0) + 2 * v.elim 0 Val.kind)
  let early := x.early seq
  paddedTo 64 (bytesLE 8 x.span ++ bytesLE 4 x.n ++ bytesLE 8 x.total ++ bytesLE 4 window ++
      bytesLE 1 (red.elim 0 SlotWord.redOp) ++ bytesLE 1 (if seq then 0 else 1)) ++
    (List.range x.n).flatMap lane ++ (List.range x.n).flatMap owner ++
    early.flatMap (fun (y : XItem) => bytesLE 4 y.f ++ bytesLE 8 (y.val.elim 0 Val.payload) ++
      bytesLE 4 ((y.val.elim 1 Val.kind) + if y.bad then 4 else 0))

/-- Code of an engine operation in the ENG section. -/
def TOp.code : TOp → Nat
  | .cpy => 0 | .cpyms => 1 | .cpysm => 2 | .cpyss => 3 | .cpymc => 4 | .mtld => 5 | .mtst => 6

/-- The entry of a held operation or stream copy in the ENG section. -/
def Transfer.engBytes (x : Transfer) : List Byte :=
  let cls := match x.cls with | .copy => 0 | .matrix => 1 | .gather => 2 | .remote => 3
  paddedTo 64 (bytesLE 1 x.op.code ++ bytesLE 1 x.f.elem ++ bytesLE 1 x.f.slot ++ bytesLE 1 cls ++ bytesLE 2 x.f.thread ++
    bytesLE 1 (if x.poison then 1 else 0) ++ bytesLE 1 x.port ++ bytesLE 1 (x.chan.getD 0xFF) ++ bytesLE 1 x.port2 ++
    bytesLE 2 x.mask ++ bytesLE 8 x.cursor ++ bytesLE 8 (x.bytes - x.cursor) ++ bytesLE 8 (x.addrAt x.src x.cursor) ++
    bytesLE 8 (x.addrAt x.dst x.cursor) ++ bytesLE 8 (x.cursor / max 1 x.unit))

/-- The entry of a held access whose thread has left the load. -/
def Firing.engBytes (f : Firing) : List Byte :=
  paddedTo 64 (bytesLE 1 7 ++ bytesLE 1 f.elem ++ bytesLE 1 f.slot ++ bytesLE 1 0 ++ bytesLE 2 f.thread ++ bytesLE 10 0 ++
    (f.kept.elim [] (fun (x : Kept) => bytesLE 16 x.word.toNat ++ bytesLE 8 x.g)))

/-- The FIFO tile in which a token stands (R290). -/
def Core.tileOf (c : Core) (x : Flight) : Option Nat := c.load.fifoOf (16 * x.srcElem + x.srcSlot) x.srcDst

/-- A tile of the active load in the RES section: 32 KiB, in which a FIFO tile has the entries of its tokens with their tags (R290), and its
state of 16 bytes. -/
def Core.tileBytesOf (c : Core) (t : Nat) : List Byte :=
  let line := (c.lines.look t).getD ⟨0, []⟩
  let tokens := c.flights.filter (fun (x : Flight) => c.tileOf x == some t)
  match ((c.load.roles[t]?).map TileRole.role).getD .off with
  | .fifo => filledTo Config.tileBytes (tokens.flatMap Flight.record) ++ bytesLE 4 0 ++ bytesLE 4 tokens.length ++ bytesLE 8 0
  | .line => filledTo Config.tileBytes (line.vals.flatMap (fun v => bytesLE 8 v.payload)) ++ bytesLE 4 0 ++
      bytesLE 4 line.vals.length ++ bytesLE 8 line.count
  | _ => (List.range Config.tileBytes).map (fun o => c.tileByte (Config.tileBytes * t + o)) ++ bytesLE 16 0

/-- Tiles of the active load whose contents the RES section holds. -/
def Core.resTiles (c : Core) : List Nat :=
  (List.range 32).filter (fun t =>
    let r := ((c.load.roles[t]?).map TileRole.role).getD .off
    r == .buf || r == .fifo || r == .line)

/-- A header row of 32 bytes. -/
def LoopInst.rowBytes (i : LoopInst) : List Byte :=
  let bit := fun (b : Bool) (n : Nat) => if b then 2 ^ n else 0
  let open_ := (List.range i.window).foldl (fun m j => m + bit (decide (j < i.t) && !i.tails.contains (i.t - 1 - j)) j) 0
  paddedTo 32 (bytesLE 1 i.elem ++ bytesLE 1 i.slot ++ bytesLE 2 i.thread ++ bytesLE 1 i.out.toNat ++ bytesLE 1 i.level ++
    bytesLE 1 (bit i.stop 0 + bit i.finished 1 + bit i.carried.isSome 2 + 8 * i.carried.elim 0 Val.kind) ++ bytesLE 1 i.window ++ bytesLE 4 i.n ++ bytesLE 4 i.t ++
    bytesLE 8 open_ ++ bytesLE 8 (i.carried.elim 0 Val.payload))

/-- The records of a block-FP entry. -/
def Core.blockRecords (c : Core) (x : BlockState) : List Byte := 
  let n := 16 * x.elem + x.slot
  (c.load.fields n).elim [] (x.records ((c.load.opc n).getD 0))

/-- The residue (R385): the load's tiles, header rows, and the tokens of the suspended threads. -/
def SaveView.residueBytes (v : SaveView) : List Byte :=
  let c := v.c
  let slots := v.slots
  let mine := fun (t : Tag) => slots.contains t.slot.toNat
  c.resTiles.flatMap c.tileBytesOf ++
    (c.loops.filter (fun (i : LoopInst) => slots.contains i.thread)).flatMap LoopInst.rowBytes ++
    ((c.pendings ++ c.headers).filter (fun (x : Pending) => mine x.tag)).flatMap Pending.records ++
    (c.flights.filter (fun (x : Flight) => mine x.tag && (c.tileOf x).isNone)).flatMap Flight.record ++
    (c.blocks.filter (fun (x : BlockState) => mine x.tag)).flatMap c.blockRecords ++
    (c.groups.filter (fun (g : Group) => v.spans.any (fun (p : Span) => p.id == g.span))).flatMap (fun (g : Group) =>
      g.records (c.span g.span)) ++
    (c.feeds.filter (fun (x : FeedTok) => mine x.tag)).flatMap FeedTok.record ++
    (c.merges.filter (fun (x : MergeState) => mine x.tag)).flatMap MergeState.record ++
    (c.parked.filter (fun (p : Parked) => slots.contains p.f.thread)).flatMap (fun (p : Parked) => p.f.records) ++
    (c.mxSent.filter (fun (m : MxCtl) => slots.contains m.f.thread)).flatMap (fun (m : MxCtl) => m.f.records) ++
    (v.held.filter (fun f => !f.mute)).flatMap Firing.records ++
    v.threads.flatMap (fun kt => kt.2.staged.flatMap (fun (x : Staged) => x.record kt.1))

/-- The ENG section: held operations and stream copies, then each stream buffer that is not empty, then each channel count. -/
def SaveView.engBytes (v : SaveView) : List Byte :=
  v.transfers.flatMap Transfer.engBytes ++ (v.held.filter (fun f => f.mute)).flatMap Firing.engBytes ++
    (v.c.ports.filter (fun q => !q.2.buf.isEmpty)).flatMap (fun q => paddedTo 4096 (q.2.buf.map (fun b => b.1))) ++
    v.c.chans.flatMap (fun kv => bytesLE 8 kv.2.count)

/-- The save area (R385) of core k for a launch. -/
def SaveView.bytes (v : SaveView) (k launch now : Nat) : List Byte :=
  let xs := v.c.xctxs.filter (fun (x : XCtx) => v.spans.any (fun (p : Span) => p.id == x.span))
  let thr := padded (v.threads.flatMap (fun kt => kt.2.entryBytes kt.1 v.live))
  let wait := padded ((List.range v.entries).flatMap (waitBytes v.threads))
  let part := padded (v.parts.flatMap v.c.partBytes)
  let spad := padded (v.kerns.flatMap v.c.spadBytesOf)
  let xpd := padded (xs.flatMap v.c.xpdBytes)
  let eng := padded v.engBytes
  let res := if v.suspended then padded v.residueBytes else []
  let o1 := 64
  let o2 := o1 + thr.length
  let o3 := o2 + wait.length
  let o4 := o3 + part.length
  let o5 := o4 + spad.length
  let o6 := o5 + xpd.length
  let o7 := o6 + eng.length
  let active := match v.c.active.load with | some x => x.2 | none => 0xFFFF
  bytesLE 4 0x4B563703 ++ bytesLE 2 k ++ bytesLE 1 v.entries ++ bytesLE 1 (if v.suspended then 1 else 0) ++ bytesLE 4 launch ++
    bytesLE 2 v.threads.length ++ bytesLE 2 v.live ++ bytesLE 4 o1 ++ bytesLE 4 o2 ++ bytesLE 4 o3 ++ bytesLE 4 o4 ++ bytesLE 4 o5 ++
    bytesLE 4 o6 ++ bytesLE 4 (if v.suspended then o7 else 0) ++ bytesLE 2 active ++ bytesLE 2 v.parts.length ++ bytesLE 8 now ++
    bytesLE 8 0 ++ thr ++ wait ++ part ++ spad ++ xpd ++ eng ++ res

/-! ### Reading it back (R388) -/

/-- A token record as it reads (R387). -/
structure TokRec where
  payload : Nat
  kind : Nat
  tag : Tag
  elem : Nat
  slot : Nat
  count : Nat
  poison : Bool               -- its payload is poisoned in memory
  deriving DecidableEq, Repr

/-- The record that 16 bytes hold, each with its poison mark. -/
def TokRec.of (l : List (Byte × Bool)) : TokRec :=
  let bs := l.map (fun b => b.1)
  let t := numAt bs 8 4
  { payload := numAt bs 0 8, kind := natBits t 26 25, elem := numAt bs 12 1, slot := natBits (numAt bs 13 1) 3 0
    count := numAt bs 15 1, poison := (l.take 8).any (fun b => b.2)
    tag := ⟨BitVec.ofNat 13 (natBits t 12 0), BitVec.ofNat 6 (natBits t 18 13), BitVec.ofNat 6 (natBits t 24 19)⟩ }

/-- What a payload with a KIND stands for (R32, R33). -/
def Val.ofKind (kind payload : Nat) : Val :=
  match kind with
  | 0 => .data (BitVec.ofNat 64 payload)
  | 1 => .pass
  | _ => .err (Sub.ofCode payload)

/-- The token of a record: one whose payload is poisoned is Poison (R183). -/
def TokRec.val (r : TokRec) : Val := if r.poison then .err .poison else Val.ofKind r.kind r.payload

/-- The tag of the first record, if there is one. -/
def tagAt (rs : List TokRec) (t : Tag) : Tag := (rs.head?.map TokRec.tag).getD t

/-- Operands take the values of their records, in order: one that is absent has none. -/
def refill : List (Option Val) → List TokRec → List (Option Val) × List TokRec
  | [], rs => ([], rs)
  | none :: vs, rs => (none :: (refill vs rs).1, (refill vs rs).2)
  | some v :: vs, [] => (some v :: (refill vs []).1, (refill vs []).2)
  | some _ :: vs, r :: rs => (some r.val :: (refill vs rs).1, (refill vs rs).2)

/-- The tokens of a list take their records in order. -/
def refillEach {α : Type} (mine : α → Bool) (one : α → List TokRec → α × List TokRec) : List α → List TokRec → List α × List TokRec
  | [], rs => ([], rs)
  | x :: l, rs =>
    if mine x then
      let y := one x rs
      let rest := refillEach mine one l y.2
      (y.1 :: rest.1, rest.2)
    else
      let rest := refillEach mine one l rs
      (x :: rest.1, rest.2)

/-- The operands of a matching-store entry. -/
def Pending.refill (x : Pending) (rs : List TokRec) : Pending × List TokRec :=
  let v := Sys2Proof.Machine.refill [x.a, x.b, x.c, x.p, x.ta, x.tb] rs
  let at_ := fun (i : Nat) => (v.1[i]?).join
  ({ x with tag := tagAt rs x.tag, a := at_ 0, b := at_ 1, c := at_ 2, p := at_ 3, ta := at_ 4, tb := at_ 5 }, v.2)

/-- The operands of a waiting or held instance. -/
def Firing.refill (x : Firing) (rs : List TokRec) : Firing × List TokRec :=
  let v := Sys2Proof.Machine.refill [x.a, x.b, x.c, x.p, x.ta, x.tb] rs
  let at_ := fun (i : Nat) => (v.1[i]?).join
  ({ x with tag := tagAt rs x.tag, a := at_ 0, b := at_ 1, c := at_ 2, p := at_ 3, ta := at_ 4, tb := at_ 5 }, v.2)

/-- A token at rest before its slot. -/
def Flight.refill (x : Flight) : List TokRec → Flight × List TokRec
  | [] => (x, [])
  | r :: rs => ({ x with elem := r.elem, slot := r.slot, tag := r.tag, val := r.val }, rs)

/-- A block's scales, its state, and the elements that rest in it: of a `bmax`, the running value stands for those that have come. -/
def BlockState.refill (opc : Nat) (x : BlockState) (rs : List TokRec) : BlockState × List TokRec :=
  let scales := [x.s0, x.s1].map (fun v => v.map (fun (e : Byte) => Val.data (e.setWidth 64)))
  let s := Sys2Proof.Machine.refill scales rs
  let scale := fun (i : Nat) => ((s.1[i]?).join).map (fun (v : Val) => v.bits.extractLsb' 0 8)
  let x : BlockState := { x with s0 := scale 0, s1 := scale 1 }
  match s.2 with
  | [] => (x, [])
  | r :: rs =>
    let x : BlockState := { x with fired := r.count }
    if opc = 0x60 then ({ x with vals := x.vals.map (fun kv => (kv.1, (Val.data (BitVec.ofNat 64 r.payload), kv.2.2))) }, rs)
    else
      let vs := Sys2Proof.Machine.refill (if opc = 0x66 then [] else x.vals.map (fun kv => some kv.2.1)) rs
      let vals := if opc = 0x66 then x.vals
        else x.vals.zipIdx.map (fun kv => (kv.1.1, (((vs.1[kv.2]?).join).getD kv.1.2.1, kv.1.2.2)))
      let fs := refillEach (fun _ => true) Firing.refill x.waiting vs.2
      ({ x with vals := vals, waiting := fs.1 }, fs.2)

/-- What one lane has brought to a group. -/
def LaneIn.refill (x : Nat × LaneIn) (rs : List TokRec) : (Nat × LaneIn) × List TokRec :=
  match x.2, rs with
  | .active _ _, r :: q :: rs => ((x.1, .active r.val q.val), rs)
  | .inactive, _ :: rs => (x, rs)
  | .predError e, r :: rs => ((x.1, .predError (match r.val with | .err k => k | _ => e)), rs)
  | _, rs => (x, rs)

/-- What the lanes of a group have brought. -/
def Group.refill (x : Group) (rs : List TokRec) : Group × List TokRec :=
  let l := refillEach (fun _ => true) LaneIn.refill x.lanes rs
  ({ x with lanes := l.1 }, l.2)

/-- A token at a feed of the island. -/
def FeedTok.refill (x : FeedTok) : List TokRec → FeedTok × List TokRec
  | [] => (x, [])
  | r :: rs => ({ x with tag := r.tag, iter := r.count, val := r.val }, rs)

/-- A `merge.first` pair. -/
def MergeState.refill (x : MergeState) : List TokRec → MergeState × List TokRec
  | [] => (x, [])
  | r :: rs => ({ x with tag := r.tag }, rs)

/-- A waiting instance. -/
def Parked.refill (x : Parked) (rs : List TokRec) : Parked × List TokRec :=
  let f := x.f.refill rs
  ({ x with f := f.1 }, f.2)

/-- A control token of the island that is still on its way. -/
def MxCtl.refill (x : MxCtl) (rs : List TokRec) : MxCtl × List TokRec :=
  let f := x.f.refill rs
  ({ x with f := f.1 }, f.2)

/-- A staged live-value write. -/
def Staged.refill (x : Staged) : List TokRec → Staged × List TokRec
  | [] => (x, [])
  | r :: rs => ({ x with
      lv := r.elem, slot := r.slot, outT := r.tag.out.toNat, innT := r.tag.inn.toNat
      val := ⟨decide (r.kind = 2), BitVec.ofNat 64 r.payload, x.val.mark || r.poison⟩ }, rs)

/-- The staged writes of a thread. -/
def stagedRefill (x : Nat × Thread) (rs : List TokRec) : (Nat × Thread) × List TokRec :=
  let l := refillEach (fun _ => true) Staged.refill x.2.staged rs
  ((x.1, { x.2 with staged := l.1 }), l.2)

/-- A header row of 32 bytes. -/
def LoopInst.ofRow (i : LoopInst) (bs : List Byte) : LoopInst :=
  let flags := numAt bs 6 1
  let t := numAt bs 12 4
  let w := numAt bs 7 1
  let closed := (List.range w).filter (fun j => decide (j < t) && !natBit (numAt bs 16 8) j)
  { i with
    elem := numAt bs 0 1, slot := numAt bs 1 1, thread := numAt bs 2 2, out := BitVec.ofNat 6 (numAt bs 4 1)
    level := numAt bs 5 1, window := w, n := numAt bs 8 4, t := t
    stop := natBit flags 0, finished := natBit flags 1
    carried := if natBit flags 2 then some (Val.ofKind (natBits flags 4 3) (numAt bs 24 8)) else none
    tails := i.tails.filter (fun k => decide (k + w < t)) ++ closed.map (fun j => t - 1 - j) }

/-- A held operation or stream copy goes on from its cursor: a generator keeps its base, and another operation stands at its addresses. -/
def Transfer.ofEng (x : Transfer) (bs : List Byte) : Transfer :=
  let cursor := numAt bs 12 8
  { x with
    poison := numAt bs 6 1 == 1, port := numAt bs 7 1, chan := if numAt bs 8 1 = 0xFF then none else some (numAt bs 8 1)
    port2 := numAt bs 9 1, mask := numAt bs 10 2, cursor := cursor, bytes := cursor + numAt bs 20 8
    src := if x.ag.isSome then x.src else numAt bs 28 8 - cursor
    dst := if x.ag.isSome then x.dst else numAt bs 36 8 - cursor }

/-- A held access whose thread has left the load. -/
def Firing.ofEng (f : Firing) (bs : List Byte) : Firing :=
  { f with kept := f.kept.map (fun (x : Kept) => { x with word := BitVec.ofNat 128 (numAt bs 16 16), g := numAt bs 32 8 }) }

/-- An expansion context as its entry in the XPD section gives it back (R224): each lane's start and length, each owner's partial result for
the items that it has taken in order, and the early items. -/
def Core.xpdRead (c : Core) (x : XCtx) (bs : List Byte) : XCtx :=
  let seq := c.inSeq x
  let lanes := 64
  let owners := lanes + 16 * x.n
  let early := owners + 16 * x.n
  let part := fun (i : Nat) =>
    let o := owners + 16 * i
    let flags := numAt bs (o + 12) 4
    (Val.ofKind (natBits flags 2 1) (numAt bs o 8), numAt bs (o + 8) 4, natBit flags 0)
  let item := fun (k : Nat) =>
    let o := early + 16 * k
    let flags := numAt bs (o + 12) 4
    let f := numAt bs o 4
    XItem.mk f (x.ownerOf f) (if natBits flags 1 0 = 1 then none else some (Val.ofKind (natBits flags 1 0) (numAt bs (o + 4) 8)))
      (natBit flags 2)
  let taken := x.items.filter (fun (y : XItem) => decide (y.f < prefixOf x.lens y.owner + x.inOrder seq y.owner))
  { x with
    starts := (List.range x.n).map (fun i => numAt bs (lanes + 16 * i) 8)
    lens := (List.range x.n).map (fun i => numAt bs (lanes + 16 * i + 8) 4)
    items := taken.map (fun (y : XItem) => { y with val := none, bad := false }) ++
      (List.range (x.early seq).length).map item
    part := (List.range x.n).foldl (fun (m : Table (Val × Nat × Bool)) i =>
      let v := part i
      if v.2.1 = 0 ∧ v.2.2 = false then m.del i else m.put i v) x.part }

/-- The tiles of the residue other than BUF tiles: the tokens of a FIFO tile, and the stored payloads and count of a LINE tile. -/
def Core.tileRead (c : Core) (t : Nat) (l : List (Byte × Bool)) : Core :=
  match ((c.load.roles[t]?).map TileRole.role).getD .off with
  | .fifo =>
    let recs := (List.range (c.flights.countP (fun (x : Flight) => c.tileOf x == some t))).map (fun i =>
      TokRec.of ((l.drop (16 * i)).take 16))
    { c with flights := (refillEach (fun (x : Flight) => c.tileOf x == some t) Flight.refill c.flights recs).1 }
  | .line =>
    let old := (c.lines.look t).getD ⟨0, []⟩
    let bs := l.map (fun b => b.1)
    let stored := fun (vi : Val × Nat) =>
      if ((l.drop (8 * vi.2)).take 8).any (fun b => b.2) then Val.err .poison
      else Val.ofKind vi.1.kind (numAt bs (8 * vi.2) 8)
    { c with lines := c.lines.put t ⟨numAt bs (Config.tileBytes + 8) 8, old.vals.zipIdx.map stored⟩ }
  | _ => c

/-- Bytes cut into pieces of given lengths. -/
def cut {α : Type} : List Nat → List α → List (List α)
  | [], _ => []
  | n :: ns, l => l.take n :: cut ns (l.drop n)

/-- Bytes cut into pieces of n. -/
def pieces {α : Type} (n count : Nat) (l : List α) : List (List α) := cut (List.replicate count n) l

/-- The token records of a residue (R387), in the order in which `SaveView.residueBytes` lays them out. -/
def SaveView.refill (v : SaveView) (rs : List TokRec) : SaveView :=
  let c := v.c
  let slots := v.slots
  let mine := fun (t : Tag) => slots.contains t.slot.toNat
  let block := fun (x : BlockState) => x.refill ((c.load.opc (16 * x.elem + x.slot)).getD 0)
  let pendings := refillEach (fun (x : Pending) => mine x.tag) Pending.refill c.pendings rs
  let headers := refillEach (fun (x : Pending) => mine x.tag) Pending.refill c.headers pendings.2
  let flights := refillEach (fun (x : Flight) => mine x.tag && (c.tileOf x).isNone) Flight.refill c.flights headers.2
  let blocks := refillEach (fun (x : BlockState) => mine x.tag) block c.blocks flights.2
  let groups := refillEach (fun (g : Group) => v.spans.any (fun (p : Span) => p.id == g.span)) Group.refill c.groups blocks.2
  let feeds := refillEach (fun (x : FeedTok) => mine x.tag) FeedTok.refill c.feeds groups.2
  let merges := refillEach (fun (x : MergeState) => mine x.tag) MergeState.refill c.merges feeds.2
  let parked := refillEach (fun (p : Parked) => slots.contains p.f.thread) Parked.refill c.parked merges.2
  let mxSent := refillEach (fun (m : MxCtl) => slots.contains m.f.thread) MxCtl.refill c.mxSent parked.2
  let held := refillEach (fun (f : Firing) => !f.mute) Firing.refill v.held mxSent.2
  let threads := refillEach (fun _ => true) stagedRefill v.threads held.2
  { v with
    c := { c with
      pendings := pendings.1, headers := headers.1, flights := flights.1, blocks := blocks.1, groups := groups.1
      feeds := feeds.1, merges := merges.1, parked := parked.1, mxSent := mxSent.1 }
    held := held.1, threads := threads.1 }

/-- The residue as it reads: tiles, header rows, token records. -/
def SaveView.resRead (v : SaveView) (l : List (Byte × Bool)) : SaveView :=
  let tiles := v.c.resTiles
  let size := Config.tileBytes + 16
  let mine := fun (i : LoopInst) => v.slots.contains i.thread
  let rows := pieces 32 (v.c.loops.countP mine) (l.drop (size * tiles.length))
  let toks := l.drop (size * tiles.length + 32 * v.c.loops.countP mine)
  let c := (tiles.zip (pieces size tiles.length l)).foldl (fun (c : Core) tb => c.tileRead tb.1 tb.2) v.c
  let nth := fun (i : Nat) => ((c.loops.take i).countP mine)
  let c := { c with loops := c.loops.zipIdx.map (fun (ik : LoopInst × Nat) =>
    if mine ik.1 then ik.1.ofRow (((rows[nth ik.2]?).getD []).map (fun b => b.1)) else ik.1) }
  ({ v with c := c } : SaveView).refill ((pieces 16 (toks.length / 16) toks).map TokRec.of)

/-- The ENG section as it reads: held operations and stream copies, held accesses, stream buffers, channel counts. -/
def SaveView.engRead (v : SaveView) (l : List (Byte × Bool)) : SaveView :=
  let bytes := fun (x : List (Byte × Bool)) => x.map (fun b => b.1)
  let nT := v.transfers.length
  let mutes := v.held.countP (fun f => f.mute)
  let bufs := v.c.ports.countP (fun q => !q.2.buf.isEmpty)
  let nthMute := fun (i : Nat) => (v.held.take i).countP (fun f => f.mute)
  let nthBuf := fun (i : Nat) => (v.c.ports.take i).countP (fun q => !q.2.buf.isEmpty)
  let at_ := fun (off : Nat) => l.drop off
  let o1 := 64 * nT
  let o2 := o1 + 64 * mutes
  let o3 := o2 + 4096 * bufs
  { v with
    transfers := v.transfers.zipIdx.map (fun xi => xi.1.ofEng (bytes ((at_ (64 * xi.2)).take 64)))
    held := v.held.zipIdx.map (fun fi =>
      if fi.1.mute then fi.1.ofEng (bytes ((at_ (o1 + 64 * nthMute fi.2)).take 64)) else fi.1)
    c := { v.c with
      ports := v.c.ports.zipIdx.map (fun qi =>
        if qi.1.2.buf.isEmpty then qi.1
        else (qi.1.1, { qi.1.2 with buf := (at_ (o2 + 4096 * nthBuf qi.2)).take qi.1.2.buf.length }))
      chans := v.c.chans.zipIdx.map (fun ki =>
        (ki.1.1, { ki.1.2 with count := numAt (bytes ((at_ (o3 + 8 * ki.2)).take 8)) 0 8 })) } }

/-- The XPD section as it reads. -/
def SaveView.xpdRead (v : SaveView) (bs : List Byte) : SaveView :=
  let mine := fun (x : XCtx) => v.spans.any (fun (p : Span) => p.id == x.span)
  let xs := cut ((v.c.xctxs.filter mine).map (fun x => (v.c.xpdBytes x).length)) bs
  let nth := fun (i : Nat) => (v.c.xctxs.take i).countP mine
  { v with c := { v.c with xctxs := v.c.xctxs.zipIdx.map (fun xi =>
      if mine xi.1 then v.c.xpdRead xi.1 ((xs[nth xi.2]?).getD []) else xi.1) } }

/-- What a restore reads of a save area: the entries of its threads with the marks of their bytes, the wait rows, the entries of its parts and
scratchpads, the BUF tiles of the residue, and what the other sections hold. -/
structure AreaImage where
  thr : List (List Byte × List Bool)
  wait : List (List Byte)
  part : List (List Byte)
  spad : List (List Byte)
  bufs : List (Nat × List Byte)
  view : SaveView
  deriving DecidableEq, Repr

/-- A waiting thread waits at the entry whose row holds its slot (R385). -/
def Thread.waitsAt (t : Thread) (slot : Nat) (rows : List (List Byte)) : Thread :=
  if t.state = .waiting then
    match rows.findIdx? (fun r => natBit (numAt r (slot / 8) 1) (slot % 8)) with
    | some e => { t with next := BitVec.ofNat 7 e }
    | none => t
  else t

/-- BUF tiles of the active load. -/
def Core.bufTiles (c : Core) : List Nat := c.load.tilesOf .buf

/-- What a save area held when it was written. -/
def SaveView.image (v : SaveView) : AreaImage where
  thr := v.threads.map (fun kt => (kt.2.entryBytes kt.1 v.live, []))
  wait := (List.range v.entries).map (waitBytes v.threads)
  part := v.parts.map v.c.partBytes
  spad := v.kerns.map v.c.spadBytesOf
  bufs := v.c.bufTiles.map (fun t => (t, v.c.tileBytesOf t))
  view := v

/-- What a save area holds, from its bytes and their marks: the section offsets stand in its header. How many entries there are, and what no
byte holds, is as it was saved (log 26). -/
def SaveView.read (v : SaveView) (l : List (Byte × Bool)) : AreaImage :=
  let bs := l.map (fun b => b.1)
  let old := v.image
  let marked := fun (off : Nat) => l.drop (numAt bs off 4)
  let section_ := fun (off : Nat) => bs.drop (numAt bs off 4)
  let size := old.thr.map (fun x => x.1.length)
  let tiles := v.c.resTiles
  let view := (v.xpdRead (section_ 0x20)).engRead (marked 0x24)
  { thr := (cut size (section_ 0x10)).zip (cut size ((marked 0x10).map (fun b => b.2)))
    wait := pieces 1024 v.entries (section_ 0x14)
    part := cut (old.part.map List.length) (section_ 0x18)
    spad := cut (old.spad.map List.length) (section_ 0x1C)
    bufs := (tiles.zip (pieces (Config.tileBytes + 16) tiles.length (section_ 0x28))).filter (fun x => v.c.bufTiles.contains x.1)
    view := if v.suspended then view.resRead (marked 0x28) else view }

/-! ### Memory of the save area -/

/-- The pages of n bytes at a core's global virtual address can be reached: an absent page holds the pre-emption or the restore of a launch
(R371), and a translation may be outstanding (R377). -/
def State.areaOpen (s : State) (k : Nat) (l : Launch) (wr : Bool) : Nat → Nat → Nat → State × Bool
  | 0, _, _ => (s, true)
  | fuel + 1, va, n =>
    let m := min n (4096 - va % 4096)
    let i := HeldItem.packet (doneKey l.queue l.index)
    let kind := if wr then AccessKind.engineWrite else .engineRead
    if m = 0 then (s, true)
    else match s.translate k l.ctx va (!wr) wr with
      | (s, .absent d) =>
        (s.hold (dieOf k) l.ctx va i { s.blankRec 0x10 1 kind d with
          held := true, core := some k, launch := l.id, va := some va, ctx := some l.ctx }, false)
      | (s, .ats) => (s.atsWait (dieOf k) l.ctx va i, false)
      | (s, _) => s.areaOpen k l wr fuel (va + m) (n - m)

/-- Bytes that a core writes at a global virtual address, page by page; a page that refuses leaves its bytes unwritten (log 26). -/
def State.coreWrites (s : State) (k ctx : Nat) : Nat → Nat → List Byte → State
  | 0, _, _ => s
  | fuel + 1, va, bs =>
    let m := min bs.length (4096 - va % 4096)
    if m = 0 then s
    else
      let s := match s.translate k ctx va false true with
        | (s, .page e) => s.writePlace .engineWrite (dieOf k) 0 0 (e.place va) (bs.take m)
        | (s, _) => s
      s.coreWrites k ctx fuel (va + m) (bs.drop m)

/-- Bytes that a core reads at a global virtual address, in units of at most 8 bytes within a page, each with its mark; none if a page
refuses. -/
def State.coreReads (s : State) (k ctx : Nat) : Nat → Nat → Nat → State × Option (List (Byte × Bool))
  | 0, _, _ => (s, some [])
  | fuel + 1, va, n =>
    let m := min n (8 - va % 8)
    if m = 0 then (s, some [])
    else match s.translate k ctx va true false with
      | (s, .page e) =>
        match s.readPlace .engineRead (dieOf k) 0 0 (e.place va) m with
        | (s, v, poison) =>
          match s.coreReads k ctx fuel (va + m) (n - m) with
          | (s, some l) => (s, some ((bytesLE m v).map (fun b => (b, poison)) ++ l))
          | (s, none) => (s, none)
      | (s, _) => (s, none)

end Sys2Proof.Machine
end

