-- ==== Sys2Proof/Machine/Preempt.lean ====
section
/-! DEFINITION. Pre-emption at the three depths and restore (spec 13 R383 to R389; 07 R224; 12 R359, R360; 14 R404, R406). -/

namespace Sys2Proof.Machine

/-! ### What a launch holds on a core -/

/-- Cores that hold parts of a launch, ascending. -/
def State.coresOf (s : State) (launch : Nat) : List Nat :=
  (s.cores.filter (fun kc => kc.2.holdsLaunch launch)).map (fun kc => kc.1)

/-- Thread slots that the parts of a launch hold on a core. -/
def Core.slotsOf (c : Core) (launch : Nat) : List Nat :=
  (c.parts.filter (fun (p : Part) => p.launch == launch)).flatMap (fun (p : Part) => p.slots)

/-- A firing belongs to some slots of a core. -/
def Firing.within (f : Firing) (k : Nat) (slots : List Nat) : Bool := f.core == k && slots.contains f.thread

/-- A held access belongs to a launch on a core. -/
def State.heldBy (s : State) (k launch : Nat) (i : HeldItem) : Bool :=
  match i with
  | .firing f => f.within k ((s.core k).slotsOf launch)
  | .transfer c id => c == k && (s.core k).transfers.any (fun (x : Transfer) =>
      x.id == id && x.launch == launch && x.queue.isNone)
  | _ => false

/-! ### The drain (R384) -/

/-- A transfer is at rest: held, or a stream copy that can advance only when a thread fires. -/
def Core.restsTransfer (c : Core) (x : Transfer) : Bool :=
  !c.transferDone x && (x.held || decide (x.bytes ≤ x.cursor) ||
    (match x.op with
     | .cpyms => !c.headAt x.port x.id || decide (4096 < (c.port x.port).buf.length + x.unit)
     | .cpysm => !c.headAt x.port x.id || ((c.port x.port).closing.isNone && decide ((c.port x.port).buf.length < x.unit))
     | .cpyss => !c.headAt x.port x.id || !c.headAt x.port2 x.id || ((c.port x.port).closing != some 0 &&
         ((c.port x.port).buf.isEmpty || decide (4096 ≤ (c.port x.port2).buf.length)))
     | _ => false))

/-- A core has drained for a launch (R384 step 2): a token that its slot has no place for is at rest in its channel. -/
def State.drainedFor (s : State) (k launch : Nat) : Bool :=
  let c := s.core k
  let slots := c.slotsOf launch
  let mine := fun (f : Firing) => slots.contains f.thread
  let spans := (c.spans.filter (fun (p : Span) => p.members.any (fun t => slots.contains t))).map (fun (p : Span) => p.id)
  !(s.ready ++ s.issued).any (fun f => f.within k slots) && !s.retries.any (s.heldBy k launch) &&
    !c.flights.zipIdx.any (fun x => slots.contains x.1.tag.slot.toNat && c.firstOfEdge x.2 x.1 && (s.tokenArrives k x.1).isSome) &&
    !c.groups.any (fun (g : Group) => spans.contains g.span && s.groupReady k g) && !c.rq.any mine && !(s.tileReqsOf k).any (fun (r : TileReq) => mine r.f) &&
    !c.misses.any (fun (m : L1Miss) => mine m.f) && !c.mxQueue.any (fun (m : MxCtl) => mine m.f) &&
    !c.parked.any (fun (p : Parked) => mine p.f && (s.canReturn p || p.why == .ticket)) &&
    slots.all (fun t => (c.thread t).state != .faulted && !(c.thread t).aborted) &&
    !s.ats.any (fun (r : AtsReq) => r.items.any (s.heldBy k launch)) &&
    (c.transfers.filter (fun (x : Transfer) => x.launch == launch && x.queue.isNone)).all c.restsTransfer

/-! ### Saving (R384 step 4) -/

/-- What a core holds of a launch, as a save area lays it out. -/
def State.saveView (s : State) (k launch : Nat) : SaveView :=
  let c := s.core k
  let slots := (c.slotsOf launch).foldl insertNat []
  let parts := c.parts.filter (fun (p : Part) => p.launch == launch)
  { c := c, parts := parts, kerns := parts.map (fun (p : Part) => s.kernel p.kernel)
    threads := slots.map (fun t => (t, c.thread t))
    held := s.heldItems.filterMap (fun i => match i with
      | .firing f => if f.within k slots then some f else none
      | _ => none)
    transfers := c.transfers.filter (fun (x : Transfer) => x.launch == launch && x.queue.isNone) }

/-- Address of the save area of a launch's core of rank r (R385). -/
def Launch.saveArea (l : Launch) (r : Nat) : Nat := l.saveBase + 2 ^ 24 * r

/-- A part gives its resources back without retiring. -/
def Core.leavePart (c : Core) (p : Part) : Core :=
  let c := { c with
    parts := c.parts.filter (fun (q : Part) => !(q.launch == p.launch && q.wgid == p.wgid && q.index == p.index))
    accFree := p.bound.foldl insertNat c.accFree }
  (c.setAdmitted (c.admitted - p.units)).dropRows p.kernel

/-- The transfers of a launch leave a core; a port whose queue they empty is CLOSED. -/
def Core.leaveTransfers (c : Core) (launch : Nat) : Core :=
  let gone := (c.transfers.filter (fun (x : Transfer) => x.launch == launch && x.queue.isNone)).map (fun (x : Transfer) => x.id)
  { c with
    transfers := c.transfers.filter (fun (x : Transfer) => !gone.contains x.id)
    ports := c.ports.map (fun (nq : Nat × Port) =>
      let rest := nq.2.queue.filter (fun i => !gone.contains i)
      if rest.length = nq.2.queue.length then nq
      else if rest.isEmpty then (nq.1, { nq.2 with queue := [], state := .closed, buf := [], closing := none })
      else (nq.1, { nq.2 with queue := rest })) }

/-- A core saves what it holds of a launch and releases it; r is its rank (R384, R385). -/
def State.saveCore (s : State) (l : Launch) (k r : Nat) : State :=
  let v := s.saveView k l.id
  let slots := v.slots
  let parts := v.parts
  let streams := v.transfers.any (fun (x : Transfer) => x.op == .cpyms || x.op == .cpysm || x.op == .cpyss)
  let at_ := l.saveArea r
  let bs := v.bytes k l.id s.time
  let s := s.coreWrites k l.ctx (bs.length / 4096 + 2) at_ bs
  let saved : Saved := ⟨l.id, k, parts, v.threads, { v.c with rq := v.held }, streams || v.suspended, []⟩
  let s := { s with saved := s.saved ++ [saved] }
  let s := s.dropHeld (s.heldBy k l.id)
  let s := s.onCore k (fun (c : Core) =>
    let c := slots.foldl (fun (c : Core) t => (c.dropTokens k t).onThread t (fun _ => Thread.free)) c
    let c := { c with mxSent := c.mxSent.filter (fun (m : MxCtl) => !slots.contains m.f.thread) }
    (parts.foldl Core.leavePart (c.leaveTransfers l.id)).dropSpans)
  if s.assisted 3 then s.raiseEvent 12 k (BitVec.ofNat 64 at_) l.id else s

/-- The archive entry of a pre-emption (R422): depth and NEXTWG; the unit is the queue (log 26). -/
def State.archivePreempt (s : State) (l : Launch) (depth : Nat) : State :=
  s.archivePost 2 0 l.queue l.id (bytesLE 1 depth ++ [0, 0, 0] ++ bytesLE 4 (l.nextWg % 2 ^ 32))

/-! ### Requests (R406) -/

/-- Depth at which a launch is pre-empted (R406): its queue's PDEPTH, and a load boundary only with a save area. -/
def State.depthOf (s : State) (l : Launch) : Nat :=
  let d := (s.queue l.queue).pdepth
  if d = 2 ∧ l.saveBase = 0 then 1 else d

/-- A launch or graph completes now: completion wins (R389, R360, R407). -/
def State.completing (s : State) (l : Launch) : Bool :=
  (s.outcome l).isSome || ((s.graph? l.id).map Graph.over).getD false

/-- A launch is asked to stop at a depth (R383, R359): at a launch boundary the dispatch of its queue's next launch stops, and it runs to
completion. -/
def State.askStop (s : State) (l : Launch) (depth : Nat) : State :=
  let waits := l.graph && !((s.graph? l.id).map Graph.started).getD false
  if depth = 0 then s.onQueue l.queue (fun (x : Queue) => { x with halted := true })
  else if l.stopped ∨ l.status.isSome ∨ waits ∨ s.completing l then s
  else
    let s := s.onLaunch l.id (fun (l : Launch) => { l with stopped := true, preempt := depth })
    let s := if l.graph then { s with stopAsked := some s.time } else s
    s.onGraph l.id (fun (g : Graph) => { g with stopped := true })

/-- The running launches of a queue are asked to stop at its depth. -/
def State.askQueue (s : State) (q : Nat) : State :=
  (s.launches.filter (fun (l : Launch) => l.queue == q)).foldl (fun s l => s.askStop l (s.depthOf l)) s

/-- Highest priority of a launch with a workgroup that no arbiter can admit (R406). -/
def State.starvedPrio (s : State) : Option Nat :=
  ((s.launches.filter (fun (l : Launch) => s.dispatchable l && !(List.range 40).any (fun cl => (s.placeIn l cl).isSome))).map
    (fun (l : Launch) => (s.queue l.queue).prio)).foldl (fun m p => some (max p (m.getD 0))) none

/-- Launches that a starved one of higher priority pre-empts: the running ones of the lowest priority (R406). -/
def State.victims (s : State) : List Launch :=
  match s.starvedPrio with
  | none => []
  | some p =>
    let run := s.launches.filter (fun (l : Launch) => l.status.isNone && (l.begun || ((s.graph? l.id).map Graph.started).getD false) &&
      decide ((s.queue l.queue).prio < p) && (!l.stopped || l.preempt != 0))
    let low := run.foldl (fun m (l : Launch) => min m (s.queue l.queue).prio) p
    run.filter (fun (l : Launch) => (s.queue l.queue).prio == low)

/-- A stopped launch may go on: its queue holds the turn, or has left the rotation, and no launch of higher priority is starved (log
26). -/
def State.mayRun (s : State) (l : Launch) : Bool :=
  ((s.queue l.queue).turnSince.isSome || !s.rotation.contains l.queue) &&
    (match s.starvedPrio with
     | some p => decide (p ≤ (s.queue l.queue).prio)
     | none => true)

/-- The turn of a queue has ended, and another queue of its priority waits (R406). -/
def State.quantumOver (s : State) (queue : Nat) : Bool :=
  let x := s.queue queue
  let us := natBits x.quantum.toNat 31 0
  us != 0 && s.rotation.any (fun q => q != queue && (s.queue q).prio == x.prio) &&
    x.turnSince.elim false (fun t0 => decide (t0 + microsecond * us ≤ s.time))

/-- QUANTUM_EXPIRY (R406, R407). -/
def execQuantumExpiry (queue : Nat) (s : State) : Host.Outcome State Fault Refusal :=
  if !s.quantumOver queue then .next s
  else
    let s := s.onQueue queue (fun (x : Queue) => { x with turnSince := none })
    let s := ({ s with rotation := s.rotation.filter (fun q => q != queue) ++ [queue] } : State).rotate
    .next (s.askQueue queue)

/-! ### The launcher's ticks (R350, R360) -/

/-- A graph is to be pre-empted in this cycle (R360). -/
def State.stopDue (s : State) (id : Nat) : Bool :=
  match s.launch? id with
  | none => false
  | some l => s.depthOf l != 0 && !s.completing l && (s.quantumOver l.queue || s.victims.any (fun (v : Launch) => v.id == id))

/-- The pre-emption of a graph falls in this cycle: it is taken first, and a tick launches nothing (R360). -/
def State.stopsNow (s : State) : Bool := s.stopAsked == some s.time || s.graphs.any (fun (g : Graph) => s.stopDue g.launch)

/-- LAUNCHER_TICK (R350): the tick of the last timestamp that is a multiple of 16, once. -/
def execLauncherTick (die : Nat) (s : State) : Host.Outcome State Fault Refusal :=
  let tick := s.time / 16 * 16
  if 8 ≤ die ∨ tick ≤ (s.lastTick.look die).getD 0 then .next s
  else
    let order := if s.stopsNow then [] else s.launchOrder die
    .next (({ s with lastTick := s.lastTick.put die tick } : State).launchFirst die tick order)

/-- LAUNCH_PREEMPT (R383): dispatch of the queue's next launch stops for a starved launch of higher priority. -/
def execLaunchPreempt (queue : Nat) (s : State) : Host.Outcome State Fault Refusal :=
  if s.victims.any (fun (l : Launch) => l.queue == queue && s.depthOf l == 0) then .next (s.askQueue queue) else .next s

/-! ### Workgroup boundary (R383, R359) -/

/-- A place n bytes further on. -/
def Place.plus (p : Place) (o : Nat) : Place :=
  match p with
  | .dev a => .dev (a + o)
  | .host a => .host (a + o)
  | .remote d a => .remote d (a + o)
  | .spad k a => .spad k (a + o)

/-- The next `%wgid` is written to the launch record (R383); a page that is absent keeps it waiting. -/
def State.writeNextWg (s : State) (l : Launch) : State × Bool :=
  if s.keyHeld (doneKey l.queue l.index) then (s, false)
  else match s.hubPlace l.recCtx l.recVa false true (.packet (doneKey l.queue l.index)) with
    | (s, .error .wait) => (s, false)
    | (s, .error e) => (s.packetStop l.queue l.index e, true)
    | (s, .ok p) => (s.hubWrite (p.plus 0x50) (bytesLE 4 (l.nextWg % 2 ^ 32)), true)

/-- A pre-emption has ended. -/
def State.preempted (s : State) (l : Launch) (depth : Nat) : State :=
  (s.onLaunch l.id (fun (l : Launch) => { l with preempt := 0 })).archivePreempt l depth

/-- WORKGROUP_PREEMPT (R383, R406): the request for a launch that a starved one pre-empts, and, once every admitted workgroup has
retired, its end. -/
def execWorkgroupPreempt (launch : Nat) (s : State) : Host.Outcome State Fault Refusal :=
  match s.launch? launch with
  | none => .next s
  | some l =>
    if l.graph ∨ s.completing l then .next s
    else if l.preempt = 1 then
      if !l.running.isEmpty then .next s
      else match s.writeNextWg l with
        | (s, true) => .next (s.preempted l 1).settle
        | (s, false) => .next s.settle
    else if !l.stopped ∧ s.depthOf l = 1 ∧ s.victims.any (fun (v : Launch) => v.id == launch) then .next (s.askStop l 1)
    else .next s

/-! ### Load boundary (R384) -/

/-- The save areas of a launch can be written (R371, R384): an absent page holds the saving. -/
def State.areasOpen (s : State) (l : Launch) : State × Bool :=
  if s.keyHeld (doneKey l.queue l.index) then (s, false)
  else ((s.coresOf l.id).zipIdx).foldl (fun (x : State × Bool) kr =>
    if !x.2 then x
    else
      let n := ((x.1.saveView kr.1 l.id).bytes kr.1 l.id x.1.time).length
      x.1.areaOpen kr.1 l true (n / 4096 + 2) (l.saveArea kr.2) n) (s, true)

/-- Every core has saved its part of a launch. -/
def State.saveAll (s : State) (l : Launch) : State :=
  ((s.coresOf l.id).zipIdx).foldl (fun s kr => s.saveCore l kr.1 kr.2) s

/-- LOAD_PREEMPT (R384, R389): the request, and, once every core that holds a part has drained, the saving. A launch whose
workgroups have all retired meanwhile has nothing to save. -/
def execLoadPreempt (launch : Nat) (s : State) : Host.Outcome State Fault Refusal :=
  match s.launch? launch with
  | none => .next s
  | some l =>
    if l.graph ∨ s.completing l then .next s
    else if l.preempt = 2 then
      if !(s.coresOf launch).all (fun k => s.drainedFor k launch) then .next s
      else match s.areasOpen l with
        | (s, true) => .next ((s.saveAll l).preempted l 2).settle
        | (s, false) => .next s.settle
    else if !l.stopped ∧ s.depthOf l = 2 ∧ s.victims.any (fun (v : Launch) => v.id == launch) then .next (s.askStop l 2)
    else .next s

/-! ### Graphs (R359, R360) -/

/-- GRAPH_PREEMPT (R359, R360): the request, and then, once the running groups have retired or have been saved, the end: statistics
blocks, and the reserve admissions given back. At a launch boundary the graph runs to completion. -/
def execGraphPreempt (launch : Nat) (depth : PreemptDepth) (s : State) : Host.Outcome State Fault Refusal :=
  let d := match depth with | .launch => 0 | .workgroup => 1 | .load => 2
  match s.launch? launch, s.graph? launch with
  | some l, some g =>
    if s.completing l ∨ l.status.isSome ∨ !g.started ∨ d = 0 then .next s
    else if l.preempt = d then
      let done := if d = 1 then g.runningGroups == 0 else (s.coresOf launch).all (fun k => s.drainedFor k launch)
      let open_ := if done && d == 2 then s.areasOpen l else (s, true)
      let s := open_.1
      if !done || !open_.2 then .next s.settle
      else
        let s := if d = 2 then s.saveAll l else s
        let s := s.onGraph launch (fun (g : Graph) => { g with waiters := [], savedAt := s.time })
        let s := ((s.writeStats l g).freeReserves launch).preempted l d
        .next s.settle
    else if !l.stopped ∧ s.depthOf l = d ∧ s.victims.any (fun (v : Launch) => v.id == launch) then .next (s.askStop l d)
    else .next s
  | _, _ => .next s

/-! ### Restore (R388, R359) -/

/-- A part's handles are bound to fresh slots, which take the saved contents. -/
def Core.rebind (c : Core) (p : Part) : List (Handle × Nat × List Byte) → Option Core
  | [] => some c
  | (h, n, bs) :: rest =>
    if h = .unbound then c.rebind p rest
    else match c.bindHandle p (8 * h.elemBytes) with
      | none => none
      | some (c, fresh) => ((c.bindPart p n fresh).fillHandle fresh bs).rebind p rest

/-- The handles of a part's entry in the PART section, in ascending number, with the bytes of each. -/
def Part.entryHandles (p : Part) (bs : List Byte) : List (Handle × Nat × List Byte) :=
  let hs := (List.range 256).map p.handleAt
  let size := hs.map (fun (h : Handle) => if h = .unbound then 0 else 256 * h.elemBytes + 32)
  (hs.zip ((List.range 256).zip (cut size (bs.drop 520))))

/-- A part is admitted again on its core (R388 steps 1, 3 and 4), if the core can take it: its handles and its scratchpad take what the save
area holds of them. -/
def State.restorePart (s : State) (k : Nat) (p : Part) (part spad : List Byte) : Option State :=
  let kern := s.kernel p.kernel
  if !s.fits k kern p.count ∨ p.slots.any (fun t => (s.thread k t).state != .free) then none
  else
    let c := s.takeRows k kern
    let q := { p with handles := [] }
    let c := { c with parts := c.parts ++ [q] }
    let c := (c.setAdmitted (c.admitted + p.units)).clearTiles kern.heldTiles
    ((c.fillSpad kern spad).rebind q (p.entryHandles part)).map (fun c => s.setCore k c)

/-- The parts of a saved core are admitted again, one after another. -/
def State.restoreParts (s : State) (k : Nat) : List (Part × List Byte × List Byte) → Option State
  | [] => some s
  | (p, part, spad) :: rest => (s.restorePart k p part spad).bind (fun s => s.restoreParts k rest)

/-- Saved parts whose workgroups have not been aborted since. -/
def Saved.partsLeft (sv : Saved) : List Part := sv.parts.filter (fun (p : Part) => !sv.gone.contains p.wgid)

/-- The core as a save area gives it back, without what has been aborted since. -/
def Saved.coreLeft (sv : Saved) (area : SaveView) : Core :=
  { area.c with
    rq := area.held.filter (fun f => !sv.gone.contains (sv.image.thread f.thread).wgid)
    transfers := area.transfers.filter (fun (x : Transfer) => !sv.gone.contains x.wgid) }

/-- The view of what a core saved of a launch. -/
def State.savedView (s : State) (sv : Saved) : SaveView where
  c := sv.image
  parts := sv.parts
  kerns := sv.parts.map (fun (p : Part) => s.kernel p.kernel)
  threads := sv.threads
  held := sv.image.rq
  transfers := sv.image.transfers.filter (fun (x : Transfer) => x.launch == sv.launch && x.queue.isNone)

/-- What the save area of rank r holds of a core of a launch: an absent page holds the restore, and where a page refuses the model's copy
stands (log 26). -/
def State.readSaved (s : State) (l : Launch) (sv : Saved) (r : Nat) : State × Option AreaImage :=
  let v := s.savedView sv
  let n := (v.bytes sv.core l.id 0).length
  match s.areaOpen sv.core l false (n / 4096 + 2) (l.saveArea r) n with
  | (s, false) => (s, none)
  | (s, true) =>
    match s.coreReads sv.core l.ctx (n + 1) (l.saveArea r) n with
    | (s, some bs) => (s, some (v.read bs))
    | (s, none) => (s, some v.image)

/-- A core can take a residue: no thread is in its active load, which is not pinned, and no switch or decode is under way. -/
def State.canResidue (s : State) (k : Nat) : Bool :=
  let c := s.core k
  !s.occupied k && !c.pinned && c.switchTo.isNone && c.decoding.isNone && !s.validatingNow k

/-- The core with its active plane set. -/
def Core.setActive (c : Core) (p : Plane) : Core := if c.activeB then { c with planeB := p } else { c with planeA := p }

/-- The residue goes back (R388 step 6): the load, its tiles, ports, channels and generators, and the tokens of the threads. -/
def Core.restoreResidue (c : Core) (old : Core) (area : AreaImage) (slots : List Nat) (launch now : Nat) : Core :=
  let mine := fun (t : Tag) => slots.contains t.slot.toNat
  let roles := old.load.roles.zipIdx.filter (fun x => x.1.role == .buf || x.1.role == .fifo || x.1.role == .line)
  let tiles := roles.map (fun x => x.2)
  let inTile := fun (key : Nat) => tiles.contains (key / Config.tileBytes)
  let ids := (old.transfers.filter (fun (x : Transfer) => x.launch == launch && x.queue.isNone)).map (fun (x : Transfer) => x.id)
  let c := (c.setActive old.active).clearTiles tiles
  let c := area.bufs.foldl (fun (c : Core) tb => c.tileStore (Config.tileBytes * tb.1) (tb.2.take Config.tileBytes)) c
  { c with
    activeSince := now
    idleSince := none
    tilePoison := (old.tilePoison.filter (fun n => inTile (8 * n))).foldl insertNat c.tilePoison
    lines := old.lines
    l1 := []
    ports := old.ports.map (fun (nq : Nat × Port) => (nq.1, { nq.2 with
      queue := nq.2.queue.filter (fun i => ids.contains i), state := if nq.2.state = .held then .opened else nq.2.state }))
    chans := old.chans
    ags := old.ags
    spans := c.spans ++ old.spans.filter (fun (p : Span) => p.members.any (fun t => slots.contains t))
    flights := c.flights ++ old.flights.filter (fun (x : Flight) => mine x.tag)
    pendings := old.pendings.filter (fun (x : Pending) => mine x.tag)
    headers := old.headers.filter (fun (x : Pending) => mine x.tag)
    blocks := old.blocks.filter (fun (x : BlockState) => mine x.tag)
    merges := old.merges.filter (fun (x : MergeState) => mine x.tag)
    loops := (old.loops.filter (fun (i : LoopInst) => slots.contains i.thread)).map (fun (i : LoopInst) => { i with since := now })
    groups := old.groups.filter (fun (g : Group) => old.spans.any (fun (p : Span) => p.id == g.span && p.members.any (fun t => slots.contains t)))
    xctxs := old.xctxs.filter (fun (x : XCtx) => old.spans.any (fun (p : Span) => p.id == x.span && p.members.any (fun t => slots.contains t)))
    feeds := old.feeds.filter (fun (x : FeedTok) => mine x.tag)
    feedNext := (old.feedNext.filter (fun kv => slots.contains (kv.1 / 4))).foldl (fun (m : Table _) (kv : Nat × _) => m.put kv.1 kv.2) c.feedNext
    parked := c.parked ++ (old.parked.filter (fun (p : Parked) => slots.contains p.f.thread && p.why != .record && !p.f.mute)).map
      (fun (p : Parked) => { p with since := now }) }

/-- The watchdogs of a core start from zero (R382). -/
def Core.restartWatchdogs (c : Core) (now : Nat) : Core :=
  { c with
    parked := c.parked.map (fun (p : Parked) => if p.why = .engine ∨ p.why = .channel then { p with since := now } else p)
    loops := c.loops.map (fun (i : LoopInst) => { i with since := now })
    mxHold := c.mxHold.map (fun _ => now)
    idleSince := none }

/-- A core restores what it saved of a launch (R388), if it can. Held accesses and waiting `recalloc` instances issue again. -/
def State.restoreCore (s : State) (sv : Saved) (area : AreaImage) : Option State :=
  let parts := (sv.parts.zip (area.part.zip area.spad)).filter (fun x => !sv.gone.contains x.1.wgid)
  let threads := (area.view.threads.zip area.thr).filter (fun x => !sv.gone.contains x.1.2.wgid)
  if !s.coreUp sv.core ∨ (sv.residue ∧ !s.canResidue sv.core) then none
  else
    (s.restoreParts sv.core parts).map (fun s =>
      let slots := threads.map (fun x => x.1.1)
      let old := sv.coreLeft area.view
      let live := (s.savedView sv).live
      let s := s.onCore sv.core (fun (c : Core) =>
        let c := threads.foldl (fun (c : Core) x => c.onThread x.1.1 (fun _ => (x.1.2.ofEntry live s.time x.2.1 x.2.2).waitsAt x.1.1 area.wait)) c
        let c := if sv.residue then c.restoreResidue old area slots sv.launch s.time else c
        let c := { c with
          mxSent := c.mxSent ++ old.mxSent.filter (fun (m : MxCtl) => slots.contains m.f.thread)
          parked := c.parked ++ old.parked.filter (fun (p : Parked) => slots.contains p.f.thread && p.f.mute)
          transfers := c.transfers ++ old.transfers.map (fun (x : Transfer) => { x with held := false }) }
        c.restartWatchdogs s.time)
      let again := (old.parked.filter (fun (p : Parked) => slots.contains p.f.thread && p.why == .record)).map
        (fun (p : Parked) => p.f)
      { s with ready := s.ready ++ old.rq ++ again })

/-- A saved workgroup whose core cannot be used is aborted (R388): 0x7F with DETAIL 3. Its threads are gone, and it retires. -/
def State.dropSavedWg (s : State) (launch wgid core : Nat) : State :=
  match s.wg? launch wgid with
  | none => s
  | some _ =>
    let r := { s.blankRec 0x7F 2 .none 3 with core := some core, launch := launch }
    let s := s.fqPost r none
    let s := s.onWg launch wgid (fun (w : Workgroup) => { w with aborted := true })
    let s := s.onLaunch launch (fun (l : Launch) => { l with aborted := l.aborted + 1 })
    let units := s.saved.flatMap (fun (x : Saved) =>
      (x.threads.filter (fun kt => x.launch == launch && kt.2.wgid == wgid)).flatMap (fun kt =>
        kt.2.owned ++ kt.2.recUnit.toList))
    let s := s.onGraph launch (fun (g : Graph) => units.foldl Graph.freeUnit g)
    let s := { s with saved := s.saved.map (fun (x : Saved) => if x.launch = launch then { x with gone := wgid :: x.gone } else x) }
    s.retireWg launch wgid

/-- Workgroups with a saved part on a fenced core are aborted (R388). -/
def State.dropFenced (s : State) (launch : Nat) : State :=
  let lost := (s.saved.filter (fun (x : Saved) => x.launch == launch && s.fenceCores.contains x.core)).flatMap (fun (x : Saved) =>
    x.partsLeft.map (fun (p : Part) => (p.wgid, x.core)))
  lost.foldl (fun s wc => s.dropSavedWg launch wc.1 wc.2) s

/-- Every saved core of a launch restores, or none does. -/
def State.restoreAll (s : State) : List (Saved × AreaImage) → Option State
  | [] => some s
  | x :: rest => (s.restoreCore x.1 x.2).bind (fun s => s.restoreAll rest)

/-- The save areas of a launch, each with what it holds; none if a page is absent. -/
def State.readAreas (s : State) (l : Launch) : List (Saved × Nat) → State × Option (List (Saved × AreaImage))
  | [] => (s, some [])
  | (sv, r) :: rest =>
    match s.readSaved l sv r with
    | (s, none) => (s, none)
    | (s, some a) => match s.readAreas l rest with
      | (s, some more) => (s, some ((sv, a) :: more))
      | (s, none) => (s, none)

/-- A launch or graph goes on: a graph with its reserve admissions taken again, its records older by the time it was stopped
(R359). -/
def State.goOn (s : State) (l : Launch) : Option State :=
  let s := s.onLaunch l.id (fun (l : Launch) => { l with stopped := false })
  match s.graph? l.id with
  | none => some s
  | some g =>
    (if g.started then s.reserveNodes l.id 0 g.nodes else some s).map (fun s =>
      s.onGraph l.id (fun (g : Graph) => { g with
        stopped := false
        nodes := g.nodes.map (fun (n : GNode) => { n with
          queue := n.queue.map (fun x => (x.1, x.2.1 + (s.time - g.savedAt), x.2.2)) }) }))

/-- RESTORE (R388, R359, R406): a stopped launch whose pre-emption has ended goes on when it may run. -/
def execRestore (launch : Nat) (s : State) : Host.Outcome State Fault Refusal :=
  match s.launch? launch with
  | none => .next s
  | some l =>
    let s := if s.mayRun l then s.onQueue l.queue (fun (x : Queue) => { x with halted := false }) else s
    if !l.stopped ∨ l.preempt ≠ 0 ∨ !s.mayRun l ∨ s.keyHeld (doneKey l.queue l.index) then .next s
    else
      let s := s.dropFenced launch
      let mine := ((s.saved.filter (fun (x : Saved) => x.launch == launch)).zipIdx).filter (fun x => !x.1.partsLeft.isEmpty)
      match s.readAreas l mine with
      | (s, none) => .next s.settle
      | (s, some areas) =>
        match ((s.restoreAll areas).bind (fun t => t.goOn l)) with
        | none => .next s.settle
        | some t => .next ({ t with saved := t.saved.filter (fun (x : Saved) => x.launch != launch) } : State).settle

end Sys2Proof.Machine
end

