-- ==== Sys2Proof/Machine/FaultQ.lean ====
section
/-! DEFINITION. The fault queue's registers and resumes (spec 13 R369 to R372), walks, ATS and PRI answers (R375 to R377),
invalidation (R378), the freeing and retirement of pages (R379 to R381), and requests for replacement (14 R418). -/

namespace Sys2Proof.Machine

/-! ### Requests for replacement (R418, R422) -/

/-- A replacement request: the first is kept in REPLACE_REQ, and each goes to the archive. -/
def State.replaceRequest (s : State) (kind unit reason : Nat) : State :=
  let s := s.archivePost 7 0 unit 0 (bytesLE 1 reason)
  if natBit s.replaceReq.toNat 63 then s
  else { s with replaceReq := BitVec.ofNat 64 (2 ^ 63 + unit * 2 ^ 16 + kind * 2 ^ 8 + reason) }

/-! ### The fault queue (R369 to R372) -/

/-- DEFERRED_RECORD_WRITE (R370): the oldest deferred record is written when there is room. -/
def execDeferredRecordWrite (s : State) : Host.Outcome State Fault Refusal :=
  match s.deferred with
  | [] => .next s
  | d :: rest => if s.fqFull then .next s else .next (({ s with deferred := rest } : State).fqWrite d.record d.hold)

/-- A hold's record lies in the 2^31 records below S (R372). -/
def Hold.below (h : Hold) (seq : BitVec 32) : Bool :=
  match h.seq with
  | none => false
  | some q =>
    let d := (seq - BitVec.ofNat 32 q).toNat
    decide (1 ≤ d) && decide (d ≤ 2 ^ 31)

/-- An access of the host through BAR 2 waits for its stack (R415). -/
def State.barWaits (s : State) : Bool :=
  s.waiting.any (fun i => match i with | .hostBar2Access _ _ => true | _ => false)

/-- The holds below S are released (R372). The write is a release at sys scope, and the accesses that it releases perform as acquires of it
(R464): their dies keep no remote-homed word from before (R301). -/
def State.resume (s : State) (seq : BitVec 32) : State :=
  let dies := ((s.holds.filter (fun h => h.below seq)).map Hold.die).dedup
  (dies.foldl State.remoteInvalidate (s.release (fun h => h.below seq))).settle

/-- FQ_RESUME (R372): it covers every earlier write of the host, and so comes after those that wait (R464). -/
def execFqResume (seq : BitVec 32) (s : State) : Host.Outcome State Fault Refusal :=
  if s.barWaits then .next { s with waiting := s.waiting ++ [.fqResume seq] } else .next (s.resume seq)

/-- FQ_RD written (R369, R370). -/
def execFqRdWrite (seq : BitVec 32) (s : State) : Host.Outcome State Fault Refusal := .next { s with fqRd := seq }

/-- FQ_STAT as it reads (R369). -/
def State.fqStat (s : State) : Nat :=
  s.fqDrop.toNat * 2 ^ 32 + (if s.fqFull then 2 ^ 16 else 0) + s.holds.length % 4096

/-- FQ_STAT_READ (R369, R392): a read of the high word clears DROP. -/
def execFqStatRead (acc : RegAccess) (s : State) : Host.Outcome State Fault Refusal :=
  let r := s.hostReads acc s.fqStat
  .next (if accHigh acc then { r with fqDrop := 0 } else r)

/-! ### Walks (R375, R376) -/

/-- Whether a kind of access reads and writes its page (R375). -/
def kindAccess (k : AccessKind) : Bool × Bool :=
  match k with
  | .write | .engineWrite | .outStream => (false, true)
  | .rmw => (true, true)
  | _ => (true, false)

/-- TABLE_WALK (R375, R376): a walk of a core fills the three levels when it delivers a page. What an absent or refused page does
belongs to the access that translates (log 27). -/
def execTableWalk (core ctx va : Nat) (kind : AccessKind) (s : State) : Host.Outcome State Fault Refusal :=
  let a := kindAccess kind
  .next (s.translate core ctx va a.1 a.2).1.settle

/-! ### ATS and page requests (R377) -/

/-- ATS_RESPONSE (R377): a page is cached in the die's TLB, and no translation sends a page request; in both cases what waited for
the answer goes on. -/
def execAtsResponse (die ctx va : Nat) (answer : AtsAnswer) (s : State) : Host.Outcome State Fault Refusal :=
  let page := va / 4096
  let here := fun (r : AtsReq) => r.die == die && r.ctx == ctx && r.page == page
  match s.ats.find? here with
  | none => .next s
  | some r =>
    let s := { s with ats := s.ats.filter (fun r => !here r) }
    let s := match answer with
      | .page busAddr sizeLog rd wr =>
        s.fillDie die ⟨ctx, va / 2 ^ sizeLog * 2 ^ sizeLog, 2 ^ sizeLog, busAddr / 2 ^ sizeLog * 2 ^ sizeLog, 1, 0, rd, wr⟩
      | .noTranslation => { s with priPages := s.priPages ++ [(die, ctx, page)] }
    .next (r.items.foldl State.wake s).settle

/-- Kind of access of a held instance, by its opcode. -/
def heldKind (opc : Nat) : AccessKind :=
  if opc = 0x91 ∨ opc = 0xF1 then .write else if 0x92 ≤ opc ∧ opc ≤ 0x94 then .rmw else .read

/-- A held instance is refused (R377, R181): the record names the address that the instance formed (log 27). -/
def State.failFiring (s : State) (f : Firing) (page : Nat) : State :=
  let opc := f.kept.elim (((s.core f.core).load.opc f.node).getD 0x90) (fun (x : Kept) => (x.word.extractLsb' 120 8).toNat)
  s.refuse f { s.firingRec f 0x11 2 (heldKind opc) 2 with
    va := some (f.kept.elim (page * 4096) Kept.g), ctx := f.kept.map Kept.ctx }

/-- A held transfer is refused (R377, R241, R243): it stopped at the page of its source or of its destination. -/
def State.failTransfer (s : State) (k id page : Nat) : State :=
  match (s.core k).transfer? id with
  | none => s
  | some x =>
    let s := s.onCore k (fun (c : Core) => c.onTransfer id (fun (x : Transfer) => { x with held := false }))
    let i := x.dwordAt (x.cursor / 8)
    match x.op with
    | .cpyms => s.denyTransfer k x .inStream (x.addrAt x.src x.cursor) 2 none
    | .cpysm => s.denyTransfer k x .outStream (x.addrAt x.dst x.cursor) 2 none
    | .mtld => s.denyTransfer k x .engineRead (x.src + 8 * i) 2 none
    | .mtst => s.denyTransfer k x .engineWrite (x.dst + 8 * i) 2 none
    | _ =>
      if (x.src + 8 * i) % 2 ^ 56 / 4096 = page then s.denyTransfer k x .engineRead (x.src + 8 * i) 2 none
      else s.denyTransfer k x .engineWrite (x.dst + 8 * i) 2 none

/-- A held fetch of a core is refused (R377): the validation, or the decode, that needed it. -/
def State.failConfig (s : State) (k page : Nat) : State :=
  if s.validatingNow k then
    match (s.core k).validating.bind s.launch? with
    | some l => s.refuseFetch k l 0x11 2 (page * 4096) none
    | none => s
  else s.refuseDecode k 0x11 2 (page * 4096) none

/-- A held access for a queue's next packet, or for a completion, is refused (R377, R401): the queue enters ERROR, and a completion
ends without what it could not write. A page of a save area that refuses stays unwritten or unread (log 26). -/
def State.failPacket (s : State) (key : Nat) : State :=
  if key < 1024 then
    let s' := s.packetStop key (s.queue key).nextPkt .denied
    if s.lmbBusy ∧ natBits s.lmbCtl.toNat 9 0 = key then s'.mailTaken else s'
  else
    let id := key - 1024
    let q := id / 2 ^ 22
    match s.launch? id with
    | some l =>
      if l.preempt = 2 ∨ (l.stopped ∧ l.preempt = 0) then s else
      let s := s.packetStop q l.index .denied
      if ((s.graph? id).map (fun (g : Graph) => !g.started)).getD false ∧ l.status.isNone then s.failStart id
      else match s.outcome l with
        | some status =>
          (s.onQueue q (fun x => x.mark l.index l.era (fun (p : Packet) => { p with completed := true }))).endLaunch l status
        | none => if l.preempt = 1 then s.preempted l 1 else s
    | none =>
      let s := s.onQueue q (fun (x : Queue) => { x with started := x.started.map (fun (p : Packet) =>
        if launchId q p.index = id then { p with signal := 0 } else p) })
      let s := { s with cores := s.cores.map (fun (kc : Nat × Core) => (kc.1, { kc.2 with
        transfers := kc.2.transfers.map (fun (x : Transfer) =>
          if x.queue = some q ∧ launchId q x.index = id then { x with signal := 0, mask := 0 } else x) })) }
      let index := ((s.queue q).started.find? (fun (p : Packet) => launchId q p.index == id)).elim 0 Packet.index
      s.packetStop q index .denied

/-- What a refused page of a context does to an item held on it (R377): 0x11 with DETAIL 2. -/
def State.failItem (s : State) (ctx page : Nat) (i : HeldItem) : State :=
  let post := fun (s : State) => s.fqPost (s.hubRec ctx (page * 4096) true false i 0x11 2 2) none
  match i with
  | .firing f => s.failFiring f page
  | .transfer k id => s.failTransfer k id page
  | .config k => s.failConfig k page
  | .seeds id => (post s).failStart id
  | .packet key => (post s).failPacket key
  | .record k _ va _ thread =>
    match thread with
    | some (t, _) => s.recordRefused k t (.refused 2 none)
    | none => s.fqPost { s.blankRec 0x11 2 .write 2 with core := some k, va := some va, ctx := some ctx } none

/-- PRI_RESPONSE (R377): success releases the page's holds, but none whose record is deferred (R372). -/
def execPriResponse (ctx va : Nat) (answer : PriAnswer) (s : State) : Host.Outcome State Fault Refusal :=
  let page := va / 4096
  let here := fun (h : Hold) => h.ctx == ctx && h.page == page
  if !s.priPages.any (fun x => x.2.1 == ctx && x.2.2 == page) then .next s
  else
    let s := { s with priPages := s.priPages.filter (fun x => !(x.2.1 == ctx && x.2.2 == page)) }
    match answer with
    | .success => .next (s.release (fun h => here h && h.seq.isSome)).settle
    | _ =>
      let go := s.holds.filter here
      let s := { s with holds := s.holds.filter (fun h => !here h) }
      .next (go.foldl (fun s (h : Hold) => h.items.foldl (fun s i => s.failItem ctx page i) s) s).walkersGo.settle

/-- PASID of a context that uses host tables (R373). -/
def State.pasidOf (s : State) (ctx : Nat) : Option Nat :=
  let d := s.devNat (natBits s.xltCtxBase.toNat 38 16 * 65536 + 16 * ctx) 16
  if !ctxInvalid d ∧ natBits d 2 1 = 1 then some (natBits d 43 24) else none

/-- Cached translations that match are dropped at every level (R378). -/
def State.dropEntries (s : State) (p : TlbEntry → Bool) : State :=
  { s with
    clusterTlb := s.clusterTlb.map (fun (kl : Nat × List TlbEntry) => (kl.1, kl.2.filter (fun e => !p e)))
    dieTlb := s.dieTlb.map (fun (kl : Nat × List TlbEntry) => (kl.1, kl.2.filter (fun e => !p e)))
    cores := s.cores.map (fun (kc : Nat × Core) => (kc.1, { kc.2 with utlb := kc.2.utlb.filter (fun e => !p e) })) }

/-- ATS_INVALIDATE_REQUEST (R377): the completion waits for the epoch that is current now. -/
def execAtsInvalidateRequest (pasid va : Nat) (all : Bool) (s : State) : Host.Outcome State Fault Refusal :=
  let s := s.dropEntries (fun e => s.pasidOf e.ctx == some pasid && (all || va / e.size == e.va / e.size))
  .next { s with atsInv := s.atsInv ++ [s.epoch.toNat] }

/-! ### Invalidation (R378) -/

/-- XLT_INV written (R378). -/
def execXltInv (value : BitVec 64) (s : State) : Host.Outcome State Fault Refusal :=
  if natBit s.xltInv.toNat 63 then .next s
  else .next { s with xltInv := BitVec.ofNat 64 (2 ^ 63 + natBits value.toNat 62 49 * 2 ^ 49 + natBits value.toNat 43 0) }

/-- An entry that the invalidation names. -/
def State.invalidates (s : State) (e : TlbEntry) : Bool :=
  let v := s.xltInv.toNat
  match natBits v 62 61 with
  | 0 => e.covers (natBits v 60 49) (natBits v 43 0 * 4096)
  | 1 => e.ctx == natBits v 60 49
  | _ => true

/-- XLT_INV_DONE (R378). -/
def execXltInvDone (s : State) : Host.Outcome State Fault Refusal :=
  if natBit s.xltInv.toNat 63 then
    let r := s.dropEntries s.invalidates
    .next { r with xltInv := setField r.xltInv 63 63 0 }
  else .next s

/-! ### Freeing pages (R379 to R381) -/

/-- DQ_PUSH (R380). -/
def execDqPush (value : BitVec 64) (s : State) : Host.Outcome State Fault Refusal :=
  if 1024 ≤ s.dq.length then .next { s with dqOvf := true }
  else
    let d : DqPage := ⟨BitVec.ofNat 64 (natBits value.toNat 51 9 * 2 ^ 9), s.epoch.toNat, false⟩
    .next { s with dq := s.dq ++ [d], epoch := s.epoch + 1 }

/-- First 4 KiB page of a freed page, and how many it covers. -/
def DqPage.span (d : DqPage) : Nat × Nat :=
  (natBits d.fields.toNat 51 12,
   match natBits d.fields.toNat 11 10 with | 0 => 1 | 1 => 16 | 2 => 512 | _ => 262144)

/-- A freed page covers a physical page. -/
def DqPage.hits (d : DqPage) (page : Nat) : Bool := decide (d.span.1 ≤ page) && decide (page < d.span.1 + d.span.2)

/-- A core drops the configuration-cache entries and validated marks of kernels in some freed pages (R380, R91, R100). -/
def State.dropKernels (s : State) (ds : List DqPage) : State :=
  let bad := (s.kernels.filter (fun (k : Kernel) => k.pages.any (fun p => ds.any (fun d => d.hits p)))).map (fun (k : Kernel) => k.id)
  { s with cores := s.cores.map (fun (kc : Nat × Core) => (kc.1, { kc.2 with
      cache := kc.2.cache.filter (fun x => !bad.contains x.1)
      validated := kc.2.validated.filter (fun v => !bad.contains v) })) }

/-- Epoch a lies at or before b, modulo 2^32 (R379). -/
def epochLe (a b : Nat) : Bool := decide ((BitVec.ofNat 32 b - BitVec.ofNat 32 a).toNat < 2 ^ 31)

/-- The largest epoch up to which no access is counted (R379). Between steps only a load that waits for a fill of its CACHE tiles has been
translated and has not performed (log 7); `back` says how many epochs ago the oldest of them was translated. -/
def State.quiesced (s : State) : BitVec 32 :=
  let back := (s.cores.flatMap (fun kc => kc.2.misses)).foldl (fun n (m : L1Miss) => max n (s.epoch - m.epoch).toNat) 0
  s.epoch - 1 - BitVec.ofNat 32 back

/-- PAGE_RELEASE (R379, R380): QDONE moves on; pages whose tag it has reached are released, and ATS invalidations are completed (R377). -/
def execPageRelease (s : State) : Host.Outcome State Fault Refusal :=
  let done := s.quiesced
  let go := s.dq.filter (fun (d : DqPage) => !d.released && epochLe d.tag done.toNat)
  let s := (s.dropKernels go)
  .next { s with
    qdone := done
    dq := s.dq.map (fun (d : DqPage) => if epochLe d.tag done.toNat then { d with released := true } else d)
    atsDone := s.atsDone + (s.atsInv.filter (fun e => epochLe e done.toNat)).length
    atsInv := s.atsInv.filter (fun e => !epochLe e done.toNat) }

/-- Bytes of the pages on the retired-page list (R418). -/
def State.retiredBytes (s : State) : Nat :=
  s.retiredPages.foldl (fun t d => t + 4096 * (⟨d, 0, true⟩ : DqPage).span.2) 0

/-- A page joins the retired-page list (R381, R418, R419): its entry is written to the list's region, and the condition of 1 % is
examined. -/
def State.retirePage (s : State) (fields : Dword) : State :=
  let n := s.retiredPages.length
  let base := natBits s.retiredReg.toNat 31 0 * 4096
  let s := { s with retiredPages := s.retiredPages ++ [fields], retiredReg := setField s.retiredReg 63 32 (n + 1) }
  let s := if base = 0 then s else s.hubStoreBeside (base + 8 * n) (bytesLE 8 (2 ^ 63 + fields.toNat))
  if Config.devBytes ≤ 100 * s.retiredBytes then s.replaceRequest 6 0 4 else s

/-- DQ_POP as it reads (R380). -/
def State.dqPop (s : State) : Nat :=
  match s.dq.find? (fun (d : DqPage) => d.released) with
  | some d => 2 ^ 63 + d.fields.toNat
  | none => 0

/-- DQ_POP read (R380, R381, R392): a read of the high word removes the oldest released page. -/
def execDqPop (acc : RegAccess) (s : State) : Host.Outcome State Fault Refusal :=
  let r := s.hostReads acc s.dqPop
  if !accHigh acc then .next r
  else match r.dq.findIdx? (fun (d : DqPage) => d.released) with
    | none => .next r
    | some i =>
      let fields := ((r.dq[i]?).map DqPage.fields).getD 0
      let r := { r with dq := r.dq.eraseIdx i }
      .next (if natBit fields.toNat 9 then r.retirePage fields else r)

/-- DQ_STAT written (R380): a 1 clears OVF. -/
def execDqStatClear (value : BitVec 64) (s : State) : Host.Outcome State Fault Refusal :=
  .next (if natBit value.toNat 0 then { s with dqOvf := false } else s)

end Sys2Proof.Machine
end

