-- ==== Sys2Proof/Machine/EventEng.lean ====
section
/-! DEFINITION. The event engine, its timers and the control harts (spec 14 R408 to R410, R475; 16 R441), and the host event ring's drop counter (R414). -/

namespace Sys2Proof.Machine

/-- Two tokens match (R409, R441): the event program pairs a NOTIFY of queue q with a ROOM of die q mod 8; which other kinds it pairs
on equal keys is open (log 11). -/
def Event.pairs (a b : Event) : Bool :=
  if a.kind = 1 ∧ b.kind = 2 then a.key % 8 == b.key
  else if a.kind = 2 ∧ b.kind = 1 then b.key % 8 == a.key
  else (Config.eventPair a.kind b.kind || Config.eventPair b.kind a.kind) && a.key == b.key

/-! ### The control harts (R408 to R410) -/

/-- What a task leaves in a hart: nothing of it is said (log 77); x0 is zero. -/
def Hart.after (h : Hart) (step i : Nat) : Hart :=
  let v := Config.hartValue step i
  { pc := v 64
    x := (List.range 32).map (fun n => if n = 0 then 0 else v n)
    f := (List.range 32).map (fun n => v (32 + n))
    fcsr := (v 65).extractLsb' 0 8
    mode := if (v 66).getLsbD 0 then .user else .machine
    csrs := h.csrs.map (fun kv => (kv.1, v (256 + kv.1)))
    pmpcfg := (List.range 16).map (fun n => (v (128 + n)).extractLsb' 0 8)
    pmpaddr := (List.range 16).map (fun n => v (160 + n))
    task := none }

/-- R400 lets a queue start its next packet, as far as it has been read, or a packet that has started is still to be retired; the packet
that was last found not ready is looked at again after its microsecond (R396, R399). -/
def State.queueGoes (s : State) (q : Nat) : Bool :=
  let x := s.queue q
  x.state == 1 && !s.assisted 1 && !s.keyHeld q && (x.started.any (fun (p : Packet) => !p.retired) ||
    (decide (x.nextPkt < x.qwr.toNat) && decide (x.pollAt ≤ s.time) && decide (s.launches.length < 256) &&
      (x.header.all (fun bs => !natBit (bytesAt bs 0 1) 1 || x.started.isEmpty))))

/-- The task of a hart is over: that of a NOTIFY pair when its queue can start no packet (R441), another when its firmware ends it, of which
the spec says nothing (log 77). -/
def State.taskOver (s : State) (i : Nat) : Bool :=
  match ((s.harts[i]?).bind Hart.task).map notifyOf with
  | some (some e) => !s.queueGoes e.key
  | some none => Config.taskEnds s.stepNo i
  | none => false

/-- A handler task stops (R441): with packets of its queue left it leaves a NOTIFY token for the queue. -/
def State.taskStops (s : State) (p : Event × Event) : State :=
  match notifyOf p with
  | none => s
  | some e => if (s.queue e.key).nextPkt < (s.queue e.key).qwr.toNat then s.engineToken e else s

/-- The task of a hart ends. -/
def State.endTask (s : State) (i : Nat) : State :=
  match s.harts[i]? with
  | none => s
  | some h =>
    match h.task with
    | none => s
    | some p =>
      let writes := (Config.sramWrites s.stepNo).filter (fun w => decide (w.1 < 2 ^ 22))
      ({ s with
        harts := s.harts.set i (h.after s.stepNo i)
        sram := writes.foldl (fun m w => cellWrite m w.1 w.2) s.sram } : State).taskStops p

/-- The oldest pair goes to a free hart (R409), once the firmware has started (R411). -/
def State.dispatchTo (s : State) (i : Nat) : State :=
  match s.harts[i]?, s.evPairs with
  | some h, p :: rest =>
    if h.task.isSome ∨ !natBit s.funcReady.toNat 1 then s
    else { s with harts := s.harts.set i { h with task := some p }, evPairs := rest }
  | _, _ => s

/-- Pairs go to free harts in the order in which they have formed (R409, R410). -/
def State.dispatchPairs (s : State) : State := (List.range s.harts.length).foldl State.dispatchTo s

/-- A ROOM token of a die stands somewhere: pending, in the store, in a pair, or with a hart. -/
def State.roomStands (s : State) (die : Nat) : Bool :=
  let pairs := s.evPairs ++ s.harts.filterMap Hart.task
  (s.evPending ++ s.evStore ++ pairs.flatMap (fun p => [p.1, p.2])).any (fun e => e.kind == 2 && e.key == die)

/-- The dispatcher of a die that can take a launch raises its ROOM token again once the one before is used up (R409, R441; log 24). -/
def State.raiseRoom (s : State) (die : Nat) : State :=
  if s.assisted 1 ∨ !natBit s.funcReady.toNat (10 + die) ∨ 256 ≤ s.launches.length ∨ s.roomStands die then s
  else s.raiseEvent 2 die 0 0

/-- The harts whose tasks are over end them, the pairs that wait go to them, and the dispatchers say that they have room. -/
def State.hartsGo (s : State) : State :=
  (List.range 8).foldl State.raiseRoom (((List.range s.harts.length).filter s.taskOver).foldl State.endTask s).dispatchPairs

/-! ### The matching store (R409) -/

/-- A pending token reaches the matching store (R409): it takes its partner's entry, and the pair goes to a hart; without a partner
it takes one of 512 entries, if one is free. -/
def State.offerToken (s : State) (index : Nat) : State :=
  match s.evPending[index]? with
  | none => s
  | some e =>
    match s.evStore.find? (fun x => x.pairs e) with
    | some x => ({ s with
        evPending := s.evPending.eraseIdx index, evStore := s.evStore.erase x, evPairs := s.evPairs ++ [(x, e)] } : State).dispatchPairs
    | none =>
      if s.evStore.length < 512 then { s with evPending := s.evPending.eraseIdx index, evStore := s.evStore ++ [e] } else s

/-- EVENT_TOKEN (R409). -/
def execEventToken (index : Nat) (s : State) : Host.Outcome State Fault Refusal := .next (s.offerToken index)

/-- Every pending token is offered once, in order of age. -/
def State.offerAll (s : State) : List Event → State
  | [] => s
  | e :: rest => ((s.evPending.findIdx? (· == e)).elim s s.offerToken).offerAll rest

/-- EVENT_TOKEN_RETRY (R409): in every hub cycle the harts go on, and the tokens that found the store full are offered again. -/
def execEventTokenRetry (s : State) : Host.Outcome State Fault Refusal := .next (s.hartsGo.offerAll s.hartsGo.evPending)

/-- FIRMWARE_TIMER (R409, R475). -/
def execFirmwareTimer (timer : Nat) (s : State) : Host.Outcome State Fault Refusal :=
  if timer < 64 then .next (s.raiseEvent 4 timer 0 0) else .next s

/-- HEV_STAT_READ (R414, R392): a read of the low word clears DROP. -/
def execHevStatRead (acc : RegAccess) (s : State) : Host.Outcome State Fault Refusal :=
  let r := s.hostReads acc s.hevDrop.toNat
  .next (if accLow acc then { r with hevDrop := 0 } else r)

end Sys2Proof.Machine
end

