-- ==== Sys2Proof/Machine/Fence.lean ====
section
/-! DEFINITION. Fencing and Muwin ports (spec 14 R417, R418, R429 to R431), and devices that do not answer (R431). -/

namespace Sys2Proof.Machine

/-- What every fence reports (R417, R418, R422, R475): an archive entry, the event, and the replacement request of its reason. -/
def State.reportFence (s : State) (kind unit reason : Nat) : State :=
  let word := kind * 2 ^ 12 + unit
  let s := s.archivePost 4 0 unit 0 (bytesLE 8 word)
  let s := s.raiseEvent 10 unit (BitVec.ofNat 64 word) 0
  if reason = 0 then s else s.replaceRequest kind unit reason

/-- Some cores are fenced (R417 steps 1 and 2): every workgroup with a part on one is aborted with 0x7F, DETAIL 4. -/
def State.fenceSome (s : State) (cores : List Nat) : State :=
  let fresh := cores.filter (fun k => !s.fenceCores.contains k)
  let s := { s with fenceCores := fresh.foldl insertNat s.fenceCores }
  fresh.foldl (fun s k =>
    ((s.core k).parts.map (fun (p : Part) => (p.launch, p.wgid))).foldl (fun s w =>
      if ((s.wg? w.1 w.2).map Workgroup.aborted).getD true then s
      else (s.fqPost { s.blankRec 0x7F 2 .none 4 with core := some k, launch := w.1 } none).abortWg w.1 w.2) s) s

/-- A core is fenced. -/
def State.fenceCore (s : State) (unit reason : Nat) : State :=
  if Config.cores ≤ unit then s else (s.fenceSome [unit]).reportFence 1 unit reason

/-- A cluster is fenced. -/
def State.fenceCluster (s : State) (unit reason : Nat) : State :=
  if 40 ≤ unit then s else (s.fenceSome (clusterCores unit)).reportFence 2 unit reason

/-- A stack is fenced (R417 step 3): its memory is performed without being reached from now on. -/
def State.fenceStack (s : State) (unit reason : Nat) : State :=
  if 8 ≤ unit then s else ({ s with fenceStacks := insertNat s.fenceStacks unit } : State).reportFence 3 unit reason

/-! ### Readiness (R415) -/

/-- A readiness bit is set, and its event raised (R415, R475). -/
def State.setReady (s : State) (bit : Nat) : State :=
  if 0x100 ≤ bit then
    let s := { s with funcReadyL := s.funcReadyL ||| BitVec.ofNat 64 (2 ^ (bit - 0x100)) }
    s.raiseEvent 9 bit s.funcReadyL 0
  else
    let s := { s with funcReady := s.funcReady ||| BitVec.ofNat 64 (2 ^ bit) }
    s.raiseEvent 9 bit s.funcReady 0

/-! ### Muwin ports (R430, R431) -/

/-- A port; an unlisted one is a port after reset. -/
def State.mport (s : State) (p : Nat) : MuwinPort := (s.ports.look p).getD MuwinPort.reset

/-- MWP_STAT of a port. -/
def MuwinPort.stat (p : MuwinPort) : Nat :=
  p.replay.toNat * 2 ^ 32 + p.peer.toNat * 2 ^ 16 + p.lanes.toNat * 2 ^ 8 + p.state.toNat

/-- A port leaves every route (R431). -/
def State.unroute (s : State) (port : Nat) : State :=
  let cut := s.routes.map (fun (kv : Nat × BitVec 16) => (kv.1, kv.2 &&& ~~~BitVec.ofNat 16 (2 ^ port)))
  { s with routes := cut.filter (fun (kv : Nat × BitVec 16) => kv.2 != 0) }

/-- A port changes state (R422, R431, R475): archive entry, LINK event, and, when it is down or fenced, its routes. -/
def State.portTo (s : State) (port : Nat) (p : MuwinPort) : State :=
  let s := { s with ports := s.ports.put port p }
  let s := s.archivePost 6 0 port 0 (bytesLE 1 p.state.toNat)
  let s := s.raiseEvent 6 port (BitVec.ofNat 64 p.stat) 0
  if p.state = 0 ∨ p.state = 3 then s.unroute port else s

/-- A port is fenced (R417 step 4). -/
def State.fencePort (s : State) (unit reason : Nat) : State :=
  if 16 ≤ unit then s
  else
    let s := { s with fencePorts := insertNat s.fencePorts unit }
    (s.portTo unit { s.mport unit with state := 3 }).reportFence 4 unit reason

/-- FENCE_CORE (R417). -/
def execFenceCore (unit reason : Nat) (s : State) : Host.Outcome State Fault Refusal := .next (s.fenceCore unit reason)

/-- FENCE_CLUSTER (R417). -/
def execFenceCluster (unit reason : Nat) (s : State) : Host.Outcome State Fault Refusal := .next (s.fenceCluster unit reason)

/-- FENCE_STACK (R417). -/
def execFenceStack (unit reason : Nat) (s : State) : Host.Outcome State Fault Refusal := .next (s.fenceStack unit reason)

/-- FENCE_PORT (R417). -/
def execFencePort (unit reason : Nat) (s : State) : Host.Outcome State Fault Refusal := .next (s.fencePort unit reason)

/-- A port trains: EN is set, or the firmware sets it, which brings the links up in hardware mode (R411, R430). -/
def State.trains (s : State) (p : MuwinPort) : Bool := natBit p.ctl.toNat 0 || (!s.assisted 6 && natBit s.funcReady.toNat 1)

/-- MWP_CTL written (R430): EN lets the port train and run; a port whose EN goes to 0 stops, and is down. -/
def State.enablePort (s : State) (port : Nat) (v : Dword) : State :=
  let p := s.mport port
  let q : MuwinPort := { p with ctl := takeField p.ctl v 0 0 }
  if !natBit v.toNat 0 ∧ natBit p.ctl.toNat 0 ∧ (p.state = 1 ∨ p.state = 2) then s.portTo port { q with state := 0 }
  else { s with ports := s.ports.put port q }

/-- MUWIN_PORT_STATE (R430, R411, R418): a port that may train and is not fenced changes state. From training to down it has failed to
train; at the third failure it is fenced. Once its link is up it is ready (R415). -/
def execMuwinPortState (port state peer lanes : Nat) (s : State) : Host.Outcome State Fault Refusal :=
  let p := s.mport port
  if 16 ≤ port ∨ s.fencePorts.contains port ∨ 3 ≤ state ∨ (state ≠ 0 ∧ !s.trains p) then .next s
  else
    let n := if p.state = 1 ∧ state = 0 then p.failures + 1 else if state = 2 then 0 else p.failures
    let q : MuwinPort := { p with
      ctl := if state = 0 then p.ctl else setField p.ctl 0 0 1, state := BitVec.ofNat 2 state, peer := BitVec.ofNat 12 peer
      lanes := BitVec.ofNat 8 lanes, failures := n }
    let s := s.portTo port q
    let s := if state = 2 then { s with silent := [] } else s
    let s := if state = 2 ∧ !natBit s.funcReadyL.toNat port then s.setReady (0x100 + port) else s
    .next (if 3 ≤ n then s.fencePort port 5 else s)

/-- REMOTE_UNREACHABLE (R431): a device has not answered within the bound; accesses to it commit 0x71 until a port comes up (log
29). -/
def execRemoteUnreachable (device : Nat) (s : State) : Host.Outcome State Fault Refusal :=
  .next { s with silent := insertNat s.silent device }

/-- MWP_STAT_READ (R430, R392): a read of the high word clears REPLAY. -/
def execMwpStatRead (port : Nat) (acc : RegAccess) (s : State) : Host.Outcome State Fault Refusal :=
  let r := s.hostReads acc (s.mport port).stat
  .next (if accHigh acc ∧ port < 16 then { r with ports := r.ports.put port { s.mport port with replay := 0 } } else r)

/-- FLIT_REPLAY (R429, R430): a replayed flit is counted and changes nothing else. -/
def execFlitReplay (port : Nat) (s : State) : Host.Outcome State Fault Refusal :=
  if port < 16 ∧ (s.mport port).state = 2 then
    .next { s with ports := s.ports.put port { s.mport port with replay := (s.mport port).replay + 1 } }
  else .next s

end Sys2Proof.Machine
end

