-- ==== Sys2Proof/Machine/Power.lean ====
section
/-! DEFINITION. The power governor and the thermal limits (spec 14 R418, R420, R421). -/

namespace Sys2Proof.Machine

/-- Fabric cycles of a millisecond (R421). -/
def millisecond : Nat := 1700000

/-- BUDGET as the governor computes it (R421). -/
def budgetFor (cap lid throt : Nat) : Nat := min 128 (128 * cap / 2800) - 8 * ((lid - throt + 15) / 16)

/-- A core's BUDGET is written (R326, R329). -/
def Core.setBudget (c : Core) (b : Nat) : Core := ({ c with kpwr := setField c.kpwr 15 0 b } : Core).setGate

/-- GOVERNOR_TICK (R421, R411): in hardware mode, once the firmware has started, every millisecond, on every unfenced core. -/
def execGovernorTick (s : State) : Host.Outcome State Fault Refusal :=
  if s.assisted 5 ∨ !natBit s.funcReady.toNat 1 ∨ s.time < s.govAt then .next s
  else
    let b := budgetFor s.boardCap s.lid.toNat s.throt.toNat
    let cores := allCores.filter (fun k => !s.fenceCores.contains k && (s.core k).powerBudget != b)
    let s := cores.foldl (fun s k => s.onCore k (fun (c : Core) => c.setBudget b)) s
    .next { s with govAt := s.time + millisecond }

/-- THERM (R393). -/
def State.therm (s : State) : Nat := s.throt.toNat * 2 ^ 32 + s.jmax.toNat * 2 ^ 16 + s.lid.toNat

/-- A thermal entry and event (R422, R475). -/
def State.thermal (s : State) (sub sensor : Nat) : State :=
  let s := s.archivePost 5 sub sensor 0 (bytesLE 2 s.lid.toNat ++ bytesLE 2 s.jmax.toNat)
  s.raiseEvent 7 sensor (BitVec.ofNat 64 s.therm) 0

/-- The shutdown limit that the readings have reached (R420, R422): 2 the lid's, 95 °C, 3 a junction's, 105 °C. Of two, the one that the
report is of. -/
def State.shutdownLimit (s : State) (junction : Bool) : Option Nat :=
  let lid := decide (1520 ≤ s.lid.toNat)
  if 1680 ≤ s.jmax.toNat ∧ (junction ∨ !lid) then some 3 else if lid then some 2 else none

/-- At either shutdown limit the device writes a thermal entry and is held in reset until cold reset (R421), whatever the report is of. -/
def State.thermalLimits (s : State) (sensor : Nat) (junction : Bool) : State :=
  match s.shutdownLimit junction with
  | none => s
  | some sub => { (s.thermal sub sensor).archivePost 3 0 0 0 (bytesLE 1 3) with heldInReset := true }

/-- THERMAL_CROSSING (R409, R422): new readings, the report of a crossing of THROT that they are, and what a limit asks (R421). -/
def execThermalCrossing (sensor lid jmax : Nat) (up : Bool) (s : State) : Host.Outcome State Fault Refusal :=
  let r := { s with lid := BitVec.ofNat 16 lid, jmax := BitVec.ofNat 16 jmax }
  let was := decide (s.throt.toNat ≤ s.lid.toNat)
  let is_ := decide (r.throt.toNat ≤ r.lid.toNat)
  .next ((if is_ = up ∧ was ≠ up then r.thermal (if up then 1 else 0) sensor else r).thermalLimits sensor false)

/-- THERMAL_SHUTDOWN (R420, R421): readings, at which the device is held in reset if one of them has reached its limit. -/
def execThermalShutdown (sensor lid jmax : Nat) (junction : Bool) (s : State) : Host.Outcome State Fault Refusal :=
  .next (({ s with lid := BitVec.ofNat 16 lid, jmax := BitVec.ofNat 16 jmax } : State).thermalLimits sensor junction)

/-- THERMAL_SENSOR_LOST (R418): REASON 0x06 of the hub die, with the sensor as unit (log 29). -/
def execThermalSensorLost (sensor : Nat) (s : State) : Host.Outcome State Fault Refusal := .next (s.replaceRequest 5 sensor 6)

end Sys2Proof.Machine
end

