-- ==== Sys2Proof/Machine/Sha.lean ====
section
/-! DEFINITION. SHA-512 and RSASSA-PKCS1-v1_5 (spec 14 R423, R427, R428), as FIPS 180-4 and PKCS #1 v2.2 define them (log 10). -/

namespace Sys2Proof.Machine

/-! ### Constants, computed as FIPS 180-4 defines them -/

/-- The first n primes after those of a list, trying numbers from x on. -/
def primesFrom : Nat → Nat → List Nat → List Nat
  | 0, _, found => found
  | fuel + 1, x, found => primesFrom fuel (x + 1) (if found.any (fun q => x % q == 0) then found else found ++ [x])

/-- The primes below 410, of which there are 80. -/
def shaPrimes : List Nat := primesFrom 408 2 []

/-- The largest number below 2^bits whose power of exponent e is at most v, found from its highest bit down. -/
def floorRoot (e v : Nat) : Nat → Nat → Nat
  | 0, found => found
  | bits + 1, found => floorRoot e v bits (if (found + 2 ^ bits) ^ e ≤ v then found + 2 ^ bits else found)

/-- The first 64 bits of the fractional part of the e-th root of p. -/
def rootBits (e p : Nat) : BitVec 64 := BitVec.ofNat 64 (floorRoot e (p * 2 ^ (64 * e)) 70 0)

/-! ### The hash -/

/-- The number that bytes stand for, most significant first. -/
def fromBE (l : List Byte) : Nat := l.foldl (fun n b => 256 * n + b.toNat) 0

/-- n bytes of a number, most significant first. -/
def bytesBE (n v : Nat) : List Byte := (List.range n).map (fun i => BitVec.ofNat 8 (v / 256 ^ (n - 1 - i)))

/-- A word xored with its images under three moves. -/
def mix3 (p q r : BitVec 64 → BitVec 64) (x : BitVec 64) : BitVec 64 := p x ^^^ q x ^^^ r x

/-- A rotation to the right, as a move. -/
def ror (n : Nat) (x : BitVec 64) : BitVec 64 := x.rotateRight n

/-- A shift to the right, as a move. -/
def shr (n : Nat) (x : BitVec 64) : BitVec 64 := x >>> n

/-- Where a block's compression stands: the eight working words, newest first (a, b, c, d, then e, f, g, h), and the sixteen message
words that the next rounds use, oldest first. -/
structure ShaWork where
  abcd : List (BitVec 64)
  efgh : List (BitVec 64)
  window : List (BitVec 64)
  deriving DecidableEq, Repr

/-- The message word that leaves the window, and the window with the word sixteen rounds later. -/
def ShaWork.slide (x : ShaWork) : BitVec 64 × List (BitVec 64) :=
  let at_ := fun (i : Nat) => x.window.getD i 0
  let later := at_ 0 + at_ 9 + mix3 (ror 1) (ror 8) (shr 7) (at_ 1) + mix3 (ror 19) (ror 61) (shr 6) (at_ 14)
  (at_ 0, x.window.drop 1 ++ [later])

/-- One round: f and g are chosen by e bit by bit, and the majority of a, b and c is taken bit by bit. -/
def ShaWork.round (x : ShaWork) (k : BitVec 64) : ShaWork :=
  let a := x.abcd.getD 0 0
  let b := x.abcd.getD 1 0
  let c := x.abcd.getD 2 0
  let e := x.efgh.getD 0 0
  let g := x.efgh.getD 2 0
  let slid := x.slide
  let chosen := g ^^^ (e &&& (x.efgh.getD 1 0 ^^^ g))
  let majority := (a &&& (b ||| c)) ||| (b &&& c)
  let gain := slid.1 + k + chosen + x.efgh.getD 3 0 + mix3 (ror 14) (ror 18) (ror 41) e
  { abcd := (gain + majority + mix3 (ror 28) (ror 34) (ror 39) a) :: x.abcd.take 3
    efgh := (gain + x.abcd.getD 3 0) :: x.efgh.take 3
    window := slid.2 }

/-- One block of 128 bytes: eighty rounds from the hash value so far, which is added to their result. -/
def shaBlock (h : List (BitVec 64)) (block : List Byte) : List (BitVec 64) :=
  let words := (List.range 16).map (fun i => BitVec.ofNat 64 (fromBE ((block.drop (8 * i)).take 8)))
  let x := (shaPrimes.map (rootBits 3)).foldl ShaWork.round ⟨h.take 4, h.drop 4, words⟩
  List.zipWith (· + ·) h (x.abcd ++ x.efgh)

/-- The hash value after some blocks of a padded message. -/
def shaFrom : Nat → List (BitVec 64) → List Byte → List (BitVec 64)
  | 0, h, _ => h
  | n + 1, h, m => shaFrom n (shaBlock h (m.take 128)) (m.drop 128)

/-- SHA-512 of a message. -/
def sha512 (m : List Byte) : List Byte :=
  let zeros := (239 - m.length % 128) % 128
  let p := m ++ [0x80] ++ List.replicate zeros 0 ++ bytesBE 16 (8 * m.length)
  (shaFrom (p.length / 128) ((shaPrimes.take 8).map (rootBits 2)) p).flatMap (fun x => bytesBE 8 x.toNat)

/-- b^e mod m by squaring; `fuel` bounds the bits of e. -/
def modPow : Nat → Nat → Nat → Nat → Nat
  | 0, _, _, m => 1 % m
  | fuel + 1, b, e, m =>
    if e = 0 then 1 % m
    else
      let h := modPow fuel (b * b % m) (e / 2) m
      if e % 2 = 0 then h else b * h % m

/-- The encoded message of RSASSA-PKCS1-v1_5 with SHA-512, 512 bytes. -/
def pkcsEncode (m : List Byte) : List Byte :=
  let t : List Byte := [0x30, 0x51, 0x30, 0x0d, 0x06, 0x09, 0x60, 0x86, 0x48, 0x01, 0x65, 0x03, 0x04, 0x02, 0x03, 0x05, 0x00,
    0x04, 0x40] ++ sha512 m
  [0, 1] ++ List.replicate (512 - 3 - t.length) 0xFF ++ [0] ++ t

/-- A signature verifies under a public key. -/
def rsaVerify (modulus exponent signature : Nat) (m : List Byte) : Bool :=
  decide (signature < modulus) && modPow 4096 signature exponent modulus == fromBE (pkcsEncode m)

/-- The signature of a message under a private exponent, most significant byte first. -/
def rsaSign (modulus exponent : Nat) (m : List Byte) : List Byte :=
  bytesBE 512 (modPow 4096 (fromBE (pkcsEncode m)) exponent modulus)

end Sys2Proof.Machine
end

