-- ==== Sys2Proof/Machine/Security.lean ====
section
/-! DEFINITION. Boot, keys and attestation (spec 14 R423 to R428), readiness (R415) and resets (R416, R419). -/

namespace Sys2Proof.Machine

/-! ### Verification (R423) -/

/-- A slot accepts a public key and a signature over some bytes. -/
def slotAccepts (slots : List Config.KeySlot) (slot modulus exponent signature : Nat) (m : List Byte) : Bool :=
  match slots[slot]? with
  | none => false
  | some k =>
    k.programmed && !k.revoked && sha512 (Config.keyBytes modulus exponent) == k.digest &&
      rsaVerify modulus exponent signature m

/-- An image verifies against the fused slots. -/
def imageOk (slots : List Config.KeySlot) (x : Config.Image) : Bool :=
  slotAccepts slots x.slot x.modulus x.exponent x.signature x.body

/-- The five images of a boot in their order: the first stage, and then the later stages (R423). -/
def bootImages (flash : List Byte) : List (Option Config.Image) := Config.parseImage flash :: Config.laterStages flash

/-- A stage of a boot passes: its image is there and verifies. -/
def stagePasses (slots : List Config.KeySlot) (x : Option Config.Image) : Bool := x.any (imageOk slots)

/-- The stage at which a boot fails, from 1, or 0 (R425). -/
def bootFails (slots : List Config.KeySlot) (flash : List Byte) : Nat :=
  match (bootImages flash).findIdx? (fun x => !stagePasses slots x) with
  | some i => i + 1
  | none => 0

/-- A measurement register extended by a digest (R427). -/
def extendBy (m digest : List Byte) : List Byte := sha512 (m ++ digest)

/-- The stages of a boot that pass before one fails: they are measured whatever comes after them (R427). -/
def stagesRun (slots : List Config.KeySlot) (flash : List Byte) : List Config.Image :=
  ((bootImages flash).takeWhile (stagePasses slots)).filterMap id

/-- The measurement registers after a boot: the stages that ran, and, once they all have, the fuse state in MEAS5 (R427, log 10). -/
def measured (meas : List (List Byte)) (slots : List Config.KeySlot) (flash : List Byte) : List (List Byte) :=
  let digests := (stagesRun slots flash).map (fun x => sha512 x.body)
  let m := digests.zipIdx.foldl (fun m di => m.modify di.2 (fun r => extendBy r di.1)) meas
  if bootFails slots flash = 0 then m.modify 5 (fun r => extendBy r (sha512 (Config.fuseBytes slots))) else m

/-- BOOT_STATUS (R425). -/
def bootWord (slots : List Config.KeySlot) (failing : Nat) : Dword :=
  let bits := fun (p : Config.KeySlot → Bool) =>
    ((slots.take 3).zipIdx.filter (fun x => p x.1)).foldl (fun m x => m + 2 ^ x.2) 0
  BitVec.ofNat 64 (failing * 2 ^ 32 + bits (fun k => k.programmed) * 2 ^ 4 + bits (fun k => k.revoked))

/-! ### Readiness (R415, R419) -/

/-- The highest 16 MiB-aligned region of device memory whose stacks are not fenced (R419). -/
def State.listRegion (s : State) : Option Nat :=
  ((List.range 32768).map (fun i => (32767 - i) * 2 ^ 24)).find? (fun base =>
    (List.range 4096).all (fun i => !s.fenceStacks.contains (s.homeOf (base + 4096 * i))))

/-- The firmware has started (R303, R419): it selects the memory map, reserves the region of the retired-page list and writes the
list that the flash holds there. -/
def State.firmwareStarts (s : State) : State :=
  let s := { s with memmapPart := Config.diePartitioned }
  let base := s.listRegion.getD 0
  let s := { s with retiredReg := BitVec.ofNat 64 (s.retiredPages.length * 2 ^ 32 + base / 4096) }
  if base = 0 then s
  else s.retiredPages.zipIdx.foldl (fun s fi => s.hubStoreBeside (base + 8 * fi.2) (bytesLE 8 (2 ^ 63 + fi.1.toNat))) s

/-- A hub die that fails its self-test asks for its replacement (R418). -/
def State.hubTested (s : State) : State := if Config.hubTestFails s.bootCnt then s.replaceRequest 5 0 7 else s

/-- The control complex boots (R423, R425, R427): the stages that run are measured; one that fails leaves CTL 0, and its code in
BOOT_STATUS. -/
def State.boot (s : State) : State :=
  let fails := bootFails s.keySlots s.flash
  let s := { s with bootStatus := bootWord s.keySlots fails, meas := measured s.meas s.keySlots s.flash }
  let s := s.raiseEvent 11 0 s.bootStatus 0
  if fails ≠ 0 then s else s.firmwareStarts.hubTested.setReady 1

/-- Owner firmware on the harts extends MEAS6 or MEAS7 by a digest (R427): no other register, and not before the firmware runs. -/
def State.ownerMeasures (s : State) (i : Nat) (digest : List Byte) : State :=
  if (i = 6 ∨ i = 7) ∧ digest.length = 64 ∧ natBit s.funcReady.toNat 1 then
    { s with meas := s.meas.modify i (fun r => extendBy r digest) }
  else s

/-- FUNCTION_READY (R415): each function once after a reset; a fenced stack or port does not become ready, nor a port whose link
has not trained. -/
def execFunctionReady (bit : Nat) (s : State) : Host.Outcome State Fault Refusal :=
  if 0x100 ≤ bit then
    let p := bit - 0x100
    if 16 ≤ p ∨ natBit s.funcReadyL.toNat p ∨ s.fencePorts.contains p ∨ (s.mport p).state ≠ 2 then .next s
    else .next (s.setReady bit)
  else if 58 ≤ bit ∨ natBit s.funcReady.toNat bit then .next s
  else if bit = 0 then
    let link : Dword := BitVec.ofNat 64 (natBits Config.hostLink.toNat 23 6 * 2 ^ 6)
    .next (({ s with hostcap := s.hostcap ||| link } : State).setReady 0)
  else if bit = 1 then (if natBits s.bootStatus.toNat 63 32 = 0 then .next s.boot else .next s)
  else if 2 ≤ bit ∧ bit < 10 ∧ s.fenceStacks.contains (bit - 2) then .next s
  else if 10 ≤ bit ∧ bit < 18 then .next ((s.setReady bit).raiseEvent 2 (bit - 10) 0 0)
  else .next (s.setReady bit)

/-! ### Recovery (R426) -/

/-- BOOT_CMD written (R426): in recovery, an image that verifies goes to the flash, and the ROM boots again. -/
def State.bootCmd (s : State) (value : Dword) : State :=
  let n := natBits value.toNat 31 0
  let bs := readBytes (cellRead s.recovery) 0 (min n 0x100000)
  if !natBit value.toNat 63 ∨ natBits s.bootStatus.toNat 63 32 = 0 then s
  else match Config.parseImage bs with
    | none => s
    | some x =>
      if imageOk s.keySlots x then
        { s with flash := bs, bootStatus := bootWord s.keySlots 0, meas := List.replicate 8 (List.replicate 64 0) }
      else s

/-- BOOT_CMD (R426). -/
def execBootCmd (value : BitVec 64) (s : State) : Host.Outcome State Fault Refusal := .next (s.bootCmd value)

/-! ### Owner commands (R424) -/

/-- A slot is programmed and not revoked. -/
def slotLive (slots : List Config.KeySlot) (i : Nat) : Bool := ((slots[i]?).map (fun k => k.programmed && !k.revoked)).getD false

/-- A slot has been programmed. -/
def slotUsed (slots : List Config.KeySlot) (i : Nat) : Bool := ((slots[i]?).map (fun k => k.programmed)).getD false

/-- Who may sign a command (R424): an owner slot, and for the first owner slot the vendor slot alone. -/
def signerOk (slots : List Config.KeySlot) (signer : Nat) (op : OwnerOp) : Bool :=
  let owners := slotUsed slots 1 || slotUsed slots 2
  match op with
  | .program _ _ => if owners then decide (signer = 1 ∨ signer = 2) else signer == 0
  | .revoke _ => decide (signer = 1 ∨ signer = 2)

/-- A fuse change (R424): fuses are one-time, and a revocation leaves some slot programmed and unrevoked. -/
def fuse (slots : List Config.KeySlot) (op : OwnerOp) : List Config.KeySlot :=
  match op with
  | .program i digest =>
    if (i = 1 ∨ i = 2) ∧ !slotUsed slots i then slots.set i ⟨digest, true, ((slots[i]?).map (fun k => k.revoked)).getD false⟩
    else slots
  | .revoke i =>
    let after := slots.modify i (fun k => { k with revoked := true })
    if slotLive slots i ∧ (List.range 3).any (slotLive after) then after else slots

/-- OWNER_COMMAND (R424). -/
def execOwnerCommand (cmd : OwnerCmd) (s : State) : Host.Outcome State Fault Refusal :=
  if signerOk s.keySlots cmd.signer cmd.op &&
      slotAccepts s.keySlots cmd.signer cmd.modulus cmd.exponent cmd.signature (Config.ownerMessage cmd.op) then
    let slots := fuse s.keySlots cmd.op
    .next { s with keySlots := slots, bootStatus := bootWord slots (natBits s.bootStatus.toNat 63 32) }
  else .next s

/-! ### The identity certificate (R428) -/

/-- The length of a DER value. -/
def derLen (n : Nat) : List Byte :=
  if n < 128 then [BitVec.ofNat 8 n] else if n < 256 then [0x81, BitVec.ofNat 8 n] else 0x82 :: bytesBE 2 n

/-- A DER value under its tag. -/
def der (tag : Byte) (body : List Byte) : List Byte := tag :: (derLen body.length ++ body)

/-- A positive DER integer of n bytes, whose leading zero keeps it positive. -/
def derNat (n v : Nat) : List Byte := der 0x02 (0 :: bytesBE n v)

/-- The algorithm sha512WithRSAEncryption, 1.2.840.113549.1.1.13. -/
def sha512WithRsa : List Byte := der 0x30 ([0x06, 0x09, 0x2A, 0x86, 0x48, 0x86, 0xF7, 0x0D, 0x01, 0x01, 0x0D] ++ [0x05, 0x00])

/-- The subject public key: the identity key, under rsaEncryption, 1.2.840.113549.1.1.1. -/
def identityKey : List Byte :=
  let alg := der 0x30 ([0x06, 0x09, 0x2A, 0x86, 0x48, 0x86, 0xF7, 0x0D, 0x01, 0x01, 0x01] ++ [0x05, 0x00])
  let key := der 0x30 (derNat 512 Config.identityModulus ++ derNat 4 Config.identityPublic)
  der 0x30 (alg ++ der 0x03 (0 :: key))

/-- What the vendor signs: version 3, and the fields of the certificate in their order (log 10). -/
def certBody : List Byte :=
  let field := fun (i : Nat) => (Config.certField i).take 72
  der 0x30 ([0xA0, 0x03, 0x02, 0x01, 0x02] ++ field 0 ++ sha512WithRsa ++ field 1 ++ field 2 ++ field 3 ++ identityKey ++ field 4)

/-- The X.509 certificate of the identity key, in DER: what is signed, the algorithm, and the vendor key's signature. -/
def certificate : List Byte :=
  der 0x30 (certBody ++ sha512WithRsa ++ der 0x03 (0 :: rsaSign Config.vendorModulus Config.vendorExponent certBody))

/-! ### Quotes (R428) -/

/-- ATT_CMD written (R428). -/
def State.attest (s : State) (value : Dword) : State :=
  if s.attRunning then s
  else { s with attCmd := setField value 63 63 0, attRunning := value == 1 }

/-- The high word of ATT_CMD written alone (R392, R428): the command stands in the other word, and none runs. -/
def State.attestHigh (s : State) (value : Dword) : State :=
  if s.attRunning then s else { s with attCmd := setField value 63 63 0 }

/-- ATT_CMD (R428). -/
def execAttCmd (value : BitVec 64) (s : State) : Host.Outcome State Fault Refusal := .next (s.attest value)

/-- The message of a quote (R428). -/
def State.quote (s : State) : List Byte :=
  s.nonce ++ s.meas.flatten ++ bytesLE 2 s.devid.toNat ++ bytesLE 8 s.bootCnt.toNat

/-- QUOTE_COMPLETE (R428). -/
def execQuoteComplete (s : State) : Host.Outcome State Fault Refusal :=
  if s.attRunning then
    .next { s with
      attRunning := false, attCmd := setField s.attCmd 63 63 1
      attSig := rsaSign Config.identityModulus Config.identityExponent s.quote }
  else .next s

/-! ### Resets (R416) -/

/-- What every reset leaves (R416): the machine after reset, with what is not volatile, or not the device's, as it was: flash, fuses,
boot count and the retired-page list in the flash; the host's and other devices' memory; and the model's own bookkeeping. -/
def State.cleared (s : State) : State :=
  { State.reset with
    archive := []
    archWr := 0
    inbox := s.inbox
    stepNo := s.stepNo
    hostMem := s.hostMem
    remoteMem := s.remoteMem
    remotePoison := s.remotePoison
    hostData := s.hostData
    hostPoison := s.hostPoison
    peerData := s.peerData
    peerPoison := s.peerPoison
    msix := s.msix
    retiredPages := s.retiredPages
    keySlots := s.keySlots
    flash := s.flash
    bootCnt := s.bootCnt }

/-- The archive entry of a reset (R422): 1 cold, 2 warm, 3 thermal. -/
def State.archiveReset (s : State) (how : Nat) : State := s.archivePost 3 0 0 0 (bytesLE 1 how)

/-- COLD_RESET (R416, R428): power-on or a fundamental reset. The boot count rises; the archive's first entry is the reset's. -/
def execColdReset (s : State) : Host.Outcome State Fault Refusal :=
  .next (({ s.cleared with bootCnt := s.bootCnt + 1 } : State).archiveReset 1)

/-- A warm reset (R416): the archive, FENCE_MASK, REPLACE_REQ and the retired-page list stay, and so does the timestamp (R263), the
map mode (R303). -/
def State.warm (s : State) : State :=
  ({ s.cleared with
    time := s.time
    warmAt := s.time
    archive := s.archive
    archWr := s.archWr
    fenceCores := s.fenceCores
    fencePorts := s.fencePorts
    fenceStacks := s.fenceStacks
    replaceReq := s.replaceReq
    memmapPart := s.memmapPart } : State).archiveReset 2

/-- WARM_RESET (R416): RESET_CTL or a hot reset. -/
def execWarmReset (s : State) : Host.Outcome State Fault Refusal := .next s.warm

/-- POWER_LOSS (R416): nothing runs until power-on. -/
def execPowerLoss (s : State) : Host.Outcome State Fault Refusal := .next { s.cleared with powered := false }

end Sys2Proof.Machine
end

