-- ==== Sys2Proof/Machine/HostPort.lean ====
section
/-! DEFINITION. Accesses from outside: BAR 2 (spec 14 R391; 09 R282), Muwin peers (06 R194), and writes of BAR 0 registers (14 R392 to
R394 and the tables of the registers' rules). -/

namespace Sys2Proof.Machine

/-! ### Accesses of device memory by other agents -/

/-- Bytes that an operation touches. -/
def memOpSize (op : MemOp) : Nat :=
  match op with
  | .read n => n
  | .write bs => bs.length
  | .fetchAdd n _ | .swap n _ | .cas n _ _ => n
  | .atom _ ty _ => ty.bytes
  | .ticket => 0

/-- Every stack that n bytes stand on is open (R415, R417). -/
def State.opensAt (s : State) (pa n : Nat) : Bool :=
  (dwordsOf pa n).all (fun i => decide (Config.devBytes ≤ 8 * i) || s.stackOpen (8 * i))

/-- Bytes that another agent reads at a device address: beyond the memory they are zero. -/
def State.agentRead (s : State) (pa n : Nat) : State × List Byte × Bool :=
  let m := min n (Config.devBytes - pa)
  let s := if m = 0 then s else (s.accessAs .read 0).hubFetch pa m
  (s, readBytes s.viewByte pa m ++ List.replicate (n - m) 0, decide (0 < m) && s.devPoisoned pa m)

/-- Bytes that another agent writes: beyond the memory they are dropped. -/
def State.agentWrite (s : State) (pa : Nat) (bs : List Byte) : State :=
  (s.accessAs .write 0).hubStore pa (bs.take (Config.devBytes - pa))

/-- An atomic operation at a home slice, which holds the target in M throughout (R194, R296): a poisoned target is not written (R183). -/
def State.agentAtomic (s : State) (pa n : Nat) (g : Nat → Option Nat) : State × List Byte × Bool :=
  let m := min n (Config.devBytes - pa)
  let s := if m = 0 then s else s.hubOwn pa m
  let old := readBytes s.viewByte pa m ++ List.replicate (n - m) 0
  if decide (0 < m) && s.devPoisoned pa m then (s, old, true)
  else
    match g (fromLE old) with
    | some v => ((s.accessAs .rmw 0).hubStore pa ((bytesLE n v).take m), old, false)
    | none => (s, old, false)

/-- An operation of another agent, performed at the slices of the home dies (R194, R391). A ticket request is answered with the next
ticket by the ordering point alone (R432). -/
def State.agentOp (s : State) (pa : Nat) (op : MemOp) : State × List Byte × Bool :=
  match op with
  | .read n => s.agentRead pa n
  | .write bs => (s.agentWrite pa bs, [], false)
  | .fetchAdd n v => s.agentAtomic pa n (fun old => some ((old + v) % 256 ^ n))
  | .swap n v => s.agentAtomic pa n (fun _ => some v)
  | .cas n e v => s.agentAtomic pa n (fun old => if old = e % 256 ^ n then some v else none)
  | .atom op ty v => s.agentAtomic pa ty.bytes (fun old => some (atomNew op.toNat ty old (v % 256 ^ ty.bytes)))
  | .ticket => if s.ordersFences then ({ s with tickets := s.tickets + 1 }, bytesLE 8 (s.tickets + 1), false) else (s, [], false)

/-- Device address of a byte of BAR 2 (R391). -/
def State.bar2 (s : State) (offset : Nat) : Nat := (if Config.bar2Full then 0 else s.bar2Base.toNat * 2 ^ 30) + offset

/-- The operation is one that a PCIe link carries (R391, R393): the other atomics and tickets are those of Muwin peers (R429, R432). -/
def MemOp.ofHost : MemOp → Bool
  | .atom _ _ _ | .ticket => false
  | _ => true

/-- HOST_BAR2_ACCESS (R391): an access of the host agent at sys scope. One to a stack that is not ready waits (R415). -/
def execHostBar2Access (offset : Nat) (op : MemOp) (s : State) : Host.Outcome State Fault Refusal :=
  let pa := s.bar2 offset
  if !MemOp.ofHost op then .next s
  else if !s.opensAt pa (memOpSize op) then .next { s with waiting := s.waiting ++ [.hostBar2Access offset op] }
  else match s.agentOp pa op with
    | (s, bs, poison) => .next ({ s with hostData := bs, hostPoison := poison } : State).settle

/-- MUWIN_PEER_ACCESS (R194, R301, R432): an access of another device, or its request for a ticket. -/
def execMuwinPeerAccess (addr : Nat) (op : MemOp) (s : State) : Host.Outcome State Fault Refusal :=
  if !s.opensAt addr (memOpSize op) then .next { s with waiting := s.waiting ++ [.muwinPeerAccess addr op] }
  else match s.agentOp addr op with
    | (s, bs, poison) => .next ({ s with peerData := bs, peerPoison := poison } : State).settle

/-! ### Register writes (R392) -/

/-- FENCE_SET written (R393, R417). -/
def State.fenceSet (s : State) (v : Dword) : State :=
  let unit := natBits v.toNat 11 0
  match natBits v.toNat 15 12 with
  | 1 => s.fenceCore unit 0
  | 2 => s.fenceCluster unit 0
  | 3 => s.fenceStack unit 0
  | 4 => s.fencePort unit 0
  | _ => s

/-- The device block (R393, R432): what a register's new value v does. -/
def State.writeDevice (s : State) (o : Nat) (v : Dword) : State :=
  match o with
  | 0x008 => { s with hostcap := takeField s.hostcap v 4 2 }
  | 0x010 => { s with funcMode := takeField s.funcMode v 6 0 }
  | 0x028 => s.fenceSet v
  | 0x070 => { s with devid := v.extractLsb' 0 12 }
  | 0x078 => { s with boardCap := clamp 1400 2800 (natBits v.toNat 15 0) }
  | 0x080 => { s with throt := v.extractLsb' 32 16 }
  | 0x098 => { s with bar2Base := v.extractLsb' 0 9 }
  | 0x0A0 => if natBit v.toNat 0 then s.warm else s
  | 0x0A8 => { s with mwOrd := takeField s.mwOrd v 12 0 }
  | _ => s

/-- Faults and translation (R369, R373, R378, R380). -/
def State.writeFaults (s : State) (o : Nat) (v : Dword) : State :=
  let off := !natBit s.fqCtl.toNat 31
  match o with
  | 0x000 => if off then { s with fqBase := takeField (takeField s.fqBase v 63 63) v 51 12 } else s
  | 0x008 => { s with fqCtl := takeField (if off then takeField s.fqCtl v 4 0 else s.fqCtl) v 31 31 }
  | 0x018 => { s with fqRd := v.extractLsb' 0 32 }
  | 0x020 => match execFqResume (v.extractLsb' 0 32) s with | .next s => s | _ => s
  | 0x040 => { s with xltCtxBase := takeField s.xltCtxBase v 38 16 }
  | 0x048 => match execXltInv v s with | .next s => s | _ => s
  | 0x088 => match execDqPush v s with | .next s => s | _ => s
  | 0x098 => match execDqStatClear v s with | .next s => s | _ => s
  | _ => s

/-- The event block (R413, R414). -/
def State.writeEvents (s : State) (o : Nat) (v : Dword) : State :=
  match o with
  | 0x000 => { s with hevBase := takeField s.hevBase v 63 6 }
  | 0x008 => { s with hevCtl := takeField (takeField s.hevCtl v 31 31) v 4 0 }
  | 0x018 => { s with hevRd := v.extractLsb' 0 32 }
  | 0x080 => { s with lmbRec := v }
  | 0x088 => match execLmbGo v s with | .next s => s | _ => s
  | 0x090 => { s with lmbIdx := v }
  | 0x0A0 => { s with lmbSig := v }
  | _ => s

/-- The security engine (R426, R428): the nonce, and the two commands. -/
def State.writeSecurity (s : State) (o : Nat) (v : Dword) : State :=
  if o = 0x008 then s.bootCmd v
  else if o = 0x010 then s.attest v
  else s

/-- The QCTL register of a queue (R397): LOG2N and CTX only while DISABLED, and EN last. -/
def State.writeQctl (s : State) (q : Nat) (v : Dword) : State :=
  let x := s.queue q
  let c := if x.state = 0 then takeField (takeField x.qctl v 23 12) v 4 0 else x.qctl
  let c := takeField c v 27 24
  let s := s.onQueue q (fun (x : Queue) => { x with qctl := c })
  if natBit v.toNat 31 then (if x.state = 0 then (s.onQueue q Queue.enable).rotate else s.rotate)
  else (s.onQueue q Queue.disable).rotate

/-- A queue's descriptor (R397). -/
def State.writeQueue (s : State) (q o : Nat) (v : Dword) : State :=
  match o with
  | 0x00 =>
    if (s.queue q).state = 0 then
      s.onQueue q (fun (x : Queue) => { x with qbase := takeField (takeField x.qbase v 63 63) v 55 6 })
    else s
  | 0x08 => s.writeQctl q v
  | 0x10 => s.onQueue q (fun (x : Queue) => { x with quantum := takeField x.quantum v 31 0 })
  | _ => s

/-- A core block (R394, R328, R329, R382). -/
def State.writeCore (s : State) (k o : Nat) (v : Dword) : State :=
  match o with
  | 0x000 => s.onCore k (fun (c : Core) =>
      let old := takeField (takeField (takeField c.ksched v 60 56) v 52 48) v 44 40
      { c with ksched := takeField (takeField old v 31 16) v 15 0 })
  | 0x008 => s.onCore k (fun (c : Core) => c.setBudget (natBits v.toNat 15 0))
  | 0x010 => s.onCore k (fun (c : Core) => { c with kwdog := takeField c.kwdog v 4 0 })
  | _ => s

/-- Route-table entries d to d + 3 (R431). -/
def State.writeRoutes (s : State) (o : Nat) (v : Dword) : State :=
  let one := fun (m : Table (BitVec 16)) (i : Nat) =>
    let x : BitVec 16 := v.extractLsb' (16 * i) 16
    if x = 0 then m.del (o / 2 + i) else m.put (o / 2 + i) x
  { s with routes := (List.range 4).foldl one s.routes }

/-! ### The registers as they read (R392) -/

/-- Eight bytes of a list from an offset, as a dword. -/
def dwordAt (bs : List Byte) (o : Nat) : Nat := fromLE ((bs.drop o).take 8)

/-- A mask of units. -/
def unitMask (l : List Nat) (base n : Nat) : Nat :=
  (List.range n).foldl (fun m i => if l.contains (base + i) then m + 2 ^ i else m) 0

/-- The device block as it reads (R393, R432). -/
def State.readDevice (s : State) (o : Nat) : Nat :=
  match o with
  | 0x000 => 0x4B560320 * 2 ^ 32 + Config.stepping.toNat * 2 ^ 16
  | 0x008 => s.hostcap.toNat
  | 0x010 => s.funcMode.toNat
  | 0x018 => s.funcReady.toNat
  | 0x020 => s.funcReadyL.toNat
  | 0x058 => unitMask s.fencePorts 0 16 * 2 ^ 8 + unitMask s.fenceStacks 0 8
  | 0x060 => s.replaceReq.toNat
  | 0x068 => if s.memmapPart then 1 else 0
  | 0x070 => s.devid.toNat
  | 0x078 => s.boardCap
  | 0x080 => s.therm
  | 0x088 => s.retiredReg.toNat
  | 0x098 => s.bar2Base.toNat
  | 0x0A8 => s.mwOrd.toNat
  | _ => if 0x030 ≤ o ∧ o < 0x058 then unitMask s.fenceCores (8 * (o - 0x030)) 64 else 0

/-- Faults, translation and the freeing of pages as they read (R369, R373, R378, R380). -/
def State.readFaults (s : State) (o : Nat) : Nat :=
  match o with
  | 0x000 => s.fqBase.toNat
  | 0x008 => s.fqCtl.toNat
  | 0x010 => s.fqWr.toNat
  | 0x018 => s.fqRd.toNat
  | 0x028 => s.fqStat
  | 0x040 => s.xltCtxBase.toNat
  | 0x048 => s.xltInv.toNat
  | 0x080 => s.epoch.toNat * 2 ^ 32 + s.qdone.toNat
  | 0x090 => s.dqPop
  | 0x098 => s.dq.length * 2 ^ 16 + (if s.dqOvf then 1 else 0)
  | _ => 0

/-- The event block as it reads (R413, R414, R422). -/
def State.readEvents (s : State) (o : Nat) : Nat :=
  match o with
  | 0x000 => s.hevBase.toNat
  | 0x008 => s.hevCtl.toNat
  | 0x010 => s.hevWr.toNat
  | 0x018 => s.hevRd.toNat
  | 0x020 => s.hevDrop.toNat
  | 0x040 => s.archWr.toNat
  | 0x080 => s.lmbRec.toNat
  | 0x090 => s.lmbIdx.toNat
  | 0x098 => s.lmbStat
  | 0x0A0 => s.lmbSig.toNat
  | _ => 0

/-- The security engine as it reads (R425, R427, R428). -/
def State.readSecurity (s : State) (o : Nat) : Nat :=
  if o = 0x000 then s.bootStatus.toNat
  else if o = 0x010 then s.attCmd.toNat
  else if o = 0x018 then certificate.length % 2 ^ 16
  else if o = 0x020 then s.bootCnt.toNat
  else if 0x100 ≤ o ∧ o < 0x300 then dwordAt s.meas.flatten (o - 0x100)
  else if 0x800 ≤ o ∧ o < 0xA00 then dwordAt s.attSig (o - 0x800)
  else if 0xA00 ≤ o ∧ o < 0x1000 then dwordAt certificate (o - 0xA00)
  else 0

/-- A queue's descriptor as it reads (R397). -/
def Queue.read (x : Queue) (o : Nat) : Nat :=
  match o with
  | 0x00 => x.qbase.toNat
  | 0x08 => x.qctl.toNat
  | 0x10 => x.quantum.toNat
  | 0x18 => x.qwr.toNat
  | 0x20 => x.qrd.toNat
  | 0x28 => x.qerridx.toNat
  | _ => 0

/-- A core block as it reads (R394). -/
def State.readCore (s : State) (k o : Nat) : Nat :=
  match o with
  | 0x000 => (s.core k).ksched.toNat
  | 0x008 => (s.core k).kpwr.toNat
  | 0x010 => (s.core k).kwdog.toNat
  | _ => if 0x040 ≤ o ∧ o < 0x080 then (s.counter k ((o - 0x040) / 8)).toNat else 0

/-- The dword that BAR 0 shows at an offset (R392): an offset that the map does not list, and a register that is written only, read
zero. -/
def State.readReg (s : State) (a : Nat) : Nat :=
  if a < 0x1000 then s.readDevice a
  else if a < 0x2000 then s.readFaults (a - 0x1000)
  else if a < 0x3000 then s.readEvents (a - 0x2000)
  else if a < 0x4000 then s.readSecurity (a - 0x3000)
  else if a < 0x5000 then
    let p := s.mport ((a - 0x4000) / 256)
    if a % 256 = 0 then p.ctl.toNat else if a % 256 = 8 then p.stat else 0
  else if 0x8000 ≤ a ∧ a < 0xA000 then
    (List.range 4).foldl (fun d i => d + ((s.routes.look ((a - 0x8000) / 2 + i)).getD 0).toNat * 2 ^ (16 * i)) 0
  else if 0x10000 ≤ a ∧ a < 0x20000 then (s.queue ((a - 0x10000) / 64)).read (a % 64)
  else if 0x20000 ≤ a ∧ a < 0x30000 then dwordAt ((s.archive.look ((a - 0x20000) / 64)).getD []) (a % 64)
  else if 0x100000 ≤ a ∧ a < 0x240000 then s.readCore ((a - 0x100000) / 4096) (a % 4096)
  else 0

/-- A register's value for the word that a word access leaves out: of a command register, the fields that were last written there. -/
def State.regOld (s : State) (a : Nat) : Dword :=
  if a = 0x1098 then 0
  else if a = 0x1088 then s.dqLow
  else if a = 0x3010 then setField s.attCmd 63 63 0
  else if a = 0x2088 then s.lmbLow
  else if a = 0x3008 then s.bootLow
  else BitVec.ofNat 64 (s.readReg a)

/-- The low words of the command registers DQ_PUSH, LMB_CTL and BOOT_CMD keep what is written to them (log 86). -/
def State.keepLow (s : State) (a : Nat) (v : Dword) : State :=
  if a = 0x1088 then { s with dqLow := setField v 63 32 0 }
  else if a = 0x2088 then { s with lmbLow := setField v 63 32 0 }
  else if a = 0x3008 then { s with bootLow := setField v 63 32 0 }
  else s

/-- A register takes a new value (R392): an offset that the map does not list, or that is read only, takes none. -/
def State.writeReg (s : State) (a : Nat) (v : Dword) : State :=
  if a < 0x1000 then s.writeDevice a v
  else if a < 0x2000 then s.writeFaults (a - 0x1000) v
  else if a < 0x3000 then s.writeEvents (a - 0x2000) v
  else if a < 0x4000 then s.writeSecurity (a - 0x3000) v
  else if a < 0x5000 then
    let p := (a - 0x4000) / 256
    if a % 256 = 0 then s.enablePort p v else s
  else if 0x8000 ≤ a ∧ a < 0xA000 then s.writeRoutes (a - 0x8000) v
  else if 0x10000 ≤ a ∧ a < 0x20000 then s.writeQueue ((a - 0x10000) / 64) (a % 64) v
  else if 0x100000 ≤ a ∧ a < 0x240000 then s.writeCore ((a - 0x100000) / 4096) (a % 4096) v
  else s

/-- The words of a register that a control bit of which a write acts on: a word access of the other word touches none of its fields
(R392). -/
def actsOnLow (a : Nat) : Bool := a == 0x028 || a == 0x0A0 || a == 0x1018 || a == 0x1020 || a == 0x1098

/-- Commands that a write of the high word gives: of a page's number, DQ_PUSH has its upper part there (log 86). -/
def actsOnHigh (a : Nat) : Bool := a == 0x1088 || a == 0x2088 || a == 0x3008

/-- The host writes BAR 0 (R392): an aligned dword, or either aligned word of it. Bytes of the nonce (R428) and of the recovery buffer
(R426) are written as they stand. -/
def State.hostWritesReg (s : State) (offset size : Nat) (value : BitVec 64) : State :=
  if 0x3600 ≤ offset ∧ offset < 0x3640 then
    let bs := bytesLE size value.toNat
    { s with nonce := bs.zipIdx.foldl (fun l bi => l.set (offset - 0x3600 + bi.2) bi.1) s.nonce }
  else if 0x300000 ≤ offset ∧ offset < 0x400000 then
    { s with recovery := cellWrites s.recovery (offset - 0x300000) (bytesLE size value.toNat) }
  else
    let a := offset / 8 * 8
    let old := s.regOld a
    let high := offset % 8 == 4
    let v : Dword :=
      if size = 8 then value
      else if high then setField old 63 32 (value.toNat % 2 ^ 32)
      else setField old 31 0 (value.toNat % 2 ^ 32)
    let s := s.keepLow a v
    if size = 4 ∧ high ∧ a = 0x3010 then s.attestHigh v
    else if size = 4 ∧ ((high ∧ actsOnLow a) ∨ (!high ∧ actsOnHigh a)) then s else (s.writeReg a v).settle

/-- The words that a read of some bytes of a register covers. -/
def readWords (offset size : Nat) : RegAccess := if size = 8 then .dword else if offset % 8 = 4 then .high else .low

/-- The state that an outcome gives. -/
def nextOr (s : State) (o : Host.Outcome State Fault Refusal) : State := match o with | .next t => t | _ => s

/-- The host reads BAR 0 (R392): the registers with fields that a read clears or takes away do so (R369, R380, R413, R414, R430). -/
def State.hostReadsReg (s : State) (offset size : Nat) : State :=
  let a := offset / 8 * 8
  let acc := readWords offset size
  let s :=
    if a = 0x1028 then nextOr s (execFqStatRead acc s)
    else if a = 0x1090 then nextOr s (execDqPop acc s)
    else if a = 0x2020 then nextOr s (execHevStatRead acc s)
    else if a = 0x2098 then nextOr s (execLmbStatRead acc s)
    else if 0x4000 ≤ a ∧ a < 0x5000 ∧ a % 256 = 8 then nextOr s (execMwpStatRead ((a - 0x4000) / 256) acc s)
    else s.hostReads acc (s.readReg a)
  { s with hostData := (s.hostData.drop (offset % 8)).take size }

/-- REGISTER_WRITE (R392): an access of BAR 0 by the host or a control hart, a write of a value or, with none, a read. An access of
another size or alignment reads zero and writes nothing. -/
def execRegisterWrite (offset size : Nat) (value : Option (BitVec 64)) (s : State) : Host.Outcome State Fault Refusal :=
  if (size ≠ 4 ∧ size ≠ 8) ∨ offset % size ≠ 0 then
    match value with
    | some _ => .next s
    | none => .next { s with hostData := List.replicate size 0, hostPoison := false }
  else match value with
    | some v => .next (s.hostWritesReg offset size v)
    | none => .next (s.hostReadsReg offset size)

/-! ### The control harts (R408, R410) and the host's own memory (R440) -/

/-- Bytes of device memory that a hart's access touches. -/
def HartOp.span (op : HartOp) : Option (Nat × Nat) :=
  match op with
  | .load _ (.device pa) n _ => some (pa, n)
  | .store (.device pa) bs => some (pa, bs.length)
  | .amo _ (.device pa) _ ty _ => some (pa, ty.bytes)
  | _ => none

/-- A register of a hart takes a value: x0 reads zero. -/
def State.hartSets (s : State) (h rd : Nat) (v : Dword) : State :=
  if rd = 0 then s else { s with harts := s.harts.modify h (fun (x : Hart) => { x with x := x.x.set rd v }) }

/-- Loaded bytes as a register holds them, with sign or without. -/
def hartLoaded (bs : List Byte) (signed : Bool) : Dword :=
  if signed then (BitVec.ofNat (8 * bs.length) (fromLE bs)).signExtend 64 else BitVec.ofNat 64 (fromLE bs)

/-- A hart reads: registers at the offsets of BAR 0 (R392), device memory through the home slices, host memory through the host port. What it
finds in a poisoned place is open (log 77). -/
def State.hartLoad (s : State) (a : HartAddr) (n : Nat) : State × List Byte :=
  match a with
  | .register off =>
    match execRegisterWrite off n none s with
    | .next t => ({ t with hostData := s.hostData, hostPoison := s.hostPoison }, t.hostData)
    | _ => (s, List.replicate n 0)
  | .device pa =>
    match s.agentOp pa (.read n) with
    | (t, bs, false) => (t.settle, bs)
    | (t, _, true) => (t.settle, bytesLE n (Config.hartValue s.stepNo pa 1024).toNat)
  | .host ba => (s, readBytes (cellRead s.hostMem) ba n)

/-- A hart writes. -/
def State.hartStore (s : State) (a : HartAddr) (bs : List Byte) : State :=
  match a with
  | .register off =>
    match execRegisterWrite off bs.length (some (BitVec.ofNat 64 (fromLE bs))) s with
    | .next t => t
    | _ => s
  | .device pa => (s.agentOp pa (.write bs)).1.settle
  | .host ba => s.hostPut ba bs

/-- A hart's atomic operation: its old value. BAR 0 has none: it is another access, and reads zero (R392). -/
def State.hartAmo (s : State) (a : HartAddr) (op : BitVec 4) (ty : Ty) (v : Nat) : State × List Byte :=
  match a with
  | .register _ => (s, List.replicate ty.bytes 0)
  | .device pa =>
    match s.agentOp pa (.atom op ty v) with
    | (t, bs, false) => (t.settle, bs)
    | (t, _, true) => (t.settle, bytesLE ty.bytes (Config.hartValue s.stepNo pa 1024).toNat)
  | .host ba =>
    let old := readBytes (cellRead s.hostMem) ba ty.bytes
    (s.hostPut ba (bytesLE ty.bytes (atomNew op.toNat ty (fromLE old) (v % 256 ^ ty.bytes))), old)

/-- What a control hart does outside itself (R408, R410): an agent at sys scope, whose accesses take effect in the order of its program, so
that a fence orders nothing further. The harts run once the firmware has started (R411). -/
def State.hartDoes (s : State) (h : Nat) (op : HartOp) : State :=
  if 8 ≤ h ∨ !natBit s.funcReady.toNat 1 then s
  else match op with
    | .load rd a n signed => let r := s.hartLoad a n; r.1.hartSets h rd (hartLoaded r.2 signed)
    | .store a bs => s.hartStore a bs
    | .amo rd a op ty v => let r := s.hartAmo a op ty v; r.1.hartSets h rd (hartLoaded r.2 true)
    | .fence => s

/-- An input waits at the head of the others: a hart's access to a stack that is not ready (R415). -/
def State.inputWaits (s : State) (i : Input) : Bool :=
  match i with
  | .hart _ op => op.span.any (fun x => !s.opensAt x.1 x.2)
  | _ => false

/-- An input that is no row of the table takes effect. -/
def State.takesInput (s : State) (i : Input) : State :=
  match i with
  | .run _ => s
  | .hostMemory ba bs => s.hostPut ba bs
  | .hart h op => s.hartDoes h op
  | .measure i digest => s.ownerMeasures i digest

end Sys2Proof.Machine
end

