-- ==== Sys2Proof/Machine/Agenda.lean ====
section
/-! DEFINITION. What the hardware may do next on its own (log 1), and what passing time changes. -/

namespace Sys2Proof.Machine

/-- The words of a line for which loads wait, as a mask. -/
def Core.missMask (c : Core) (line : Nat) : Nat :=
  unitMask (c.misses.map (fun (m : L1Miss) => m.key)) (16 * line) 16

/-- Activities of a core: its elements and tokens, its block scheduler, its engines and its watchdogs. -/
def Core.agenda (c : Core) (k : Nat) : List Instr :=
  (c.flights.zipIdx.filter (fun x => c.firstOfEdge x.2 x.1)).map (fun x => Instr.tokenArrival k x.2) ++
    ((c.rq.map (fun (f : Firing) => f.elem)).dedup).map (fun e => Instr.elementIssue k e) ++
    (List.range c.parked.length).flatMap (fun i =>
      [Instr.creditReturn k i, .waitWatchdog k i, .scTicket k i, .recordPoolExhausted k i]) ++
    (c.loops.zipIdx).flatMap (fun x => [Instr.loopIssue k x.1.elem x.1.slot, .tagStarve k x.2]) ++
    (c.headers.map (fun (x : Pending) => Instr.loopIssue k x.elem x.slot)) ++
    (if c.mxSent.isEmpty then [] else [.matrixAccept k, .accExhausted k]) ++
    (if c.mxQueue.isEmpty then [] else [.matrixExecuteComplete k]) ++
    c.copyTurn.toList.map (fun i => Instr.copyBurst k i) ++
    c.transfers.map (fun (x : Transfer) => Instr.engineOperationComplete k x.id) ++
    ((c.misses.map (fun (m : L1Miss) => m.key / 16)).dedup).map (fun l => Instr.cacheFill k l (c.missMask l)) ++
    ((c.tileReqs.map TileReq.bank).dedup).map (fun b => Instr.tileRequestService k b) ++
    (c.threads.filter (fun (kt : Nat × Thread) => kt.2.dead)).map (fun kt => Instr.faultedDrained k kt.1) ++
    (if c.rows.isEmpty then [] else [.gangSnapshot k, .switchBegin k, .flip k, .decodeStart k]) ++
    (if c.decoding.isSome then [.configCacheFill k, .decodeReady k] else []) ++
    (if c.idleSince.isSome then [.pinWatchdog k] else [])

/-- Activities for a launch or graph. -/
def Launch.agenda (l : Launch) : List Instr :=
  (List.range Config.cores).map (fun k => Instr.validateKernel k l.id) ++
    (if l.graph then [.graphComplete l.id, .graphPreempt l.id .workgroup, .graphPreempt l.id .load]
     else (List.range 40).map (fun cl => Instr.admitWorkgroup l.id cl) ++
      [.launchPreempt l.queue, .workgroupPreempt l.id, .loadPreempt l.id]) ++ [.launchComplete l.id, .restore l.id]

/-- Activities of the scheduler for a queue. -/
def queueAgenda (q : Nat) : List Instr :=
  [.packetHeaderPoll q, .packetNop q, .packetLaunch q, .packetGraph q, .packetCopy q, .packetWaitsig q, .packetBarrierAnd q,
    .packetRetire q, .quantumExpiry q]

/-- The line that the patrol scrubber reads next: which one is open (log 1). -/
def State.scrubLine (s : State) : Nat := Config.schedule (2 ^ 64 + s.stepNo) % (Config.devBytes / 128)

/-- Functions that the device brings up by itself after a reset (R415); the two links come up by an input. -/
def State.bringUp (s : State) : List Instr :=
  ((List.range 57).filter (fun i => !natBit s.funcReady.toNat (i + 1))).map (fun i => Instr.functionReady (i + 1))

/-- Everything the hardware may do next on its own. -/
def State.agenda (s : State) : List Instr :=
  s.cores.flatMap (fun kc => kc.2.agenda kc.1) ++ s.launches.flatMap Launch.agenda ++
    s.queues.flatMap (fun kv => queueAgenda kv.1) ++ s.bringUp ++ s.waiting ++
    (List.range s.evPending.length).map Instr.eventToken ++
    [.eventTokenRetry, .deferredRecordWrite, .xltInvDone, .pageRelease, .quoteComplete, .governorTick, .patrolScrub s.scrubLine]

/-- The activity that comes next (log 1). -/
def State.nextActivity (s : State) : Instr :=
  (s.agenda[Config.schedule s.stepNo % s.agenda.length]?).getD .eventTokenRetry

/-- An activity has been chosen. -/
def State.chosen (s : State) (i : Instr) : State := { s with waiting := s.waiting.erase i }

/-! ### Stored bits that go bad (log 74) -/

/-- Fabric cycles of a patrol period of 24 hours (R304). -/
def patrolPeriod : Nat := 24 * 60 * 60 * 1000000 * microsecond

/-- An error of a page of HBM that was corrected is counted within the patrol period: at the sixteenth the page becomes a candidate for
retirement (R304, R381). -/
def State.countCorrected (s : State) (page : Nat) : State :=
  let s := if s.patrolAt + patrolPeriod ≤ s.time then { s with corrected := [], patrolAt := s.time } else s
  let n := (s.corrected.look page).getD 0 + 1
  let s := { s with corrected := s.corrected.put page n }
  if n = 16 then s.candidate page else s

/-- An error that cannot be corrected in a core's stacks, accumulator memory or configuration cache is reported (R362); at the third within
one hour the core has failed, and is fenced (R417, R418). -/
def State.coreError (s : State) (k detail : Nat) : State :=
  let s := s.postUnitError detail (some k) none
  let recent := s.coreErrors.filter (fun e => decide (s.time < e.2 + patrolPeriod / 24))
  let s := { s with coreErrors := recent ++ [(k, s.time)] }
  if 3 ≤ (s.coreErrors.filter (fun e => e.1 == k)).length && !s.fenceCores.contains k then s.fenceCore k 2 else s

/-- The word of a CACHE tile, by its place in the list of tiles and its dword there, that fails (R286, R293): it is poisoned. -/
def Core.cacheDecay (c : Core) (place tiles d : Nat) : Option Core :=
  let here := fun (w : L1Word) => l1Line w.key % tiles == place && l1Line w.key / tiles % 64 == d / 64
  let ways := ((c.l1.filter here).map (fun (w : L1Word) => w.key / 16)).dedup
  let bad := fun (w : L1Word) => here w && ways[d / 16 % 4]? == some (w.key / 16) && w.key % 16 == d % 16
  if c.l1.any bad then some { c with l1 := c.l1.map (fun (w : L1Word) => if bad w then { w with poison := true } else w) } else none

/-- An entry of a FIFO tile fails: its token is Poison (R286, R290). -/
def Core.fifoDecay (c : Core) (tile i : Nat) : Option Core :=
  let held := c.flights.zipIdx.filter (fun (x : Flight × Nat) => c.load.fifoOf (16 * x.1.srcElem + x.1.srcSlot) x.1.srcDst == some tile)
  (held[i]?).map (fun x => { c with flights := c.flights.modify x.2 (fun (g : Flight) => { g with val := .err .poison }) })

/-- A stored value of a LINE tile fails: it is Poison (R286, R291). -/
def Core.lineDecay (c : Core) (tile d : Nat) : Option Core :=
  let n := c.load.sizeOf tile + 1
  (c.lines.look tile).bind (fun x =>
    let i := (d + n - (x.count - x.vals.length) % n) % n
    if d < n ∧ i < x.vals.length then some { c with lines := c.lines.put tile { x with vals := x.vals.set i (.err .poison) } } else none)

/-- A dword of a memory tile fails (R286): what its role keeps there is poisoned. A dword whose written bit is clear reads as zero all the
same (R289), and where the tile holds nothing nothing is found. -/
def Core.tileDecay (c : Core) (n : Nat) : Option Core :=
  let tile := 8 * n / Config.tileBytes
  let d := n % (Config.tileBytes / 8)
  match ((c.load.roles[tile]?).map TileRole.role).getD .off with
  | .cache =>
    let tiles := c.load.tilesOf .cache
    c.cacheDecay (tiles.findIdx (fun t => t == tile)) tiles.length d
  | .fifo => c.fifoDecay tile (d / 2)
  | .line => c.lineDecay tile d
  | _ => if c.tileWritten.contains n then some (c.tileMarkPoison (8 * n)) else none

/-- What goes wrong with stored bits: a burst of HBM is found when it is next read (R304); the other memories find their errors at once,
mark the dword or the element, and report 0x21 (R183, R286, R362). The load that a configuration cache loses is fetched again (R309). -/
def State.decay (s : State) (d : Config.Decay) : State :=
  match d with
  | .none => s
  | .burst n => if 32 * n < Config.devBytes then { s with badBursts := insertNat s.badBursts n } else s
  | .corrected page => if 4096 * page < Config.devBytes then s.countCorrected page else s
  | .tile k n =>
    if Config.cores ≤ k ∨ 32 * Config.tileBytes ≤ 8 * n then s
    else match (s.core k).tileDecay n with
      | some c => (s.setCore k c).postUnitError 2 (some k) none
      | none => s
  | .stack k t n =>
    if (s.thread k t).state = .free then s
    else (s.onThread k t (fun th =>
      { th with live := th.live.put n { (th.live.look n).getD ⟨false, 0, false⟩ with mark := true } })).coreError k 3
  | .acc k n =>
    if Config.cores ≤ k ∨ 128 * 256 ≤ n then s
    else (s.onCore k (fun (c : Core) =>
      { c with acc := c.acc.put n { (c.acc.look n).getD ⟨false, 0⟩ with poison := true } })).coreError k 4
  | .slice die n =>
    match s.l2.look n with
    | none => s
    | some w =>
      if (w.holders.look die).isNone then s
      else ({ s with l2 := s.l2.put n { w with poison := true } } : State).postUnitError 1 none (some (8 * n))
  | .config k i =>
    if (s.core k).cache[i]?.isNone then s
    else (s.onCore k (fun (c : Core) => { c with cache := c.cache.eraseIdx i })).coreError k 5

/-! ### The end of a cycle (log 73) -/

/-- Opcodes of block terminators (R139). -/
def isTerminator (opc : Nat) : Bool := decide (0x7B ≤ opc ∧ opc ≤ 0x81)

/-- An instance of `recalloc`, whose record a thread that ends in the same cycle may free (R347). -/
def State.allocates (s : State) (f : Firing) : Bool := (s.core f.core).load.opc f.node == some 0xF0

/-- The home die of the node for which a `recalloc` asks: its launcher asks the hub (R346). -/
def State.allocDie (s : State) (f : Firing) : Nat :=
  match (s.graph? (s.ft f).launch), (s.core f.core).load.fields f.node with
  | some g, some w => ((g.nodes[(s.opA f w).bits.toNat]?).map GNode.home).getD 0
  | _, _ => 0

/-- The part of its cycle in which an instance takes effect: terminators come after what the same cycle holds (R139), but for one that
faults, which stands by its element (R24, R366); a record that they free serves the allocations of the cycle, which come next (R347), each
before the terminator of its own thread. -/
def State.cyclePhase (s : State) (f : Firing) : Nat :=
  match (s.core f.core).load.opc f.node, (s.core f.core).load.fields f.node with
  | some o, some w =>
    if o = 0xF0 then 2
    else if !isTerminator o || s.faultsAtEnd f o w then 0
    else if s.issued.any (fun g => g.core == f.core && g.thread == f.thread && s.allocates g) then 3 else 1
  | _, _ => 0

/-- Where an instance stands among those that take effect in one cycle: by its part of the cycle; an allocation by the die of its launcher
(R346); by core, element and slot (R24, R366); within a slot by thread slot at a memory tile (R202), and else by arrival, thread slot and
iteration (R247, R248). -/
def State.cycleRank (s : State) (f : Firing) : List Nat :=
  let c := s.core f.core
  let o := (c.load.opc f.node).getD 0
  let it := c.iterations f.node f.tag
  [s.cyclePhase f, if s.allocates f then s.allocDie f else 0, f.core, f.elem, f.slot] ++
    (if 0x90 ≤ o ∧ o ≤ 0x9A then [f.thread] else [c.cameAt f, f.thread, it.1, it.2])

/-- The order of words. -/
def wordLe : List Nat → List Nat → Bool
  | [], _ => true
  | _ :: _, [] => false
  | a :: l, b :: m => decide (a < b) || (a == b && wordLe l m)

/-- Instances in the order in which they take effect. -/
def State.cycleSort (s : State) : List Firing → List Firing
  | [] => []
  | f :: l => insert_ f (s.cycleSort l)
where
  insert_ (f : Firing) : List Firing → List Firing
    | [] => [f]
    | g :: l => if wordLe (s.cycleRank f) (s.cycleRank g) then f :: g :: l else g :: insert_ f l

/-- The die whose launcher has still to have its tick of this cycle (R350). -/
def State.tickLeft (s : State) : Option Nat :=
  if s.graphs.isEmpty ∨ s.time % 16 ≠ 0 then none
  else (List.range 8).find? (fun d => decide ((s.lastTick.look d).getD 0 < s.time))

/-- The die whose launcher has its tick now: the ticks end their cycle, so that a pre-emption of the same cycle comes first (R360). -/
def State.dueTick (s : State) : Option Nat := if s.ticking then s.tickLeft else none

/-! ### Passing time -/

/-- What n cycles change on a core: the count of cycles with an admitting load (R263), since when the pin watchdog's condition holds
(R318), and, while a pre-emption runs on it, the watchdogs, which do not count (R382). -/
def Core.pass (c : Core) (n now : Nat) (idle frozen : Bool) : Core :=
  let shift := fun (t : Nat) => if frozen then t + n else t
  { c with
    admitCycles := c.admitCycles + (if c.admitting then n else 0)
    idleSince := if idle then some (c.idleSince.getD now) else none
    parked := c.parked.map (fun (p : Parked) => if p.why = .engine ∨ p.why = .channel then { p with since := shift p.since } else p)
    loops := c.loops.map (fun (i : LoopInst) => { i with since := shift i.since })
    mxHold := c.mxHold.map shift }

/-- Cycles that the next step lets pass (log 3): launchers have their ticks at multiples of 16 (R350). -/
def State.stride (s : State) : Nat :=
  let n := Config.stepCycles s.stepNo
  if s.graphs.isEmpty then n else min n (16 - s.time % 16)

/-- The cycle goes on: something of it has still to happen. -/
def State.busyCycle (s : State) : Bool := !s.ready.isEmpty || !s.retries.isEmpty || s.dueTick.isSome

/-- A step is counted (log 1), and time passes once the cycle has ended (log 3): the instances that issued in it take effect before
(log 73), then come the launchers' ticks (R360), and the copies of its abort records are queued with it (R366). -/
def State.tick (s : State) : State :=
  let n := s.stride
  let next := s.stepNo + 1
  if s.busyCycle ∨ n = 0 then { s with stepNo := next }
  else if !s.issued.isEmpty then { s with stepNo := next, ready := s.cycleSort s.issued, issued := [] }
  else if s.tickLeft.isSome then { s with stepNo := next, ticking := true }
  else
    let s := s.postCopies
    { s with
    time := s.time + n
    stepNo := next
    ticking := false
    cores := s.cores.map (fun (kc : Nat × Core) => (kc.1, kc.2.pass n s.time (s.pinIdle kc.1) (s.frozen kc.1))) }

end Sys2Proof.Machine
end

