-- ==== Sys2Proof/Machine/Gang.lean ====
section
/-! DEFINITION. The gang instructions, opcodes 0xC0 to 0xC6 (spec 07 R208 to R215): each instance joins its group, which fires
when every present lane has come (`Groups.lean`). -/

namespace Sys2Proof.Machine

/-- `shfl` (R209). -/
def execShfl (w : SlotWord) (s : State) : Host.Outcome State Fault Refusal :=
  .next (s.gang w [s.opA s.fire w, s.opB s.fire w])

/-- `lpush` (R210). -/
def execLpush (w : SlotWord) (s : State) : Host.Outcome State Fault Refusal :=
  .next (s.gang w [s.opA s.fire w, s.opB s.fire w])

/-- `vote` (R211). -/
def execVote (w : SlotWord) (s : State) : Host.Outcome State Fault Refusal :=
  .next (s.gang w [s.opA s.fire w])

/-- `gscan` (R215). -/
def execGscan (w : SlotWord) (s : State) : Host.Outcome State Fault Refusal :=
  .next (s.gang w [s.opA s.fire w])

/-- `gred` (R214). -/
def execGred (w : SlotWord) (s : State) : Host.Outcome State Fault Refusal :=
  .next (s.gang w [s.opA s.fire w])

/-- `gbcast` (R212). -/
def execGbcast (w : SlotWord) (s : State) : Host.Outcome State Fault Refusal :=
  .next (s.gang w [s.opA s.fire w])

/-- `gmatch` (R212). -/
def execGmatch (w : SlotWord) (s : State) : Host.Outcome State Fault Refusal :=
  .next (s.gang w [s.opA s.fire w])

end Sys2Proof.Machine
end

