-- ==== Sys2Proof/Machine/Hier.lean ====
section
/-! DEFINITION. The steps of the memory hierarchy (spec 10 R293 to R304; 13 R364): fills of CACHE tiles, stores at a die slice, the
requests of a die to the home directory, the host's halves and the patrol scrubber. -/

namespace Sys2Proof.Machine

/-- A dword comes from the die slice for the loads that wait for it (R294): it is filled into the CACHE tiles, unless every such load has been
swapped out with its tiles (R44, R293), and each load delivers its bytes. -/
def State.fillMiss (s : State) (core key : Nat) : State :=
  let mine := (s.core core).misses.filter (fun (m : L1Miss) => m.key == key)
  let launch := ((mine.head?).bind (fun m => m.f.who)).elim 0 (fun x => x.1)
  let r := (s.accessAs .read launch).sliceWord (dieOf core) key
  let s := r.1.settle.onCore core (fun (c : Core) =>
    let c := { c with misses := c.misses.filter (fun (m : L1Miss) => m.key != key) }
    if !mine.isEmpty && mine.all (fun m => m.stale) then c else c.l1Fill key r.2.1 r.2.2)
  mine.foldl (fun s m => s.deliver m.f m.w (r.2.1.toNat / 2 ^ (8 * m.off) % 2 ^ (8 * m.w.ty.bytes)) r.2.2) s

/-- CACHE_FILL (R294): the words of a line reach a CACHE tile through the die slice, and the loads that missed them go on (log 7). -/
def execCacheFill (core line mask : Nat) (s : State) : Host.Outcome State Fault Refusal :=
  .next ((lineWords line mask).foldl (fun s n => s.fillMiss core n) s).settle

/-- L2_STORE (R296): a core's store performs at its die slice. -/
def execL2Store (core addr width : Nat) (value : BitVec 64) (s : State) : Host.Outcome State Fault Refusal :=
  .next ((s.accessAs .write 0).devStore (dieOf core) addr (bytesLE width value.toNat)).settle

/-- GETS (R297). -/
def execGets (die line mask : Nat) (s : State) : Host.Outcome State Fault Refusal :=
  .next ((lineWords line mask).foldl (fun s n => s.getS die n) (s.accessAs .read 0)).settle

/-- GETM (R297), with data; a fenced stack gives none (R417). -/
def execGetm (die line mask : Nat) (s : State) : Host.Outcome State Fault Refusal :=
  .next ((lineWords line mask).foldl (fun s n =>
    if s.fenced n && (s.l2.look n).isNone then s.fenceSense n else s.getM die n false) (s.accessAs .write 0)).settle

/-- The words of a line that a die holds in one of some states. -/
def State.wordsIn (s : State) (die line mask : Nat) (states : List Moesi) : List Nat :=
  (lineWords line mask).filter (fun n => match s.moesi die n with
    | some m => states.contains m
    | none => false)

/-- PUTM (R297): memory takes the words, which become I. -/
def execPutm (die line mask : Nat) (s : State) : Host.Outcome State Fault Refusal :=
  .next ((s.accessAs .none 0).evict die line (s.wordsIn die line mask [.m, .o])).settle

/-- PUTS (R297). -/
def execPuts (die line mask : Nat) (s : State) : Host.Outcome State Fault Refusal :=
  .next ((s.accessAs .none 0).evict die line (s.wordsIn die line mask [.e, .s])).settle

/-- INVALIDATION (R297): the data of M and O words returns to the home first. -/
def execInvalidation (die line mask : Nat) (s : State) : Host.Outcome State Fault Refusal :=
  .next ((s.accessAs .none 0).evict die line (lineWords line mask)).settle

/-- BACK_INVALIDATION_SNOOP (R300): the host answers for a half that it holds. -/
def execBackInvalidationSnoop (_die line half : Nat) (s : State) : Host.Outcome State Fault Refusal :=
  .next (({ s with hostHalves := removeNat s.hostHalves (2 * line + half) } : State).dirRelease line)

/-- HOST_HALF_REQUEST (R300): every die gives up the half's words, and the host is recorded as a holder. CXL.mem must be in use
(R393). For a line of host memory (`hostLine`) it is a host snoop under CXL.cache: the die that owns the half yields it. -/
def execHostHalfRequest (line half : Nat) (s : State) : Host.Outcome State Fault Refusal :=
  if 2 ^ 60 ≤ line then .next (if s.hostCached then s.hostGive (2 * (line - 2 ^ 60) + half) else s)
  else if !natBit s.hostcap.toNat 11 then .next s
  else
    let words := lineWords line (0xFF * 256 ^ half)
    let s := dies.foldl (fun s d => s.evict d line words) s
    let s := s.dirEnsure line
    .next ({ s with hostHalves := insertNat s.hostHalves (2 * line + half) } : State).settle

/-- PATROL_SCRUB (R304): a line that no die holds dirty is read; bad bursts are marked and reported as errors that the scrubber
found (R364). -/
def execPatrolScrub (line : Nat) (s : State) : Host.Outcome State Fault Refusal :=
  if (lineWords line 0xFFFF).any (fun n => ((s.l2.look n).bind L2Word.dirty).isSome || s.fenced n) then .next s
  else .next ((s.accessAs .scrub 0).dramSense (16 * line)).settle

end Sys2Proof.Machine
end

