-- ==== Sys2Proof/Machine/Dispatch.lean ====
section
/-! DEFINITION. The meaning of each instruction and of each step of the hardware and the host: one arm per constructor. -/

namespace Sys2Proof.Machine

def exec (i : Instr) (s : State) : Host.Outcome State Fault Refusal :=
  match i with
  | .add w => Sys2Proof.Machine.execAdd w s
  | .sub w => Sys2Proof.Machine.execSub w s
  | .mul w => Sys2Proof.Machine.execMul w s
  | .mulh w => Sys2Proof.Machine.execMulh w s
  | .mad w => Sys2Proof.Machine.execMad w s
  | .div w => Sys2Proof.Machine.execDiv w s
  | .rem w => Sys2Proof.Machine.execRem w s
  | .neg w => Sys2Proof.Machine.execNeg w s
  | .abs w => Sys2Proof.Machine.execAbs w s
  | .min w => Sys2Proof.Machine.execMin w s
  | .max w => Sys2Proof.Machine.execMax w s
  | .and w => Sys2Proof.Machine.execAnd w s
  | .or w => Sys2Proof.Machine.execOr w s
  | .xor w => Sys2Proof.Machine.execXor w s
  | .not w => Sys2Proof.Machine.execNot w s
  | .shl w => Sys2Proof.Machine.execShl w s
  | .shr w => Sys2Proof.Machine.execShr w s
  | .sar w => Sys2Proof.Machine.execSar w s
  | .rol w => Sys2Proof.Machine.execRol w s
  | .ror w => Sys2Proof.Machine.execRor w s
  | .clz w => Sys2Proof.Machine.execClz w s
  | .ctz w => Sys2Proof.Machine.execCtz w s
  | .popc w => Sys2Proof.Machine.execPopc w s
  | .brev w => Sys2Proof.Machine.execBrev w s
  | .bfx w => Sys2Proof.Machine.execBfx w s
  | .bfi w => Sys2Proof.Machine.execBfi w s
  | .cmp w => Sys2Proof.Machine.execCmp w s
  | .sel w => Sys2Proof.Machine.execSel w s
  | .sext w => Sys2Proof.Machine.execSext w s
  | .zext w => Sys2Proof.Machine.execZext w s
  | .addc w => Sys2Proof.Machine.execAddc w s
  | .subb w => Sys2Proof.Machine.execSubb w s
  | .lea w => Sys2Proof.Machine.execLea w s
  | .mov w => Sys2Proof.Machine.execMov w s
  | .const w => Sys2Proof.Machine.execConst w s
  | .fadd w => Sys2Proof.Machine.execFadd w s
  | .fsub w => Sys2Proof.Machine.execFsub w s
  | .fmul w => Sys2Proof.Machine.execFmul w s
  | .ffma w => Sys2Proof.Machine.execFfma w s
  | .fneg w => Sys2Proof.Machine.execFneg w s
  | .fabs w => Sys2Proof.Machine.execFabs w s
  | .fmin w => Sys2Proof.Machine.execFmin w s
  | .fmax w => Sys2Proof.Machine.execFmax w s
  | .fcmp w => Sys2Proof.Machine.execFcmp w s
  | .fcvt w => Sys2Proof.Machine.execFcvt w s
  | .fcvti w => Sys2Proof.Machine.execFcvti w s
  | .icvtf w => Sys2Proof.Machine.execIcvtf w s
  | .frnd w => Sys2Proof.Machine.execFrnd w s
  | .fdiv w => Sys2Proof.Machine.execFdiv w s
  | .frcp w => Sys2Proof.Machine.execFrcp w s
  | .fsqrt w => Sys2Proof.Machine.execFsqrt w s
  | .frsq w => Sys2Proof.Machine.execFrsq w s
  | .fexp2 w => Sys2Proof.Machine.execFexp2 w s
  | .flog2 w => Sys2Proof.Machine.execFlog2 w s
  | .fsin w => Sys2Proof.Machine.execFsin w s
  | .fcos w => Sys2Proof.Machine.execFcos w s
  | .fclass w => Sys2Proof.Machine.execFclass w s
  | .fscale w => Sys2Proof.Machine.execFscale w s
  | .ffrexp w => Sys2Proof.Machine.execFfrexp w s
  | .fsign w => Sys2Proof.Machine.execFsign w s
  | .fpmodeImm w => Sys2Proof.Machine.execFpmodeImm w s
  | .fpmodeVal w => Sys2Proof.Machine.execFpmodeVal w s
  | .hadd2 w => Sys2Proof.Machine.execHadd2 w s
  | .hmul2 w => Sys2Proof.Machine.execHmul2 w s
  | .hfma2 w => Sys2Proof.Machine.execHfma2 w s
  | .fdot2 w => Sys2Proof.Machine.execFdot2 w s
  | .ecatch w => Sys2Proof.Machine.execEcatch w s
  | .bmax w => Sys2Proof.Machine.execBmax w s
  | .bscale w => Sys2Proof.Machine.execBscale w s
  | .bquant w => Sys2Proof.Machine.execBquant w s
  | .bdequant w => Sys2Proof.Machine.execBdequant w s
  | .bpack w => Sys2Proof.Machine.execBpack w s
  | .bunpack w => Sys2Proof.Machine.execBunpack w s
  | .bdot w => Sys2Proof.Machine.execBdot w s
  | .bsfwd w => Sys2Proof.Machine.execBsfwd w s
  | .entry w => Sys2Proof.Machine.execEntry w s
  | .lvr w => Sys2Proof.Machine.execLvr w s
  | .lvw w => Sys2Proof.Machine.execLvw w s
  | .fan w => Sys2Proof.Machine.execFan w s
  | .steer w => Sys2Proof.Machine.execSteer w s
  | .mergeFirst w => Sys2Proof.Machine.execMergeFirst w s
  | .mergeJoin w => Sys2Proof.Machine.execMergeJoin w s
  | .sink w => Sys2Proof.Machine.execSink w s
  | .lhead w => Sys2Proof.Machine.execLhead w s
  | .lsparse w => Sys2Proof.Machine.execLsparse w s
  | .ltail w => Sys2Proof.Machine.execLtail w s
  | .lexit w => Sys2Proof.Machine.execLexit w s
  | .br w => Sys2Proof.Machine.execBr w s
  | .jmp w => Sys2Proof.Machine.execJmp w s
  | .brx w => Sys2Proof.Machine.execBrx w s
  | .call w => Sys2Proof.Machine.execCall w s
  | .ret w => Sys2Proof.Machine.execRet w s
  | .exit w => Sys2Proof.Machine.execExit w s
  | .barSync w => Sys2Proof.Machine.execBarSync w s
  | .barArrive w => Sys2Proof.Machine.execBarArrive w s
  | .barWait w => Sys2Proof.Machine.execBarWait w s
  | .gate w => Sys2Proof.Machine.execGate w s
  | .release w => Sys2Proof.Machine.execRelease w s
  | .trap w => Sys2Proof.Machine.execTrap w s
  | .ld w => Sys2Proof.Machine.execLd w s
  | .st w => Sys2Proof.Machine.execSt w s
  | .atom w => Sys2Proof.Machine.execAtom w s
  | .cas w => Sys2Proof.Machine.execCas w s
  | .cas2 w => Sys2Proof.Machine.execCas2 w s
  | .fence w => Sys2Proof.Machine.execFence w s
  | .sptest w => Sys2Proof.Machine.execSptest w s
  | .spcastTo w => Sys2Proof.Machine.execSpcastTo w s
  | .spcastFrom w => Sys2Proof.Machine.execSpcastFrom w s
  | .pref w => Sys2Proof.Machine.execPref w s
  | .gth w => Sys2Proof.Machine.execGth w s
  | .sct w => Sys2Proof.Machine.execSct w s
  | .mtld w => Sys2Proof.Machine.execMtld w s
  | .mtst w => Sys2Proof.Machine.execMtst w s
  | .shfl w => Sys2Proof.Machine.execShfl w s
  | .lpush w => Sys2Proof.Machine.execLpush w s
  | .vote w => Sys2Proof.Machine.execVote w s
  | .gscan w => Sys2Proof.Machine.execGscan w s
  | .gred w => Sys2Proof.Machine.execGred w s
  | .gbcast w => Sys2Proof.Machine.execGbcast w s
  | .gmatch w => Sys2Proof.Machine.execGmatch w s
  | .xbegin w => Sys2Proof.Machine.execXbegin w s
  | .xround w => Sys2Proof.Machine.execXround w s
  | .xsegred w => Sys2Proof.Machine.execXsegred w s
  | .xend w => Sys2Proof.Machine.execXend w s
  | .mxop w => Sys2Proof.Machine.execMxop w s
  | .mxzero w => Sys2Proof.Machine.execMxzero w s
  | .mxld w => Sys2Proof.Machine.execMxld w s
  | .mxrd w => Sys2Proof.Machine.execMxrd w s
  | .mxst w => Sys2Proof.Machine.execMxst w s
  | .mxrel w => Sys2Proof.Machine.execMxrel w s
  | .mxinfo w => Sys2Proof.Machine.execMxinfo w s
  | .cpy w => Sys2Proof.Machine.execCpy w s
  | .cpyms w => Sys2Proof.Machine.execCpyms w s
  | .cpysm w => Sys2Proof.Machine.execCpysm w s
  | .cpyss w => Sys2Proof.Machine.execCpyss w s
  | .cpymc w => Sys2Proof.Machine.execCpymc w s
  | .sget w => Sys2Proof.Machine.execSget w s
  | .sput w => Sys2Proof.Machine.execSput w s
  | .sclose w => Sys2Proof.Machine.execSclose w s
  | .chdone w => Sys2Proof.Machine.execChdone w s
  | .ewait w => Sys2Proof.Machine.execEwait w s
  | .agcfg w => Sys2Proof.Machine.execAgcfg w s
  | .recalloc w => Sys2Proof.Machine.execRecalloc w s
  | .recw w => Sys2Proof.Machine.execRecw w s
  | .recrd w => Sys2Proof.Machine.execRecrd w s
  | .recemit w => Sys2Proof.Machine.execRecemit w s
  | .recinfo w => Sys2Proof.Machine.execRecinfo w s
  | .nop w => Sys2Proof.Machine.execNop w s
  | .rdclk w => Sys2Proof.Machine.execRdclk w s
  | .rdctr w => Sys2Proof.Machine.execRdctr w s
  | .sysrd w => Sys2Proof.Machine.execSysrd w s
  | .syswr w => Sys2Proof.Machine.execSyswr w s
  | .brk w => Sys2Proof.Machine.execBrk w s
  | .hint w => Sys2Proof.Machine.execHint w s
  | .fltrd w => Sys2Proof.Machine.execFltrd w s
  | .fltrdClr w => Sys2Proof.Machine.execFltrdClr w s
  | .faultedDrained core thread => Sys2Proof.Machine.execFaultedDrained core thread s
  | .admitWorkgroup launch cluster => Sys2Proof.Machine.execAdmitWorkgroup launch cluster s
  | .gangSnapshot core => Sys2Proof.Machine.execGangSnapshot core s
  | .tokenArrival core index => Sys2Proof.Machine.execTokenArrival core index s
  | .elementIssue core elem => Sys2Proof.Machine.execElementIssue core elem s
  | .creditReturn core index => Sys2Proof.Machine.execCreditReturn core index s
  | .loopIssue core elem slot => Sys2Proof.Machine.execLoopIssue core elem slot s
  | .tagStarve core index => Sys2Proof.Machine.execTagStarve core index s
  | .matrixAccept core => Sys2Proof.Machine.execMatrixAccept core s
  | .matrixExecuteComplete core => Sys2Proof.Machine.execMatrixExecuteComplete core s
  | .accExhausted core => Sys2Proof.Machine.execAccExhausted core s
  | .engineOperationComplete core transfer => Sys2Proof.Machine.execEngineOperationComplete core transfer s
  | .copyBurst core transfer => Sys2Proof.Machine.execCopyBurst core transfer s
  | .remoteUnreachable device => Sys2Proof.Machine.execRemoteUnreachable device s
  | .pinWatchdog core => Sys2Proof.Machine.execPinWatchdog core s
  | .waitWatchdog core index => Sys2Proof.Machine.execWaitWatchdog core index s
  | .switchBegin core => Sys2Proof.Machine.execSwitchBegin core s
  | .flip core => Sys2Proof.Machine.execFlip core s
  | .decodeStart core => Sys2Proof.Machine.execDecodeStart core s
  | .decodeReady core => Sys2Proof.Machine.execDecodeReady core s
  | .configCacheFill core => Sys2Proof.Machine.execConfigCacheFill core s
  | .validateKernel core launch => Sys2Proof.Machine.execValidateKernel core launch s
  | .tileRequestService core bank => Sys2Proof.Machine.execTileRequestService core bank s
  | .cacheFill core line mask => Sys2Proof.Machine.execCacheFill core line mask s
  | .l2Store core addr width value => Sys2Proof.Machine.execL2Store core addr width value s
  | .gets die line mask => Sys2Proof.Machine.execGets die line mask s
  | .getm die line mask => Sys2Proof.Machine.execGetm die line mask s
  | .putm die line mask => Sys2Proof.Machine.execPutm die line mask s
  | .puts die line mask => Sys2Proof.Machine.execPuts die line mask s
  | .invalidation die line mask => Sys2Proof.Machine.execInvalidation die line mask s
  | .backInvalidationSnoop die line half => Sys2Proof.Machine.execBackInvalidationSnoop die line half s
  | .hostHalfRequest line half => Sys2Proof.Machine.execHostHalfRequest line half s
  | .patrolScrub line => Sys2Proof.Machine.execPatrolScrub line s
  | .tableWalk core ctx va kind => Sys2Proof.Machine.execTableWalk core ctx va kind s
  | .atsResponse die ctx va answer => Sys2Proof.Machine.execAtsResponse die ctx va answer s
  | .priResponse ctx va answer => Sys2Proof.Machine.execPriResponse ctx va answer s
  | .atsInvalidateRequest pasid va all => Sys2Proof.Machine.execAtsInvalidateRequest pasid va all s
  | .deferredRecordWrite => Sys2Proof.Machine.execDeferredRecordWrite s
  | .fqResume seq => Sys2Proof.Machine.execFqResume seq s
  | .fqRdWrite seq => Sys2Proof.Machine.execFqRdWrite seq s
  | .fqStatRead acc => Sys2Proof.Machine.execFqStatRead acc s
  | .xltInv value => Sys2Proof.Machine.execXltInv value s
  | .xltInvDone => Sys2Proof.Machine.execXltInvDone s
  | .dqPush value => Sys2Proof.Machine.execDqPush value s
  | .pageRelease => Sys2Proof.Machine.execPageRelease s
  | .dqPop acc => Sys2Proof.Machine.execDqPop acc s
  | .dqStatClear value => Sys2Proof.Machine.execDqStatClear value s
  | .loadPreempt launch => Sys2Proof.Machine.execLoadPreempt launch s
  | .workgroupPreempt launch => Sys2Proof.Machine.execWorkgroupPreempt launch s
  | .launchPreempt queue => Sys2Proof.Machine.execLaunchPreempt queue s
  | .restore launch => Sys2Proof.Machine.execRestore launch s
  | .quantumExpiry queue => Sys2Proof.Machine.execQuantumExpiry queue s
  | .notify queue index => Sys2Proof.Machine.execNotify queue index s
  | .qctlEnable queue => Sys2Proof.Machine.execQctlEnable queue s
  | .qctlDisable queue => Sys2Proof.Machine.execQctlDisable queue s
  | .packetHeaderPoll queue => Sys2Proof.Machine.execPacketHeaderPoll queue s
  | .packetNop queue => Sys2Proof.Machine.execPacketNop queue s
  | .packetLaunch queue => Sys2Proof.Machine.execPacketLaunch queue s
  | .packetGraph queue => Sys2Proof.Machine.execPacketGraph queue s
  | .packetCopy queue => Sys2Proof.Machine.execPacketCopy queue s
  | .packetWaitsig queue => Sys2Proof.Machine.execPacketWaitsig queue s
  | .packetBarrierAnd queue => Sys2Proof.Machine.execPacketBarrierAnd queue s
  | .packetRetire queue => Sys2Proof.Machine.execPacketRetire queue s
  | .launchComplete launch => Sys2Proof.Machine.execLaunchComplete launch s
  | .eventToken index => Sys2Proof.Machine.execEventToken index s
  | .eventTokenRetry => Sys2Proof.Machine.execEventTokenRetry s
  | .firmwareTimer timer => Sys2Proof.Machine.execFirmwareTimer timer s
  | .hevStatRead acc => Sys2Proof.Machine.execHevStatRead acc s
  | .lmbGo value => Sys2Proof.Machine.execLmbGo value s
  | .lmbStatRead acc => Sys2Proof.Machine.execLmbStatRead acc s
  | .fenceCore unit reason => Sys2Proof.Machine.execFenceCore unit reason s
  | .fenceCluster unit reason => Sys2Proof.Machine.execFenceCluster unit reason s
  | .fenceStack unit reason => Sys2Proof.Machine.execFenceStack unit reason s
  | .fencePort unit reason => Sys2Proof.Machine.execFencePort unit reason s
  | .functionReady bit => Sys2Proof.Machine.execFunctionReady bit s
  | .coldReset => Sys2Proof.Machine.execColdReset s
  | .warmReset => Sys2Proof.Machine.execWarmReset s
  | .bootCmd value => Sys2Proof.Machine.execBootCmd value s
  | .ownerCommand cmd => Sys2Proof.Machine.execOwnerCommand cmd s
  | .attCmd value => Sys2Proof.Machine.execAttCmd value s
  | .quoteComplete => Sys2Proof.Machine.execQuoteComplete s
  | .governorTick => Sys2Proof.Machine.execGovernorTick s
  | .thermalCrossing sensor lid jmax up => Sys2Proof.Machine.execThermalCrossing sensor lid jmax up s
  | .thermalShutdown sensor lid jmax junction => Sys2Proof.Machine.execThermalShutdown sensor lid jmax junction s
  | .muwinPortState port state peer lanes => Sys2Proof.Machine.execMuwinPortState port state peer lanes s
  | .mwpStatRead port acc => Sys2Proof.Machine.execMwpStatRead port acc s
  | .flitReplay port => Sys2Proof.Machine.execFlitReplay port s
  | .scTicket core index => Sys2Proof.Machine.execScTicket core index s
  | .launcherTick die => Sys2Proof.Machine.execLauncherTick die s
  | .recordPoolExhausted core index => Sys2Proof.Machine.execRecordPoolExhausted core index s
  | .graphComplete launch => Sys2Proof.Machine.execGraphComplete launch s
  | .graphPreempt launch depth => Sys2Proof.Machine.execGraphPreempt launch depth s
  | .registerWrite offset size value => Sys2Proof.Machine.execRegisterWrite offset size value s
  | .hostBar2Access offset op => Sys2Proof.Machine.execHostBar2Access offset op s
  | .muwinPeerAccess addr op => Sys2Proof.Machine.execMuwinPeerAccess addr op s
  | .powerLoss => Sys2Proof.Machine.execPowerLoss s
  | .thermalSensorLost sensor => Sys2Proof.Machine.execThermalSensorLost sensor s

end Sys2Proof.Machine
end

