-- ==== Sys2Proof/Machine/Run.lean ====
section
/-! DEFINITION. How an instruction is run in a step: an issued slot runs its decoded word; else an access that has left its hold is made
again, a launcher has its tick, the next input of the host or the environment is taken, or the hardware does one of the activities that
it can do next (log 1). -/

namespace Sys2Proof.Machine

/-- Run an instruction and let time pass. -/
def runInstr (i : Instr) (s : State) : Host.Outcome State Fault Refusal :=
  match exec i s with
  | .next t => .next t.tick
  | .fault r => .fault r
  | .refused r => .refused r

/-- The word that a firing runs: its slot's, or the one that a held access has kept (R181). -/
def State.wordOf (s : State) (f : Firing) : Option (BitVec 128) := (f.kept.map Kept.word).orElse (fun _ => s.fetch f)

/-- Run the word of the firing slot. An EMPTY slot fires never (R76), and the element of a word that fails a check is BLOCKED and
accepts nothing (R102): neither has an effect. -/
def runFiring (s : State) : Host.Outcome State Fault Refusal :=
  match s.wordOf s.fire with
  | none => .next s.tick
  | some x =>
    match decodeWord x with
    | .error _ => .next s.tick
    | .ok i => runInstr i s

/-! ### Accesses that have left their holds (R372) -/

/-- The step that makes the access kept for a launch or a packet under a number. -/
def State.keyStep (s : State) (key : Nat) : Instr :=
  let id := key - 1024
  let q := id / 2 ^ 22
  let copy := s.cores.findSome? (fun (kc : Nat × Core) =>
    (kc.2.transfers.find? (fun (x : Transfer) => x.queue == some q && launchId q x.index == id)).map (fun x => (kc.1, x.id)))
  if key < 1024 then
    match ((s.queue key).header.map (fun bs => bytesAt bs 1 1)) with
    | some 1 => .packetLaunch key
    | some 2 => .packetGraph key
    | some 3 => .packetCopy key
    | some 4 => .packetWaitsig key
    | some 5 => .packetBarrierAnd key
    | some _ => .packetRetire key
    | none => if (s.queue key).started.any (fun (p : Packet) => !p.retired) then .packetRetire key
      else if s.lmbBusy ∧ natBits s.lmbCtl.toNat 9 0 = key then
        (if natBits s.lmbCtl.toNat 17 16 = 2 then .packetGraph key else .packetLaunch key)
      else .packetHeaderPoll key
  else match s.launch? id with
    | some l =>
      if l.preempt = 1 ∧ !l.graph then .workgroupPreempt id
      else if l.preempt = 2 then (if l.graph then .graphPreempt id .load else .loadPreempt id)
      else if l.stopped then .restore id
      else if l.graph ∧ l.status.isNone then
        (if ((s.graph? id).map Graph.started).getD false then .graphComplete id else .packetGraph l.queue)
      else .launchComplete id
    | none => match copy with
      | some (k, x) => .engineOperationComplete k x
      | none => .packetRetire q

/-- A held fetch of a core is made again: its validation's, or its decode's. -/
def State.configStep (s : State) (k : Nat) : Instr :=
  match (if s.validatingNow k then (s.core k).validating else none) with
  | some id => .validateKernel k id
  | none => .configCacheFill k

/-- An access that has left its hold translates again (R181, R371, R372). -/
def runRetry (i : HeldItem) (s : State) : Host.Outcome State Fault Refusal :=
  match i with
  | .firing f => runFiring { s with fire := f }
  | .transfer k id => .next (s.replayTransfer k id).tick
  | .config k => runInstr (s.configStep k) s
  | .seeds id => runInstr (.packetGraph (((s.launch? id).map Launch.queue).getD 0)) s
  | .packet key => runInstr (s.keyStep key) s
  | .record k ctx va bytes thread =>
    match s.storeRecord k ctx va bytes thread with
    | (s, .refused d pa) =>
      match thread with
      | some (t, _) => .next (s.recordRefused k t (.refused d pa)).settle.tick
      | none => .next (s.fqPost { s.blankRec 0x11 2 .write d with
          core := some k, va := some va, pa := pa, ctx := some ctx } none).settle.tick
    | (s, _) => .next s.settle.tick

/-! ### Steps -/

/-- A step without power, or held in reset: power-on is taken, and every other input is lost (R416, R421). -/
def stepOff (s : State) : Host.Outcome State Fault Refusal :=
  match s.inbox with
  | .run .coldReset :: more => runInstr .coldReset { s with inbox := more }
  | _ :: more => .next { s with inbox := more }
  | [] => .fault .notRunning

/-- The hardware's own next activity, after what goes wrong with stored bits (log 1, log 74). -/
def runActivity (s : State) : Host.Outcome State Fault Refusal :=
  let s := s.decay (Config.decays s.stepNo)
  runInstr s.nextActivity (s.chosen s.nextActivity)

/-- An input takes effect: an access or an event that is a row of the table runs, and the others are what the host does to its own memory,
and what the harts do (R408, R410, R427, R440). -/
def runInput (i : Input) (s : State) : Host.Outcome State Fault Refusal :=
  match i with
  | .run i => runInstr i s
  | _ => .next (s.takesInput i).tick

/-- A step with power: an issued instance first, then an access that has left its hold, then a launcher's tick that is due, then an input
that need not wait, then an activity of the hardware. -/
def stepOn (s : State) : Host.Outcome State Fault Refusal :=
  match s.ready, s.retries, s.dueTick, s.inbox with
  | f :: rest, _, _, _ => runFiring (s.latchFiring f rest)
  | [], i :: rest, _, _ => runRetry i { s with retries := rest }
  | [], [], some die, _ => runInstr (.launcherTick die) s
  | [], [], none, i :: more => if s.inputWaits i then runActivity s else runInput i { s with inbox := more }
  | [], [], none, [] => runActivity s

end Sys2Proof.Machine
end

