-- ==== Sys2Proof/Machine/Step.lean ====
section
/-! DEFINITION. One step of the machine (log 1). -/

namespace Sys2Proof.Machine

/-- One step. -/
def step (s : State) : Host.Outcome State Fault Refusal :=
  if s.powered && !s.heldInReset then stepOn s else stepOff s

/-- The state with an instruction's word placed where the next step fetches it. -/
def State.withFetchWord (s : State) (_nbits w : Nat) : State := s.placeFetch (BitVec.ofNat 128 w)

end Sys2Proof.Machine
end

