-- ==== Sys2Proof/Machine/Consistency.lean ====
section
/-! DEFINITION. The memory consistency model (spec 09 R266 to R285): the events of instructions, executions as events with their
relations, and the executions that the KV7 allows. The step function performs each access in one step (log 7), so its runs show some
of the executions allowed here; what another agent may observe is stated in terms of `Execution.allowed`. -/

namespace Sys2Proof.Machine

/-! ### Locations and agents (R267, R268) -/

/-- Memories that hold locations (R267): a device's memory, host memory, the scratchpad of one part, one buffer of a BUF tile of one
load configuration, a thread's private segment. -/
inductive LocSpace where
  | device (dev : Nat)
  | host
  | scratch (dev core part : Nat)
  | buffer (dev cfg tile buf : Nat)
  | priv (dev thread : Nat)
  deriving DecidableEq, Repr

/-- A location: one byte of memory (R267). -/
structure Loc where
  space : LocSpace
  byte : Nat
  deriving DecidableEq, Repr

/-- Agents (R266, R268, R282, R410): a thread with its device, cluster and workgroup; a host agent; a control-complex hart; the hub die,
which decrements completion signals (R400); a Muwin peer; and the agent of the initial writes. -/
inductive MemAgent where
  | thread (dev cluster wg id : Nat)
  | host (id : Nat)
  | hart (id : Nat)
  | hub
  | peer (dev : Nat)
  | init
  deriving DecidableEq, Repr

/-- Is agent b in the scope instance of agent a at a scope (R268)? The instance of an agent outside the threads holds itself, and at
sys scope every agent; a peer's holds, at dom scope, the threads and peers of every device of the domain. -/
def MemAgent.covers (a : MemAgent) (s : Scope) (b : MemAgent) : Bool :=
  a == b || s == .sys ||
    (match a, b with
    | .thread d c w i, .thread d' c' w' i' =>
      (match s with
      | .thread => d == d' && w == w' && i == i'
      | .wg => d == d' && w == w'
      | .cl => d == d' && c == c'
      | .dev => d == d'
      | _ => true)
    | .thread _ _ _ _, .peer _ | .peer _, .thread _ _ _ _ | .peer _, .peer _ => decide (4 ≤ s.code)
    | _, _ => false)

/-- An agent of another device than the home of a location (R281). -/
def remoteTo (l : Loc) (a : MemAgent) : Bool :=
  match l.space, a with
  | .device d, .thread d' _ _ _ => d != d'
  | .device d, .peer d' => d != d'
  | _, _ => false

/-! ### Events (R266, R268) -/

/-- Kinds of events (R266). `readCas` is the read of a `cas` or `cas2` that does not write; `op` numbers the engine operations of an
execution and `chan` is the channel an engine write is counted by. The decrement of a packet's signal is a read-modify-write (R272), and
`resume` is a write of FQ_RESUME (R464). -/
inductive EvKind where
  | read | write | rmw | readCas | fence
  | issue (op cls : Nat)
  | engineRead (op : Nat)
  | engineWrite (op : Nat) (chan : Option Nat)
  | ewait (cls n : Nat)
  | chdone (chan words : Nat)
  | arrive (bar phase : Nat)
  | depart (bar phase : Nat)
  | gate (preds : List Nat)
  | launchRelease (launch : Nat)
  | recordRelease (record : Nat)
  | recordAcquire (record : Nat)
  | userPost (event : Nat)
  | userRead (event : Nat)
  | packetValid (packet : Nat)
  | packetStart (packet : Nat)
  | signalDown (packet : Nat)
  | resume (n : Nat)
  deriving DecidableEq, Repr

/-- Ordering of an event: a plain access, the orderings of R85, or `.sc`. -/
inductive Strength where
  | plain | rlx | acq | rel | ar | sc
  deriving DecidableEq, Repr

/-- An event: its agent, kind, ordering and the scope written in XF; the bytes it reads or writes, `size` from `loc` on, and what it
writes there; the admission of the thread and the load configuration it lies in; whether it was drained (R43); the packet whose
work it is part of (R272); whether it is its load's terminator's (R144, R145); and the FQ_RESUME that released it from a hold (R464). -/
structure MemEvent where
  agent : MemAgent
  kind : EvKind
  strength : Strength := .plain
  written : Scope := .thread
  loc : Loc := ⟨.host, 0⟩
  size : Nat := 0
  bytes : List Byte := []
  adm : Nat := 0
  cfg : Nat := 0
  drained : Bool := false
  work : Option Nat := none
  last : Bool := false
  resumed : Option Nat := none
  deriving DecidableEq, Repr

/-- How an instruction's firing ended (R266). -/
inductive Fate where
  | fired | passed | unfired | faulted | discarded
  deriving DecidableEq, Repr

/-- What an instance's events depend on beside its word: whether a `cas` or `cas2` wrote, whether a `call` or `ret` moved a spill
byte and whether `fltrd` read its record; the dwords an engine operation reads and writes; the number, class, channel and thresholds
of what it joins; and whether a `bar.wait` waits for a phase it arrived in. -/
structure EvArgs where
  wrote : Bool := false
  touched : Bool := false
  waits : Bool := false
  srcDwords : Nat := 0
  dstDwords : Nat := 0
  op : Nat := 0
  cls : Nat := 0
  chan : Option Nat := none
  words : Nat := 0
  bar : Nat := 0
  phase : Nat := 0
  preds : List Nat := []
  launch : Nat := 0
  record : Nat := 0
  event : Nat := 0
  deriving DecidableEq, Repr

/-- An engine operation's events: its issue, one read per source dword and one write per destination dword (R266). -/
def EvArgs.engine (a : EvArgs) : List EvKind :=
  .issue a.op a.cls :: List.replicate a.srcDwords (.engineRead a.op) ++ List.replicate a.dstDwords (.engineWrite a.op a.chan)

/-- Events of an instance that fires and is not discarded (R266). `cpyms` and `mxld` write no location and `cpysm` and `mxst` read
none, so their counts on that side are 0. `recw`, `recrd` and `fltrd` make the plain accesses of R257 and R265. -/
def eventsOf (i : Instr) (a : EvArgs) : List EvKind :=
  match i with
  | .ld _ | .gth _ | .recrd _ => [.read]
  | .st _ | .sct _ | .recw _ => [.write]
  | .atom _ => [.rmw]
  | .cas _ | .cas2 _ => if a.wrote then [.rmw] else [.readCas]
  | .fence _ => [.fence]
  | .cpy _ | .cpymc _ | .mtld _ | .mtst _ => a.engine
  | .cpyms _ | .mxld _ => EvArgs.engine { a with dstDwords := 0 }
  | .cpysm _ | .mxst _ => EvArgs.engine { a with srcDwords := 0 }
  | .ewait _ => [.ewait a.cls a.words]
  | .chdone _ => [.chdone (a.chan.getD 0) a.words]
  | .barSync _ => [.arrive a.bar a.phase, .depart a.bar a.phase]
  | .barArrive _ => [.arrive a.bar a.phase]
  | .barWait _ => if a.waits then [.depart a.bar a.phase] else []
  | .gate _ => [.gate a.preds]
  | .release _ | .exit _ => [.launchRelease a.launch]
  | .recemit _ => [.recordRelease a.record]
  | .syswr _ => [.userPost a.event]
  | .call _ => if a.touched then [.write] else []
  | .ret _ => if a.touched then [.read] else []
  | .fltrd _ => if a.touched then [.read] else []
  | _ => []

/-- Events of an instance by how its firing ended (R266): a firing that passed, did not fire, faulted or was discarded contributes
none. A `cas` that does not write has fired. -/
def contributed (i : Instr) (fate : Fate) (a : EvArgs) : List EvKind :=
  if fate = .fired then eventsOf i a else []

/-- Events of a thread that retires without an `exit` of its own, as one that its workgroup's abort ends does (R266, R146): a thread has
released once it has retired. -/
def retirementEvents (launch : Nat) : List EvKind := [.launchRelease launch]

/-- Events of the admission of a thread (R266): the record acquire, when a record starts it (R258). -/
def admissionEvents (record : Option Nat) : List EvKind := record.toList.map EvKind.recordAcquire

/-- Ordering of an event of a word (R185, R196): plain for `.rlx` without a scope, `.sc` for MOD 1 of `fence`. -/
def wordStrength (i : Instr) (w : SlotWord) : Strength :=
  match i, w.ordering with
  | .fence _, .ar => if w.mod = 1 then .sc else .ar
  | _, .rlx => if w.scope = .thread then .plain else .rlx
  | _, .acq => .acq
  | _, .rel => .rel
  | _, .ar => .ar

namespace EvKind

/-- An event that reads memory. -/
def reads (k : EvKind) : Bool :=
  match k with
  | .read | .rmw | .readCas | .engineRead _ | .signalDown _ => true
  | _ => false

/-- An event that writes memory. -/
def writes (k : EvKind) : Bool :=
  match k with
  | .write | .rmw | .engineWrite _ _ | .signalDown _ => true
  | _ => false

/-- A read-modify-write. -/
def updates (k : EvKind) : Bool := k.reads && k.writes

/-- An event of an instruction that ends its thread's stay in a load: an arrival or departure, or the thread's retirement. -/
def terminates (k : EvKind) (i : Instr) : Bool :=
  match k, i with
  | .arrive _ _, _ | .depart _ _, _ => true
  | .launchRelease _, .exit _ => true
  | _, _ => false

/-- The operation of an engine event. -/
def engineOp (k : EvKind) : Option Nat :=
  match k with
  | .engineRead o | .engineWrite o _ => some o
  | _ => none

/-- The scope of synchronising events other than fences (R272, R274); none for accesses and fences. -/
def syncScope (k : EvKind) : Option Scope :=
  match k with
  | .read | .write | .rmw | .readCas | .fence => none
  | .issue _ _ | .engineRead _ | .engineWrite _ _ => some .thread
  | .ewait _ _ | .chdone _ _ | .arrive _ _ | .depart _ _ => some .wg
  | .gate _ | .launchRelease _ | .recordRelease _ | .recordAcquire _ => some .dev
  | .userPost _ | .userRead _ | .packetValid _ | .packetStart _ | .signalDown _ | .resume _ => some .sys

end EvKind

/-! ### The events of an instance (R266) -/

/-- The w bytes of an instruction's access: those of its type, 16 for `cas2`, a dword for a spilled or refilled stack entry (R20) and for a
dword of a record (R265). -/
def accessBytes (i : Instr) (w : SlotWord) : Nat :=
  match i with
  | .cas2 _ => 16
  | .call _ | .ret _ | .fltrd _ => 8
  | _ => w.ty.bytes

/-- An instance as it fired: its instruction and word, how its firing ended, its agent with its admission and load configuration, whether its
tokens reached the drain (R43), where it accessed memory and what it wrote there, what an engine operation read and wrote, dword by dword,
and the FQ_RESUME that released it. -/
structure EvInst where
  instr : Instr
  word : SlotWord
  fate : Fate
  args : EvArgs
  agent : MemAgent
  adm : Nat
  cfg : Nat
  drained : Bool
  loc : Loc
  bytes : List Byte
  src : List Loc
  dst : List (Loc × List Byte)
  resumed : Option Nat
  deriving DecidableEq, Repr

/-- The event of an instance that is its nth of a kind: an access has the word's bytes, ordering and scope, an engine event a dword of its
operation, and the others have no location. -/
def EvInst.event (x : EvInst) (k : EvKind) (nth : Nat) : MemEvent :=
  let e : MemEvent := {
    agent := x.agent, kind := k, strength := .plain, adm := x.adm, cfg := x.cfg, drained := x.drained, last := k.terminates x.instr
    resumed := x.resumed }
  let own : MemEvent := { e with strength := wordStrength x.instr x.word, written := x.word.scope }
  match k with
  | .read | .readCas => { own with loc := x.loc, size := accessBytes x.instr x.word }
  | .write | .rmw => { own with loc := x.loc, size := accessBytes x.instr x.word, bytes := x.bytes }
  | .fence => own
  | .engineRead _ => { e with loc := (x.src[nth]?).getD ⟨.host, 0⟩, size := 8 }
  | .engineWrite _ _ =>
    let d := (x.dst[nth]?).getD (⟨.host, 0⟩, [])
    { e with loc := d.1, size := d.2.length, bytes := d.2 }
  | .userPost _ => { e with strength := .rel, written := .sys }
  | _ => e

/-- The events of an instance (R266): as many engine events as its operation has dwords. -/
def EvInst.events (x : EvInst) : List MemEvent :=
  let ks := contributed x.instr x.fate { x.args with srcDwords := x.src.length, dstDwords := x.dst.length }
  ks.zipIdx.map (fun ki => x.event ki.1 ((ks.take ki.2).countP (fun k => k == ki.1)))

/-- The events of a thread that an abort retires (R146). -/
def abortEvents (agent : MemAgent) (adm launch : Nat) : List MemEvent :=
  (retirementEvents launch).map (fun k => { agent := agent, kind := k, adm := adm, drained := true, last := true })

/-- The decrement of a packet's completion signal at a location (R272): a release at sys scope by the hub die. -/
def signalEvent (packet : Nat) (loc : Loc) (bytes : List Byte) : MemEvent :=
  { agent := .hub, kind := .signalDown packet, strength := .rel, written := .sys, loc := loc, size := 8, bytes := bytes }

/-- The wider of two scopes. -/
def wider (a b : Scope) : Scope := if a.code ≤ b.code then b else a

namespace MemEvent

/-- Bytes of an event (R267). -/
def locs (e : MemEvent) : List Loc := (List.range e.size).map (fun i => ⟨e.loc.space, e.loc.byte + i⟩)

/-- The byte that a write event writes at a location. -/
def byteAt (e : MemEvent) (l : Loc) : Option Byte := e.bytes[l.byte - e.loc.byte]?

/-- An atomic memory instruction: `atom`, `cas` or `cas2`, a host's atomic operation, or a signal's decrement. -/
def isRmw (e : MemEvent) : Bool := e.kind.updates || e.kind == .readCas

/-- Atomic accesses: ordered loads and stores, and every `atom`, `cas` and `cas2` (R185). -/
def isAtomic (e : MemEvent) : Bool :=
  e.isRmw || ((e.kind == .read || e.kind == .write) && e.strength != .plain)

/-- An agent that takes part at sys scope (R272, R282, R410). -/
def outside (e : MemEvent) : Bool :=
  match e.agent with
  | .host _ | .hart _ | .hub => true
  | _ => false

/-- Scope of an event (R268): sys for hosts and harts, the fixed scope of a synchronising event, thread for a plain access, the
written scope for atomic accesses and fences, widened for an atomic to another device's memory or to host memory (R194). -/
def scope (e : MemEvent) : Scope :=
  if e.outside then .sys
  else match e.kind.syncScope with
    | some s => s
    | none =>
      if e.isRmw then
        let far := if e.loc.space = .host then Scope.sys else if remoteTo e.loc e.agent then .dom else .thread
        wider e.written far
      else if e.isAtomic ∨ e.kind = .fence then e.written
      else .thread

/-- Two events are mutually scoped (R268); two atomics also need one address and one width (R278). -/
def mutually (e f : MemEvent) : Bool :=
  e.agent.covers e.scope f.agent && f.agent.covers f.scope e.agent &&
    (!(e.isAtomic && f.isAtomic) || (e.loc == f.loc && e.size == f.size))

/-- An access that R180 and R278 keep whole: aligned and of up to 8 bytes, or the 16 bytes of a `cas2`, which writes or not. -/
def whole (e : MemEvent) : Bool :=
  e.size != 0 && e.loc.byte % e.size == 0 && (decide (e.size ≤ 8) || (e.size == 16 && e.isRmw))

/-- Overlapping atomics that differ in address or width (R278). -/
def unlike (e f : MemEvent) : Bool := e.isAtomic && f.isAtomic && !(e.loc == f.loc && e.size == f.size)

/-- An event whose drain orders it before what the thread does in later admissions (R43, R269). Of R145's "every access in the thread's
later loads" the same holds: a `gate` whose output reaches no drain orders none of them (DEDUCED: R269 defines the order that R145 states in
words; log 79). -/
def inLoads (e : MemEvent) : Bool := e.drained && e.kind.engineOp.isNone

/-- A terminator's arrival or retirement, which covers what reached the drain of its own load (R144, R146). A `release` within a load covers
the ancestors of its trigger alone, and a departure nothing. -/
def ending (e : MemEvent) : Bool :=
  e.last && (match e.kind with
  | .arrive _ _ | .launchRelease _ => true
  | _ => false)

end MemEvent

/-! ### Relations -/

/-- A relation on the numbers below n as rows of bits. -/
def relOf (n : Nat) (ps : List (Nat × Nat)) : List Nat :=
  (List.range n).map (fun a => (ps.filter (fun p => p.1 == a)).foldl (fun m p => m ||| 1 <<< p.2) 0)

/-- Its transitive closure. -/
def closure (m : List Nat) : List Nat :=
  (List.range m.length).foldl (fun m k => m.map (fun row => if row.testBit k then row ||| (m[k]?).getD 0 else row)) m

/-- a stands before b. -/
def relHolds (m : List Nat) (a b : Nat) : Bool := ((m[a]?).getD 0).testBit b

/-- Pairs of two lists that meet a test. -/
def pairsWhere (as bs : List Nat) (p : Nat → Nat → Bool) : List (Nat × Nat) :=
  as.flatMap (fun a => (bs.filter (fun b => a != b && p a b)).map (fun b => (a, b)))

/-- a stands before b in a list. -/
def earlierIn (o : List Nat) (a b : Nat) : Bool := o.contains a && o.contains b && decide (o.idxOf a < o.idxOf b)

/-- An execution: its events by number, and the facts that no rule fixes. `descends` holds pairs of instances of one thread and load
where the second consumed a token that descends from the first (R269); `outsideOrder` the order of a host agent's own accesses, and of a
hart's the dependencies (R282, R410); `program` the events of harts in the order of their programs; `covered` the engine events that an `ewait` or a `chdone` covers (R252, R253); `rf` the write from which each
byte of a read takes its value; `mo` the order of atomic writes of a location (R275); `place` the sequence in which accesses are
performed at their places (R194, R278, R283); `order` the order S of the `.sc` fences (R280); `final` the write that a location ends
with; `path3` whether host atomics run on path 3 (R195). -/
structure Execution where
  events : List MemEvent
  descends : List (Nat × Nat) := []
  outsideOrder : List (Nat × Nat) := []
  program : List Nat := []
  covered : List (Nat × Nat) := []
  rf : List ((Nat × Loc) × Nat) := []
  mo : List (Loc × List Nat) := []
  place : List Nat := []
  order : List Nat := []
  final : List (Loc × Nat) := []
  path3 : Bool := false
  deriving DecidableEq, Repr

namespace Execution

variable (x : Execution)

/-- An event by its number; a number with no event is an issue of no agent. -/
def ev (i : Nat) : MemEvent := (x.events[i]?).getD { agent := .init, kind := .issue 0 0 }

/-- Numbers of the events. -/
def ids : List Nat := List.range x.events.length

/-- Events that write a location. -/
def writers (l : Loc) : List Nat := x.ids.filter (fun i => (x.ev i).kind.writes && (x.ev i).locs.contains l)

/-- Events that read a location. -/
def readers (l : Loc) : List Nat := x.ids.filter (fun i => (x.ev i).kind.reads && (x.ev i).locs.contains l)

/-- Every location that an event touches. -/
def allLocs : List Loc := (x.events.flatMap MemEvent.locs).dedup

/-- The write from which a read takes a byte. -/
def source (r : Nat) (l : Loc) : Option Nat := x.rf.lookup (r, l)

/-- The byte that a read returns at a location. -/
def valueOf (r : Nat) (l : Loc) : Option Byte := (x.source r l).bind (fun w => (x.ev w).byteAt l)

/-- The byte that a location ends with. -/
def finalOf (l : Loc) : Option Byte := (x.final.lookup l).bind (fun w => (x.ev w).byteAt l)

/-! ### Same-thread order (R269, R274) -/

/-- Two events of one thread. -/
def sameThread (a b : Nat) : Bool :=
  match (x.ev a).agent with
  | .thread _ _ _ _ => (x.ev a).agent == (x.ev b).agent
  | _ => false

/-- The issue event of an operation counts it in a class. -/
def ofClass (o cls : Nat) : Bool := x.events.any (fun e => e.kind == .issue o cls)

/-- An engine event that an engine acquire may cover: of an operation of its own thread and of the class that the `ewait` names, a word of
its channel in its load for `chdone` (R252, R253). -/
def coverable (a b : Nat) : Bool :=
  match (x.ev a).kind, (x.ev b).kind with
  | .engineWrite _ c, .chdone ch _ => c == some ch && (x.ev a).cfg == (x.ev b).cfg
  | k, .ewait cls _ => k.engineOp.any (fun o => x.ofClass o cls) && x.sameThread a b
  | _, _ => false

/-- The order of RISC-V that a hart's accesses follow (R410), from the order of its program: accesses that overlap, the later a write; what an
acquire comes before and a release comes after; and what a fence stands between. Dependencies stand in `outsideOrder`. -/
def hartPairs : List (Nat × Nat) :=
  let after := fun (i : Nat) => (x.ev i).strength == .acq || (x.ev i).strength == .ar || (x.ev i).strength == .sc
  let upTo := fun (i : Nat) => (x.ev i).strength == .rel || (x.ev i).strength == .ar || (x.ev i).strength == .sc
  pairsWhere x.program x.program (fun a b =>
    let e := x.ev a
    let f := x.ev b
    let overlap := f.kind.writes && e.locs.any (fun l => f.locs.contains l)
    let first := if e.kind = .fence then after a || f.kind.writes else after a
    let second := if f.kind = .fence then upTo b || e.kind.reads else upTo b
    earlierIn x.program a b && e.agent == f.agent && (match e.agent with | .hart _ => true | _ => false) &&
      (overlap || first || second))

/-- The four cases of R269 as pairs: descent in a load, drained events of earlier admissions (and of its own load, for what the
terminator does), coverage, and issue predecessors of an engine operation; with the order of hosts and harts (R282, R410). The
closure of these pairs is the transitive relation, since an event's path to an issue event ends in one of the first three. An arrival
covers of the thread's accesses in earlier loads, of which R144 speaks, those that were drained (DEDUCED: R269 defines the order; log
79). -/
def stoPairs : List (Nat × Nat) :=
  let base :=
    x.descends.filter (fun p => x.sameThread p.1 p.2 && (x.ev p.1).adm == (x.ev p.2).adm) ++
    pairsWhere x.ids x.ids (fun a b => x.sameThread a b && (x.ev a).inLoads &&
      (decide ((x.ev a).adm < (x.ev b).adm) || ((x.ev a).adm == (x.ev b).adm && (x.ev b).ending && !(x.ev a).ending))) ++
    x.covered.filter (fun p => x.sameThread p.1 p.2 && x.coverable p.1 p.2)
  base ++
    base.flatMap (fun p => match (x.ev p.2).kind with
      | .issue o _ => (x.ids.filter (fun e => (x.ev e).kind.engineOp == some o && x.sameThread p.1 e)).map (fun e => (p.1, e))
      | _ => []) ++
    x.outsideOrder.filter (fun p => (x.ev p.1).outside && (x.ev p.1).agent == (x.ev p.2).agent) ++ x.hartPairs

/-- Same-thread order, transitively (R269). -/
def sto : List Nat := closure (relOf x.events.length x.stoPairs)

/-- a is before b in same-thread order. -/
def before (a b : Nat) : Bool := relHolds x.sto a b

/-- Whether an `ewait` covers the engine events of an operation of its thread, each. -/
def coversOp (o b : Nat) : List Bool :=
  (x.ids.filter (fun e => (x.ev e).kind.engineOp == some o && x.sameThread e b)).map (fun e => x.covered.contains (e, b))

/-- The issue of an operation that an `ewait` counts: of its class, before it in order or in an earlier load (R253). -/
def counted (i cls b : Nat) : Bool :=
  match (x.ev i).kind with
  | .issue _ c => c == cls && x.sameThread i b && (x.before i b || decide ((x.ev i).adm < (x.ev b).adm))
  | _ => false

/-- An operation whose issue is given is not covered whole. -/
def uncovered (i b : Nat) : Bool :=
  match (x.ev i).kind with
  | .issue o _ => !(x.coversOp o b).all id
  | _ => false

/-- The coverage that R252 and R253 give: every pair is a coverable one; an `ewait` covers each operation whole or not at all, and it fires
when of the operations that it counts at most n have not completed, so that it covers all the others; a `chdone` has the words of its
channel's declared count. -/
def coverOk : Bool :=
  x.covered.all (fun p => x.coverable p.1 p.2) &&
    x.ids.all (fun b => match (x.ev b).kind with
      | .ewait cls n =>
        x.ids.all (fun i => match (x.ev i).kind with
          | .issue o _ => (x.coversOp o b).all id || !(x.coversOp o b).any id
          | _ => true) &&
        decide (x.ids.countP (fun i => x.counted i cls b && x.uncovered i b) ≤ n)
      | .chdone _ words =>
        decide (4 * words ≤ ((x.covered.dedup.filter (fun p => p.2 == b)).map (fun p => (x.ev p.1).size)).sum)
      | _ => true)

/-! ### Synchronisation (R270 to R273) -/

/-- A fence of one of some orderings. -/
def isFence (ss : List Strength) (f : Nat) : Bool := (x.ev f).kind == .fence && ss.contains (x.ev f).strength

/-- An access that a host's or hart's fence makes a side: aligned, of up to 8 bytes (R282). -/
def fenced (i : Nat) : Bool := (x.ev i).outside && (x.ev i).whole && decide ((x.ev i).size ≤ 8)

/-- Release sides (R270, R282): the side, and the write through which it releases. -/
def releases : List (Nat × Nat) :=
  (x.ids.filter (fun w => (x.ev w).kind.writes && (x.ev w).kind.engineOp.isNone)).flatMap (fun w =>
    let e := x.ev w
    let fences := x.ids.filter (fun f => x.isFence [.rel, .ar, .sc] f && x.before f w)
    (if e.strength = .rel ∨ e.strength = .ar ∨ (x.fenced w ∧ !fences.isEmpty) then [(w, w)] else []) ++
      (if e.isAtomic then fences.map (fun f => (f, w)) else []))

/-- Acquire sides (R270, R282): the side, and the read through which it acquires. -/
def acquires : List (Nat × Nat) :=
  (x.ids.filter (fun r => (x.ev r).kind.reads && (x.ev r).kind.engineOp.isNone)).flatMap (fun r =>
    let e := x.ev r
    let fences := x.ids.filter (fun f => x.isFence [.acq, .ar, .sc] f && x.before r f)
    (if e.strength = .acq ∨ e.strength = .ar ∨ (x.fenced r ∧ !fences.isEmpty) then [(r, r)] else []) ++
      (if e.isAtomic then fences.map (fun f => (f, r)) else []))

/-- The release sequence of a write at a byte (R271): a chain of RMWs, each reading the one before, all mutually scoped with the
write. -/
def releaseSeq (w : Nat) (l : Loc) : List Nat :=
  let steps := x.rf.filterMap (fun p =>
    if p.1.2 = l ∧ (x.ev p.1.1).kind.updates ∧ (x.ev p.1.1).mutually (x.ev w) then some (p.2, p.1.1) else none)
  let m := closure (relOf x.events.length steps)
  w :: x.ids.filter (fun i => relHolds m w i)

/-- A release side synchronises with an acquire side (R271). -/
def syncPair (rel acq : Nat × Nat) : Bool :=
  let w := x.ev rel.2
  let r := x.ev acq.2
  (w.locs.any (fun l => match x.source acq.2 l with
    | some v => (x.releaseSeq rel.2 l).contains v
    | none => false)) &&
    (x.ev rel.1).mutually (x.ev acq.1) && (x.ev rel.1).mutually r && w.mutually (x.ev acq.1) && w.mutually r

/-- Synchronises-with pairs of R271. -/
def synced : List (Nat × Nat) :=
  x.releases.flatMap (fun a => (x.acquires.filter (fun b => x.syncPair a b)).map (fun b => (a.1, b.1)))

/-- The rows of R272 on two events, with their scope; and an access that a write of FQ_RESUME has released, which is an acquire at sys scope
of that release (R464). -/
def fixedPair (a b : Nat) : Option Scope :=
  let e := x.ev a
  let f := x.ev b
  let within := fun s => e.agent.covers s f.agent
  match e.kind, f.kind with
  | .arrive bar ph, .depart bar' ph' => if bar = bar' ∧ ph = ph' ∧ within .wg then some .wg else none
  | .launchRelease l, .gate ps => if ps.contains l ∧ within .dev then some .dev else none
  | .recordRelease r, .recordAcquire r' => if r = r' ∧ within .dev then some .dev else none
  | .engineWrite _ _, .chdone _ _ => if x.covered.contains (a, b) ∧ x.coverable a b then some .wg else none
  | .userPost n, .userRead n' => if n = n' then some .sys else none
  | .packetValid p, .packetStart p' => if p = p' then some .sys else none
  | .packetValid p, _ => if f.work = some p then some .sys else none
  | _, .signalDown p => if e.work = some p then some .sys else none
  | .resume n, _ => if f.resumed = some n then some .sys else none
  | _, _ => none

/-- Pairs of R272 whose scope meets a test. -/
def fixedWhere (p : Scope → Bool) : List (Nat × Nat) :=
  pairsWhere x.ids x.ids (fun a b => ((x.fixedPair a b).map p).getD false)

/-- Initial writes happen before every other event (R267). -/
def initial : List (Nat × Nat) :=
  pairsWhere x.ids x.ids (fun a b => (x.ev a).agent == .init && (x.ev b).agent != .init)

/-- Happens-before (R273). -/
def hbRel : List Nat :=
  closure (relOf x.events.length (x.initial ++ x.stoPairs ++ x.synced ++ x.fixedWhere (fun _ => true)))

/-- Happens-before of locations homed on another device (R281): same-thread order, pairs at dom or sys scope, and the fixed actions
of sys scope. -/
def hbRemoteRel : List Nat :=
  let wide := fun i => decide (4 ≤ (x.ev i).scope.code)
  closure (relOf x.events.length (x.initial ++ x.stoPairs ++ x.synced.filter (fun p => wide p.1 && wide p.2) ++
    x.fixedWhere (fun s => s == .sys)))

/-- Happens-before (R273). -/
def hb (a b : Nat) : Bool := relHolds x.hbRel a b

/-- Happens-before as it holds for two events at a location (R281): the restricted relation when either agent is of another device
than the location's home. -/
def hbAt (l : Loc) (a b : Nat) : Bool :=
  if remoteTo l (x.ev a).agent || remoteTo l (x.ev b).agent then relHolds x.hbRemoteRel a b else x.hb a b

/-! ### Values that reads return (R275 to R280) -/

/-- mo(x) of a location. -/
def modOrder (l : Loc) : List Nat := (x.mo.lookup l).getD []

/-- One write stands before another in mo(x), which orders the atomic writes that are mutually scoped with one another (R275). -/
def moBefore (l : Loc) (a b : Nat) : Bool := earlierIn (x.modOrder l) a b && (x.ev a).mutually (x.ev b)

/-- Two writes of one location of which one is the host's and the other the device's: they are applied one after the other (R283). -/
def hostAndDevice (a b : Nat) : Bool :=
  let init := fun (i : Nat) => (x.ev i).agent == .init
  !init a && !init b && (x.ev a).outside != (x.ev b).outside

/-- Two writes of a location whose order the sequence at their place gives: of unlike atomics (R278), or of the host and the device. -/
def placed (a b : Nat) : Bool := (x.ev a).unlike (x.ev b) || x.hostAndDevice a b

/-- Bytes that two events share. -/
def shared (i j : Nat) : List Loc := (x.ev i).locs.filter (fun l => (x.ev j).locs.contains l)

/-- Two whole writes that overlap and are not of the same bytes: their order at one byte is their order at the others (R278). -/
def crossing (i j : Nat) : Bool :=
  (x.ev i).whole && (x.ev j).whole && !(x.shared i j).isEmpty && !((x.ev i).loc == (x.ev j).loc && (x.ev i).size == (x.ev j).size)

/-- co(x) (R275, R278, R283); `fuel` is how often the order of two whole writes at one byte is taken to the other bytes that they share. -/
def coFrom : Nat → Loc → List Nat
  | 0, l =>
    let ws := x.writers l
    closure (relOf x.events.length (pairsWhere ws ws (fun i j =>
      x.hbAt l i j || x.moBefore l i j || ((x.ev j).kind.updates && x.source j l == some i) ||
        (x.placed i j && earlierIn x.place i j))))
  | fuel + 1, l =>
    let ws := x.writers l
    let at_ := fun (l : Loc) => coFrom fuel l
    closure (relOf x.events.length (pairsWhere ws ws (fun i j =>
      relHolds (at_ l) i j || ((x.ev i).whole && (x.ev j).whole && (x.shared i j).any (fun k => relHolds (at_ k) i j)))))

/-- co(x): where whole writes cross, their order is one over the bytes that they share. -/
def co (l : Loc) : List Nat :=
  x.coFrom (if x.ids.any (fun i => (x.ev i).kind.writes && x.ids.any (fun j => (x.ev j).kind.writes && x.crossing i j)) then 2 else 0) l

/-- A write stands before another in co(x). -/
def coBefore (l : Loc) (a b : Nat) : Bool := relHolds (x.co l) a b

/-- One initial write of a location, of a zero byte for a scratchpad or a buffer (R267). -/
def initialOk (l : Loc) : Bool :=
  match (x.writers l).filter (fun i => (x.ev i).agent == .init) with
  | [i] =>
    (match l.space with
    | .scratch _ _ _ | .buffer _ _ _ _ => (x.ev i).byteAt l == some 0
    | _ => true)
  | _ => false

/-- mo(x) orders the atomic writes of a location that are mutually scoped and agrees with hb; the place sequence orders the writes
whose order it gives; and co(x) has no cycle (R275, R278). -/
def coherent (l : Loc) : Bool :=
  let ws := (x.writers l).filter (fun i => (x.ev i).agent != .init)
  let o := x.modOrder l
  decide o.Nodup && o.all (fun i => ws.contains i && (x.ev i).isAtomic) &&
    ws.all (fun i => ws.all (fun j => i == j ||
      ((!((x.ev i).isAtomic && (x.ev j).isAtomic && (x.ev i).mutually (x.ev j)) || (o.contains i && o.contains j)) &&
        (!x.placed i j || (x.place.contains i && x.place.contains j)) &&
        !(x.moBefore l i j && x.hbAt l j i)))) &&
    (x.writers l).all (fun i => !x.coBefore l i i)

/-- The four conditions of R276 on the byte of a read. -/
def readOk (r : Nat) (l : Loc) : Bool :=
  match x.source r l with
  | none => false
  | some w =>
    let ws := x.writers l
    ws.contains w &&
      ws.all (fun v => !(x.hbAt l r v && (v == w || x.coBefore l v w))) &&
      ws.all (fun v => !(x.coBefore l w v && x.hbAt l v r)) &&
      (x.readers l).all (fun q => match x.source q l with
        | some v => !(x.hbAt l q r && x.coBefore l w v)
        | none => true) &&
      (!(x.ev r).isAtomic ||
        ws.all (fun v => !((x.ev v).mutually (x.ev r) && x.moBefore l w v && x.hbAt l v r)))

/-- The indivisibility of an RMW r at a byte (R277, R278, R284): atomics that overlap without being of one address and width are performed one
after the other, so none of them comes between either. With predecessors in mo(x) it reads the last of them; DEDUCED: or a plain
or initial write that is co-after all of them and happens before the RMW, which R276 then lets it read and nothing else. No write
mutually scoped with it lies between in co(x), on host path 3 no such atomic write. On host paths 1 and 2 no write at all is performed
between, as the sequence at the host has it. -/
def rmwOk (r : Nat) (l : Loc) : Bool :=
  match x.source r l with
  | none => false
  | some w =>
    let ws := x.writers l
    let host := l.space == .host
    let preds := ws.filter (fun v => x.moBefore l v r)
    let last := preds.contains w && preds.all (fun v => v == w || x.moBefore l v w)
    let past := !(x.ev w).isAtomic && preds.all (fun v => x.coBefore l v w) && x.hbAt l w r
    (preds.isEmpty || last || past) &&
      ws.all (fun v => v == w || v == r || !(x.coBefore l w v && x.coBefore l v r &&
        ((x.ev v).mutually (x.ev r) || (x.ev v).unlike (x.ev r)) && (!(host && x.path3) || (x.ev v).isAtomic))) &&
      (!host || x.path3 || ws.all (fun v => v == w || v == r ||
        !(((x.ev w).agent == .init || earlierIn x.place w v) && earlierIn x.place v r)))

/-- Two whole accesses keep each other's bytes together (R278): the bytes a read shares with a write come all from it or none. -/
def together (from_ : Loc → Option Nat) (shared : List Loc) (w : Nat) : Bool :=
  let had := shared.map (fun l => from_ l == some w)
  had.all id || !had.any id

/-- Single-copy atomicity (R278), of reads and of what memory ends with, and one order of co over the bytes of two writes. -/
def singleCopy : Bool :=
  let ws := x.ids.filter (fun i => (x.ev i).kind.writes && (x.ev i).whole && (x.ev i).agent != .init)
  (x.ids.filter (fun i => (x.ev i).kind.reads && (x.ev i).whole)).all (fun r =>
    ws.all (fun w => together (x.source r) (x.shared r w) w)) &&
    ws.all (fun v => ws.all (fun w => v == w || (together (fun l => x.final.lookup l) (x.shared v w) w &&
      ((x.shared v w).all (fun l => x.coBefore l v w) || !(x.shared v w).any (fun l => x.coBefore l v w)))))

/-- No value out of thin air (R279). -/
def grounded : Bool :=
  let m := closure (relOf x.events.length (x.stoPairs ++ x.rf.map (fun p => (p.2, p.1.1))))
  x.ids.all (fun i => !relHolds m i i)

/-- The order of the `.sc` fences (R280). -/
def fencesOk : Bool :=
  let o := x.order
  let sc := x.ids.filter (fun i => x.isFence [.sc] i)
  decide o.Nodup && o.all sc.contains &&
    sc.all (fun f => sc.all (fun g => f == g || !((x.ev f).mutually (x.ev g)) || (o.contains f && o.contains g))) &&
    sc.all (fun f => sc.all (fun g => !(earlierIn o f g && x.hb g f))) &&
    sc.all (fun f => sc.all (fun g => !(earlierIn o f g && (x.ev f).mutually (x.ev g)) ||
      x.allLocs.all (fun l =>
        let seen := (x.ids.filter (fun a => x.before a f)).flatMap (fun a =>
          (if (x.writers l).contains a then [a] else []) ++
            (if (x.readers l).contains a then (x.source a l).toList else []))
        seen.all (fun w => (x.readers l).all (fun r => !x.before g r ||
          (match x.source r l with | some v => !x.coBefore l v w | none => true))))))

/-- What memory ends with (R283, R284): at each location named, a write that no other write is co-after. -/
def finalOk : Bool :=
  x.final.all (fun p => (x.writers p.1).contains p.2 && (x.writers p.1).all (fun v => !x.coBefore p.1 p.2 v))

/-- The executions that R266 to R284 allow (R285). -/
def allowed : Bool :=
  x.coverOk && decide x.place.Nodup &&
    x.allLocs.all (fun l => x.initialOk l && x.coherent l &&
      (x.readers l).all (fun r => x.readOk r l && (!(x.ev r).kind.updates || x.rmwOk r l))) &&
    x.singleCopy && x.grounded && x.fencesOk && x.finalOk

end Execution

/-! ### Litmus tests (R285)

Each test is an execution with the outcome that its table names. A location of one byte stands for a dword, but for the tests of mixed
bytes, which use two. Order in a thread stands in `descends`, and for a host in `outsideOrder`. -/

/-- A dword of device 0. -/
def litmusLoc (n : Nat) : Loc := ⟨.device 0, 8 * n⟩

/-- Thread t, in its own workgroup and cluster of a device. -/
def litmusThread (t : Nat) (dev : Nat := 0) : MemAgent := .thread dev t t t

/-- An access by an agent that reads a byte, or writes it. -/
def litmusAccess (a : MemAgent) (k : EvKind) (st : Strength) (sc : Scope) (l : Loc) (b : Byte := 1) : MemEvent :=
  { agent := a, kind := k, strength := st, written := sc, loc := l, size := 1, bytes := if k.writes then [b] else [] }

/-- A fence of an agent. -/
def litmusFence (a : MemAgent) (st : Strength) (sc : Scope) : MemEvent := { agent := a, kind := .fence, strength := st, written := sc }

/-- A synchronising event of an agent in an admission, drained. -/
def litmusSync (a : MemAgent) (k : EvKind) (adm : Nat := 0) : MemEvent := { agent := a, kind := k, adm := adm, drained := true }

/-- A synchronising event of the terminator of an agent's load. -/
def litmusLast (a : MemAgent) (k : EvKind) : MemEvent := { litmusSync a k with last := true }

/-- The initial write of a location. -/
def litmusInit (l : Loc) (b : Byte := 0) : MemEvent := litmusAccess .init .write .plain .thread l b

/-- Message passing between two agents over dwords d and f of a memory: events 0 and 1 are the initial writes, 2 and 3 the writes of
the first agent, 4 and 5 the reads of the second, which find f = 1 and d = 0; a release fence stands between the writes, and an
acquire fence between the reads, where asked. -/
def messagePassingOf (a b : MemAgent) (space : LocSpace) (stF ldF : Strength) (sc : Scope) (fence0 fence1 : Bool)
    (order0 order1 : Bool) : Execution :=
  let d : Loc := ⟨space, 0⟩
  let f : Loc := ⟨space, 8⟩
  let second := if fence0 then 7 else 6
  let sto := (if fence0 then [(2, 6), (6, 3)] else if order0 then [(2, 3)] else []) ++
    (if fence1 then [(4, second), (second, 5)] else if order1 then [(4, 5)] else [])
  { events := [litmusInit d, litmusInit f, litmusAccess a .write .plain .thread d, litmusAccess a .write stF sc f,
      litmusAccess b .read ldF sc f, litmusAccess b .read .plain .thread d] ++
      (if fence0 then [litmusFence a .rel sc] else []) ++ (if fence1 then [litmusFence b .acq sc] else [])
    descends := sto, outsideOrder := sto
    rf := [((4, f), 3), ((5, d), 0)]
    mo := if stF = .plain then [] else [(f, [3])]
    place := [2, 3] }

/-- Message passing between two threads of device 0. -/
def messagePassing (stF ldF : Strength) (sc : Scope) (order0 order1 : Bool) : Execution :=
  messagePassingOf (litmusThread 0) (litmusThread 1) (.device 0) stF ldF sc false false order0 order1

/-- Store buffering: events 0 and 1 are the initial writes of x and y; 2 and 3 the store and load of T0, 4 and 5 those of T1, which
both find 0; 6 and 7 the fences between them, of which S puts event 6 first. -/
def storeBuffering (st : Strength) (sc : Scope) : Execution where
  events := [litmusInit (litmusLoc 0), litmusInit (litmusLoc 1), litmusAccess (litmusThread 0) .write .plain .thread (litmusLoc 0),
    litmusAccess (litmusThread 0) .read .plain .thread (litmusLoc 1),
    litmusAccess (litmusThread 1) .write .plain .thread (litmusLoc 1),
    litmusAccess (litmusThread 1) .read .plain .thread (litmusLoc 0), litmusFence (litmusThread 0) st sc,
    litmusFence (litmusThread 1) st sc]
  descends := [(2, 6), (6, 3), (4, 7), (7, 5)]
  rf := [((3, litmusLoc 1), 1), ((5, litmusLoc 0), 0)]
  order := if st = .sc then [6, 7] else []

/-- Store buffering without fences, with orderings on the stores and loads. -/
def storeBufferingOrdered (st ld : Strength) (sc : Scope) : Execution where
  events := [litmusInit (litmusLoc 0), litmusInit (litmusLoc 1), litmusAccess (litmusThread 0) .write st sc (litmusLoc 0),
    litmusAccess (litmusThread 0) .read ld sc (litmusLoc 1), litmusAccess (litmusThread 1) .write st sc (litmusLoc 1),
    litmusAccess (litmusThread 1) .read ld sc (litmusLoc 0)]
  descends := [(2, 3), (4, 5)]
  rf := [((3, litmusLoc 1), 1), ((5, litmusLoc 0), 0)]
  mo := if st = .plain then [] else [(litmusLoc 0, [2]), (litmusLoc 1, [4])]

/-- Load buffering: each thread's load finds the other's store. The operand of a store that uses the loaded value is an order of
R269 like an order edge. -/
def loadBuffering (ordered : Bool) : Execution where
  events := [litmusInit (litmusLoc 0), litmusInit (litmusLoc 1), litmusAccess (litmusThread 0) .read .plain .thread (litmusLoc 0),
    litmusAccess (litmusThread 0) .write .plain .thread (litmusLoc 1),
    litmusAccess (litmusThread 1) .read .plain .thread (litmusLoc 1),
    litmusAccess (litmusThread 1) .write .plain .thread (litmusLoc 0)]
  descends := if ordered then [(2, 3), (4, 5)] else []
  rf := [((2, litmusLoc 0), 5), ((4, litmusLoc 1), 3)]

/-- Independent reads of independent writes: T2 reads x = 1 then y = 0, T3 reads y = 1 then x = 0. The writes are of a kind and
strength, the reads of a strength; with fences, 8 stands between the reads of T2 and 9 between those of T3, in an order S. -/
def independentReads (k : EvKind) (wr rd : Strength) (fences : Option (List Nat)) : Execution where
  events := [litmusInit (litmusLoc 0), litmusInit (litmusLoc 1), litmusAccess (litmusThread 0) k wr .dev (litmusLoc 0),
    litmusAccess (litmusThread 1) k wr .dev (litmusLoc 1), litmusAccess (litmusThread 2) .read rd .dev (litmusLoc 0),
    litmusAccess (litmusThread 2) .read rd .dev (litmusLoc 1), litmusAccess (litmusThread 3) .read rd .dev (litmusLoc 1),
    litmusAccess (litmusThread 3) .read rd .dev (litmusLoc 0)] ++
    (if fences.isSome then [litmusFence (litmusThread 2) .sc .dev, litmusFence (litmusThread 3) .sc .dev] else [])
  descends := [(4, 5), (6, 7)] ++ (if fences.isSome then [(4, 8), (8, 5), (6, 9), (9, 7)] else [])
  rf := [((4, litmusLoc 0), 2), ((5, litmusLoc 1), 1), ((6, litmusLoc 1), 3), ((7, litmusLoc 0), 0)] ++
    (if k = .rmw then [((2, litmusLoc 0), 0), ((3, litmusLoc 1), 1)] else [])
  mo := if wr = .plain then [] else [(litmusLoc 0, [2]), (litmusLoc 1, [3])]
  order := fences.getD []

/-- Write-to-read causality: r1 = 1, r2 = 1, r3 = 0; T2 is of T1's workgroup or of its own. -/
def writeToReadOf (t2 : MemAgent) (stY ldY : Strength) (sc : Scope) : Execution where
  events := [litmusInit (litmusLoc 0), litmusInit (litmusLoc 1), litmusAccess (litmusThread 0) .write .plain .thread (litmusLoc 0),
    litmusAccess (litmusThread 1) .read .plain .thread (litmusLoc 0), litmusAccess (litmusThread 1) .write stY sc (litmusLoc 1),
    litmusAccess t2 .read ldY sc (litmusLoc 1), litmusAccess t2 .read .plain .thread (litmusLoc 0)]
  descends := [(3, 4), (5, 6)]
  rf := [((3, litmusLoc 0), 2), ((5, litmusLoc 1), 4), ((6, litmusLoc 0), 0)]
  mo := if stY = .plain then [] else [(litmusLoc 1, [4])]

/-- Write-to-read causality with T2 in a workgroup of its own. -/
def writeToRead (stY ldY : Strength) (sc : Scope) : Execution := writeToReadOf (litmusThread 2) stY ldY sc

/-- Engine test 1: T0 copies a (event 0, which holds 5) to x, waits if `waited`, and releases f; T1 acquires f = 1 and reads x = 0. -/
def copyThenRelease (waited : Bool) : Execution :=
  let t0 := litmusThread 0
  { events := [litmusInit (litmusLoc 0) 5, litmusInit (litmusLoc 1), litmusInit (litmusLoc 2), litmusSync t0 (.issue 0 0),
      litmusAccess t0 (.engineRead 0) .plain .thread (litmusLoc 0), litmusAccess t0 (.engineWrite 0 none) .plain .thread (litmusLoc 1) 5,
      litmusAccess t0 .write .rel .dev (litmusLoc 2), litmusAccess (litmusThread 1) .read .acq .dev (litmusLoc 2),
      litmusAccess (litmusThread 1) .read .plain .thread (litmusLoc 1)] ++ (if waited then [litmusSync t0 (.ewait 0 0)] else [])
    descends := [(3, 6), (7, 8)] ++ (if waited then [(3, 9), (9, 6)] else [])
    covered := if waited then [(4, 9), (5, 9)] else []
    rf := [((4, litmusLoc 0), 0), ((7, litmusLoc 2), 6), ((8, litmusLoc 1), 1)]
    mo := [(litmusLoc 2, [6])] }

/-- Engine tests 3 to 5: T0 stores a := 7 after the issue of the copy of a to x, or before it, and reads x after an `ewait`; the
copy's read takes its value from event `src`. -/
def copyAndStore (storeFirst : Bool) (src : Nat) : Execution :=
  let t0 := litmusThread 0
  let got : Byte := if src = 0 then 5 else 7
  { events := [litmusInit (litmusLoc 0) 5, litmusInit (litmusLoc 1), litmusSync t0 (.issue 0 0),
      litmusAccess t0 (.engineRead 0) .plain .thread (litmusLoc 0),
      litmusAccess t0 (.engineWrite 0 none) .plain .thread (litmusLoc 1) got,
      litmusAccess t0 .write .plain .thread (litmusLoc 0) 7, litmusSync t0 (.ewait 0 0),
      litmusAccess t0 .read .plain .thread (litmusLoc 1)]
    descends := [(2, 6), (6, 7)] ++ (if storeFirst then [(5, 2)] else [(2, 5)])
    covered := [(3, 6), (4, 6)]
    rf := [((3, litmusLoc 0), src), ((7, litmusLoc 1), 4)] }

/-- The bytes of a dword of device 0. -/
def litmusBytes (n : Nat) : List Loc := (List.range 8).map (fun i => ⟨.device 0, 8 * n + i⟩)

/-- Engine test 6: T0 copies a dword of fives to x by a channel declared of 2 words, and T1 of its load reads x = 0 after `chdone`, which
covers the engine events `cov`. -/
def copyThenChdone (cov : List Nat) : Execution :=
  let t0 := litmusThread 0
  let t1 : MemAgent := .thread 0 0 0 1
  let dword := fun (a : MemAgent) (k : EvKind) (n : Nat) (b : Byte) =>
    { litmusAccess a k .plain .thread (litmusLoc n) b with size := 8, bytes := if k.writes then List.replicate 8 b else [] }
  { events := [dword .init .write 0 5, dword .init .write 1 0, litmusSync t0 (.issue 0 0), dword t0 (.engineRead 0) 0 0,
      dword t0 (.engineWrite 0 (some 3)) 1 5, litmusSync t1 (.chdone 3 2), dword t1 .read 1 0]
    descends := [(5, 6)]
    covered := cov.map (fun e => (e, 5))
    rf := (litmusBytes 0).map (fun l => ((3, l), 0)) ++ (litmusBytes 1).map (fun l => ((6, l), 1)) }

/-- A two-byte access that writes two bytes. -/
def litmusPair (a : MemAgent) (k : EvKind) (l : Loc) (bs : List Byte) : MemEvent :=
  { agent := a, kind := k, loc := l, size := 2, bytes := bs }

/-- Engine test 7: T0 copies a and b, of two bytes each, to x in one load, waits for both with `ewait #n`, and reads x; what it takes at each
of the two bytes. The copies' writes are events 9 and 12. -/
def twoCopies (n : Nat) (rd : Nat × Nat) : Execution :=
  let t0 := litmusThread 0
  let loc := fun (i : Nat) => (⟨.device 0, i⟩ : Loc)
  let part := fun (k : EvKind) (i : Nat) (bs : List Byte) => litmusPair t0 k (loc i) bs
  { events := [litmusInit (loc 0) 5, litmusInit (loc 1) 5, litmusInit (loc 8) 7, litmusInit (loc 9) 7, litmusInit (loc 16),
      litmusInit (loc 17), litmusSync t0 (.issue 0 0), litmusSync t0 (.issue 1 0), part (.engineRead 0) 0 [],
      part (.engineWrite 0 none) 16 [5, 5], litmusSync t0 (.ewait 0 n), part (.engineRead 1) 8 [],
      part (.engineWrite 1 none) 16 [7, 7], part .read 16 []]
    descends := [(6, 10), (7, 10), (10, 13)]
    covered := if n = 0 then [(8, 10), (9, 10), (11, 10), (12, 10)] else []
    rf := [((8, loc 0), 0), ((8, loc 1), 1), ((11, loc 8), 2), ((11, loc 9), 3), ((13, loc 16), rd.1), ((13, loc 17), rd.2)] }

/-- Two whole writes of one dword by two agents, unsynchronised: what a read by a thread, and the end of memory, take at each of the
two bytes. The host test of mixed bytes has this shape; the writes are events 2 and 3. -/
def twoWrites (a b : MemAgent) (k : EvKind) (place : List Nat) (rd fin : Nat × Nat) : Execution :=
  let l := litmusLoc 0
  let h : Loc := ⟨.device 0, 1⟩
  { events := [litmusInit l, litmusInit h, litmusPair a k l [1, 1], litmusPair b k l [2, 2], litmusPair (litmusThread 9) .read l []]
    rf := [((4, l), rd.1), ((4, h), rd.2)]
    place := place
    final := [(l, fin.1), (h, fin.2)] }

/-- Atomics of unlike width (R278): T0 adds to two bytes and T1 to the first of them, each from the initial value, or T1 from what T0 wrote. -/
def unlikeAtomics (src : Nat) : Execution :=
  let l := litmusLoc 0
  let h : Loc := ⟨.device 0, 1⟩
  { events := [litmusInit l, litmusInit h, { litmusPair (litmusThread 0) .rmw l [1, 0] with strength := .rlx, written := .dev },
      litmusAccess (litmusThread 1) .rmw .rlx .dev l (if src = 0 then 1 else 2)]
    rf := [((2, l), 0), ((2, h), 1), ((3, l), src)]
    mo := [(l, [2, 3]), (h, [2])]
    place := [2, 3] }

/-- Host tests of a shared line: the host writes one dword and T0 another, and memory ends with events `fin` there. -/
def sharedLine (fin : Nat × Nat) : Execution where
  events := [litmusInit (litmusLoc 0), litmusInit (litmusLoc 1), litmusAccess (.host 0) .write .plain .thread (litmusLoc 0),
    litmusAccess (litmusThread 0) .write .plain .thread (litmusLoc 1)]
  place := [2, 3]
  final := [(litmusLoc 0, fin.1), (litmusLoc 1, fin.2)]

/-- Host tests of a host atomic: T0 adds 1 to c by an atomic at sys scope, the host stores 10; the atomic reads from event `src`, the
two are performed at the host in an order, and c ends with event `fin`. -/
def hostAtomic (path3 : Bool) (src : Nat) (place : List Nat) (fin : Nat) : Execution :=
  let c : Loc := ⟨.host, 0⟩
  { events := [litmusInit c, litmusAccess (litmusThread 0) .rmw .rlx .sys c (if src = 0 then 1 else 11),
      litmusAccess (.host 0) .write .plain .thread c 10]
    rf := [((1, c), src)]
    mo := [(c, [1])]
    place := place
    final := [(c, fin)]
    path3 := path3 }

/-- Barrier test: T0 stores x and arrives; T1 leaves the barrier, by `.sync` or by a `.wait` that waits for nothing, and reads x = 0
in its next load. -/
def barrierTest (sync : Bool) : Execution :=
  let t0 := litmusThread 0
  let t1 : MemAgent := .thread 0 0 0 1
  { events := [litmusInit (litmusLoc 0), { litmusAccess t0 .write .plain .thread (litmusLoc 0) with drained := true },
      litmusLast t0 (.arrive 0 0), { litmusAccess t1 .read .plain .thread (litmusLoc 0) with adm := 1 }] ++
      (if sync then [litmusLast t1 (.arrive 0 0), litmusLast t1 (.depart 0 0)] else [])
    rf := [((3, litmusLoc 0), 0)] }

/-- Launch test: T0 of launch 1 stores x and retires; T1 of a launch that depends on it passes the gate and reads x = 0. -/
def launchTest : Execution :=
  let t0 := litmusThread 0
  { events := [litmusInit (litmusLoc 0), { litmusAccess t0 .write .plain .thread (litmusLoc 0) with drained := true },
      litmusLast t0 (.launchRelease 1), litmusSync (litmusThread 1) (.gate [1]),
      litmusAccess (litmusThread 1) .read .plain .thread (litmusLoc 0)]
    descends := [(3, 4)]
    rf := [((4, litmusLoc 0), 0)] }

/-- Graph test: T0 writes a field of record 0 and emits it; the thread started for the record reads 0 there. -/
def recordTest : Execution :=
  let t0 := litmusThread 0
  let t1 := litmusThread 1
  { events := [litmusInit (litmusLoc 0), litmusAccess t0 .write .plain .thread (litmusLoc 0), litmusSync t0 (.recordRelease 0),
      litmusSync t1 (.recordAcquire 0), { litmusAccess t1 .read .plain .thread (litmusLoc 0) with adm := 1 }]
    descends := [(1, 2)]
    rf := [((4, litmusLoc 0), 0)] }

end Sys2Proof.Machine
end

