-- ==== Sys2Proof/Safety.lean ====
section
/-! DEFINITION. What counts as a safe step, in the terms the statements use. -/

namespace Sys2Proof

namespace Machine

/-- Every memory of the machine has its one canonical form: addresses strictly rising, and no listed byte that equals what an
unlisted one reads as. -/
def State.memOk (s : State) : Prop :=
  Memory.wf s.mem = true ∧ Memory.wf s.hostMem = true ∧ Memory.wf s.remoteMem = true ∧
    Memory.wf s.recovery = true ∧ Memory.wf s.sram = true

end Machine

/-- The machine goes on. -/
def goesOn (s : Machine.State) : Prop := ∃ t, Machine.step s = .next t

end Sys2Proof
end

