-- ==== Sys2Proof/Certificates/Slice0/Obligations.lean ====
section
/-! DEFINITION. The statements about the KV7. Each says what an instruction, a step of the hardware or the machine does, in the
terms of the rules R<n> of spec/; the words that several share come first. -/

open Sys2Proof Sys2Proof.Machine

namespace Sys2Proof.Claims

/-! ### Words that the statements share -/

/-- The firing instance acts: its predicate lets it, and its operands are data (R34, R77). An operand that is absent reads as data
0 and is not looked at. -/
def acts (s : State) (w : SlotWord) (a b c : Dword) : Prop :=
  s.go s.fire w = .fire ∧ s.opA s.fire w = .data a ∧ s.opB s.fire w = .data b ∧ s.opC s.fire w = .data c

/-- The instance acts, and no operand that it reads is a pass token. -/
def goesAhead (s : State) (w : SlotWord) (vs : List Val) : Prop := s.go s.fire w = .fire ∧ vs.contains .pass = false

/-- The instance acts on a trigger or an operand A that is not a pass token (R112). -/
def triggers (s : State) (w : SlotWord) : Prop := s.go s.fire w = .fire ∧ s.opA s.fire w ≠ .pass

/-- An instruction completes and sends one token to both destinations. -/
def gives (i : Instr) (s : State) (w : SlotWord) (v : Val) : Prop := exec i s = .next (s.emit2 s.fire w v v)

/-- An instruction completes and sends these tokens to D0 and D1. -/
def gives2 (i : Instr) (s : State) (w : SlotWord) (v0 v1 : Val) : Prop := exec i s = .next (s.emit2 s.fire w v0 v1)

/-- Only tokens have left: of a core, the tokens under way, the feeds, the buffers of stream ports and the staged live values may
change, and nothing else of the machine does. Every memory reads as before. -/
def tokensOnly (s t : State) (k : Nat) : Prop :=
  t = { s with cores := t.cores } ∧ (∀ j, j ≠ k → t.core j = s.core j) ∧
    t.core k = { s.core k with
      flights := (t.core k).flights, feeds := (t.core k).feeds, ports := (t.core k).ports, threads := (t.core k).threads } ∧
    (∀ n, (t.core k).thread n = { (s.core k).thread n with staged := ((t.core k).thread n).staged }) ∧
    (∀ n, (t.core k).port n = { (s.core k).port n with buf := ((t.core k).port n).buf })

/-- A core lists a port as a bound outbound one, which slots may name (R82, R243). -/
def sendsTo (c : Core) (n : Nat) : Prop := ∃ q, c.ports.look n = some q ∧ q.out = true ∧ q.state ≠ .unbound

/-- The instructions that compute values from operands alone: integer, address, float and packed-pair instructions, `sptest`. -/
def valueClass (w : SlotWord) : List Instr :=
  [.add w, .sub w, .mul w, .mulh w, .mad w, .div w, .rem w, .neg w, .abs w, .min w, .max w, .and w, .or w, .xor w, .not w, .shl w,
    .shr w, .sar w, .rol w, .ror w, .clz w, .ctz w, .popc w, .brev w, .bfx w, .bfi w, .cmp w, .sext w, .zext w, .addc w, .subb w,
    .lea w, .mov w] ++
  [.fadd w, .fsub w, .fmul w, .ffma w, .fneg w, .fabs w, .fmin w, .fmax w, .fcmp w, .fcvt w, .fcvti w, .icvtf w, .frnd w, .fdiv w,
    .frcp w, .fsqrt w, .frsq w, .fexp2 w, .flog2 w, .fsin w, .fcos w, .fclass w, .fscale w, .ffrexp w, .fsign w, .hadd2 w,
    .hmul2 w, .hfma2 w, .fdot2 w, .sptest w]

/-- Nothing is wrong with device memory: no stack is fenced (R417), no burst is bad and none waits for its report (R304), and no dword
is poisoned (R183). -/
def quietMemory (s : State) : Prop :=
  s.fenceStacks = [] ∧ s.badBursts = [] ∧ s.detected = [] ∧ s.memPoison = [] ∧ s.l2.all (fun kw => !kw.2.poison) = true

/-- The outcome of an instruction in a step: time passes after it (log 3). -/
def thenTime (o : Host.Outcome State Fault Refusal) : Host.Outcome State Fault Refusal :=
  match o with
  | .next t => .next t.tick
  | .fault r => .fault r
  | .refused r => .refused r

/-- The group of the firing instance with its lane in it (R205). -/
def joined (s : State) (a b : Val) : Group :=
  let f := s.fire
  let blank : Group := ⟨f.elem, f.slot, f.tag.out, f.tag.inn, (s.ft f).span, [], []⟩
  let g := ((s.core f.core).groups.find? (fun (h : Group) => h.same blank)).getD blank
  { g with lanes := g.lanes.put (s.ft f).lane (.active a b) }

/-- The firing instance, of an opcode, fires as the last present lane of its group, and no other group stands in its core. -/
def lastLane (s : State) (w : SlotWord) (opc : Nat) (a b : Val) : Prop :=
  let f := s.fire
  let c := s.core f.core
  let g := joined s a b
  s.go f w = .fire ∧ s.opA f w = a ∧ a ≠ .pass ∧ c.load.opc f.node = some opc ∧ c.load.fields f.node = some w ∧
    (∀ h ∈ c.groups, h.same g = true) ∧
    ∀ i, i < (c.span g.span).count → (g.lanes.look i).isSome = true ∨ c.laneLeft (c.span g.span) i = true

/-- The group is gone, and each of its lanes has its tokens (R205): an active lane what `r` gives it, an inactive one pass tokens or its
predicate's error, and a lane that has left the load since none. -/
def lanesGet (s : State) (w : SlotWord) (g : Group) (r : Nat → Val × Val) : State :=
  let k := s.fire.core
  let p := (s.core k).span g.span
  (List.range p.count).foldl (fun (s : State) i =>
    if g.silent i then s
    else match g.lanes.look i with
      | some (.active _ _) => s.emit2 (g.firing k p i) w (r i).1 (r i).2
      | some .inactive => s.emit2 (g.firing k p i) w .pass .pass
      | some (.predError e) => s.emit2 (g.firing k p i) w (.err e) (.err e)
      | _ => s) (s.onCore k (fun (c : Core) => { c with groups := [] }))

/-- Nothing stands before the firing matrix instance at its island, and its thread is in the load and has room in its counter; `p` is
the part of its workgroup. -/
def islandFree (s : State) (p : Part) : Prop :=
  let f := s.fire
  let c := s.core f.core
  let th := s.ft f
  c.mxSent = [] ∧ c.mxQueue = [] ∧ th.state = .inload ∧ th.aborted = false ∧ f.mute = false ∧
    c.parts.find? (fun (p : Part) => p.launch == th.launch && p.wgid == th.wgid) = some p ∧ s.countRoom f.core f.thread .matrix = true

end Sys2Proof.Claims

open Sys2Proof.Claims

/-! ### Encodings -/

/-- Decoding the word of a well-formed instruction gives it back: every instruction, every operand at every value that the encoding
admits (R75 to R87). Fields D2 and D3 of `fan` are destinations too (R127). -/
def Obligations.EncodingRoundTrip : Prop :=
  ∀ i : Instr, i.wf = true → fanCheck i = none → ∀ x, encode i = some x → decodeWord x = .ok i

/-- A word that the decoder accepts is the word of the instruction it stands for, and the instruction is well formed: no two words
stand for one instruction, and no bit of a word is dropped (R75, R101). -/
def Obligations.AcceptedWordsAreEncodings : Prop :=
  ∀ (x : Word128) (i : Instr), decodeWord x = .ok i → encode i = some x ∧ i.wf = true ∧ fanCheck i = none

/-- Words that the spec writes out in full decode to what they stand for: `add.s32` and `fmul.rne.f32` (03, after R88), a branch (04),
`bquant` (05), an atomic (06), `gscan` and `mxop` (07), a copy (08) and `xsegred` (18). Every opcode that the map leaves out is refused
with check 1, whatever stands in the other fields (R88, R101). -/
def Obligations.WordsDecode : Prop :=
  (decodeWord 0x00200000003002090000000000000000#128 = .ok (.add
     ⟨.s32, 0, .none, .token, .token, .absent, .port 9 0 .a, .none, 0, 0⟩) ∧
   decodeWord 0x32C1800100F003050000000000000000#128 = .ok (.fmul
     ⟨.f32, 1, .ifFalse, .token, .pool 3, .absent, .stacks 5, .none, 0, 0⟩) ∧
   decodeWord 0x7B000003003000000000000000000403#128 = .ok (.br
     ⟨.b32, 0, .none, .token, .absent, .absent, .none, .none, 0, 0x403⟩) ∧
   decodeWord 0x62C0000300300228200001C000000000#128 = .ok (.bquant
     ⟨.f32, 0, .none, .token, .absent, .absent, .port 40 2 .a, .none, 0x1C, 0⟩) ∧
   decodeWord 0x924000000030021432150C6000000001#128 = .ok (.atom
     ⟨.n32, 0, .none, .token, .token, .absent, .port 20 3 .a, .port 21 0 .p, 6, 1⟩) ∧
   decodeWord 0xC32000030030020C1400000000020000#128 = .ok (.gscan
     ⟨.s32, 0, .none, .token, .absent, .absent, .port 12 1 .b, .none, 0, 0x20000⟩) ∧
   decodeWord 0xD0C10003003002040000000000000F03#128 = .ok (.mxop
     ⟨.f32, 1, .none, .token, .absent, .absent, .port 4 0 .a, .none, 0, 0xF03⟩) ∧
   decodeWord 0xE000000000000000021E2C2000450000#128 = .ok (.cpy
     ⟨.b32, 0, .none, .token, .token, .token, .none, .port 30 2 .p, 2, 0x450000⟩) ∧
   decodeWord 0xC9C00000003002322000000000000000#128 = .ok (.xsegred
     ⟨.f32, 0, .none, .token, .token, .absent, .port 50 2 .a, .none, 0, 0⟩)) ∧
  (∀ x : Word128, (∀ r ∈ [(0x00, 0x22), (0x30, 0x4E), (0x60, 0x67), (0x70, 0x84), (0x90, 0x9C), (0xC0, 0xCA), (0xD0, 0xD6), (0xE0, 0xEA),
     (0xF0, 0xF4), (0xF8, 0xFF)], ¬ (r.1 ≤ (x.field 120 8).toNat ∧ (x.field 120 8).toNat ≤ r.2)) → decodeWord x = .error 1)

/-! ### How the machine steps -/

/-- A step with a firing to run fetches the word in the firing's slot of its core's active load, or the word that a held access has kept
(R181), decodes it, and is `exec` of that instruction at the state that holds this firing; then time passes (R306, R308; logs 1, 3,
5). A slot that is EMPTY and a word that fails a check have no effect (R76, R102). -/
def Obligations.StepRunsDecodedWord : Prop :=
  ∀ (s : State) (f : Firing) (rest : List Firing),
    s.powered = true → s.heldInReset = false → s.ready = f :: rest →
    let u : State := { s with fire := f, ready := rest }
    (f.kept = none → s.wordOf f = (s.core f.core).load.bits f.node) ∧
    (∀ h, f.kept = some h → s.wordOf f = some h.word) ∧
    (∀ x i, s.wordOf f = some x → decodeWord x = .ok i → step s = thenTime (exec i u)) ∧
    (∀ x n, s.wordOf f = some x → decodeWord x = .error n → step s = .next u.tick) ∧
    (s.wordOf f = none → step s = .next u.tick)

/-- A step without a firing makes the access again that left its hold first (R372), then lets a launcher have the tick that is due
(R350), then takes the oldest input of the host, the harts and the environment unless it waits for its stack (R415); without any of these
it is `exec` of the activity that the hardware does next, after what goes wrong with stored bits. That order is the model's choice (logs 1,
4, 74). Without power, or held in reset, nothing runs until a cold reset (R416, R421). That another input is then lost, and that a step
without an input faults, is the model's choice too (log 56). -/
def Obligations.StepsWithoutFirings : Prop :=
  (∀ (s : State), s.powered = true → s.heldInReset = false → s.ready = [] →
     (∀ h rest, s.retries = h :: rest → step s = runRetry h { s with retries := rest }) ∧
     (∀ f rest x i, s.retries = .firing f :: rest → s.wordOf f = some x → decodeWord x = .ok i →
       step s = thenTime (exec i { s with retries := rest, fire := f })) ∧
     (∀ die, s.retries = [] → s.dueTick = some die → step s = thenTime (exec (.launcherTick die) s)) ∧
     (∀ i more, s.retries = [] → s.dueTick = none → s.inbox = .run i :: more →
       step s = thenTime (exec i { s with inbox := more })) ∧
     (∀ x more, s.retries = [] → s.dueTick = none → s.inbox = x :: more → (∀ i, x ≠ .run i) → s.inputWaits x = false →
       step s = .next (({ s with inbox := more } : State).takesInput x).tick) ∧
     (s.retries = [] → s.dueTick = none → s.inbox = [] ∨ (∃ x more, s.inbox = x :: more ∧ s.inputWaits x = true) →
       let u := s.decay (Config.decays s.stepNo)
       step s = thenTime (exec u.nextActivity (u.chosen u.nextActivity)))) ∧
  (∀ (s : State), (s.powered = false ∨ s.heldInReset = true) →
     (s.inbox = [] → step s = .fault .notRunning) ∧
     (∀ more, s.inbox = .run .coldReset :: more → step s = thenTime (exec .coldReset { s with inbox := more })) ∧
     (∀ x more, s.inbox = x :: more → x ≠ .run .coldReset → step s = .next { s with inbox := more }))

/-! ### Reset and memory -/

/-- What reset leaves. The spec states: FQ_CTL.LOG2N 6 and the rest of the fault queue zero (R369), EPOCH 1 and QDONE 0 (R380), an empty
deaccession queue, XLT_INV zero (R378), no function ready (R415), and every queue DISABLED with LOG2N 4, PDEPTH 1 and the rest of its
descriptor zero (R397). That memory lists nothing is the model's choice (log 6), and so is that no launch, graph, hold, event, firing or
activity is under way (logs 1, 8). -/
def Obligations.ResetValues : Prop :=
  State.reset.fqBase = 0 ∧ State.reset.fqCtl = 6 ∧ State.reset.fqWr = 0 ∧ State.reset.fqRd = 0 ∧ State.reset.fqDrop = 0 ∧
    State.reset.epoch = 1 ∧ State.reset.qdone = 0 ∧ State.reset.dq = [] ∧ State.reset.dqOvf = false ∧ State.reset.xltInv = 0 ∧
    State.reset.funcReady = 0 ∧ State.reset.launches = [] ∧ State.reset.graphs = [] ∧ State.reset.holds = [] ∧
    State.reset.evStore = [] ∧ State.reset.ready = [] ∧ State.reset.mem = [] ∧
    ∀ q, let x := State.reset.queue q
      x.qbase = 0 ∧ x.state = 0 ∧ natBits x.qctl.toNat 4 0 = 4 ∧ natBits x.qctl.toNat 27 26 = 1 ∧
        x.qctl &&& 0xFFFFFFFFF3FFFFE0 = 0 ∧ x.quantum = 0 ∧ x.qwr = 0 ∧ x.qrd = 0 ∧ x.qerridx = 0

/-- The memories of the machine after reset are in canonical form. -/
def Obligations.ResetMemoryCanonical : Prop := State.reset.memOk

/-- Every step keeps the canonical form of device memory, host memory, other devices' memory and the recovery buffer, from every state
that has it, whatever instruction, input or activity the step runs. -/
def Obligations.StepKeepsMemoryCanonical : Prop :=
  ∀ s t : State, s.memOk → step s = .next t → t.memOk

/-- In canonical form, memories that read alike at every address are equal as data. -/
def Obligations.EqualReadsEqualMemory : Prop :=
  ∀ m n : List Host.Cell, Memory.wf m = true → Memory.wf n = true → (∀ a, cellRead m a = cellRead n a) → m = n

/-- A store of bytes through a die slice and the reads that follow, of any die (R296, R297): the stored bytes read as stored, every other
byte of device memory reads as before, wherever the words stood before, in memory or at any die, and whatever the store evicted to
make room; and a coherent read changes no byte. No stack is fenced (R417) and no burst is bad (R304). -/
def Obligations.DeviceMemoryCoherent : Prop :=
  (∀ (s : State) (die pa : Nat) (bs : List Byte), s.fenceStacks = [] → s.badBursts = [] →
     (∀ i, i < bs.length → (s.devStore die pa bs).viewByte (pa + i) = (bs[i]?).getD 0) ∧
     (∀ a, (a < pa ∨ pa + bs.length ≤ a) → (s.devStore die pa bs).viewByte a = s.viewByte a)) ∧
  (∀ (s : State) (die pa n : Nat), s.fenceStacks = [] → s.badBursts = [] →
     ∀ a, (s.devFetch die pa n).viewByte a = s.viewByte a)

/-! ### Tokens and operands -/

/-- Where a token goes (R81, R83): an invalid destination discards it; a slot port's token is under way to it; one bound for the stacks
is staged for its live value with its kind bit, unless the thread's terminator has committed (R139), and a pass token stages nothing (R126); data sent to an outbound stream port appends
its eight bytes, and a pass token appends none (R248). -/
def Obligations.TokenDestinations : Prop :=
  ∀ (s : State) (f : Firing) (n : Nat) (v : Val) (tag : Tag), f.mute = false →
    s.send f n .none false v tag = s ∧
    (∀ (e : BitVec 7) (sl : BitVec 4) (p : PortId) (scale : Bool),
      s.send f n (.port e sl p) scale v tag = s.onCore f.core (fun (c : Core) => { c with
        flights := c.flights ++ [⟨e.toNat, sl.toNat, p, scale, v, tag, f.elem, f.slot, n⟩] })) ∧
    (∀ lv : BitVec 7, (s.thread f.core tag.slot.toNat).closing = true → s.send f n (.stacks lv) false v tag = s) ∧
    (∀ (lv : BitVec 7) (x : Dword), (s.thread f.core tag.slot.toNat).closing = false → v = .data x →
      ((s.send f n (.stacks lv) false v tag).thread f.core tag.slot.toNat).staged =
        (s.thread f.core tag.slot.toNat).staged ++ [⟨lv.toNat, f.elem, f.slot, ((s.core f.core).iterations f.node tag).1,
          ((s.core f.core).iterations f.node tag).2, ⟨false, x, false⟩⟩]) ∧
    (∀ (lv : BitVec 7) (k : Sub), (s.thread f.core tag.slot.toNat).closing = false → v = .err k →
      ((s.send f n (.stacks lv) false v tag).thread f.core tag.slot.toNat).staged =
        (s.thread f.core tag.slot.toNat).staged ++ [⟨lv.toNat, f.elem, f.slot, ((s.core f.core).iterations f.node tag).1,
          ((s.core f.core).iterations f.node tag).2, ⟨true, BitVec.ofNat 64 k.code, false⟩⟩]) ∧
    (∀ lv : BitVec 7, v = .pass → s.send f n (.stacks lv) false v tag = s) ∧
    (∀ (p : BitVec 4) (x : Dword), v = .data x →
      (((s.send f n (.island (.sp p)) false v tag).core f.core).port p.toNat).buf =
        (((s.core f.core).ports.look p.toNat).elim [] Port.buf) ++ (bytesLE 8 x.toNat).map (fun b => (b, false))) ∧
    (∀ p : BitVec 4, v = .pass → s.send f n (.island (.sp p)) false v tag = s)

/-- What an operand specifier supplies to a thread that goes on (R79, R37): a pool entry and a thread constant are data; an absent
operand counts as data 0; a token operand is the token itself. Some of the thread constants: `%lane`, `%coreid`, `%clusterid`,
`%slot`, `%iter` and `%depth`. The predicate (R77): without one an instance fires; fire-if-true fires on a non-zero payload and
fire-if-false on a zero one; the other payload and a pass token make it not fire; Poison is consumed; another error stops it. -/
def Obligations.OperandsAndPredicates : Prop :=
  (∀ (s : State) (f : Firing) (v : Val), (s.ft f).dead = false →
     s.operand f .token (some v) = v ∧
     (∀ i : BitVec 10, s.operand f (.pool i) none = .data (((s.core f.core).load.pool[i.toNat]?).getD 0)) ∧
     s.operand f .absent none = .data 0 ∧
     s.operand f (.const .lane) none = .data (BitVec.ofNat 64 (s.ft f).lane) ∧
     s.operand f (.const .coreid) none = .data (BitVec.ofNat 64 f.core) ∧
     s.operand f (.const .clusterid) none = .data (BitVec.ofNat 64 (f.core / 8)) ∧
     s.operand f (.const .slot) none = .data (BitVec.ofNat 64 f.tag.slot.toNat) ∧
     s.operand f (.const .iter) none = .data (BitVec.ofNat 64 (f.tag.out.toNat * 64 + f.tag.inn.toNat)) ∧
     s.operand f (.const .depth) none = .data (BitVec.ofNat 64 (s.ft f).recDepth.toNat)) ∧
  (∀ (s : State) (f : Firing) (w : SlotWord), (s.ft f).dead = false →
     (w.pm = .none → s.go f w = .fire) ∧
     (∀ x : Dword, f.p = some (.data x) → w.pm = .ifTrue → s.go f w = if x = 0 then .skip else .fire) ∧
     (∀ x : Dword, f.p = some (.data x) → w.pm = .ifFalse → s.go f w = if x = 0 then .fire else .skip) ∧
     (w.pm ≠ .none → f.p = some .pass → s.go f w = .skip) ∧
     (w.pm ≠ .none → f.p = some (.err .poison) → s.go f w = .poison) ∧
     (∀ k : Sub, k ≠ .poison → w.pm ≠ .none → f.p = some (.err k) → s.go f w = .stop k))

/-- Token kinds in a value instruction (R34, R77): a predicate that does not fire, or a pass token on an operand, gives pass tokens on
both destinations; otherwise Poison on an operand gives Poison, and another error the first one in the order A, B, C; a Poison
predicate commits 0x20, and another error on it gives that error. -/
def Obligations.TokenKinds : Prop :=
  ∀ (s : State) (w : SlotWord) (i : Instr), i ∈ valueClass w →
    (s.go s.fire w = .skip → gives i s w .pass) ∧
    (∀ k, s.go s.fire w = .stop k → gives i s w (.err k)) ∧
    (s.go s.fire w = .poison → exec i s = .next (s.commit s.fire 0x20 .none none 0)) ∧
    (s.go s.fire w = .fire → Val.pass ∈ [s.opA s.fire w, s.opB s.fire w, s.opC s.fire w] → gives i s w .pass) ∧
    (s.go s.fire w = .fire → Val.pass ∉ [s.opA s.fire w, s.opB s.fire w, s.opC s.fire w] →
      Val.err .poison ∈ [s.opA s.fire w, s.opB s.fire w, s.opC s.fire w] → gives i s w (.err .poison)) ∧
    (∀ k, s.go s.fire w = .fire → Val.pass ∉ [s.opA s.fire w, s.opB s.fire w, s.opC s.fire w] →
      Val.err .poison ∉ [s.opA s.fire w, s.opB s.fire w, s.opC s.fire w] →
      (s.opA s.fire w = .err k ∨ ((∃ a, s.opA s.fire w = .data a) ∧ s.opB s.fire w = .err k) ∨
        ((∃ a, s.opA s.fire w = .data a) ∧ (∃ b, s.opB s.fire w = .data b) ∧ s.opC s.fire w = .err k)) → gives i s w (.err k))

/-- The frame of the value instructions: when the predicate and the operands carry no Poison, only tokens leave. Every other core, every
thread's registers, every memory and every special register of the machine is as before. A stream port that the word names is one that
its load lists as a bound outbound port, as check 11 and the flip have it (`ConfigurationPlanes` states that). -/
def Obligations.ValueFrame : Prop :=
  ∀ (s t : State) (w : SlotWord) (i : Instr), i ∈ valueClass w → s.go s.fire w ≠ .poison →
    (∀ d ∈ [w.d0, w.d1], ∀ p, d = .island (.sp p) → sendsTo (s.core s.fire.core) p.toNat) →
    Val.err .poison ∉ [s.opA s.fire w, s.opB s.fire w, s.opC s.fire w] → exec i s = .next t → tokensOnly s t s.fire.core

/-! ### Integer and address instructions -/

/-- The integer arithmetic of R114: the exact result, wrapped to the type and placed (R46, R115). -/
def Obligations.IntegerArithmetic : Prop :=
  ∀ (s : State) (w : SlotWord) (a b c : Dword), acts s w a b c →
    gives (.add w) s w (intVal w.ty (readInt w.ty a + readInt w.ty b)) ∧
    gives (.sub w) s w (intVal w.ty (readInt w.ty a - readInt w.ty b)) ∧
    gives (.mul w) s w (intVal w.ty (readInt w.ty a * readInt w.ty b)) ∧
    gives (.mulh w) s w (intVal w.ty (readInt w.ty a * readInt w.ty b / 2 ^ w.ty.width)) ∧
    gives (.mad w) s w (intVal w.ty (readInt w.ty a * readInt w.ty b + readInt w.ty c)) ∧
    (readInt w.ty b ≠ 0 → gives (.div w) s w (intVal w.ty ((readInt w.ty a).tdiv (readInt w.ty b)))) ∧
    (readInt w.ty b ≠ 0 → gives (.rem w) s w (intVal w.ty ((readInt w.ty a).tmod (readInt w.ty b)))) ∧
    gives (.neg w) s w (intVal w.ty (-readInt w.ty a)) ∧
    gives (.abs w) s w (intVal w.ty |readInt w.ty a|) ∧
    gives (.min w) s w (intVal w.ty (min (readInt w.ty a) (readInt w.ty b))) ∧
    gives (.max w) s w (intVal w.ty (max (readInt w.ty a) (readInt w.ty b)))

/-- The bit instructions of R114 as operations on the bits of a word: logic, shifts, rotates, counts and reversal. On 32-bit words the upper
half of a payload plays no part, and the upper half of the result is zero (R33). -/
def Obligations.BitInstructions : Prop :=
  (∀ (s : State) (w : SlotWord) (a b c : Dword), acts s w a b c → w.ty = .b64 →
     gives (.and w) s w (.data (a &&& b)) ∧ gives (.or w) s w (.data (a ||| b)) ∧ gives (.xor w) s w (.data (a ^^^ b)) ∧
     gives (.not w) s w (.data (~~~a)) ∧
     gives (.shl w) s w (.data (a <<< b.toNat)) ∧ gives (.shr w) s w (.data (a >>> b.toNat)) ∧
     gives (.sar w) s w (.data (a.sshiftRight b.toNat)) ∧
     gives (.rol w) s w (.data (a.rotateLeft (b.toNat % 64))) ∧ gives (.ror w) s w (.data (a.rotateRight (b.toNat % 64))) ∧
     (∃ n : Nat, gives (.clz w) s w (.data (BitVec.ofNat 64 n)) ∧ n ≤ 64 ∧ (∀ i, 64 - n ≤ i → i < 64 → a.getLsbD i = false) ∧
       (n < 64 → a.getLsbD (63 - n) = true)) ∧
     (∃ n : Nat, gives (.ctz w) s w (.data (BitVec.ofNat 64 n)) ∧ n ≤ 64 ∧ (∀ i, i < n → a.getLsbD i = false) ∧
       (n < 64 → a.getLsbD n = true)) ∧
     gives (.popc w) s w (.data (BitVec.ofNat 64 ((List.range 64).countP (fun i => a.getLsbD i)))) ∧
     (∃ r : Dword, gives (.brev w) s w (.data r) ∧ ∀ i, i < 64 → r.getLsbD i = a.getLsbD (63 - i))) ∧
  (∀ (s : State) (w : SlotWord) (a b c : Dword), acts s w a b c → w.ty = .b32 →
     let x : BitVec 32 := a.setWidth 32
     let y : BitVec 32 := b.setWidth 32
     gives (.and w) s w (.data ((x &&& y).setWidth 64)) ∧ gives (.or w) s w (.data ((x ||| y).setWidth 64)) ∧
     gives (.xor w) s w (.data ((x ^^^ y).setWidth 64)) ∧ gives (.not w) s w (.data ((~~~x).setWidth 64)) ∧
     gives (.shl w) s w (.data ((x <<< b.toNat).setWidth 64)) ∧ gives (.shr w) s w (.data ((x >>> b.toNat).setWidth 64)) ∧
     gives (.sar w) s w (.data ((x.sshiftRight b.toNat).setWidth 64)) ∧
     gives (.rol w) s w (.data ((x.rotateLeft (b.toNat % 32)).setWidth 64)) ∧
     gives (.ror w) s w (.data ((x.rotateRight (b.toNat % 32)).setWidth 64)) ∧
     (∃ n : Nat, gives (.clz w) s w (.data (BitVec.ofNat 64 n)) ∧ n ≤ 32 ∧ (∀ i, 32 - n ≤ i → i < 32 → x.getLsbD i = false) ∧
       (n < 32 → x.getLsbD (31 - n) = true)) ∧
     (∃ n : Nat, gives (.ctz w) s w (.data (BitVec.ofNat 64 n)) ∧ n ≤ 32 ∧ (∀ i, i < n → x.getLsbD i = false) ∧
       (n < 32 → x.getLsbD n = true)) ∧
     gives (.popc w) s w (.data (BitVec.ofNat 64 ((List.range 32).countP (fun i => x.getLsbD i)))) ∧
     (∃ r : BitVec 32, gives (.brev w) s w (.data (r.setWidth 64)) ∧ ∀ i, i < 32 → r.getLsbD i = x.getLsbD (31 - i)))

/-- Fields, comparison, choice, extension, address and constants (R116 to R119, R121, R122). `sel` propagates a pass token or an error on its
condition; else the chosen operand's token leaves unchanged, whatever its kind, and the other operand's kind is ignored. -/
def Obligations.FieldsAndChoices : Prop :=
  (∀ (s : State) (w : SlotWord) (a b c : Dword), acts s w a b c →
     let n := w.ty.width
     gives (.bfx w) s w (intVal w.ty (fieldOf w.ty (readBits w.ty a) (w.immBits 5 0) (w.immBits 13 8 + 1))) ∧
     (w.immBits 5 0 + (w.immBits 13 8 + 1) ≤ n → ∃ r : Nat, gives (.bfi w) s w (bitsVal w.ty r) ∧ r < 2 ^ n ∧
       ∀ i, i < n → r.testBit i =
         if w.immBits 5 0 ≤ i ∧ i < w.immBits 5 0 + (w.immBits 13 8 + 1) then b.getLsbD (i - w.immBits 5 0) else a.getLsbD i) ∧
     gives (.cmp w) s w (.data (if condition w.mod (readInt w.ty a) (readInt w.ty b) then 1 else 0)) ∧
     gives (.sel w) s w (if readBits w.ty a ≠ 0 then .data b else .data c) ∧
     gives (.sext w) s w (intVal w.ty (toSigned (w.immBits 6 0) (readBits w.ty a % 2 ^ w.immBits 6 0))) ∧
     gives (.zext w) s w (bitsVal w.ty (readBits w.ty a % 2 ^ w.immBits 6 0)) ∧
     gives (.lea w) s w (.data (a + b <<< w.immBits 2 0)) ∧
     gives (.mov w) s w (bitsVal w.ty (readBits w.ty a)) ∧
     gives (.const w) s w (bitsVal w.ty (readBits w.ty (if w.b = .absent then w.immSigned else b)))) ∧
  (∀ (s : State) (w : SlotWord), s.go s.fire w = .fire →
     (s.opA s.fire w = .pass → gives (.sel w) s w .pass) ∧
     (∀ k, s.opA s.fire w = .err k → gives (.sel w) s w (.err k)) ∧
     (∀ a, s.opA s.fire w = .data a →
       gives (.sel w) s w (if readBits w.ty a ≠ 0 then s.opB s.fire w else s.opC s.fire w)))

/-- On 64-bit types the arithmetic is that of 64-bit words (R46): it wraps modulo 2⁶⁴, signed or not, and raises nothing. -/
def Obligations.Arithmetic64 : Prop :=
  ∀ (s : State) (w : SlotWord) (a b c : Dword), acts s w a b c → w.ty = .s64 ∨ w.ty = .n64 →
    gives (.add w) s w (.data (a + b)) ∧ gives (.sub w) s w (.data (a - b)) ∧ gives (.mul w) s w (.data (a * b)) ∧
    gives (.mad w) s w (.data (a * b + c)) ∧ gives (.neg w) s w (.data (-a)) ∧
    (w.ty = .n64 → b ≠ 0 → gives (.div w) s w (.data (a / b)) ∧ gives (.rem w) s w (.data (a % b))) ∧
    (w.ty = .n64 → gives (.mulh w) s w (.data (BitVec.ofNat 64 (a.toNat * b.toNat / 2 ^ 64)))) ∧
    (w.ty = .s64 → gives (.min w) s w (.data (if a.slt b then a else b)))

/-- What placing a number in a type does (R33, R46): read back, it is the number modulo 2^w, in the range of the type. -/
def Obligations.WrapAndPlace : Prop :=
  ∀ (t : Ty) (x : Int),
    (2 ^ t.width : Int) ∣ readInt t (placeInt t x) - x ∧
    (t.signed = true → -2 ^ (t.width - 1) ≤ readInt t (placeInt t x) ∧ readInt t (placeInt t x) < 2 ^ (t.width - 1)) ∧
    (t.signed = false → 0 ≤ readInt t (placeInt t x) ∧ readInt t (placeInt t x) < 2 ^ t.width) ∧
    (t.signed = true → placeInt t x = BitVec.ofInt 64 (readInt t (placeInt t x))) ∧
    (t.signed = false → (placeInt t x).toNat < 2 ^ t.width)

/-- The corner cases of R47, in every type that the model computes them for: division by zero gives all ones with the dividend as remainder;
MIN divided by −1 is MIN with remainder 0; in all other cases the quotient is truncated toward zero and the remainder is a − q·b, with
the sign of a or zero; −MIN and |MIN| are MIN; `mulh` gives bits [2w−1:w] of the exact product; a count of w or more gives 0, or
copies of bit w−1; `rol` and `ror` rotate by the count mod w; `clz` and `ctz` of 0 are w. -/
def Obligations.IntegerCorners : Prop :=
  ∀ (s : State) (w : SlotWord) (a b c : Dword), acts s w a b c →
    let n := w.ty.width
    let x := readInt w.ty a
    let y := readInt w.ty b
    let min := -(2 : Int) ^ (n - 1)
    (y = 0 → gives (.div w) s w (if w.ty.signed then intVal w.ty (-1) else bitsVal w.ty (2 ^ n - 1)) ∧
      gives (.rem w) s w (intVal w.ty x)) ∧
    (w.ty.signed = true → x = min → y = -1 → gives (.div w) s w (intVal w.ty x) ∧ gives (.rem w) s w (.data 0)) ∧
    (y ≠ 0 → ¬ (w.ty.signed = true ∧ x = min ∧ y = -1) → ∃ q r : Int, gives (.div w) s w (intVal w.ty q) ∧
      gives (.rem w) s w (intVal w.ty r) ∧ r = x - q * y ∧ |r| < |y| ∧ |q * y| ≤ |x| ∧ 0 ≤ r * x) ∧
    (w.ty.signed = true → x = min → gives (.neg w) s w (intVal w.ty x) ∧ gives (.abs w) s w (intVal w.ty x)) ∧
    gives (.mulh w) s w (intVal w.ty (x * y / 2 ^ n)) ∧
    (n ≤ b.toNat → gives (.shl w) s w (.data 0) ∧ gives (.shr w) s w (.data 0) ∧
      gives (.sar w) s w (bitsVal w.ty (if a.getLsbD (n - 1) then 2 ^ n - 1 else 0))) ∧
    (∃ l r : Nat, gives (.rol w) s w (bitsVal w.ty l) ∧ gives (.ror w) s w (bitsVal w.ty r) ∧
      ∀ i, i < n → l.testBit ((i + b.toNat) % n) = a.getLsbD i ∧ r.testBit i = a.getLsbD ((i + b.toNat) % n)) ∧
    (readBits w.ty a = 0 → gives (.clz w) s w (bitsVal w.ty n) ∧ gives (.ctz w) s w (bitsVal w.ty n))

/-- Two `addc.n64` in a chain add 128-bit numbers, and two `subb.n64` subtract them (R120): the carry or borrow of the low half, on D1,
is operand C of the high half. -/
def Obligations.CarryChain : Prop :=
  ∀ (s s' : State) (w w' : SlotWord) (alo ahi blo bhi c : Dword), w.ty = .n64 → w'.ty = .n64 → w.c = .absent → w'.c ≠ .absent →
    acts s w alo blo c →
    (∃ lo cy : Dword, gives2 (.addc w) s w (.data lo) (.data cy) ∧
      (acts s' w' ahi bhi cy → ∃ hi top : Dword, gives2 (.addc w') s' w' (.data hi) (.data top) ∧
        lo.toNat + 2 ^ 64 * hi.toNat + 2 ^ 128 * top.toNat =
          alo.toNat + 2 ^ 64 * ahi.toNat + (blo.toNat + 2 ^ 64 * bhi.toNat))) ∧
    (∃ lo bw : Dword, gives2 (.subb w) s w (.data lo) (.data bw) ∧
      (acts s' w' ahi bhi bw → ∃ hi top : Dword, gives2 (.subb w') s' w' (.data hi) (.data top) ∧
        (lo.toNat + 2 ^ 64 * hi.toNat + (blo.toNat + 2 ^ 64 * bhi.toNat) : Int) - 2 ^ 128 * top.toNat =
          alo.toNat + 2 ^ 64 * ahi.toNat))

/-! ### Float instructions -/

/-- The arithmetic float instructions (R150): operands read for TY under the thread's latched denormal mode, one exact operation, one
delivery under MOD (R54, R151). `fscale` reads B as an integer. The packed pairs work on each half on its own (R158), and `fdot2` forms
its two products and its addend exactly before one rounding (R159). -/
def Obligations.FloatArithmetic : Prop :=
  (∀ (s : State) (w : SlotWord) (a b c : Dword), acts s w a b c →
     let x := SlotWordCtx w (s.ft s.fire).latch
     let f := fmtOf w.ty
     let rd := fun (p : Dword) => readF x f (readBits w.ty p)
     let out := fun (r : FRes) => bitsVal w.ty (f.deliver x r)
     gives (.fadd w) s w (out (fAdd x (rd a) (rd b))) ∧ gives (.fsub w) s w (out (fSub x (rd a) (rd b))) ∧
     gives (.fmul w) s w (out (fMul (rd a) (rd b))) ∧ gives (.ffma w) s w (out (fFma x (rd a) (rd b) (rd c))) ∧
     gives (.frnd w) s w (out (fIntegral x.rm (rd a))) ∧ gives (.fdiv w) s w (out (fDiv (rd a) (rd b))) ∧
     gives (.frcp w) s w (out (fDiv .one (rd a))) ∧ gives (.fsqrt w) s w (out (fSqrt (rd a))) ∧
     gives (.frsq w) s w (out (fRsqrt (rd a))) ∧ gives (.fexp2 w) s w (out (fExp2 (rd a))) ∧
     gives (.flog2 w) s w (out (fLog2 (rd a))) ∧ gives (.fsin w) s w (out (fSin (rd a))) ∧
     gives (.fcos w) s w (out (fCos (rd a))) ∧ gives (.fscale w) s w (out (fScale (rd a) b.toInt)) ∧
     gives (.fmin w) s w (out (fPick false (rd a) (rd b))) ∧ gives (.fmax w) s w (out (fPick true (rd a) (rd b)))) ∧
  (∀ (s : State) (w : SlotWord) (a b c : Dword), acts s w a b c →
     let x := SlotWordCtx w (s.ft s.fire).latch
     let f := fmtOf w.ty
     let half := fun (i : Nat) (p : Dword) => readF x f (p.toNat / 2 ^ (16 * i) % 65536)
     let pair := fun (g : FVal → FVal → FVal → FRes) => Val.data (BitVec.ofNat 64
       (f.deliver x (g (half 0 a) (half 0 b) (half 0 c)) + 65536 * f.deliver x (g (half 1 a) (half 1 b) (half 1 c))))
     gives (.hadd2 w) s w (pair (fun p q _ => fAdd x p q)) ∧ gives (.hmul2 w) s w (pair (fun p q _ => fMul p q)) ∧
     gives (.hfma2 w) s w (pair (fun p q r => fFma x p q r)) ∧
     gives (.fdot2 w) s w (bitsVal .f32 ((fmtOf .f32).deliver x (fDot2 x (half 0 a) (half 0 b) (half 1 a) (half 1 b)
       (if w.c = .absent then none else some (readF x (fmtOf .f32) (readBits .f32 c)))))))

/-- Signs, comparison, classes, conversions and splitting (R152, R154 to R157): the sign instructions touch the sign bit alone and round
nothing, a comparison gives 1 or 0, and `ffrexp` puts the exponent on D1. -/
def Obligations.FloatSignsAndConversions : Prop :=
  ∀ (s : State) (w : SlotWord) (a b c : Dword), acts s w a b c →
    let x := SlotWordCtx w (s.ft s.fire).latch
    let f := fmtOf w.ty
    let src := Ty.ofCode (w.immBits 3 0)
    gives (.fneg w) s w (bitsVal w.ty (readBits w.ty a ^^^ f.signBit)) ∧
    gives (.fabs w) s w (bitsVal w.ty (readBits w.ty a % f.signBit)) ∧
    gives (.fsign w) s w (bitsVal w.ty (readBits w.ty a % f.signBit +
      (if w.immBits 1 0 = 0 then readBits w.ty b / f.signBit % 2
       else if w.immBits 1 0 = 1 then 1 - readBits w.ty b / f.signBit % 2
       else (readBits w.ty a / f.signBit % 2 + readBits w.ty b / f.signBit % 2) % 2) * f.signBit)) ∧
    gives (.fcmp w) s w (.data (if fCondition w.mod.toNat (f.decode (readBits w.ty a)) (f.decode (readBits w.ty b)) then 1 else 0)) ∧
    gives (.fclass w) s w (.data (BitVec.ofNat 64 (2 ^ f.classBit (readBits w.ty a)))) ∧
    gives (.fcvt w) s w (bitsVal w.ty (f.deliver x (readF x (fmtOf src) (readBits src a)).res)) ∧
    gives (.fcvti w) s w (intVal w.ty (toIntClamped w.ty x.rm (readF x (fmtOf src) (readBits src a)))) ∧
    gives (.icvtf w) s w (bitsVal w.ty (f.round x (decide (readInt src a < 0)) (readInt src a).natAbs 0 false)) ∧
    gives2 (.ffrexp w) s w (bitsVal w.ty (f.deliver x (fSplit (readF x f (readBits w.ty a))).1))
      (intVal .s32 (fSplit (readF x f (readBits w.ty a))).2)

/-- The float mode and the catching of errors (R160 to R162): `fpmode` returns the old byte and writes the new one, its RM kept when the
value names none; an error token on A writes nothing and is passed on. `ecatch` gives data and status 0, or the image of an error and
its status. -/
def Obligations.FpmodeAndEcatch : Prop :=
  ∀ (s : State) (w : SlotWord),
    (triggers s w → exec (.fpmodeImm w) s = .next ((s.onThread s.fire.core s.fire.thread (fun th =>
      { th with fpmode := BitVec.ofNat 8 (w.immBits 3 0) })).emit2 s.fire w (.data ((s.ft s.fire).fpmode.setWidth 64))
      (.data ((s.ft s.fire).fpmode.setWidth 64)))) ∧
    (∀ x, s.go s.fire w = .fire → s.opA s.fire w = .data x →
      exec (.fpmodeVal w) s = .next ((s.onThread s.fire.core s.fire.thread (fun th =>
        { th with fpmode := fpmodeFrom (s.ft s.fire).fpmode x })).emit2 s.fire w (.data ((s.ft s.fire).fpmode.setWidth 64))
        (.data ((s.ft s.fire).fpmode.setWidth 64)))) ∧
    (∀ k, s.go s.fire w = .fire → s.opA s.fire w = .err k → gives (.fpmodeVal w) s w (.err k)) ∧
    (∀ x, s.go s.fire w = .fire → s.opA s.fire w = .data x → gives2 (.ecatch w) s w (.data x) (.data 0)) ∧
    (∀ k, s.go s.fire w = .fire → s.opA s.fire w = .err k → k ≠ .poison →
      gives2 (.ecatch w) s w (bitsVal w.ty (spread w.ty ((fmtOf w.ty).image k))) (.data (BitVec.ofNat 64 (k.code + 1)))) ∧
    (s.go s.fire w = .fire → s.opA s.fire w = .err .poison →
      gives2 (.ecatch w) s w (bitsVal w.ty (if w.mod = 1 then 0 else spread w.ty (fmtOf w.ty).nan)) (.data 4))

/-- What a float operation reads when denormals are not flushed is what it delivers, for every finite pattern of a format: delivering the
exact value of a pattern gives the pattern back, under every rounding (R48, R51, R54). -/
def Obligations.ExactValuesRoundTrip : Prop :=
  ∀ (t : Ty) (m : Rm) (n : Nat), t ∈ [Ty.f16, Ty.bf16, Ty.f32, Ty.f64] → n < 2 ^ t.width →
    (∃ neg mant e, (fmtOf t).decode n = .fin neg mant e) →
    (fmtOf t).deliver ⟨m, false, false⟩ ((fmtOf t).decode n).res = n

/-! ### Block floating point -/

/-- Scales (R168, R169): `bmax` records a position and, at the last of its block, sends the chosen exponent to its scale destinations;
`bscale` sends the scale of its operand at position 0 and nothing elsewhere. Elements (R166, R170, R172 to R176): `bquant` and `bdequant`
act once their scale has come; `bpack`, `bunpack` and `bdot` act once their block is whole; `bsfwd` forwards an element on D1. -/
def Obligations.BlockFloatInstructions : Prop :=
  (∀ (s : State) (w : SlotWord),
     let f := s.fire
     let x := (s.core f.core).block f.elem f.slot (blockTag w f.tag)
     let vals := x.vals.put (blockPos w f.tag) (s.opA f w, .pass)
     (x.fired + 1 < w.blockLen → exec (.bmax w) s = .next (s.onCore f.core (fun (c : Core) =>
       c.setBlock { x with vals := vals, fired := x.fired + 1 }))) ∧
     (w.blockLen ≤ x.fired + 1 → exec (.bmax w) s = .next
       (((s.onCore f.core (fun (c : Core) => c.freeBlock f.elem f.slot (blockTag w f.tag))).sendScale f w 0 w.d0
         (chosenScale w.ty (vals.map (fun v => v.2.1)))).sendScale f w 1 w.d1 (chosenScale w.ty (vals.map (fun v => v.2.1))))) ∧
     (blockPos w f.tag ≠ 0 → exec (.bscale w) s = .next s) ∧
     (∀ v, blockPos w f.tag = 0 → s.opA f w = .data v → exec (.bscale w) s = .next
       ((s.sendScale f w 0 w.d0 (min (readBits .n32 v) 254)).sendScale f w 1 w.d1 (min (readBits .n32 v) 254))) ∧
     (∀ k, blockPos w f.tag = 0 → s.opA f w = .err k → exec (.bscale w) s = .next
       ((s.sendScale f w 0 w.d0 255).sendScale f w 1 w.d1 255))) ∧
  (∀ (s : State) (w : SlotWord) (e : Byte) (x : Dword),
     let f := s.fire
     (f.s0 = some e → e.toNat ≠ 255 → s.opA f w = .data x → exec (.bquant w) s = .next
       ((s.emit2 f w (quantise w.ty w.mantWidth e.toNat x) (quantise w.ty w.mantWidth e.toNat x)).blockFired f 0x62 w)) ∧
     (f.s0 = some e → e.toNat ≠ 255 → s.opA f w = .data x → exec (.bdequant w) s = .next
       ((s.emit2 f w
         (.data (place w.ty ((fmtOf w.ty).deliver (s.fctx w) (mantValue w.mantWidth e.toNat (BitVec.ofInt 64 (toSigned w.mantWidth (elemField w.mantWidth x)))))))
         (.data (place w.ty ((fmtOf w.ty).deliver (s.fctx w) (mantValue w.mantWidth e.toNat (BitVec.ofInt 64 (toSigned w.mantWidth (elemField w.mantWidth x)))))))).blockFired
           f 0x63 w)) ∧
     (let s1 := s.blockNote f w (s.opA f w) .pass
      let b := (s1.core f.core).block f.elem f.slot (blockTag w f.tag)
      let s2 := s1.blockFired f 0x64 w
      let p := blockPos w f.tag
      let img := blockImage w.mantWidth w.blockLen ((b.s0.getD 0).toNat) b.vals
      b.go 0x64 w = true → s2.ended f = false → p < imageDwords w → exec (.bpack w) s = .next
       (s2.emit2 f w (.data (BitVec.ofNat 64 (img / 2 ^ (64 * p))))
         (.data (BitVec.ofNat 64 (min 8 (1 + w.blockLen * w.mantWidth / 8 - 8 * p)))))) ∧
     (let p := blockPos w f.tag
      let s1 := if p < imageDwords w then s.blockNote f w (s.opA f w) .pass else s
      let b := (s1.core f.core).block f.elem f.slot (blockTag w f.tag)
      let s2 := s1.blockFired f 0x65 w
      let r := blockUnpack w.mantWidth w.blockLen ((List.range (imageDwords w)).map (fun i => ((b.vals.look i).getD (.pass, .pass)).1))
      b.go 0x65 w = true → s2.ended f = false →
       exec (.bunpack w) s = .next (if p = 0 then (s2.send f 0 w.d0 false (r.2 p) f.tag).sendScale f w 1 w.d1 r.1
         else s2.send f 0 w.d0 false (r.2 p) f.tag)) ∧
     (blockPos w f.tag + 1 < w.blockLen → exec (.bdot w) s = .next
       (((s.blockNote f w (s.opA f w) (s.opB f w)).emit2 f w (s.opC f w) (s.opC f w)).blockFired f 0x66 w)) ∧
     (let s1 := s.blockNote f w (s.opA f w) (s.opB f w)
      let b := (s1.core f.core).block f.elem f.slot (blockTag w f.tag)
      let pairs := (List.range w.blockLen).map (fun i =>
         (readElem w.mantWidth (b.s0.getD 0).toNat ((b.vals.look i).getD (.pass, .pass)).1,
          readElem (w.immBits 18 16 + 1) (b.s1.getD 0).toNat ((b.vals.look i).getD (.pass, .pass)).2))
      ∀ v, w.blockLen ≤ blockPos w f.tag + 1 → b.go 0x66 w = true → s.opC f w = .data x →
       blockTerm w.mantWidth (w.immBits 18 16 + 1) (b.s0.getD 0).toNat (b.s1.getD 0).toNat pairs = some v →
       exec (.bdot w) s = .next ((s1.blockFired f 0x66 w).emit2 f w (.data (place .f32 (addF32 (readBits .f32 x) v)))
         (.data (place .f32 (addF32 (readBits .f32 x) v))))) ∧
     exec (.bsfwd w) s = .next (s.send f 1 w.d1 false (s.opA f w) f.tag))

/-! ### Routing and control -/

/-- Routing (R124, R125, R127 to R131): `entry` sends data 0; `lvr` the live value that the thread entered with; `lvw` stages A's
value and forwards it; `fan` copies A to its four destinations; `steer` sends A by its condition and a pass token the other way;
`merge.join` forwards A; `sink` consumes; `merge.first` forwards the first token that is not a pass token and absorbs the other, and of
two pass tokens forwards the second. -/
def Obligations.RoutingInstructions : Prop :=
  ∀ (s : State) (w : SlotWord), (s.ft s.fire).dead = false →
    let f := s.fire
    let here := fun (m : MergeState) => m.elem == f.elem && m.slot == f.slot && m.tag == f.tag
    let first := s.onCore f.core (fun (c : Core) => { c with merges := c.merges ++ [⟨f.elem, f.slot, f.tag, true, f.place⟩] })
    let passed := s.onCore f.core (fun (c : Core) => { c with merges := c.merges ++ [⟨f.elem, f.slot, f.tag, false, f.place⟩] })
    let drop := s.onCore f.core (fun (c : Core) => { c with merges := c.merges.filter (fun m => !here m) })
    gives (.entry w) s w (.data 0) ∧
    (triggers s w → gives (.lvr w) s w (((s.ft f).live.look (w.immBits 6 0)).getD ⟨false, 0, false⟩).val) ∧
    (triggers s w → exec (.lvw w) s = .next
      ((s.send f 0 (.stacks (BitVec.ofNat 7 (w.immBits 6 0))) false (s.opA f w) f.tag).emit2 f w (s.opA f w) (s.opA f w))) ∧
    (s.go f w = .fire → exec (.fan w) s = .next ((dstsOf 0x73 w).foldl (fun t d => t.send f d.1 d.2 false (s.opA f w) f.tag) s)) ∧
    (∀ c, s.opB f w = .data c →
      gives2 (.steer w) s w (if c = 0 then .pass else s.opA f w) (if c = 0 then s.opA f w else .pass)) ∧
    gives (.mergeJoin w) s w (s.opA f w) ∧
    exec (.sink w) s = .next s ∧
    (∀ v, w.a = .token → w.b = .token → (f.a = some v ∧ f.b = none) ∨ (f.a = none ∧ f.b = some v) →
      ((s.core f.core).merges.find? here = none →
        exec (.mergeFirst w) s = .next (if v = .pass then passed else first.emit2 f w v v)) ∧
      (∀ m, (s.core f.core).merges.find? here = some m →
        exec (.mergeFirst w) s = .next (if m.forwarded then drop else drop.emit2 f w v v)))

/-- Resident loops (R133 to R135): `lhead` starts as many iterations as A says (none for a pass token, a fault for an error token);
`lsparse` one for each set bit of A, of A AND C or of A OR C, in ascending order, none for a pass token, and faults on an error token;
`ltail` ends its iteration, and its value is carried to the next where the loop carries one; `lexit` notes its iteration, and in the last
one, or on a true condition, which ends the loop, gives A's token to the loop; a condition that is false or a pass token ends nothing,
and an error token faults. That the token leaves with the tag of the loop's surroundings when the loop finishes, or at once when it has,
is the model's choice (log 58, between R43 and R136), and so is which of the rule's clauses a pass and an error token of one `lsparse`
fall under (log 68). -/
def Obligations.LoopHeadersAndEnds : Prop :=
  ∀ (s : State) (w : SlotWord),
    let f := s.fire
    let carried := if w.c = .absent then none else some (s.opC f w)
    let goesOn := w.b = .absent ∨ s.opB f w = .pass ∨ s.opB f w = .data 0
    let breaks := w.b ≠ .absent ∧ (s.opB f w).bits ≠ 0
    (∀ x, s.opA f w = .data x → exec (.lhead w) s = .next (s.startLoop f w (x.toNat % 2 ^ 32) [] carried none)) ∧
    (s.opA f w = .pass → exec (.lhead w) s = .next (s.startLoop f w 0 [] carried none)) ∧
    (∀ k, s.opA f w = .err k → exec (.lhead w) s = .next (s.commit f (if k = .poison then 0x20 else 0x33) .none none 0)) ∧
    (∀ x, s.opA f w = .data x → w.c = .absent → exec (.lsparse w) s = .next
      (let items := (List.range w.ty.width).filter (fun i => x.getLsbD i)
       s.startLoop f w items.length items none none)) ∧
    (∀ x y, s.opA f w = .data x → s.opC f w = .data y → w.c ≠ .absent → exec (.lsparse w) s = .next
      (let items := (List.range w.ty.width).filter (fun i =>
        if w.mod = 0 then x.getLsbD i && y.getLsbD i else x.getLsbD i || y.getLsbD i)
       s.startLoop f w items.length items none none)) ∧
    (s.opA f w = .pass ∨ (w.c ≠ .absent ∧ s.opC f w = .pass) →
      exec (.lsparse w) s = .next (s.startLoop f w 0 [] none none)) ∧
    (∀ k, s.opA f w = .err k → w.c = .absent ∨ (∃ y, s.opC f w = .data y) →
      exec (.lsparse w) s = .next (s.commit f (if k = .poison then 0x20 else 0x33) .none none 0)) ∧
    (∀ k k', s.opA f w = .err k → w.c ≠ .absent → s.opC f w = .err k' →
      exec (.lsparse w) s = .next (s.commit f (if k = .poison ∨ k' = .poison then 0x20 else 0x33) .none none 0)) ∧
    (∀ x k, s.opA f w = .data x → w.c ≠ .absent → s.opC f w = .err k →
      exec (.lsparse w) s = .next (s.commit f (if k = .poison then 0x20 else 0x33) .none none 0)) ∧
    (∀ h i, dstNode w.d0 = some h → (s.core f.core).loopAt h f.tag = some i → i.carried = none →
      exec (.ltail w) s = .next
        (let i' : LoopInst := { i with tails := insertNat i.tails (i.tOf (loopField i.level f.tag)), since := s.time }
         (s.setCore f.core ((s.core f.core).setLoop i')).loopFinish f.core i')) ∧
    (∀ h i hw, dstNode w.d0 = some h → (s.core f.core).loopAt h f.tag = some i → i.carries? = true →
      (s.core f.core).load.fields i.node = some hw →
      exec (.ltail w) s = .next
        (let t := i.tOf (loopField i.level f.tag)
         let i' : LoopInst := { i with
           tails := insertNat i.tails t, since := s.time, carries := i.carries.put t (s.opA f w) }
         let g := i.firing f.core ((t + 1) % 64)
         let u := s.setCore f.core ((s.core f.core).setLoop i')
         (if t + 1 < i.t then u.send g 1 hw.d1 false (s.opA f w) g.tag else u).loopFinish f.core i')) ∧
    (∀ h i k, (s.core f.core).load.innermost f.node = some h → (s.core f.core).loopAt h f.tag = some i → w.b ≠ .absent →
      s.opB f w = .err k → exec (.lexit w) s = .next (s.commit f (if k = .poison then 0x20 else 0x33) .none none 0)) ∧
    (∀ h i, (s.core f.core).load.innermost f.node = some h → (s.core f.core).loopAt h f.tag = some i → goesOn →
      i.finished = false → i.exitOf (loopField i.level f.tag) + 1 ≠ i.n →
      exec (.lexit w) s = .next
        (let i' : LoopInst := { i with exits := insertNat i.exits (i.exitOf (loopField i.level f.tag)) }
         (s.setCore f.core ((s.core f.core).setLoop i')).loopFinish f.core i')) ∧
    (∀ h i, (s.core f.core).load.innermost f.node = some h → (s.core f.core).loopAt h f.tag = some i → i.finished = false →
      (goesOn ∧ i.exitOf (loopField i.level f.tag) + 1 = i.n) ∨ breaks →
      exec (.lexit w) s = .next
        (let i' : LoopInst := { i with
           stop := i.stop || decide breaks, left := some (s.opA f w)
           exits := insertNat i.exits (i.exitOf (loopField i.level f.tag)) }
         (s.setCore f.core ((s.core f.core).setLoop i')).loopFinish f.core i')) ∧
    (∀ h i, (s.core f.core).load.innermost f.node = some h → (s.core f.core).loopAt h f.tag = some i → i.finished = true →
      (goesOn ∧ i.exitOf (loopField i.level f.tag) + 1 = i.n) ∨ breaks → exec (.lexit w) s = .next
        (let tag := loopTag i.level i.thread f.tag.out 0
         let u := s.setCore f.core { s.core f.core with loops := (s.core f.core).loops.filter (fun (j : LoopInst) => !j.same i) }
         (u.send f 0 w.d0 false (s.opA f w) tag).send f 1 w.d1 false (s.opA f w) tag))

/-- The block terminators (R139 to R142, R20), for a thread in its load. -/
def Obligations.BlockTerminators : Prop :=
  ∀ (s : State) (w : SlotWord), s.terminates s.fire = true →
    let f := s.fire
    let th := s.ft f
    let d := th.depth.toNat
    let limit := (s.kernelAt f.core f.thread).calldepth
    (∀ x, s.opA f w = .data x →
      exec (.br w) s = .next (s.leaveTo f (if x = 0 then w.immBits 14 8 else w.immBits 6 0) id)) ∧
    exec (.jmp w) s = .next (s.leaveTo f (w.immBits 6 0) id) ∧
    (∀ x, s.opA f w = .data x → exec (.brx w) s = .next
      (if x.toNat ≤ w.immBits 15 8 then s.leaveTo f (((s.core f.core).load.branches[w.immBits 7 0 + x.toNat]?).getD 0) id
       else s.commit f 0x33 .none none 0)) ∧
    (∀ k, s.opA f w = .err k →
      exec (.br w) s = .next (s.commit f (if k = .poison then 0x20 else 0x33) .none none 0) ∧
      exec (.brx w) s = .next (s.commit f (if k = .poison then 0x20 else 0x33) .none none 0)) ∧
    (d < limit → d < 16 → exec (.call w) s = .next (s.leaveTo f (w.immBits 6 0) (fun t =>
      { t.setRs d (BitVec.ofNat 8 (w.immBits 14 8)) with depth := BitVec.ofNat 11 (d + 1) }))) ∧
    (limit ≤ d → exec (.call w) s = .next (s.commit f 0x31 .none none 0)) ∧
    (d = 0 → exec (.ret w) s = .next (s.commit f 0x30 .none none 0)) ∧
    (0 < d → d ≤ 16 → exec (.ret w) s = .next (s.leaveTo f ((th.rs (d - 1)).toNat % 128) (fun t =>
      { t with depth := BitVec.ofNat 11 (d - 1) }))) ∧
    (th.quiet = true → exec (.exit w) s = .next (s.freeThread f.core f.thread)) ∧
    (th.quiet = false → exec (.exit w) s = .next
      ((s.leave f (fun t => { t with state := .exiting })).barriers th.launch th.wgid))

/-- The return stack (R20): a push of an entry is read back by the next pop, and the other fifteen entries of the ring, the live
values and the counters of the thread stay. -/
def Obligations.ReturnStackRing : Prop :=
  ∀ (t : Thread) (k j : Nat) (b : Byte), k < 16 → j < 16 →
    (t.setRs k b).rs j = (if j = k then b else t.rs j) ∧
    t.setRs k b = { t with hdr2 := (t.setRs k b).hdr2, hdr3 := (t.setRs k b).hdr3 }

/-- Staged live-value writes commit in a fixed order (R16, R126): ascending element, then slot, then outer and inner iteration. The last
write to a live value in that order stands, a live value that nothing wrote stays, and nothing else of the thread changes. -/
def Obligations.StagedCommitOrder : Prop :=
  ∀ (t : Thread) (lv : Nat),
    t.commitStaged = { t with live := t.commitStaged.live, staged := [] } ∧
    ((∀ x ∈ t.staged, x.lv ≠ lv) → t.commitStaged.live.look lv = t.live.look lv) ∧
    (∀ x ∈ t.staged, x.lv = lv →
      (∀ y ∈ t.staged, y.lv = lv → y ≠ x →
        y.elem < x.elem ∨ (y.elem = x.elem ∧ (y.slot < x.slot ∨ (y.slot = x.slot ∧
          (y.outT < x.outT ∨ (y.outT = x.outT ∧ y.innT < x.innT)))))) →
      t.commitStaged.live.look lv = some x.val)

/-- Barriers (R143): `bar.sync` arrives and waits, `bar.arrive` arrives and goes on, `bar.wait` waits for a pending phase and goes on
without one. An arrival is a release, which waits for the accesses of earlier loads (R144, R186). A phase that ends clears the arrivals that it counted, keeps those for the next, and lets its waiting threads go on. -/
def Obligations.Barriers : Prop :=
  (∀ (s : State) (w : SlotWord), s.terminates s.fire = true →
    let f := s.fire
    let b := w.immBits 11 8
    let n := w.immBits 6 0
    let stands := fun (u : State) => u.barriers (s.ft f).launch (s.ft f).wgid
    (s.earlierPending f = true → exec (.barSync w) s = .next (s.park f .release) ∧
      exec (.barArrive w) s = .next (s.park f .release)) ∧
    (s.earlierPending f = false →
      exec (.barSync w) s = .next (stands (s.leave f (fun t => (t.arrive b).parkAt b n))) ∧
      ((s.ft f).arrived.getLsbD b = false →
        exec (.barArrive w) s = .next (stands (s.leave f (fun t => (t.arrive b).passAt n s.time)))) ∧
      ((s.ft f).arrived.getLsbD b = true →
        exec (.barArrive w) s = .next (stands (s.leave f (fun t => (t.arrive b).parkAt b n))))) ∧
    ((s.ft f).arrived.getLsbD b = false → exec (.barWait w) s = .next (stands (s.leave f (fun t => t.passAt n s.time)))) ∧
    ((s.ft f).arrived.getLsbD b = true → exec (.barWait w) s = .next (stands (s.leave f (fun t => t.parkAt b n))))) ∧
  (∀ (t : Thread) (b j now : Nat), b < 16 → j < 16 →
    ((t.arrive b).arrived.getLsbD j = (t.arrived.getLsbD j || decide (j = b))) ∧
    ((t.arrive b).arrivedAgain.getLsbD j = (t.arrivedAgain.getLsbD j || (decide (j = b) && t.arrived.getLsbD b))) ∧
    ((t.phaseEnds b now).arrived.getLsbD j = if j = b then t.arrivedAgain.getLsbD b else t.arrived.getLsbD j) ∧
    ((t.phaseEnds b now).arrivedAgain.getLsbD j = (t.arrivedAgain.getLsbD j && decide (j ≠ b))) ∧
    (t.state = .parked → t.barrier = some b →
      (t.phaseEnds b now).state = .waiting ∧ (t.phaseEnds b now).barrier = none ∧ (t.phaseEnds b now).next = t.next) ∧
    (t.state ≠ .parked ∨ t.barrier ≠ some b → (t.phaseEnds b now).state = t.state))

/-- Dependent launch, traps and breakpoints (R145, R146, R148, R262): `gate` forwards its token once every predecessor has released and
waits until then; `release` marks its thread and forwards, once the accesses of earlier loads have performed (R186); `trap` commits 0x34 with A's payload as VA, `brk` 0x35 with IMM, and neither
does anything on a pass token. -/
def Obligations.GatesAndTraps : Prop :=
  ∀ (s : State) (w : SlotWord),
    let f := s.fire
    let th := s.ft f
    (s.opA f w ≠ .pass → s.gateOpen f = true → gives (.gate w) s w (s.opA f w)) ∧
    (s.opA f w ≠ .pass → s.gateOpen f = false → exec (.gate w) s = .next (s.park f .predecessors)) ∧
    (s.opA f w ≠ .pass → s.earlierPending f = true → exec (.release w) s = .next (s.parkRelease f 0 (.va 0))) ∧
    (s.opA f w ≠ .pass → s.earlierPending f = false → s.owns f = true → exec (.release w) s = .next
      (((s.onThread f.core f.thread (fun t => { t with released := true })).wgReleases th.launch th.wgid).emit2 f w
        (s.opA f w) (s.opA f w))) ∧
    (s.opA f w = .pass → gives (.gate w) s w .pass ∧ gives (.release w) s w .pass) ∧
    (∀ x, s.go f w = .fire → s.opA f w = .data x → exec (.trap w) s = .next (s.commit f 0x34 .none (some x.toNat) 0)) ∧
    (triggers s w → exec (.brk w) s = .next (s.commit f 0x35 .none (some (w.immBits 15 0)) 0)) ∧
    (s.go f w = .fire → s.opA f w = .pass → exec (.trap w) s = .next s ∧ exec (.brk w) s = .next s)

/-- Taking a contained fault (R24, R364, R365, R366, R477): the thread in the load becomes FAULTED, its staged writes are discarded, FVALID
is set and the cause stands in FCAUSE once its record is written, and nothing else of it changes; that an absent page holds the record, and
that FVALID and FCAUSE then wait with it, is the model's choice (log 17). A thread that has faulted keeps its first fault, but of two of one cycle that of the lower element, then the
lower slot. When its tokens have drained it goes to its kernel's handler entry with the in-handler bit set; in the handler, or without
one, its workgroup is aborted. -/
def Obligations.ContainedFault : Prop :=
  ∀ (s : State) (k t : Nat) (r : FaultRec),
    let th := s.thread k t
    let faulted : Thread := { th with state := .faulted, staged := [], closing := false, faultAt := some (s.time, r.elem.getD 0xFF, r.slot) }
    let stored := (((s.muteHeld k t).fireOn (fun f => f.core == k && f.thread == t)).archiveRec r).storeOwn k t r
      (some (BitVec.ofNat 8 r.cause))
    (th.aborted = false → th.state = .inload →
      (stored.2 = .written →
        (s.contain k t r).thread k t = { faulted with fvalid := true, fcause := BitVec.ofNat 8 r.cause }) ∧
      (stored.2 = .waits → (s.contain k t r).thread k t = faulted)) ∧
    (th.state = .faulted → th.faultAt = none → s.contain k t r = s) ∧
    (∀ at_ e sl, th.state = .faulted → th.faultAt = some (at_, e, sl) →
      at_ ≠ s.time ∨ e < r.elem.getD 0xFF ∨ (e = r.elem.getD 0xFF ∧ sl ≤ r.slot) → s.contain k t r = s) ∧
    (∀ e sl, th.aborted = false → th.state = .faulted → th.faultAt = some (s.time, e, sl) →
      r.elem.getD 0xFF < e ∨ (r.elem.getD 0xFF = e ∧ r.slot < sl) →
      ((s.archiveRec r).storeOwn k t r (some (BitVec.ofNat 8 r.cause))).2 = .written →
      (s.contain k t r).thread k t =
        { th with fvalid := true, fcause := BitVec.ofNat 8 r.cause, faultAt := some (s.time, r.elem.getD 0xFF, r.slot) }) ∧
    (∀ h, (s.kernelAt k t).handler = some h → th.handler = false →
      s.divert k t = s.onThread k t (fun t => { t with
        state := .waiting, next := BitVec.ofNat 7 h, handler := true, since := s.time, barrier := none })) ∧
    ((s.kernelAt k t).handler = none ∨ th.handler = true → s.divert k t = s.abortWg th.launch th.wgid)

/-! ### Memory instructions -/

/-- Loads, stores and atomics that reach their place (R189, R190, R192, R193, R186): what each does there, in order: the actions of a
release, the access, the actions of an acquire, the tokens. A release first waits for the accesses of earlier loads. A load that finds its
bytes in the CACHE tiles returns them, one that does not waits for their fill (R293, R294), and an access to the scratchpad goes to the
request ports of its tile (R288). A remote atomic acts at domain scope at least, a host atomic at system scope (R194). The tail of a
`cas2` fires with its head. That a release whose write-backs cannot reach their home commits 0x71, as an access to it does, is the
model's choice (log 29). -/
def Obligations.MemoryInstructions : Prop :=
  ∀ (s s' : State) (w : SlotWord) (g : Nat) (x : Target) (q : Place), s.go s.fire w = .fire → s.opA s.fire w ≠ .pass →
    let f := s.fire
    let n := w.ty.bytes
    let release := w.ordering = .rel ∨ w.ordering = .ar
    let scope := atomicScope q w.scope
    let clear := fun (u : State) (c : Scope) => u.releaseBlocked f w.ordering c = none
    (s.targetOf f w n (s.opA f w) = .ok (g, x) →
      (s.locateOf f x true false = (s', .ok q) →
        (∀ k off, q = .spad k off → exec (.ld w) s = .next (s'.spadSend f k off n (.read w.ty) (acquires w)).settle) ∧
        ((∀ k off, q ≠ .spad k off) →
          (s'.lookup f q = .direct → exec (.ld w) s = .next
            (let r := s'.readAt .read f q n
             (r.1.acquireActs f w.ordering w.scope).emit2 f w (if r.2.2 then .err .poison else bitsVal w.ty r.2.1) .order).settle) ∧
          (∀ d poison, s'.lookup f q = .hit d poison → exec (.ld w) s = .next
            ((s'.acquireActs f w.ordering w.scope).emit2 f w (if poison then .err .poison
              else bitsVal w.ty (d.toNat / 2 ^ (8 * q.offset) % 2 ^ (8 * n))) .order).settle) ∧
          (∀ key, s'.lookup f q = .miss key → ∃ m : L1Miss, m.f = f ∧ m.w = w ∧ m.key = key ∧ m.off = q.offset ∧ m.stale = false ∧
            exec (.ld w) s = .next (s'.onCore f.core (fun (c : Core) => { c with misses := c.misses ++ [m] })).settle))) ∧
      (release → s.earlierPending f = true → s.opB f w ≠ .pass →
        exec (.st w) s = .next (s.parkRelease f g x).settle ∧ exec (.atom w) s = .next (s.parkRelease f g x).settle) ∧
      (¬ release ∨ s.earlierPending f = false →
        (∀ b, s.opB f w ≠ .pass → storeImage w.ty (s.opB f w) = some b → s.locateOf f x false true = (s', .ok q) →
          (∀ dev, s'.releaseBlocked f w.ordering w.scope = some dev →
            exec (.st w) s = .next (s'.commit f 0x71 .write (some g) dev).settle) ∧
          (clear s' w.scope → ∀ k off, q = .spad k off → exec (.st w) s = .next
            ((s'.releaseActs f w.ordering w.scope).spadSend f k off n (.write b) false).settle) ∧
          (clear s' w.scope → (∀ k off, q ≠ .spad k off) → exec (.st w) s = .next
            (((s'.releaseActs f w.ordering w.scope).writeAt .write f q (bytesLE n b)).emit2 f w .order .order).settle)) ∧
        (∀ b, s.opB f w ≠ .pass → storeImage w.ty (s.opB f w) = some b → s.locateOf f x true true = (s', .ok q) →
          (∀ k off, q = .spad k off → clear s' w.scope → exec (.atom w) s = .next
            ((s'.releaseActs f w.ordering w.scope).spadSend f k off n (.atom w.mod.toNat w.ty b) (acquires w)).settle) ∧
          ((∀ k off, q ≠ .spad k off) → (∀ a, q = .host a → s'.hostPath (8 * n) = .done) → clear s' scope →
            exec (.atom w) s = .next
              (let r := (s'.releaseActs f w.ordering scope).rmwAt f q n (fun old => some (atomNew w.mod.toNat w.ty old b))
               (r.1.acquireActs f w.ordering scope).emit2 f w (oldVal w.ty r.2) .order).settle)) ∧
        (∀ e v, s.opB f w ≠ .pass → s.opC f w ≠ .pass → storeImage w.ty (s.opB f w) = some e →
          storeImage w.ty (s.opC f w) = some v → s.locateOf f x true true = (s', .ok q) →
          (∀ k off, q = .spad k off → clear s' w.scope → exec (.cas w) s = .next
            ((s'.releaseActs f w.ordering w.scope).spadSend f k off n (.cas w.ty e v) (acquires w)).settle) ∧
          ((∀ k off, q ≠ .spad k off) → (∀ a, q = .host a → s'.hostPath (8 * n) = .done) → clear s' scope →
            exec (.cas w) s = .next
              (let r := (s'.releaseActs f w.ordering scope).rmwAt f q n (fun old => if old = e then some v else none)
               (r.1.acquireActs f w.ordering scope).emit2 f w (oldVal w.ty r.2) .order).settle)))) ∧
    (w.mod = 1 → exec (.cas2 w) s = .next s) ∧
    (∀ el eh vl vh : Dword, w.mod ≠ 1 → s.targetOf f w 16 (s.opA f w) = .ok (g, x) →
      ¬ release ∨ s.earlierPending f = false →
      s.opB f w = .data el → s.opC f w = .data eh → s.operand f (s.casTail f).1.a f.ta = .data vl →
      s.operand f (s.casTail f).1.b f.tb = .data vh → s.locateOf f x true true = (s', .ok q) →
      let e := el.toNat + 2 ^ 64 * eh.toNat
      let v := vl.toNat + 2 ^ 64 * vh.toNat
      (∀ k off, q = .spad k off → clear s' w.scope → exec (.cas2 w) s = .next
        ((s'.releaseActs f w.ordering w.scope).spadSend f k off 16 (.cas2 e v) (acquires w)).settle) ∧
      ((∀ k off, q ≠ .spad k off) → (∀ a, q = .host a → s'.hostPath 128 = .done) → clear s' scope →
        exec (.cas2 w) s = .next
          (let r := (s'.releaseActs f w.ordering scope).rmwAt f q 16 (fun old => if old = e then some v else none)
           (((r.1.acquireActs f w.ordering scope).emit2 f w (oldVal .b64 (r.2.map (fun o => o % 2 ^ 64))) .order).emit2
             (s.casTail f).2 (s.casTail f).1 (oldVal .b64 (r.2.map (fun o => o / 2 ^ 64)))
             (match r.2 with
              | none => .err .poison
              | some o => .data (if o = e then 1 else 0)))).settle))

/-- A load from device memory (R189, R293, R294, R297): it completes, D0 receives the bytes that stand there, little-endian, D1 an order token,
and every byte of device memory, host memory and every register of every thread are as before. No stack is fenced, no burst is bad and no
dword is poisoned. A load that finds its dword in the CACHE tiles receives its bytes from there; one that does not waits, and the fill of
its dword gives it the bytes that memory holds. -/
def Obligations.LoadReads : Prop :=
  ∀ (s s' : State) (w : SlotWord) (g : Nat) (x : Target) (pa : Nat), quietMemory s → s.go s.fire w = .fire →
    s.opA s.fire w ≠ .pass → s.targetOf s.fire w w.ty.bytes (s.opA s.fire w) = .ok (g, x) →
    s.locateOf s.fire x true false = (s', .ok (.dev pa)) →
    let same := fun (u : State) =>
      (∀ a, u.viewByte a = s.viewByte a) ∧ u.hostMem = s.hostMem ∧ ∀ k j, u.thread k j = s.thread k j
    let part := fun (d : Dword) => bitsVal w.ty (d.toNat / 2 ^ (8 * (pa % 8)) % 2 ^ (8 * w.ty.bytes))
    (s'.lookup s.fire (.dev pa) = .direct →
      ∃ u : State, exec (.ld w) s = .next (u.emit2 s.fire w (bitsVal w.ty (readLE s.viewByte pa w.ty.bytes)) .order) ∧ same u) ∧
    (∀ d, s'.lookup s.fire (.dev pa) = .hit d false →
      ∃ u : State, exec (.ld w) s = .next (u.emit2 s.fire w (part d) .order) ∧ same u) ∧
    (∀ key, s'.lookup s.fire (.dev pa) = .miss key → (∀ m ∈ (s'.core s.fire.core).misses, m.key ≠ key) →
      pa < Config.devBytes → key = pa / 8 ∧ ∃ t u : State, exec (.ld w) s = .next t ∧ same t ∧
        exec (.cacheFill s.fire.core (key / 16) (2 ^ (key % 16))) t = .next (u.emit2 s.fire w (part (s.viewDword key)) .order) ∧ same u)

/-- A store to device memory (R190, R296, R297): it completes, its bytes read as stored, little-endian, through any die, order tokens
leave, and every other byte of device memory, host memory and every register of every thread are as before. -/
def Obligations.StoreWrites : Prop :=
  ∀ (s s' : State) (w : SlotWord) (g : Nat) (x : Target) (pa b : Nat), quietMemory s → s.go s.fire w = .fire →
    s.opA s.fire w ≠ .pass → s.opB s.fire w ≠ .pass → storeImage w.ty (s.opB s.fire w) = some b →
    s.targetOf s.fire w w.ty.bytes (s.opA s.fire w) = .ok (g, x) →
    (w.ordering = .rel ∨ w.ordering = .ar → s.earlierPending s.fire = false) →
    s.locateOf s.fire x false true = (s', .ok (.dev pa)) → s'.releaseBlocked s.fire w.ordering w.scope = none →
    ∃ u : State, exec (.st w) s = .next (u.emit2 s.fire w .order .order) ∧
      (∀ i, i < w.ty.bytes → u.viewByte (pa + i) = BitVec.ofNat 8 (b / 256 ^ i)) ∧
      (∀ a, (a < pa ∨ pa + w.ty.bytes ≤ a) → u.viewByte a = s.viewByte a) ∧ u.hostMem = s.hostMem ∧
      ∀ k j, u.thread k j = s.thread k j

/-- Atomics on device memory (R191 to R193): the old bytes go to D0 and the new ones stand in their place; a `cas` whose comparison fails
writes nothing; every other byte, host memory and every register of every thread are as before. -/
def Obligations.AtomicsReadModifyWrite : Prop :=
  ∀ (s s' : State) (w : SlotWord) (g : Nat) (x : Target) (pa b : Nat), quietMemory s → s.go s.fire w = .fire →
    s.opA s.fire w ≠ .pass → s.opB s.fire w ≠ .pass → storeImage w.ty (s.opB s.fire w) = some b →
    s.targetOf s.fire w w.ty.bytes (s.opA s.fire w) = .ok (g, x) →
    (w.ordering = .rel ∨ w.ordering = .ar → s.earlierPending s.fire = false) →
    s.locateOf s.fire x true true = (s', .ok (.dev pa)) → s'.releaseBlocked s.fire w.ordering w.scope = none →
    let n := w.ty.bytes
    let old := readLE s.viewByte pa n
    (∃ u : State, exec (.atom w) s = .next (u.emit2 s.fire w (bitsVal w.ty old) .order) ∧
      (∀ i, i < n → u.viewByte (pa + i) = BitVec.ofNat 8 (atomNew w.mod.toNat w.ty old b / 256 ^ i)) ∧
      (∀ a, (a < pa ∨ pa + n ≤ a) → u.viewByte a = s.viewByte a) ∧ u.hostMem = s.hostMem ∧
      ∀ k j, u.thread k j = s.thread k j) ∧
    (∀ v, s.opC s.fire w ≠ .pass → storeImage w.ty (s.opC s.fire w) = some v →
      ∃ u : State, exec (.cas w) s = .next (u.emit2 s.fire w (bitsVal w.ty old) .order) ∧
        (∀ i, i < n → u.viewByte (pa + i) = if old = b then BitVec.ofNat 8 (v / 256 ^ i) else s.viewByte (pa + i)) ∧
        (∀ a, (a < pa ∨ pa + n ≤ a) → u.viewByte a = s.viewByte a) ∧ u.hostMem = s.hostMem ∧
        ∀ k j, u.thread k j = s.thread k j)

/-- Where an access stops before it translates (R38, R179, R182): a poisoned address commits 0x20 and another error token 0x12; in the
global space bits above 55 commit 0x12, in the private space an access beyond the declared bytes 0x16, and one that is not naturally
aligned 0x15 with its address. In the scratchpad and cluster forms bits above 19 and above 22 commit 0x12, and so do a core that holds no
part of the workgroup and an access beyond the declared bytes; a generic address in no window commits 0x12, and one of another core's or
cluster's scratchpad 0x13 or 0x14. Nothing is read or written. That a record has no VA where no address was formed is the model's choice
(log 37). -/
def Obligations.AddressFaults : Prop :=
  ∀ (s : State) (w : SlotWord), s.go s.fire w = .fire → s.opA s.fire w ≠ .pass → s.opB s.fire w ≠ .pass →
    let f := s.fire
    let n := w.ty.bytes
    (f.kept = none → s.targetOf f w n (s.opA f w) = s.formAddress f w.space n n (s.opA f w)) ∧
    (∀ c va, s.targetOf f w n (s.opA f w) = .error (c, va) →
      exec (.ld w) s = .next (s.commit f c .read va 0).settle ∧
      exec (.st w) s = .next (s.commit f c .write va 0).settle ∧
      exec (.atom w) s = .next (s.commit f c .rmw va 0).settle) ∧
    (s.opA f w = .err .poison → s.formAddress f w.space n n (s.opA f w) = .error (0x20, none)) ∧
    (∀ k, k ≠ .poison → s.opA f w = .err k → s.formAddress f w.space n n (s.opA f w) = .error (0x12, none)) ∧
    (∀ a, s.opA f w = .data a → w.space = .g ∨ w.space = .p → 2 ^ 56 ≤ a.toNat →
      s.formAddress f w.space n n (s.opA f w) = .error (0x12, none)) ∧
    (∀ a, s.opA f w = .data a → w.space = .g → a.toNat + n ≤ 2 ^ 56 → a.toNat % n ≠ 0 →
      s.formAddress f w.space n n (s.opA f w) = .error (0x15, some a.toNat)) ∧
    (∀ a, s.opA f w = .data a → w.space = .g → a.toNat + n ≤ 2 ^ 56 → a.toNat % n = 0 →
      s.formAddress f w.space n n (s.opA f w) = .ok (a.toNat, .va a.toNat)) ∧
    (∀ a, s.opA f w = .data a → w.space = .p → a.toNat < 2 ^ 56 → (s.kernelAt f.core f.thread).priv < a.toNat + n →
      s.formAddress f w.space n n (s.opA f w) = .error (0x16, some (0xC000000000000000 + a.toNat))) ∧
    (∀ a, s.opA f w = .data a → w.space = .p → a.toNat < 2 ^ 56 → a.toNat + n ≤ (s.kernelAt f.core f.thread).priv →
      a.toNat % n = 0 →
      s.formAddress f w.space n n (s.opA f w) =
        .ok (0xC000000000000000 + a.toNat, .va (s.privBase f.core f.thread + a.toNat))) ∧
    (∀ a, s.opA f w = .data a →
      let bytes := (s.kernelAt f.core f.thread).spad
      let own := 0xD000000000000000 + f.core * 2 ^ 47 + a.toNat
      let shared := 0xE000000000000000 + f.core / 8 * 2 ^ 50 + a.toNat
      let owner := f.core / 8 * 8 + a.toNat / 2 ^ 20
      let holds := owner ∈ ((s.wg? (s.ft f).launch (s.ft f).wgid).map Workgroup.cores).getD []
      let off := a.toNat % 2 ^ 20
      (w.space = .s → 2 ^ 20 ≤ a.toNat → s.formAddress f w.space n n (s.opA f w) = .error (0x12, none)) ∧
      (w.space = .s → f.core < 512 → a.toNat < 2 ^ 20 →
        s.formAddress f w.space n n (s.opA f w) =
          if bytes < off + n then .error (0x12, some own) else if a.toNat % n ≠ 0 then .error (0x15, some own)
          else .ok (own, .spad f.core off)) ∧
      (w.space = .c → 2 ^ 23 ≤ a.toNat → s.formAddress f w.space n n (s.opA f w) = .error (0x12, none)) ∧
      (w.space = .c → f.core < 512 → a.toNat < 2 ^ 23 → holds →
        s.formAddress f w.space n n (s.opA f w) =
          if bytes < off + n then .error (0x12, some shared) else if a.toNat % n ≠ 0 then .error (0x15, some shared)
          else .ok (shared, .spad owner off)) ∧
      (w.space = .c → f.core < 512 → a.toNat < 2 ^ 23 → ¬ holds →
        s.formAddress f w.space n n (s.opA f w) = .error (0x12, some shared)) ∧
      (w.space = .x → a.toNat / 2 ^ 60 ∉ [0, 0xC, 0xD, 0xE] ∨ a.toNat / 2 ^ 56 % 16 ≠ 0 →
        s.formAddress f w.space n n (s.opA f w) = .error (0x12, some a.toNat)) ∧
      (w.space = .x → a.toNat / 2 ^ 56 = 0xD0 → a.toNat / 2 ^ 20 % 2 ^ 27 = 0 → a.toNat / 2 ^ 47 % 512 ≠ f.core →
        s.formAddress f w.space n n (s.opA f w) = .error (0x13, some a.toNat)) ∧
      (w.space = .x → a.toNat / 2 ^ 56 = 0xE0 → a.toNat / 2 ^ 23 % 2 ^ 27 = 0 → a.toNat / 2 ^ 50 % 64 ≠ f.core / 8 →
        s.formAddress f w.space n n (s.opA f w) = .error (0x14, some a.toNat)) ∧
      (w.space = .x → a.toNat + n ≤ 2 ^ 56 → a.toNat % n = 0 →
        s.formAddress f w.space n n (s.opA f w) = .ok (a.toNat, .va a.toNat)))

/-- Fences, window queries and prefetches (R196 to R200, R280): a fence waits for the accesses of earlier loads, one with `.acq` for reads
alone, performs its release and its acquire and sends order tokens, a `.sc` fence takes a ticket first; `sptest` gives the window code of
an address; `spcast` narrows or widens an address or commits 0x12; `pref` always sends its order tokens. That the record of an `spcast`
holds its operand as VA is the model's choice (log 85), and so is the 0x71 of a fence whose write-backs cannot reach their home (log 29). -/
def Obligations.FencesAndWindows : Prop :=
  ∀ (s : State) (w : SlotWord),
    let f := s.fire
    let free := if w.mod = 0 ∧ w.ordering = .acq then s.earlierReads f = false else s.earlierPending f = false
    (s.opA f w ≠ .pass → ¬ free → exec (.fence w) s = .next (s.parkRelease f 0 (.va 0))) ∧
    (s.opA f w ≠ .pass → free → w.mod ≠ 1 → s.releaseBlocked f w.ordering w.scope = none → exec (.fence w) s = .next
      (((s.releaseActs f w.ordering w.scope).acquireActs f w.ordering w.scope).emit2 f w .order .order)) ∧
    (∀ dev, s.opA f w ≠ .pass → free → w.mod ≠ 1 → s.releaseBlocked f w.ordering w.scope = some dev →
      exec (.fence w) s = .next (s.commit f 0x71 .none none dev)) ∧
    (s.opA f w ≠ .pass → free → w.mod = 1 → wideScope w.scope = false → exec (.fence w) s = .next
      (((({ s with tickets := s.tickets + 1 } : State).releaseActs f w.ordering w.scope).acquireActs f w.ordering w.scope).emit2
        f w .order .order)) ∧
    (s.opA f w ≠ .pass → free → w.mod = 1 → wideScope w.scope = true →
      exec (.fence w) s = .next (s.park (s.keep f 0 0) .ticket)) ∧
    (∀ a b c, acts s w a b c → gives (.sptest w) s w (.data (match a.toNat / 2 ^ 60 with
      | 0 => 0 | 0xC => 1 | 0xD => 2 | 0xE => 3 | _ => 7))) ∧
    (∀ a, s.go f w = .fire → s.opA f w = .data a →
      (w.space = .g → a.toNat / 2 ^ 60 = 0 → gives (.spcastTo w) s w (.data (a &&& 0x00FFFFFFFFFFFFFF))) ∧
      (w.space = .p → a.toNat / 2 ^ 60 = 0xC → gives (.spcastTo w) s w (.data (a &&& 0x00FFFFFFFFFFFFFF))) ∧
      (w.space = .s → a.toNat / 2 ^ 60 = 0xD → gives (.spcastTo w) s w (.data (a &&& 0xFFFFF))) ∧
      (w.space = .c → a.toNat / 2 ^ 60 = 0xE → gives (.spcastTo w) s w (.data (a &&& 0x7FFFFF))) ∧
      (w.space = .g → a.toNat / 2 ^ 60 ≠ 0 →
        exec (.spcastTo w) s = .next (s.commit f 0x12 .none (some a.toNat) 0)) ∧
      (w.space = .p → a.toNat < 2 ^ 56 → gives (.spcastFrom w) s w (.data (a ||| 0xC000000000000000))) ∧
      (w.space = .g → 2 ^ 56 ≤ a.toNat → exec (.spcastFrom w) s = .next (s.commit f 0x12 .none (some a.toNat) 0))) ∧
    (s.go f w = .fire → s.opA f w ≠ .pass → quietMemory s →
      ∃ u : State, exec (.pref w) s = .next (u.emit2 f w .order .order) ∧
        (∀ a, u.viewByte a = s.viewByte a) ∧ ∀ k j, u.thread k j = s.thread k j)

/-- Memory tiles (R201 to R203, R292): `gth` and `sct` within the tile's buffer queue a request at the tile; a bank of the tile serves the
oldest access that needs it, storing its bytes or reading them, and a vector request whose accesses have all been served answers;
`mtld` and `mtst` start a counted transfer; an offset beyond the buffer commits 0x12 and one
not aligned 0x15. That the record of a tile fault has no VA is the model's choice (log 37). -/
def Obligations.MemoryTiles : Prop :=
  (∀ (s : State) (w : SlotWord) (a : Dword), s.go s.fire w = .fire → s.opA s.fire w = .data a →
    let f := s.fire
    let n := w.ty.bytes
    (a.toNat + n ≤ s.tileRoom f w → a.toNat % n = 0 →
      exec (.gth w) s = .next (s.tileSend f f.core (s.tileKey f w a.toNat) n (.read w.ty) false) ∧
      (∀ b, s.opB f w ≠ .pass → storeImage w.ty (s.opB f w) = some b →
        exec (.sct w) s = .next (s.tileSend f f.core (s.tileKey f w a.toNat) n (.write b) false))) ∧
    (s.tileRoom f w < a.toNat + n → exec (.gth w) s = .next (s.commit f 0x12 .read none 0)) ∧
    (a.toNat + n ≤ s.tileRoom f w → a.toNat % n ≠ 0 → exec (.gth w) s = .next (s.commit f 0x15 .read none 0))) ∧
  (∀ (s : State) (w : SlotWord) (g : Nat) (x : Target) (off m : Dword), s.go s.fire w = .fire → s.opA s.fire w ≠ .pass →
    let f := s.fire
    s.opB f w = .data off → s.opC f w = .data m → 8 ≤ m.toNat → m.toNat ≤ 32768 → m.toNat % 8 = 0 →
    s.formAddress f w.space m.toNat 8 (s.opA f w) = .ok (g, x) → off.toNat + m.toNat ≤ s.tileRoom f w → off.toNat % 8 = 0 →
    s.countRoom f.core f.thread .gather = true →
    exec (.mtld w) s = .next ((s.startTransfer { Transfer.blank f with
      op := .mtld, cls := .gather, bytes := m.toNat, tile := w.tile, buf := w.buffer
      dst := s.tileAddr f w off.toNat, src := g }).emit2 f w .order .order) ∧
    exec (.mtst w) s = .next ((s.startTransfer { Transfer.blank f with
      op := .mtst, cls := .gather, bytes := m.toNat, tile := w.tile, buf := w.buffer
      dst := g, src := s.tileAddr f w off.toNat }).emit2 f w .order .order)) ∧
  (∀ (s : State) (k bank : Nat) (r : TileReq) (w : SlotWord),
    (s.core k).bankNext bank = some r → r.width ≤ 8 → r.acq = false → r.f.kept = none → s.fieldsOf r.f = some w →
    let c := s.core k
    let key := 32768 * r.tile + r.off
    let mine := fun (x : TileReq) => x.tile == r.tile && x.f.together r.f
    let rest := c.tileReqs.filter (fun x => !mine x)
    let served := fun (v : Val) => c.tileReqs.map (fun x => if x = r then { x with got := some [v] } else x)
    let sound := ∀ i, i < r.width → c.tileMark (key + i) = false
    let old := readLE c.tileByte key r.width
    (∀ b, r.op = .write b → c.tileReqs.filter mine = [r] → exec (.tileRequestService k bank) s = .next
      ((s.setCore k (({ c with tileReqs := rest } : Core).tileStore key (bytesLE r.width b))).emit2 r.f w .order .order)) ∧
    (∀ ty, r.op = .read ty → sound → c.tileReqs.filter mine = [r] → exec (.tileRequestService k bank) s = .next
      ((s.setCore k { c with tileReqs := rest }).emit2 r.f w (bitsVal ty old) .order)) ∧
    (∀ m ty b, r.op = .atom m ty b → sound → c.tileReqs.filter mine = [r] → exec (.tileRequestService k bank) s = .next
      ((s.setCore k (({ c with tileReqs := rest } : Core).tileStore key (bytesLE r.width (atomNew m ty old b)))).emit2 r.f w
        (bitsVal ty old) .order)) ∧
    (∀ x, x ∈ c.tileReqs → mine x = true → x ≠ r → x.got = none →
      (∀ b, r.op = .write b → exec (.tileRequestService k bank) s = .next
        (s.setCore k (({ c with tileReqs := served .order } : Core).tileStore key (bytesLE r.width b)))) ∧
      (∀ ty, r.op = .read ty → sound → exec (.tileRequestService k bank) s = .next
        (s.setCore k { c with tileReqs := served (bitsVal ty old) }))))

/-! ### Groups, expansion and the matrix island -/

/-- The gang and expand instructions join the group of their slot, tag and span (R205, R208, R218, R221): as active lanes with their
operands, as inactive lanes on a pass token or an untrue predicate, and as lanes that an error of the predicate stops. When the
last present lane has come the group fires, and every lane has its result: `xbegin` takes a context and gives every lane the total,
`xend` gives each lane the result and the status of its items and frees the context; where `xbegin` has taken no context because of 0x60
it gives pass tokens, and until `xbegin` has fired it waits. -/
def Obligations.GangLanes : Prop :=
  (∀ (s : State) (w : SlotWord),
    let f := s.fire
    let a := s.opA f w
    let b := s.opB f w
    let joins := fun (i : Instr) (x : LaneIn) => exec i s = .next (s.groupIn f x)
    (s.go f w = .fire → a ≠ .pass → b ≠ .pass →
      joins (.shfl w) (.active a b) ∧ joins (.lpush w) (.active a b) ∧ joins (.xbegin w) (.active a b)) ∧
    (s.go f w = .fire → a ≠ .pass →
      joins (.vote w) (.active a .pass) ∧ joins (.gscan w) (.active a .pass) ∧ joins (.gred w) (.active a .pass) ∧
      joins (.gbcast w) (.active a .pass) ∧ joins (.gmatch w) (.active a .pass) ∧ joins (.xend w) (.active a .pass)) ∧
    (∀ i ∈ [Instr.shfl w, .lpush w, .vote w, .gscan w, .gred w, .gbcast w, .gmatch w, .xbegin w, .xend w],
      (s.go f w = .skip → joins i .inactive) ∧ (s.go f w = .fire → a = .pass → joins i .inactive) ∧
      (∀ k, s.go f w = .stop k → joins i (.predError k)) ∧
      (s.go f w = .poison → exec i s = .next ((s.commit f 0x20 .none none 0).groupIn f .gone)))) ∧
  (∀ (s : State) (w : SlotWord) (a b : Val), s.opB s.fire w = b → b ≠ .pass →
    let k := s.fire.core
    let c := s.core k
    let g := joined s a b
    let p := c.span g.span
    (lastLane s w 0xC0 a b → (g.shfl w p).bad = [] → exec (.shfl w) s = .next (lanesGet s w g (g.shfl w p).res)) ∧
    (lastLane s w 0xC1 a b → (g.lpush w p).bad = [] → exec (.lpush w) s = .next (lanesGet s w g (g.lpush w p).res)) ∧
    (lastLane s w 0xC7 a b → (∀ i x y, g.act i = some (x, y) → x ≠ .err .poison ∧ y ≠ .err .poison) →
      (∀ i, i < p.count → (s.thread k ((p.members[i]?).getD 0)).state ≠ .faulted) → c.roomForX s.fire.node p = true →
      let lens := (List.range p.count).map (fun i => (g.lenOf i).2)
      let total := lens.foldl (· + ·) 0
      total < 2 ^ 32 →
      exec (.xbegin w) s = .next ((List.range p.count).foldl (fun (s : State) i =>
        if g.silent i || (g.lanes.look i).isNone || g.lanes.look i == some .gone then s
        else s.emit2 (g.firing k p i) w (.data (BitVec.ofNat 64 total)) (.data (BitVec.ofNat 64 total)))
        (s.onCore k (fun (c : Core) => { c with
          groups := [], nextCtx := c.nextCtx + 1
          xctxs := c.xctxs ++ [{ id := c.nextCtx, span := g.span, elem := g.elem, slot := g.slot, n := p.count, total := total
                                 starts := (List.range p.count).map (fun i => (g.lenOf i).1), lens := lens, items := [], fin := []
                                 rounds := 0, part := [] }] }))))) ∧
  (∀ (s : State) (w : SlotWord) (a : Val),
    let k := s.fire.core
    let c := s.core k
    let g := joined s a .pass
    let p := c.span g.span
    (lastLane s w 0xC2 a .pass → exec (.vote w) s = .next (lanesGet s w g (g.vote w p).res)) ∧
    (lastLane s w 0xC3 a .pass → exec (.gscan w) s = .next (lanesGet s w g (g.gscan w p c).res)) ∧
    (lastLane s w 0xC4 a .pass → exec (.gred w) s = .next (lanesGet s w g (g.gred w p c).res)) ∧
    (lastLane s w 0xC5 a .pass → exec (.gbcast w) s = .next (lanesGet s w g (g.gbcast w p).res)) ∧
    (lastLane s w 0xC6 a .pass → exec (.gmatch w) s = .next (lanesGet s w g (g.gmatch w p).res)) ∧
    (∀ x, lastLane s w 0xCA a .pass → c.ctxOfEnd g.span s.fire.node = some x → s.lanesFinished k p x = true →
      let red := ((c.load.xroundOf (16 * x.elem + x.slot)).bind c.load.xsegredOf).bind c.load.fields
      exec (.xend w) s = .next ((lanesGet s w g (fun i => x.result i red ((red.map (fun r => c.laneCtx r p i)).getD .rne))).onCore k
        (fun (c : Core) => { c with xctxs := c.xctxs.filter (fun (y : XCtx) => y.id != x.id) }))) ∧
    (lastLane s w 0xCA a .pass → c.ctxOfEnd g.span s.fire.node = none →
      (c.overflowed g.span s.fire.node = false → exec (.xend w) s = .next (s.setCore k { c with groups := [g] })) ∧
      (c.overflowed g.span s.fire.node = true → exec (.xend w) s = .next (lanesGet (s.onCore k (fun (c : Core) => { c with
        overflows := c.overflows.filter (fun x => x != (g.span, (c.load.xbeginOfEnd s.fire.node).getD 0)) })) w g
        (fun _ => (.pass, .pass))))))

/-- Sums over lanes (R71, R72, R214, R215): on an integer type, the tree of `gred` gives the sum of its lanes and the network of `gscan`
at each lane the sum of the lanes up to it, modulo 2^w, whatever the grouping, for up to 512 lanes. And what a lane of a group
receives (R209 to R212): `shfl.idx` the A token of the lane that B names in its width, or its own where that lane is not active;
`lpush` the A token of the highest lane that names it; `vote` whether any or all data conditions of its width are true, or their mask;
`gbcast` the A token of the source lane; `gmatch` the mask of the lanes whose token equals its own. -/
def Obligations.LaneSums : Prop :=
  (∀ (t : Ty) (c : FCtx) (xs : List Dword), t ∈ [Ty.s32, .n32, .s64, .n64] → 0 < xs.length → xs.length ≤ 512 →
    let v := xs.map (fun x => some (Val.data x))
    let total := fun (l : List Dword) => l.foldl (fun (n : Int) x => n + readInt t x) 0
    (∃ y, treeOf (comb 0 t c) 9 v = some (.data y) ∧ (2 ^ t.width : Int) ∣ readInt t y - total xs) ∧
    (scanOf (comb 0 t c) 9 1 v).length = xs.length ∧
    ∀ i, i < xs.length → ∃ y, (scanOf (comb 0 t c) 9 1 v)[i]? = some (some (.data y)) ∧
      (2 ^ t.width : Int) ∣ readInt t y - total (xs.take (i + 1))) ∧
  (∀ (g : Group) (w : SlotWord) (p : Span) (i : Nat) (a b : Val), g.act i = some (a, b) →
    let wd := laneWidth w p
    let base := i - i % wd
    let true_ := fun (j : Nat) => match g.act j with | some (.data x, _) => x != 0 | _ => false
    let data := fun (j : Nat) => match g.act j with | some (.data _, _) => true | _ => false
    (∀ j : Dword, w.mod = 0 → b = .data j → j.toNat < wd →
      (∀ x y, g.act (base + j.toNat) = some (x, .data y) → y.toNat < wd → (g.shfl w p).res i = (x, x)) ∧
      (g.act (base + j.toNat) = none → (g.shfl w p).res i = (a, a))) ∧
    (∀ j x y, 0 < wd → j < p.g * p.s → j - j % wd = base → g.act j = some (x, .data y) → y.toNat = i % wd →
      (∀ j' x' y', j < j' → j' < p.g * p.s → j' - j' % wd = base → g.act j' = some (x', y') → y'.bits.toNat ≠ i % wd) →
      ((g.lpush w p).res i).1 = x) ∧
    (∀ x, a = .data x →
      (w.mod = 0 → (g.vote w p).res i =
        (.data (if (laneSegment wd i).any true_ then 1 else 0), .data (if (laneSegment wd i).any true_ then 1 else 0))) ∧
      (w.mod = 1 → (g.vote w p).res i =
        (.data (if (laneSegment wd i).all (fun j => !data j || true_ j) then 1 else 0),
         .data (if (laneSegment wd i).all (fun j => !data j || true_ j) then 1 else 0))) ∧
      (2 ≤ w.mod.toNat → ∃ m : Dword, (g.vote w p).res i = (.data m, .data m) ∧
        ∀ l, l < 64 → m.getLsbD l = (decide (l < wd) && true_ (base + l)))) ∧
    (∀ k, a = .err k → (g.vote w p).res i = (.err k, .err k)) ∧
    (∀ x y, g.act (base + w.immBits 7 0) = some (x, y) → (g.gbcast w p).res i = (x, x)) ∧
    (g.act (base + w.immBits 7 0) = none → (g.gbcast w p).res i = (.pass, .pass)) ∧
    (∃ m : Dword, (g.gmatch w p).res i = (.data m, .data m) ∧
      ∀ l, l < 64 → m.getLsbD l = (decide (l < wd) && match g.act (base + l) with
        | some (v, _) => sameToken w.ty a v
        | none => false)))

/-- Expansion (R217 to R220): `xround` runs ⌈T/n⌉ rounds for its lane and commits a fault on an error token; `xsegred` hands its item
to the expand unit under the flat index of B and sends an order token. The flat indices of a context fall to the lanes in ascending
order, each index to exactly one lane. -/
def Obligations.Expansion : Prop :=
  (∀ (s : State) (w : SlotWord) (x : XCtx), (s.core s.fire.core).ctxOfRound (s.ft s.fire).span s.fire.node = some x →
    (∀ v, s.opA s.fire w = .data v →
      exec (.xround w) s = .next (s.startLoop s.fire w ((v.toNat + x.n - 1) / x.n) [] none (some x.id))) ∧
    (s.opA s.fire w = .pass → exec (.xround w) s = .next (s.startLoop s.fire w 0 [] none (some x.id))) ∧
    (∀ k, s.opA s.fire w = .err k →
      exec (.xround w) s = .next (s.commit s.fire (if k = .poison then 0x20 else 0x33) .none none 0))) ∧
  (∀ (s : State) (w : SlotWord) (id i : Nat) (b : Dword), s.go s.fire w = .fire → s.opA s.fire w ≠ .pass →
    s.opB s.fire w = .data b → s.flatOf s.fire = some (id, i) →
    exec (.xsegred w) s = .next ((s.handItem s.fire.core id (b.toNat % 2 ^ 32) (some (s.opA s.fire w)) false).emit2 s.fire w
      .order .order)) ∧
  (∀ (x : XCtx) (f : Nat), x.total = prefixOf x.lens x.lens.length → f < x.total →
    x.ownerOf f < x.lens.length ∧ prefixOf x.lens (x.ownerOf f) ≤ f ∧ f < prefixOf x.lens (x.ownerOf f + 1) ∧
    ∀ j, j < x.lens.length → prefixOf x.lens j ≤ f → f < prefixOf x.lens (j + 1) → j = x.ownerOf f)

/-- Matrix instructions (R226): each sends one control token to the island, in the order of firing, with the offset of `mxld` and
`mxst` and the index of `mxrd`; nothing else of the core changes. At a free island, with its handle bound, the token is accepted and executes:
`mxzero` clears the accumulator, `mxld` fills it from its tile, `mxst` stores it there, `mxop` adds the contribution of its operand
sets (R66 to R70), `mxrd` and `mxinfo` send their results, and `mxrel` unbinds the handle and frees its slots (R230 to R233). -/
def Obligations.MatrixControlTokens : Prop :=
  (∀ (s : State) (w : SlotWord), triggers s w →
    let f := s.fire
    let sent := fun (i : Instr) (kind : MxKind) (bad off : Nat) => ∃ m : MxCtl,
      exec i s = .next (s.onCore f.core (fun (c : Core) => { c with mxSent := c.mxSent ++ [m] })) ∧
      m.kind = kind ∧ m.w = w ∧ m.f = f ∧ m.launch = (s.ft f).launch ∧ m.wgid = (s.ft f).wgid ∧ m.bad = bad ∧ m.off = off
    sent (.mxop w) .op 0 0 ∧ sent (.mxzero w) .zero 0 0 ∧ sent (.mxrel w) .rel 0 0 ∧ sent (.mxinfo w) .info 0 0 ∧
    (∀ x, s.opA f w = .data x →
      sent (.mxrd w) .read 0 (x.toNat % 256) ∧
      (x.toNat + accBytes w ≤ s.tileRoom f w → x.toNat % 8 = 0 →
        sent (.mxld w) .load 0 x.toNat ∧ sent (.mxst w) .store 0 x.toNat) ∧
      (s.tileRoom f w < x.toNat + accBytes w → sent (.mxld w) .load 0x12 x.toNat ∧ sent (.mxst w) .store 0x12 x.toNat) ∧
      (x.toNat + accBytes w ≤ s.tileRoom f w → x.toNat % 8 ≠ 0 →
        sent (.mxld w) .load 0x15 x.toNat ∧ sent (.mxst w) .store 0x15 x.toNat)) ∧
    (s.opA f w = .err .poison →
      sent (.mxld w) .load 0x20 0 ∧ sent (.mxst w) .store 0x20 0 ∧ sent (.mxrd w) .read 0x20 0)) ∧
  (∀ (s : State) (w : SlotWord) (p : Part) (h : Handle), triggers s w → islandFree s p →
    p.handles.look w.handle = some h → h.fits (accWidth w) = true →
    let f := s.fire
    let k := f.core
    let n := accBytes w / 256
    let at_ := fun (off b : Nat) =>
      if w.tile = 32 then spadKey (s.spadTilesAt k (s.ft f).launch (s.ft f).wgid) (off + b) else s.tileKey f w off + b
    let accepted := fun (i : Instr) (P : MxCtl → State → Prop) => ∃ t m u, exec i s = .next t ∧ exec (.matrixAccept k) t = .next u ∧
      (u.core k).mxQueue = [m] ∧ m.w = w ∧ m.f = f ∧ P m u
    let executes := fun (i : Instr) (P : State → Prop) => accepted i (fun _ u => ∃ v, exec (.matrixExecuteComplete k) u = .next v ∧ P v)
    executes (.mxzero w) (fun v => ∀ q, q < 256 → (v.core k).accAt h q = ⟨false, 0⟩) ∧
    executes (.mxrel w) (fun v => (∀ q ∈ h.slots, q ∈ (v.core k).accFree) ∧
      ∀ p', (v.core k).parts.find? (fun (p : Part) => p.launch == (s.ft f).launch && p.wgid == (s.ft f).wgid) = some p' →
        p'.handles.look w.handle = none) ∧
    accepted (.mxinfo w) (fun m u => exec (.matrixExecuteComplete k) u = .next
      ((u.emit2 f w ((u.core k).mxStatus m) ((u.core k).mxStatus m)).onCore k (fun (c : Core) => { c with mxQueue := [] }))) ∧
    accepted (.mxop w) (fun m u => ∀ x y c d, u.feedSet k m 0 = some (x, c) → (u.setCore k c).feedSet k m 1 = some (y, d) →
      ∃ v, exec (.matrixExecuteComplete k) u = .next v ∧ ∀ q, q < 256 →
        (v.core k).accAt h q = accStep w ((s.core k).accAt h q) (mxTerm w x y (q / 16) (q % 16))) ∧
    (∀ x, s.opA f w = .data x →
      (∀ e, (s.core k).accAt h (x.toNat % 256) = ⟨false, e⟩ → accepted (.mxrd w) (fun _ u =>
        exec (.matrixExecuteComplete k) u = .next ((u.emit2 f w (bitsVal w.ty e.toNat) (bitsVal w.ty e.toNat)).onCore k
          (fun (c : Core) => { c with mxQueue := [] })))) ∧
      (x.toNat + accBytes w ≤ s.tileRoom f w → x.toNat % 8 = 0 →
        executes (.mxld w) (fun v => ∀ q, q < 256 → (v.core k).accAt h q =
          if (s.core k).tileMark (at_ x.toNat (n * q)) then ⟨true, 0⟩
          else ⟨false, BitVec.ofNat 64 (fromLE ((List.range n).map (fun i => (s.core k).tileByte (at_ x.toNat (n * q + i)))))⟩) ∧
        executes (.mxst w) (fun v => w.tile ≠ 32 → ∀ q e, q < 256 → (s.core k).accAt h q = ⟨false, e⟩ →
          readLE (v.core k).tileByte (at_ x.toNat (n * q)) n = e.toNat % 256 ^ n))))

/-- The island (R226, R230, R231, R335): it accepts its oldest control token while its queue has room; a token whose handle stands, or
needs none, goes to the queue, `mxrel` gives its handle back, an offset fault is committed; the oldest accepted token executes; a
binding that has waited for its bound commits 0x40. -/
def Obligations.MatrixIsland : Prop :=
  ∀ (s : State) (k : Nat),
    let c := s.core k
    (∀ m rest p, c.mxSent = m :: rest → ((s.ft m.f).aborted = false ∨ m.f.mute = true) → c.mxQueue.length < 16 →
      c.partOf m = some p →
      let h := (p.handles.look m.w.handle).getD .unbound
      (handleRule m h = .fault → exec (.matrixAccept k) s = .next (s.mxFail k m 0x41)) ∧
      (handleRule m h ≠ .fault → m.bad ≠ 0 → exec (.matrixAccept k) s = .next (s.mxFail k m m.bad)) ∧
      (m.bad = 0 → (m.kind.counted = false ∨ s.owns m.f = false ∨ s.countRoom k m.f.thread .matrix = true) →
        (handleRule m h = .none → exec (.matrixAccept k) s = .next (s.mxTake k m)) ∧
        (∀ g, handleRule m h = .take g → exec (.matrixAccept k) s = .next (s.mxTake k { m with acc := g })) ∧
        (∀ g, handleRule m h = .drop g → exec (.matrixAccept k) s = .next
          ((s.setCore k (c.onPart p (fun (q : Part) => { q with handles := q.handles.del m.w.handle }))).mxTake k
            { m with freeSlots := g.slots })) ∧
        (∀ d g, handleRule m h = .binds → c.bindHandle p (accWidth m.w) = some (d, g) → exec (.matrixAccept k) s = .next
          ((s.setCore k (d.bindPart p m.w.handle g)).mxTake k { m with acc := g })))) ∧
    (∀ m rest u, c.mxQueue = m :: rest → s.mxRun k m = some u → exec (.matrixExecuteComplete k) s = .next
      (let v := u.onCore k (fun (c : Core) => { c with mxQueue := c.mxQueue.drop 1 })
       if m.counted then v.countDown k m.f.thread .matrix else v)) ∧
    (∀ m rest p t0, c.mxSent = m :: rest → c.mxHold = some t0 → c.partOf m = some p → c.bindHandle p (accWidth m.w) = none →
      s.frozen k = false → t0 + 2 ^ clamp 10 30 (natBits c.ksched.toNat 60 56) ≤ s.time →
      exec (.accExhausted k) s = .next (s.mxFail k m 0x40))

/-! ### Copies, streams, records -/

/-- Copies (R235, R236, R240, R242, R244 to R246): a copy that passes its checks and finds room enters its core's engines, is counted
for its thread, and sends an order token on D1, and on D0 one or, for `cpymc`, the masks of the cores ignored and written; a count that
is no positive multiple of 8 commits 0x44 and an unbound port 0x43. That 0x43 is committed before the size, range and operand checks is the
model's choice (log 36). -/
def Obligations.CopyInstructions : Prop :=
  ∀ (s : State) (w : SlotWord), s.go s.fire w = .fire → s.opA s.fire w ≠ .pass → s.opB s.fire w ≠ .pass →
    let f := s.fire
    let c := s.core f.core
    let room := fun (cls : CntClass) => c.copyQueue < 64 ∧ s.countRoom f.core f.thread cls = true
    let queued := fun (u : State) (n : Nat) => u.onCore f.core (fun (d : Core) => d.onPort n (fun (q : Port) => { q with
      queue := q.queue ++ [c.nextTransfer], begun := true, state := if q.state = .closed then .opened else q.state }))
    (∀ n d g, s.opC f w ≠ .pass → copySize (s.opC f w) = .ok n → s.copyRange f n (s.opA f w) = .ok d →
      s.copyRange f n (s.opB f w) = .ok g → room (copyClass w) →
      exec (.cpy w) s = .next ((s.startTransfer { Transfer.blank f with
        op := .cpy, cls := copyClass w, dst := d, src := g, bytes := n, poison := w.poisonMode, chan := w.channel }).emit2 f w
        .order .order)) ∧
    (∀ m, s.opC f w = .data m → (m.toNat % 8 ≠ 0 ∨ m = 0) →
      exec (.cpy w) s = .next (s.commit f 0x44 .none none 0) ∧ exec (.cpymc w) s = .next (s.commit f 0x44 .none none 0)) ∧
    (∀ n g off, s.opC f w ≠ .pass → copySize (s.opC f w) = .ok n → s.opA f w = .data off →
      s.copyRange f n (s.opB f w) = .ok g → off.toNat + n ≤ s.spadBytes f.core f.thread → off.toNat % 8 = 0 →
      s.maskBad f (w.immBits 7 0) = false → room .copy →
      let ign := s.maskIgnored f (w.immBits 7 0)
      exec (.cpymc w) s = .next ((s.startTransfer { Transfer.blank f with
        op := .cpymc, dst := off.toNat, src := g, bytes := n, poison := w.poisonMode, chan := w.channel
        mask := w.immBits 7 0 - ign }).emit2 f w (.data (BitVec.ofNat 64 (ign + 256 * (w.immBits 7 0 - ign)))) .order)) ∧
    (∀ n ag g, c.portBound w.port false = true → s.streamSize f w.port (s.opB f w) = .ok (n, ag) →
      s.streamRange f n ag (s.opA f w) = .ok g → room (copyClass w) → c.portRoom w.port = true →
      exec (.cpyms w) s = .next ((queued (s.startTransfer { Transfer.blank f with
        op := .cpyms, cls := copyClass w, dst := g, src := g, bytes := n, ag := ag, port := w.port }) w.port).emit2 f w
        .order .order)) ∧
    (∀ n ag g, c.portBound w.port true = true → s.streamSize f w.port (s.opB f w) = .ok (n, ag) →
      s.streamRange f n ag (s.opA f w) = .ok g → room (copyClass w) → c.portRoom w.port = true →
      exec (.cpysm w) s = .next ((queued (s.startTransfer { Transfer.blank f with
        op := .cpysm, cls := copyClass w, dst := g, src := g, bytes := n, ag := ag, port := w.port, chan := w.channel })
        w.port).emit2 f w .order .order)) ∧
    (∀ n : Dword, s.opA f w = .data n → w.port ≠ w.immBits 15 12 → c.portBound w.port true = true →
      c.portBound (w.immBits 15 12) false = true → 0 < n.toNat → n.toNat < 2 ^ 32 → room .copy → c.portRoom w.port = true →
      c.portRoom (w.immBits 15 12) = true → ∃ u : State,
      exec (.cpyss w) s = .next (u.emit2 f w .order .order) ∧
      (u.core f.core).transfers = ((s.startTransfer { Transfer.blank f with
        op := .cpyss, bytes := n.toNat, port := w.port, port2 := w.immBits 15 12 }).core f.core).transfers) ∧
    (c.portBound w.port false = false → exec (.cpyms w) s = .next (s.portFault f w.port)) ∧
    (c.portBound w.port true = false → exec (.cpysm w) s = .next (s.portFault f w.port) ∧
      exec (.cpyss w) s = .next (s.portFault f w.port))

/-- Streams, channels, counters and generators (R247 to R253): `sget` takes the oldest bytes of an inbound port, and sends pass tokens
from one that is CLOSED and empty; `sput` appends its bytes to an outbound port; `sclose` closes an open port that holds nothing;
`chdone` and `ewait` send their order tokens once their condition holds and wait until then; `agcfg` sets one field of a generator. -/
def Obligations.StreamInstructions : Prop :=
  ∀ (s : State) (w : SlotWord), s.go s.fire w = .fire → s.opA s.fire w ≠ .pass →
    let f := s.fire
    let c := s.core f.core
    let q := c.port w.port
    let u := w.ty.bytes
    (c.portBound w.port false = true → c.streamTurn f = true → u ≤ q.buf.length → q.buf.all (fun b => !b.2) = true →
      exec (.sget w) s = .next ((s.onCore f.core (fun (c : Core) =>
        (c.onPort w.port (fun (q : Port) => { q with buf := q.buf.drop u })).portCheck w.port)).emit2 f w
        (bitsVal w.ty (fromLE ((q.buf.take u).map (fun b => b.1)))) .order)) ∧
    (c.portBound w.port false = true → c.streamTurn f = true → q.state = .closed → q.buf = [] → gives2 (.sget w) s w .pass .pass) ∧
    (c.portBound w.port false = true → c.streamTurn f = true → q.state = .opened → q.buf = [] → c.portFetched q = false →
      exec (.sget w) s = .next (s.park f .stream)) ∧
    (∀ v, c.portBound w.port true = true → c.streamTurn f = true → w.b = .absent → storeImage w.ty (s.opA f w) = some v →
      q.buf.length + s.portOwed f.core (BitVec.ofNat 4 w.port) + u ≤ 4096 →
      exec (.sput w) s = .next ((s.onCore f.core (fun (c : Core) =>
        c.onPort w.port (fun (q : Port) => { q with buf := q.buf ++ (bytesLE u v).map (fun b => (b, false)) }))).emit2 f w
        .order .order)) ∧
    (q.state = .closed → gives2 (.sclose w) s w .order .order) ∧
    (q.state = .opened → q.out = false ∨ q.buf = [] →
      exec (.sclose w) s = .next ((s.onCore f.core (fun (c : Core) => c.portClose w.port)).emit2 f w .order .order)) ∧
    (q.state = .unbound → exec (.sget w) s = .next (s.portFault f w.port) ∧ exec (.sclose w) s = .next (s.portFault f w.port)) ∧
    (c.chanComplete (w.immBits 21 16) = true → gives2 (.chdone w) s w .order .order) ∧
    (c.chanComplete (w.immBits 21 16) = false → exec (.chdone w) s = .next (s.park f .channel)) ∧
    (((s.ft f).cnt (waitClass w)).toNat ≤ w.immBits 7 0 → gives2 (.ewait w) s w .order .order) ∧
    (w.immBits 7 0 < ((s.ft f).cnt (waitClass w)).toNat → exec (.ewait w) s = .next (s.park f .engine)) ∧
    (∀ x a, s.opA f w = .data x → c.ags.look (w.immBits 3 0) = some a → w.mod.toNat = 0 → 1 ≤ x.toNat → x.toNat ≤ 65536 →
      exec (.agcfg w) s = .next ((s.onCore f.core (fun (c : Core) => { c with
        ags := c.ags.put (w.immBits 3 0) { a with c0 := x.toNat } })).emit2 f w .order .order)) ∧
    (∀ x, s.opA f w = .data x → w.mod.toNat = 0 → x = 0 → exec (.agcfg w) s = .next (s.commit f 0x44 .none none 0))

/-- Records (R254 to R259, R346, R347): `recalloc` gives a handle of a free record of its node, or waits for one behind older waiters of
the node, or, with `.try`, gives a null handle with reason 1 or 2; `recw` writes an owned record and `recrd` reads the thread's input
record; `recemit` appends an owned record to its node's queue, once the accesses of earlier loads have performed (R186); `recinfo` reports what is available. -/
def Obligations.RecordInstructions : Prop :=
  ∀ (s : State) (w : SlotWord) (g : Graph) (n : GNode) (i : Nat), s.go s.fire w = .fire →
    let f := s.fire
    let th := s.ft f
    s.graph? th.launch = some g → g.nodes[i]? = some n →
    (∀ x : Dword, s.opA f w = .data x → x.toNat = i →
      (∀ u g', th.recDepth.toNat + 1 ≤ n.maxDepth → w.tryForm = true ∨ g.waitsBefore i f = false → g.take i = some (u, g') →
        exec (.recalloc w) s = .next (((s.onGraph th.launch (fun _ => g'.unwait f)).onThread f.core f.thread (fun t => { t with
          owned := t.owned ++ [u] })).emit2 f w (.data (recordHandle i (th.recDepth.toNat + 1) u)) .order)) ∧
      (w.tryForm = true → n.maxDepth < th.recDepth.toNat + 1 → gives2 (.recalloc w) s w (.data 2) .order) ∧
      (w.tryForm = true → th.recDepth.toNat + 1 ≤ n.maxDepth → g.take i = none → gives2 (.recalloc w) s w (.data 1) .order) ∧
      (w.tryForm = false → n.maxDepth < th.recDepth.toNat + 1 →
        exec (.recalloc w) s = .next (s.commit f 0x51 .none none i)) ∧
      (w.tryForm = false → th.recDepth.toNat + 1 ≤ n.maxDepth → g.take i = none → th.owned ≠ [] →
        exec (.recalloc w) s = .next (s.commit f 0x50 .none none i)) ∧
      (w.tryForm = false → th.recDepth.toNat + 1 ≤ n.maxDepth → g.take i = none → th.owned = [] →
        ((s.wg? th.launch th.wgid).map Workgroup.reserve).getD false = false →
        exec (.recalloc w) s = .next (s.recWait f g i)) ∧
      gives2 (.recinfo w) s w
        (.data (BitVec.ofNat 64 (g.available n % 2 ^ 32 + n.maxDepth * 2 ^ 32 + n.record / 16 * 2 ^ 40))) .order) ∧
    (∀ (h : Dword) (off u b : Nat) (s' : State) (q : Place), f.kept = none →
      s.opA f w = .data h → s.ownedRecord f h.toNat = some (n, i, u) →
      s.opB f w ≠ .pass → s.opC f w ≠ .pass → recordOffset n.record w.ty.bytes (s.opB f w) = .ok off →
      storeImage w.ty (s.opC f w) = some b →
      let va := g.recordVa u off
      s.locateOf f (.va va) false true = (s', .ok q) →
      exec (.recw w) s = .next
        (let v := s'.writeAt .write f q (bytesLE w.ty.bytes b)
         (v.onGraph (v.groupOf f).1 (fun g => { g with
           blank := g.blank.filter (fun x => !(decide (va ≤ g.poolBase + x) && decide (g.poolBase + x < va + w.ty.bytes))) })).emit2
           f w .order .order).settle) ∧
    (∀ (off u : Nat) (s' : State) (q : Place) (g' : Graph), f.kept = none → s.opA f w ≠ .pass →
      (s.wg? th.launch th.wgid).bind Workgroup.node = some i →
      th.recUnit = some u → recordOffset n.record w.ty.bytes (s.opA f w) = .ok off →
      s.locateOf f (.va (g.recordVa u off)) true false = (s', .ok q) →
      let r := s'.readAt .read f q w.ty.bytes
      r.1.graph? (r.1.groupOf f).1 = some g' →
      exec (.recrd w) s = .next (r.1.emit2 f w (if r.2.2 then .err .poison
        else bitsVal w.ty (r.1.recordImage g' (g.recordVa u off) w.ty.bytes r.2.1)) .order).settle) ∧
    (∀ (h : Kept) (b : Nat), f.kept = some h → s.opA f w ≠ .pass → s.opB f w ≠ .pass → s.opC f w ≠ .pass →
      storeImage w.ty (s.opC f w) = some b →
      exec (.recw w) s = .next (s.recStore f w h.va b).settle ∧ exec (.recrd w) s = .next (s.recLoad f w h.va).settle) ∧
    (∀ (h : Dword) (u : Nat), s.opA f w = .data h → s.ownedRecord f h.toNat = some (n, i, u) → s.owns f = true →
      (s.earlierPending f = true → exec (.recemit w) s = .next (s.parkRelease f 0 (.va 0)).settle) ∧
      (s.earlierPending f = false → exec (.recemit w) s = .next (((((s.onThread f.core f.thread (fun t => { t with
        owned := removeNat t.owned u })).enqueue th.launch i u (th.recDepth.toNat + 1)).emit2 f w .order .order)).settle))) ∧
    (∀ h : Dword, s.opA f w = .data h → s.ownedRecord f h.toNat = none → natBit h.toNat 63 = false → s.owns f = true →
      exec (.recemit w) s = .next (s.commit f 0x52 .none none 0xFF).settle)

/-! ### System instructions -/

/-- System instructions (R262 to R265): `nop` and `hint` forward A's token; `rdclk` reads the clock, `rdctr` a counter of the core and
`sysrd` a system register; `syswr` raises a USER event with A's payload under the launch's id, once the accesses of earlier loads have performed; `fltrd` gives 0 without a held record,
and `fltrd.clr` clears FVALID and FCAUSE beside. -/
def Obligations.SystemInstructions : Prop :=
  ∀ (s : State) (w : SlotWord), triggers s w →
    let f := s.fire
    let th := s.ft f
    gives (.nop w) s w (s.opA f w) ∧ gives (.hint w) s w (s.opA f w) ∧
    gives (.rdclk w) s w (.data (BitVec.ofNat 64 s.time)) ∧
    (w.immBits 7 0 ≠ 5 → gives (.rdctr w) s w (.data (((s.core f.core).kstat[w.immBits 7 0]?).getD 0))) ∧
    (w.immBits 7 0 = 5 → gives (.rdctr w) s w (.data (BitVec.ofNat 64 (s.time - s.warmAt - (s.core f.core).admitCycles)))) ∧
    (w.immBits 11 0 = 0 → gives (.sysrd w) s w (.data (BitVec.ofNat 64 th.launch))) ∧
    (w.immBits 11 0 = 2 → gives (.sysrd w) s w (.data (BitVec.ofNat 64 (s.core f.core).powerBudget))) ∧
    (w.immBits 11 0 = 3 → gives (.sysrd w) s w (.data (BitVec.ofNat 64 (natBits (s.core f.core).ksched.toNat 15 0)))) ∧
    (∀ x, s.opA f w = .data x → s.owns f = true →
      (s.earlierPending f = true → exec (.syswr w) s = .next (s.parkRelease f 0 (.va 0))) ∧
      (s.earlierPending f = false → s.releaseBlocked f .rel .sys = none → exec (.syswr w) s = .next
        (((s.releaseActs f .rel .sys).raiseEvent 8 th.launch x th.launch).emit2 f w .order .order))) ∧
    (s.opA f w = .err .poison → exec (.syswr w) s = .next (s.commit f 0x20 .none none 0)) ∧
    (th.fvalid = false → f.kept = none → exec (.fltrd w) s = .next (s.emit2 f w (.data 0) (.data 0)).settle ∧
      (f.mute = false → exec (.fltrdClr w) s = .next ((s.emit2 f w (.data 0) (.data 0)).onThread f.core f.thread (fun t => { t with
        fvalid := false, fcause := 0 })).settle)) ∧
    (∀ (s' : State) (q : Place), th.fvalid = true → f.kept = none →
      s.locateOf f (.va (s.privBase f.core f.thread + (s.kernelAt f.core f.thread).privRound + 8 * w.immBits 2 0))
        true false = (s', .ok q) →
      exec (.fltrd w) s = .next
        (let r := s'.readAt .read f q 8
         let v := if r.2.2 then Val.err .poison else .data (BitVec.ofNat 64 r.2.1)
         r.1.emit2 f w v v).settle ∧
      (f.mute = false → exec (.fltrdClr w) s = .next
        (let r := s'.readAt .read f q 8
         let v := if r.2.2 then Val.err .poison else .data (BitVec.ofNat 64 r.2.1)
         (r.1.emit2 f w v v).onThread f.core f.thread (fun t => { t with fvalid := false, fcause := 0 })).settle))

/-! ### The hardware's own steps -/

/-- Tokens, issue and the life of threads (R23, R27, R133, R138, R306, R307, R316, R327, R330, R365, R367): the first token of an edge
arrives, and waits when its element has no place for it; the oldest ready instances of the chosen slot issue, those without credit park
and come back when there is some; a snapshot of the highest row that has had none in its round enters the load; a header issues
iterations, lowest slot first; a workgroup is admitted at the lowest cluster that takes it; a drained thread goes to its handler, and
one of an aborted workgroup is freed; a starved loop commits 0x32. -/
def Obligations.SchedulerSteps : Prop :=
  ∀ (s : State) (k : Nat),
    let c := s.core k
    (∀ i x, c.flights[i]? = some x → c.firstOfEdge i x = true →
      let u := s.setCore k { c with flights := c.flights.eraseIdx i }
      (∀ t, u.tokenArrives k x = some t → exec (.tokenArrival k i) s = .next t) ∧
      (u.tokenArrives k x = none → exec (.tokenArrival k i) s = .next s)) ∧
    (∀ e i, s.issueEnabled k = true → s.pickSlot k e = some i →
      let go := (bySince (s.readyAt k (16 * e + i))).take (c.load.lanes (16 * e + i))
      (let t := go.foldl State.issueOne s
       let n := t.issued.length - s.issued.length
       exec (.elementIssue k e) s = .next (if n = 0 then t else t.onCore k (fun (c : Core) => (c.bumpStat 0 1).bumpStat 1 n))) ∧
      (∀ f, go = [f] → f.core = k → s.creditFor f = true → exec (.elementIssue k e) s = .next
        (let d := (({ c with rq := c.rq.erase f } : Core).bumpStat 0 1).bumpStat 1 1
         { s.setCore k d with issued := s.issued ++ [s.stamp (c.withScales f)] })) ∧
      (∀ f, go = [f] → f.core = k → s.creditFor f = false → (c.placed f).place ≠ none → exec (.elementIssue k e) s = .next
        (s.setCore k { c with rq := c.rq.erase f, parked := c.parked ++ [⟨c.placed f, .credit, s.time⟩] }))) ∧
    (∀ i p, c.parked[i]? = some p → s.canReturn p = true →
      let out := { c with parked := c.parked.eraseIdx i }
      (p.why = .credit → exec (.creditReturn k i) s = .next (s.setCore k { out with rq := c.rq ++ [p.f] })) ∧
      (∀ w, p.why = .closed → c.load.fields p.f.node = some w → s.ended p.f = false →
        exec (.creditReturn k i) s = .next ((s.setCore k out).emit2 p.f w .order .order)) ∧
      (p.why ≠ .credit → p.why ≠ .closed → exec (.creditReturn k i) s = .next
        { s.setCore k out with ready := s.ready ++ [p.f] })) ∧
    (∀ r, c.admitting = true → s.frozen k = false → s.placesUsed k < c.load.window →
      let all := c.inside (s.waitRows k)
      let left := all.filter (fun (r : WaitRow) => !c.round.contains r.row)
      let rows := if left.isEmpty then all else left
      c.top rows = some r →
      exec (.gangSnapshot k) s = .next ((s.setCore k
        { c.countAged rows with round := r.row :: (if left.isEmpty then [] else c.round) }).snapshot k r)) ∧
    (∀ id l cl cores, s.launch? id = some l → s.dispatchable l = true → cl < 40 → s.placeIn l cl = some cores →
      (∀ j < cl, s.placeIn l j = none) →
      (∀ x ∈ s.launches, s.goesFirst x l = true → s.dispatchable x = true → s.placeIn x cl = none) →
      exec (.admitWorkgroup id cl) s = .next (s.admitNext l cores)) ∧
    (∀ t, (s.thread k t).aborted = true → (s.thread k t).state ≠ .free → (s.thread k t).quiet = true →
      exec (.faultedDrained k t) s = .next (s.freeThread k t)) ∧
    (∀ t, (s.thread k t).aborted = false → (s.thread k t).state = .faulted → s.drained k t = true → s.recordPending k t = false →
      exec (.faultedDrained k t) s = .next ((s.divert k t).purge k t)) ∧
    (∀ e i, s.frozen k = false → exec (.loopIssue k e i) s = .next (s.issueLoop k (16 * e + i) 8)) ∧
    (∀ e i x w, s.frozen k = false → s.nextIssue k (16 * e + i) = some x → c.load.fields (16 * e + i) = some w →
      x.ctx = none → x.carried = none → exec (.loopIssue k e i) s = .next
      (((s.setCore k (c.setLoop { x with t := x.t + 1 })).send (x.firing k (x.t % 64)) 0 w.d0 false
        (.data (BitVec.ofNat 64 ((x.items[x.t]?).getD x.t))) (loopTag x.level x.thread x.out (x.t % 64))).issueLoop k (16 * e + i) 7)) ∧
    (∀ i x, c.loops[i]? = some x → s.starved k x = true →
      exec (.tagStarve k i) s = .next (s.commit (s.stamp (x.firing k 0)) 0x32 .none none 0))

/-- Configuration planes (R100, R309, R310, R314, R315): a wanted load is decoded into the shadow plane once its bytes are in the
configuration cache; a switch begins to the chosen row and ends by exchanging the planes once no thread is in the load, nothing pins it
and the shadow plane holds what is wanted; a kernel is validated in its turn. After a flip every stream port that a slot of the load names
as a destination, and that check 11 has passed, is listed as a bound outbound port (R82, R243). -/
def Obligations.ConfigurationPlanes : Prop :=
  ∀ (s : State) (k : Nat),
    let c := s.core k
    (∀ x, s.wanted k = some x → c.decoding = none → s.validatingNow k = false → c.shadow.load ≠ some x →
      c.switchTo ≠ none ∨ s.validationWaits k = false →
      exec (.decodeStart k) s = .next (s.setCore k { (c.setShadow Plane.empty) with decoding := some x })) ∧
    (∀ x, c.decoding = some x → c.cache.contains x = true → exec (.decodeReady k) s = .next
      (s.setCore k { (c.setShadow ⟨some x, true, [], ((s.kernel x.1).loads[x.2]?).getD Load.empty⟩) with
        decoding := none, cache := c.cache.erase x ++ [x] })) ∧
    (∀ r, c.switchTo = none → s.switchChoice k = some r → s.validationDue k = false → exec (.switchBegin k) s = .next
      (s.setCore k { c.countAged (c.outside (s.waitRows k)) with switchTo := some (r.kernel, r.load) })) ∧
    (∀ x, c.switchTo = some x → s.occupied k = false → c.pinned = false → c.shadow.load = some x → c.shadow.ready = true →
      c.decoding = none → s.validatingNow k = false → exec (.flip k) s = .next (s.setCore k (c.flip s.time))) ∧
    (∀ x s' places, c.decoding = some x → c.cache.contains x = false → s.configHeld k = false →
      let e := ((s.kernel x.1).extents[x.2]?).getD (0, 0)
      let va := (s.kernel x.1).va + e.1
      let base := va / 4096 * 4096
      (s.accessAs .configFetch 0).imagePages k (s.kernel x.1).ctx ((va - base + e.2 + 4095) / 4096) base = (s', .pages places) →
      exec (.configCacheFill k) s = .next
        (let t := s'.readImage k places (va - base) e.2
         t.setCore k (t.cacheLoad (t.core k) x)).settle) ∧
    (∀ id l va, s.launch? id = some l → s.validationAt l k = some va → c.decoding = none → c.switchTo = none ∨ c.validating = some id →
      s.configHeld k = false → (∀ x ∈ s.launches.takeWhile (fun (x : Launch) => x.id != id), s.validationAt x k = none) →
      exec (.validateKernel k id) s = .next (s.validateAt k l va).settle) ∧
    (∀ n o w d p, let l := (c.flip s.time).load
      l.opc n = some o → l.fields n = some w → l.islandOk n o w = true → (d, Dst.island (.sp p)) ∈ dstsOf o w →
      (∀ out ag g, Bind.port p.toNat out ag g ∈ l.binds → out = true) → sendsTo (c.flip s.time) p.toNat)

/-- Engines, watchdogs and the ordering point (R236, R318, R336, R382, R431, R432): the transfer whose turn it is moves its units of one
128-byte line; one that is done leaves and its thread's counter falls; a wait beyond its bound aborts its workgroup with 0x7F, DETAIL 1, and a
pinned idle core closes its ports with DETAIL 2: that its record then names no launch and no thread where no transfer stands is the
model's choice (log 34). Of the ticket requests the oldest is answered: its fence performs, or commits 0x71 where the ordering device cannot
be reached; that a device without an answer stays silent until a port comes up is the model's choice (log 29). -/
def Obligations.EnginesAndWatchdogs : Prop :=
  ∀ (s : State) (k : Nat),
    let c := s.core k
    (∀ id x, c.copyTurn = some id → c.transfer? id = some x →
      exec (.copyBurst k id) s = .next ((s.setCore k { c with lastTurn := id }).burst k id x.lineAt 128).settle) ∧
    (∀ id x, c.transfer? id = some x → c.transferDone x = true → x.queue = none → x.counted = true →
      exec (.engineOperationComplete k id) s = .next
        ((s.onCore k (fun (c : Core) => c.dropTransfer x)).countDown k x.f.thread x.cls)) ∧
    (∀ i p, c.parked[i]? = some p → (p.why = .engine ∨ p.why = .channel) → s.canReturn p = false → s.frozen k = false →
      p.since + 2 ^ clamp 10 30 (natBits c.kwdog.toNat 4 0) ≤ s.time →
      exec (.waitWatchdog k i) s = .next
        (let u := s.setCore k { c with parked := c.parked.eraseIdx i }
         u.abortFault k p.f.thread (u.firingRec p.f 0x7F 2 .none 1))) ∧
    (∀ t0 n, c.idleSince = some t0 → s.pinIdle k = true → t0 + 2 ^ clamp 10 30 (natBits c.ksched.toNat 44 40) ≤ s.time →
      c.transfers = [] → lowest c.busyPorts = some n →
      exec (.pinWatchdog k) s = .next
        (let u := (s.dropHeld (fun _ => false)).onCore k Core.closeAll
         u.fqPost { u.blankRec 0x7F 2 .none 2 with core := some k, port := some (0x40 + n), launch := 0 } none)) ∧
    (∀ i p w, c.parked[i]? = some p → p.why = .ticket → s.ticketTurn k i p.since = true → s.ended p.f = false →
      s.fieldsOf p.f = some w →
      let u := s.setCore k { c with parked := c.parked.eraseIdx i }
      (s.ordersFences = true →
        exec (.scTicket k i) s = .next (({ u with tickets := s.tickets + 1 } : State).fenceActs p.f w)) ∧
      (s.ordersFences = false → s.ticketSilent = false → exec (.scTicket k i) s = .next (u.fenceActs p.f w)) ∧
      (s.ordersFences = false → s.ticketSilent = true →
        exec (.scTicket k i) s = .next (u.commit p.f 0x71 .none none (natBits s.mwOrd.toNat 11 0)))) ∧
    (∀ dev, exec (.remoteUnreachable dev) s = .next { s with silent := insertNat s.silent dev })

/-- The memory hierarchy (R294 to R297, R300, R304, R376): requests of a die to the home directory, stores at a slice, fills of CACHE tiles,
evictions, the host's halves and table walks leave every byte of device memory as a coherent read finds it, but for the bytes that a
store writes. What each leaves: the die holds a word that it asked for, and alone after GetM; words put or invalidated are I, dirty
ones in memory; a filled tile holds the word; the host holds the half that it asked for, and no die does; a half snooped is given back;
a bad burst that the scrubber reads is poisoned and reported; a walk that delivers a page leaves it in the micro-TLB. -/
def Obligations.HierarchySteps : Prop :=
  (∀ (s : State), quietMemory s →
    (∀ i : Instr, (∃ die line mask, i = .gets die line mask ∨ i = .getm die line mask ∨ i = .putm die line mask ∨
        i = .puts die line mask ∨ i = .invalidation die line mask) ∨
      (∃ core line mask, i = .cacheFill core line mask ∧ ∀ m ∈ (s.core core).misses, m.key ∉ lineWords line mask) ∨
      (∃ die line half, i = .backInvalidationSnoop die line half) ∨ (∃ line, i = .patrolScrub line) ∨
      (∃ core ctx va kind, i = .tableWalk core ctx va kind) ∨
      (∃ line half, half < 2 ∧ i = .hostHalfRequest line half) →
      ∃ t : State, exec i s = .next t ∧ (∀ a, t.viewByte a = s.viewByte a) ∧ t.hostMem = s.hostMem ∧
        ∀ k j, t.thread k j = s.thread k j) ∧
    (∀ core a width (v : BitVec 64), ∃ t : State, exec (.l2Store core a width v) s = .next t ∧
      (∀ i, i < width → t.viewByte (a + i) = BitVec.ofNat 8 (v.toNat / 256 ^ i)) ∧
      (∀ b, (b < a ∨ a + width ≤ b) → t.viewByte b = s.viewByte b)) ∧
    (∀ die n, ∃ t : State, exec (.gets die (n / 16) (2 ^ (n % 16))) s = .next t ∧ t.dieHolds die n = true) ∧
    (∀ die n, ∃ t : State, exec (.getm die (n / 16) (2 ^ (n % 16))) s = .next t ∧ t.moesi die n = some .m ∧
      ∀ d, d ≠ die → t.dieHolds d n = false) ∧
    (∀ die line mask, ∃ t : State, exec (.putm die line mask) s = .next t ∧
      ∀ n ∈ lineWords line mask, s.moesi die n = some .m ∨ s.moesi die n = some .o →
        t.moesi die n = none ∧ cellDword t.mem n = s.viewDword n) ∧
    (∀ die line mask, ∃ t : State, exec (.puts die line mask) s = .next t ∧
      ∀ n ∈ lineWords line mask, s.moesi die n = some .e ∨ s.moesi die n = some .s → t.moesi die n = none) ∧
    (∀ die line mask, ∃ t : State, exec (.invalidation die line mask) s = .next t ∧
      ∀ n ∈ lineWords line mask, t.moesi die n = none ∧
        (s.moesi die n = some .m ∨ s.moesi die n = some .o → cellDword t.mem n = s.viewDword n)) ∧
    (∀ core n, (s.core core).load.tilesOf .cache ≠ [] →
      (s.core core).l1.any (fun (x : L1Word) => x.key == n) = false → 8 * n < Config.devBytes →
      (∀ m ∈ (s.core core).misses, m.key = n → m.stale = false) →
      ∃ t : State, exec (.cacheFill core (n / 16) (2 ^ (n % 16))) s = .next t ∧
        ∃ x ∈ (t.core core).l1, x.key = n ∧ x.data = s.viewDword n) ∧
    (∀ line half, natBit s.hostcap.toNat 11 = true → line < 2 ^ 60 → half < 2 →
      ∃ t : State, exec (.hostHalfRequest line half) s = .next t ∧ (2 * line + half) ∈ t.hostHalves ∧
        ∀ d n, d < 8 → n / 8 = 2 * line + half → t.dieHolds d n = false) ∧
    (∀ line half, s.hostCached = true → 2 ^ 60 ≤ line → exec (.hostHalfRequest line half) s = .next (s.hostGive (2 * (line - 2 ^ 60) + half))) ∧
    (∀ die line half, ∃ t : State, exec (.backInvalidationSnoop die line half) s = .next t ∧ (2 * line + half) ∉ t.hostHalves) ∧
    (∀ core ctx va kind e, (s.translate core ctx va (kindAccess kind).1 (kindAccess kind).2).2 = .page e →
      ∃ t : State, exec (.tableWalk core ctx va kind) s = .next t ∧ (t.core core).utlb.head? = some e)) ∧
  (∀ (s : State) (n : Nat),
    (∀ m ∈ lineWords (n / 16) 0xFFFF, ((s.l2.look m).bind L2Word.dirty) = none ∧ s.fenced m = false) → s.badBursts.contains (n / 4) = true →
    ∃ u : State, exec (.patrolScrub (n / 16)) s = .next u.settle ∧ n ∈ u.memPoison ∧ u.badBursts.contains (n / 4) = false ∧
      (32 * (n / 4), (AccessKind.scrub, 0)) ∈ u.detected)

/-- The fault queue, translation answers and the freeing of pages (R369, R370, R372, R377 to R380, R392): FQ_RD takes what is written and
FQ_RESUME releases the holds below it, whose accesses retry in the order in which they joined, after what their dies hold of remote-homed
memory is dropped (R464), and itself comes after the host's accesses that wait; a deferred record is written when there
is room; reads clear what R392 says, and only it; XLT_INV takes a request when none runs and drops what it names when done; an
answer lets what waited go on, but not what waits with a deferred record; DQ_PUSH appends a page under the present epoch; QDONE stays below
the epoch of every load that waits for a fill. That it reaches EPOCH − 1 where no load does is the model's choice, whose other accesses have
all performed by then (log 7), and so are when an invalidate request is answered and the epoch that its answer bears (log 50). -/
def Obligations.FaultQueueAndPages : Prop :=
  ∀ (s : State),
    (∀ q, exec (.fqRdWrite q) s = .next { s with fqRd := q }) ∧
    (∀ q, s.barWaits = false → exec (.fqResume q) s = .next
      ((((s.holds.filter (fun (h : Hold) => h.below q)).map Hold.die).dedup.foldl State.remoteInvalidate
        (s.release (fun h => h.below q))).settle)) ∧
    (∀ q, s.barWaits = true → exec (.fqResume q) s = .next { s with waiting := s.waiting ++ [.fqResume q] }) ∧
    (∀ q, ∃ more, (s.release (fun h => h.below q)).retries =
      s.retries ++ (s.holds.filter (fun (h : Hold) => h.below q)).flatMap Hold.items ++ more) ∧
    (∀ d rest, s.deferred = d :: rest → s.fqFull = false →
      exec .deferredRecordWrite s = .next (({ s with deferred := rest } : State).fqWrite d.record d.hold)) ∧
    exec (.fqStatRead .dword) s = .next { s with hostData := bytesLE 8 (s.fqStat % 2 ^ 64), hostPoison := false, fqDrop := 0 } ∧
    exec (.fqStatRead .low) s = .next { s with hostData := bytesLE 8 (s.fqStat % 2 ^ 32), hostPoison := false } ∧
    (∀ v : Dword, s.xltInv.getLsbD 63 = false → ∃ x : Dword, exec (.xltInv v) s = .next { s with xltInv := x } ∧
      x.getLsbD 63 = true ∧ ∀ i, i < 63 → x.getLsbD i = (v.getLsbD i && (decide (49 ≤ i) || decide (i ≤ 43)))) ∧
    (s.xltInv.getLsbD 63 = true → exec .xltInvDone s = .next
      { s.dropEntries s.invalidates with xltInv := s.xltInv &&& 0x7FFFFFFFFFFFFFFF }) ∧
    (∀ v : Dword, s.dq.length < 1024 → exec (.dqPush v) s = .next { s with
      dq := s.dq ++ [⟨v &&& 0x000FFFFFFFFFFE00, s.epoch.toNat, false⟩], epoch := s.epoch + 1 }) ∧
    (∀ v : Dword, 1024 ≤ s.dq.length → exec (.dqPush v) s = .next { s with dqOvf := true }) ∧
    (∃ t : State, exec .pageRelease s = .next t ∧ t.epoch = s.epoch ∧ t.dq.length = s.dq.length ∧
      ((∀ kc ∈ s.cores, kc.2.misses = []) → t.qdone = s.epoch - 1) ∧
      ((∀ kc ∈ s.cores, ∀ m ∈ kc.2.misses, (s.epoch - m.epoch).toNat < 2 ^ 31) →
        ∀ kc ∈ s.cores, ∀ m ∈ kc.2.misses, (s.epoch - m.epoch).toNat < (s.epoch - t.qdone).toNat)) ∧
    (∀ i d, s.dq.findIdx? (fun (d : DqPage) => d.released) = some i → s.dq[i]? = some d → d.fields.getLsbD 9 = false →
      exec (.dqPop .dword) s = .next
        { s with hostData := bytesLE 8 (s.dqPop % 2 ^ 64), hostPoison := false, dq := s.dq.eraseIdx i }) ∧
    (∀ v : Dword, v.getLsbD 0 = true → exec (.dqStatClear v) s = .next { s with dqOvf := false }) ∧
    (∀ pasid va all, exec (.atsInvalidateRequest pasid va all) s = .next
      (let r := s.dropEntries (fun e => s.pasidOf e.ctx == some pasid && (all || va / e.size == e.va / e.size))
       { r with atsInv := r.atsInv ++ [r.epoch.toNat] })) ∧
    (∀ die ctx va r, s.ats.find? (fun (r : AtsReq) => r.die == die && r.ctx == ctx && r.page == va / 4096) = some r →
      let u := { s with ats := s.ats.filter (fun (r : AtsReq) => !(r.die == die && r.ctx == ctx && r.page == va / 4096)) }
      exec (.atsResponse die ctx va .noTranslation) s = .next (r.items.foldl State.wake { u with
        priPages := s.priPages ++ [(die, ctx, va / 4096)] }).settle ∧
      ∀ bus log rd wr, exec (.atsResponse die ctx va (.page bus log rd wr)) s = .next (r.items.foldl State.wake
        (u.fillDie die ⟨ctx, va / 2 ^ log * 2 ^ log, 2 ^ log, bus / 2 ^ log * 2 ^ log, 1, 0, rd, wr⟩)).settle) ∧
    (∀ ctx va, (∃ die, (die, ctx, va / 4096) ∈ s.priPages) → exec (.priResponse ctx va .success) s = .next
      (({ s with priPages := s.priPages.filter (fun x => !(x.2.1 == ctx && x.2.2 == va / 4096)) } : State).release
        (fun (h : Hold) => (h.ctx == ctx && h.page == va / 4096) && h.seq.isSome)).settle)

/-- Pre-emption and stage graphs (R343, R347, R350, R353, R355, R359, R383, R384, R388, R406): a victim is asked to stop at its depth; its
pre-emption ends with `%wgid` written at a workgroup boundary, with the save areas at a load boundary, and for a graph with its
statistics and its reserve admissions given back; a stopped launch goes on, from what its save areas hold, when it may run; a queue whose
quantum has run goes to the end of its turn order; a graph is taken in with its record; a launcher ticks once every 16 cycles and admits
the first node that is eligible and fits, and none where a pre-emption falls in the cycle (R360); an allocation beyond its bound commits 0x50; a graph without a live record completes. -/
def Obligations.PreemptionAndGraphs : Prop :=
  ∀ (s : State),
    (∀ id l, s.launch? id = some l → l.graph = false → s.completing l = false → l.stopped = false →
      s.victims.any (fun (v : Launch) => v.id == id) = true →
      (l.preempt = 0 → s.depthOf l = 2 → exec (.loadPreempt id) s = .next (s.askStop l 2)) ∧
      (l.preempt = 0 → s.depthOf l = 1 → exec (.workgroupPreempt id) s = .next (s.askStop l 1))) ∧
    (∀ id l u, s.launch? id = some l → l.graph = false → s.completing l = false → l.preempt = 2 →
      (s.coresOf id).all (fun k => s.drainedFor k id) = true →
      (s.areasOpen l = (u, true) → exec (.loadPreempt id) s = .next ((u.saveAll l).preempted l 2).settle) ∧
      (s.areasOpen l = (u, false) → exec (.loadPreempt id) s = .next u.settle)) ∧
    (∀ id l u, s.launch? id = some l → l.graph = false → s.completing l = false → l.preempt = 1 → l.running = [] →
      s.writeNextWg l = (u, true) → exec (.workgroupPreempt id) s = .next (u.preempted l 1).settle) ∧
    (∀ q, s.victims.any (fun (l : Launch) => l.queue == q && s.depthOf l == 0) = true →
      exec (.launchPreempt q) s = .next (s.askQueue q)) ∧
    (∀ id l x areas t, s.launch? id = some l → l.stopped = true → l.preempt = 0 → s.mayRun l = true →
      let u := s.onQueue l.queue (fun (x : Queue) => { x with halted := false })
      u.mayRun l = true → u.keyHeld (doneKey l.queue l.index) = false →
      let v := u.dropFenced id
      v.readAreas l (((v.saved.filter (fun (x : Saved) => x.launch == id)).zipIdx).filter (fun x => !x.1.partsLeft.isEmpty)) =
        (x, some areas) →
      ((x.restoreAll areas).bind (fun t => t.goOn l)) = some t →
      exec (.restore id) s = .next ({ t with saved := t.saved.filter (fun (x : Saved) => x.launch != id) } : State).settle) ∧
    (∀ q t0, (s.queue q).turnSince = some t0 → natBits (s.queue q).quantum.toNat 31 0 ≠ 0 →
      t0 + 1700 * natBits (s.queue q).quantum.toNat 31 0 ≤ s.time →
      (∃ r ∈ s.rotation, r ≠ q ∧ (s.queue r).prio = (s.queue q).prio) → ∃ u : State,
      exec (.quantumExpiry q) s = .next (u.askQueue q) ∧
        u = (let v := s.onQueue q (fun (x : Queue) => { x with turnSince := none })
             ({ v with rotation := v.rotation.filter (fun r => r != q) ++ [q] } : State).rotate)) ∧
    (∀ q bs at_ u v r, s.mailPost q 2 = none → s.startable q 2 = some bs →
      s.launchRoom (launchId q (s.queue q).nextPkt) = true →
      s.hubPlace (s.queue q).ctx (bytesAt bs 16 8) true false (.packet q) = (u, .ok at_) → u.hubRead at_ 128 = (v, r) →
      ∃ t : State, exec (.packetGraph q) s = .next t ∧
        (∃ l ∈ t.launches, l.id = launchId q (s.queue q).nextPkt ∧ l.graph = true) ∧
        ∃ g ∈ t.graphs, g.launch = launchId q (s.queue q).nextPkt) ∧
    (∀ die, die < 8 → (s.lastTick.look die).getD 0 < s.time / 16 * 16 →
      let tick := s.time / 16 * 16
      let u : State := { s with lastTick := s.lastTick.put die tick }
      let order := if s.stopsNow then [] else s.launchOrder die
      exec (.launcherTick die) s = .next (u.launchFirst die tick order) ∧
      ∀ x rest l g n row size k own, order = x :: rest → u.launch? (x / 64) = some l → u.graph? (x / 64) = some g →
        g.nodes[x % 64]? = some n → n.eligible tick g.draining = some (row, size) →
        u.groupCore l.id (x % 64) n size = some (k, own) → exec (.launcherTick die) s = .next
          (let v := u.admitGroup l (x % 64) n row size k own
           { v with nextLauncher := u.nextLauncher.put die x })) ∧
    (∀ k i p g, (s.core k).parked[i]? = some p → s.graph? (s.ft p.f).launch = some g → p.why = .record →
      p.since + 2 ^ g.poolWait ≤ s.time → s.recordReady p.f = false → exec (.recordPoolExhausted k i) s = .next
        (((s.setCore k { s.core k with parked := (s.core k).parked.eraseIdx i }).onGraph g.launch (fun g => g.unwait p.f)).recFault
          p.f 0x50 .none ((g.waiters.find? (fun x => x.2.2.same p.f)).map (fun x => x.1)))) ∧
    (∀ id l g, s.launch? id = some l → s.graph? id = some g → g.over = true → l.status = none → s.packetOver l = true →
      s.copies.any (fun y => y.1.launch == id) = false → exec (.graphComplete id) s = .next
      (let st := if l.aborted = 0 then 0 else 2
       (((s.writeStats l g).freeReserves id).onLaunch id (fun (l : Launch) => { l with status := some st })).finishLaunch
         { l with status := some st } st).settle) ∧
    (∀ id l g, s.launch? id = some l → s.graph? id = some g → s.completing l = false → l.status = none → g.started = true →
      (l.preempt = 0 → l.stopped = false → s.victims.any (fun (v : Launch) => v.id == id) = true →
        (s.depthOf l = 1 → exec (.graphPreempt id .workgroup) s = .next (s.askStop l 1)) ∧
        (s.depthOf l = 2 → exec (.graphPreempt id .load) s = .next (s.askStop l 2))) ∧
      (l.preempt = 1 → g.runningGroups = 0 → exec (.graphPreempt id .workgroup) s = .next
        (((((s.onGraph id (fun (g : Graph) => { g with waiters := [], savedAt := s.time })).writeStats l g).freeReserves id).preempted
          l 1).settle)))

/-- Queues (R396, R397, R399 to R403): NOTIFY moves QWR and raises its event; that one beyond the ring writes the index that it names into
QERRIDX is the model's choice (log 49); enabling and disabling write STATE, and enabling zeroes the
indices; the handler task of the queue reads the next header once it is notified (R441); NOP, COPY, WAITSIG, BARRIER_AND and LAUNCH packets start when they may, and a launch
joins those that run with what its record says; retirement zeroes the header and then advances QRD; a packet that completes by its
retirement, and a launch that is over, completes. -/
def Obligations.QueuesAndPackets : Prop :=
  ∀ (s : State) (q : Nat),
    let x := s.queue q
    (∀ i : BitVec 64, x.state = 1 → x.qwr.toNat < i.toNat → i.toNat - x.qrd.toNat ≤ x.size →
      exec (.notify q i) s = .next ((s.onQueue q (fun (x : Queue) => { x with qwr := i })).raiseEvent 1 q i 0)) ∧
    (∀ i : BitVec 64, x.state = 1 → x.qwr.toNat < i.toNat → x.size < i.toNat - x.qrd.toNat →
      exec (.notify q i) s = .next (s.queueError q 3 i.toNat).rotate) ∧
    (x.state = 0 → exec (.qctlEnable q) s = .next (s.onQueue q Queue.enable).rotate) ∧
    exec (.qctlDisable q) s = .next (s.onQueue q Queue.disable).rotate ∧
    (x.enable.qwr = 0 ∧ x.enable.qrd = 0 ∧ natBits x.enable.qctl.toNat 63 62 = 1 ∧ x.enable.qctl.getLsbD 31 = true) ∧
    (natBits x.disable.qctl.toNat 63 62 = 0 ∧ x.disable.qctl.getLsbD 31 = false) ∧
    (∀ s' p r bs, x.state = 1 → s.assisted 1 = false → natBit s.funcReady.toNat 1 = true → x.header = none →
      x.nextPkt < x.qwr.toNat → x.pollAt ≤ s.time → x.started.any (fun (p : Packet) => !p.retired) = false →
      s.handled q = true → s.keyHeld q = false →
      s.packetPlace q x.ctx (x.packetAddr x.nextPkt) (natBit x.qbase.toNat 63) true false = (s', .ok p) →
      s'.hubRead p 64 = (r, bs) → bytesAt bs 0 1 % 2 = 1 → packetError bs = none →
      exec (.packetHeaderPoll q) s = .next (r.onQueue q (fun (x : Queue) => { x with header := some bs })).rotate.settle) ∧
    (∀ bs, s.startable q 0 = some bs → exec (.packetNop q) s = .next (s.startPacket q bs).rotate) ∧
    (∀ bs at_ u v r, s.mailPost q 1 = none → s.startable q 1 = some bs → s.launchRoom (launchId q x.nextPkt) = true →
      s.hubPlace x.ctx (bytesAt bs 16 8) true false (.packet q) = (u, .ok at_) → u.hubRead at_ 128 = (v, r) →
      exec (.packetLaunch q) s = .next
        (((v.startLaunch (s.packetPost q bs) r).startPacket q bs).rotate).settle ∧
      ∃ l : Launch, (v.startLaunch (s.packetPost q bs) r).launches = v.launches ++ [l] ∧ l.id = launchId q x.nextPkt ∧
        l.kernelVa = bytesAt r 0 8 ∧ l.param = bytesAt r 8 8 ∧ l.wgCount = bytesAt r 0x20 4 ∧ l.nextWg = bytesAt r 0x50 4) ∧
    (∀ bs c, s.startable q 3 = some bs → copyCheck (bytesAt bs 16 8) (bytesAt bs 24 8) (bytesAt bs 32 8) = 0 →
      (List.range Config.cores).find? (fun c =>
        dieOf c == s.copyDie q x.ctx (bytesAt bs 16 8) (bytesAt bs 24 8) && s.coreUp c) = some c →
      (s.core c).copyQueue < 64 → ∃ y : Transfer, y.op = .cpy ∧ y.dst = bytesAt bs 16 8 ∧ y.src = bytesAt bs 24 8 ∧
        y.bytes = bytesAt bs 32 8 ∧ y.queue = some q ∧ y.index = x.nextPkt ∧ y.era = x.era ∧ y.counted = false ∧
      exec (.packetCopy q) s = .next ((s.onCore c (fun (c : Core) => { c with
        transfers := c.transfers ++ [y], nextTransfer := c.nextTransfer + 1 })).startPacket q bs).rotate) ∧
    (∀ bs s' p r v, s.startable q 4 = some bs → s.hubPlace x.ctx (bytesAt bs 16 8) true false (.packet q) = (s', .ok p) →
      s'.hubRead p 8 = (r, v) → exec (.packetWaitsig q) s = .next
        (if signalCondition (bytesAt bs 32 1) (fromLE v) (bytesAt bs 24 8) then (r.startPacket q bs).rotate
         else r.pollLater q).settle) ∧
    (∀ bs s' ok, s.startable q 5 = some bs → s.signalsZero q x.ctx (barrierSignals bs) = (s', .ok ok) →
      exec (.packetBarrierAnd q) s = .next (if ok then (s'.startPacket q bs).rotate else s'.pollLater q).settle) ∧
    (∀ p s' at_, x.started.find? (fun (p : Packet) => !p.retired || selfDone p.type) = some p → p.retired = false →
      s.keyHeld q = false → s.packetPlace q p.ctx p.addr p.bus false true = (s', .ok at_) →
      exec (.packetRetire q) s = .next ((s'.hubWrite at_ (List.replicate 8 0)).onQueue q (fun (x : Queue) =>
        ({ x with qrd := x.qrd + 1 } : Queue).mark p.index p.era (fun (p : Packet) => { p with retired := true }))).settle) ∧
    (∀ p, x.started.find? (fun (p : Packet) => !p.retired || selfDone p.type) = some p → p.retired = true →
      s.keyHeld (doneKey q p.index) = false →
      exec (.packetRetire q) s = .next (s.completePacket q p.index p.era p.ctx p.signal).1.rotate.settle) ∧
    (∀ id l st, s.launch? id = some l → s.outcome l = some st →
      exec (.launchComplete id) s = .next (s.finishLaunch l st).settle)

/-- Events, the mailbox, fences and resets (R409, R413 to R417, R421): a token takes its partner, and the pair goes to a free hart, or an
entry; pending tokens are offered again once the harts have gone on; a timer raises its event; a read of HEV_STAT clears DROP and one of
LMB_STAT RESULT; LMB_CTL takes a post for an ACTIVE queue; a fence names its unit once and reports it; a function becomes ready, and a
port once its link has trained; a warm reset keeps the archive, the fences and the clock and empties queues and cores; power loss stops the
machine. The model's choices here: which events pair (log 11), what a reset leaves of device memory (logs 6, 28), and the archive's entry
for the boot after a cold reset (log 43). -/
def Obligations.EventsFencesAndResets : Prop :=
  ∀ (s : State),
    (∀ e, s.evPending[0]? = some e → s.evStore = [] →
      exec (.eventToken 0) s = .next { s with evPending := s.evPending.eraseIdx 0, evStore := [e] }) ∧
    (∀ i x e, s.evPending[i]? = some e → s.evStore.find? (fun x => x.pairs e) = some x →
      exec (.eventToken i) s = .next (({ s with
        evPending := s.evPending.eraseIdx i, evStore := s.evStore.erase x, evPairs := s.evPairs ++ [(x, e)] } : State).dispatchPairs) ∧
      ∀ h rest, s.harts = h :: rest → h.task = none → natBit s.funcReady.toNat 1 = true → s.evPairs = [] →
        exec (.eventToken i) s = .next { s with
          evPending := s.evPending.eraseIdx i, evStore := s.evStore.erase x, harts := { h with task := some (x, e) } :: rest }) ∧
    exec .eventTokenRetry s = .next (s.hartsGo.offerAll s.hartsGo.evPending) ∧
    (∀ n, n < 64 → exec (.firmwareTimer n) s = .next (s.raiseEvent 4 n 0 0)) ∧
    exec (.hevStatRead .dword) s = .next { s with hostData := bytesLE 8 s.hevDrop.toNat, hostPoison := false, hevDrop := 0 } ∧
    exec (.lmbStatRead .dword) s = .next { s with
      hostData := bytesLE 8 ((if s.lmbBusy then 2 ^ 63 else 0) + s.lmbResult.toNat), hostPoison := false, lmbResult := 0 } ∧
    (∀ v : Dword, v.getLsbD 63 = true → s.lmbBusy = false → natBits v.toNat 17 16 = 1 ∨ natBits v.toNat 17 16 = 2 →
      (s.queue (natBits v.toNat 9 0)).state = 1 → s.launches.length < 256 →
      exec (.lmbGo v) s = .next { s with lmbBusy := true, lmbResult := 0, lmbCtl := v }) ∧
    (∀ v : Dword, v.getLsbD 63 = true → s.lmbBusy = false → natBits v.toNat 17 16 = 0 ∨ natBits v.toNat 17 16 = 3 →
      exec (.lmbGo v) s = .next { s with lmbResult := 4 }) ∧
    (∀ u r, u < 320 → exec (.fenceCore u r) s = .next ((s.fenceSome [u]).reportFence 1 u r)) ∧
    (∀ u r, u < 40 → exec (.fenceCluster u r) s = .next ((s.fenceSome (clusterCores u)).reportFence 2 u r)) ∧
    (∀ u r, u < 8 → exec (.fenceStack u r) s = .next
      (({ s with fenceStacks := insertNat s.fenceStacks u } : State).reportFence 3 u r)) ∧
    (∀ u r, u < 16 → ∃ t : State, exec (.fencePort u r) s = .next t ∧ u ∈ t.fencePorts) ∧
    (∀ b, 18 ≤ b → b < 58 → natBit s.funcReady.toNat b = false → exec (.functionReady b) s = .next (s.setReady b)) ∧
    (∀ p, p < 16 → natBit s.funcReadyL.toNat p = false → s.fencePorts.contains p = false → (s.mport p).state = 2 →
      exec (.functionReady (0x100 + p)) s = .next (s.setReady (0x100 + p))) ∧
    (∃ t : State, exec .warmReset s = .next t ∧ t.time = s.time ∧ t.warmAt = s.time ∧ t.fenceCores = s.fenceCores ∧
      t.fencePorts = s.fencePorts ∧ t.fenceStacks = s.fenceStacks ∧ t.replaceReq = s.replaceReq ∧
      t.memmapPart = s.memmapPart ∧ t.archWr = s.archWr + 1 ∧ t.cores = [] ∧ t.queues = [] ∧ t.launches = [] ∧ t.mem = [] ∧
      t.epoch = 1 ∧ t.funcReady = 0) ∧
    (∃ t : State, exec .coldReset s = .next t ∧ t.bootCnt = s.bootCnt + 1 ∧ t.time = 0 ∧ t.fenceCores = [] ∧ t.fencePorts = [] ∧
      t.fenceStacks = [] ∧ t.archWr = 1 ∧ t.cores = [] ∧ t.queues = [] ∧ t.launches = [] ∧ t.mem = [] ∧ t.epoch = 1 ∧
      t.funcReady = 0 ∧ t.powered = true) ∧
    (∃ t : State, exec .powerLoss s = .next t ∧ t.powered = false)

/-- Security, power, Muwin and the host's accesses (R390 to R394, R420, R421, R424, R426, R428 to R431): in recovery a boot command takes an
image that verifies to the flash, and otherwise does nothing; an attestation command runs unless one does, and a quote completes with its
signature; an owner command that its slot accepts fuses; the governor writes every unfenced core's BUDGET; readings are taken, and one at
its limit holds the device in reset; a port changes state, a replay is counted; an access of the host or of a peer performs at the home
slices; a write of a register reaches the register and a read gives what it holds; an access of another size reads zero and writes
nothing. How a lost sensor is reported, and that a port that comes up makes every device reachable again, are the model's choices (log
29). -/
def Obligations.SecurityPowerAndHost : Prop :=
  ∀ (s : State),
    (∀ v : Dword, v.getLsbD 63 = false ∨ natBits s.bootStatus.toNat 63 32 = 0 → exec (.bootCmd v) s = .next s) ∧
    (∀ v : Dword, v.getLsbD 63 = true → natBits s.bootStatus.toNat 63 32 ≠ 0 →
      let bs := readBytes (cellRead s.recovery) 0 (min (v.toNat % 2 ^ 32) 0x100000)
      (∀ x, Config.parseImage bs = some x → imageOk s.keySlots x = true → exec (.bootCmd v) s = .next { s with
        flash := bs, bootStatus := bootWord s.keySlots 0, meas := List.replicate 8 (List.replicate 64 0) }) ∧
      (∀ x, Config.parseImage bs = some x → imageOk s.keySlots x = false → exec (.bootCmd v) s = .next s) ∧
      (Config.parseImage bs = none → exec (.bootCmd v) s = .next s)) ∧
    (∀ cmd, signerOk s.keySlots cmd.signer cmd.op = true →
      slotAccepts s.keySlots cmd.signer cmd.modulus cmd.exponent cmd.signature (Config.ownerMessage cmd.op) = true →
      exec (.ownerCommand cmd) s = .next { s with
        keySlots := fuse s.keySlots cmd.op, bootStatus := bootWord (fuse s.keySlots cmd.op) (natBits s.bootStatus.toNat 63 32) }) ∧
    (∀ v : Dword, s.attRunning = true → exec (.attCmd v) s = .next s) ∧
    (∀ v : Dword, s.attRunning = false → exec (.attCmd v) s = .next { s with
      attCmd := v &&& 0x7FFFFFFFFFFFFFFF, attRunning := decide (v = 1) }) ∧
    (s.attRunning = true → ∃ t : State, exec .quoteComplete s = .next t ∧ t.attRunning = false ∧ t.attCmd.getLsbD 63 = true ∧
      t.attSig = rsaSign Config.identityModulus Config.identityExponent s.quote) ∧
    (s.assisted 5 = false → natBit s.funcReady.toNat 1 = true → s.govAt ≤ s.time → ∃ t : State, exec .governorTick s = .next t ∧ t.govAt = s.time + 1700000 ∧
      ∀ k, k < 320 → s.fenceCores.contains k = false →
        (t.core k).powerBudget = (budgetFor s.boardCap s.lid.toNat s.throt.toNat) % 65536) ∧
    (∀ sensor lid jmax, s.throt.toNat ≤ s.lid.toNat → lid < 1520 → jmax < 1680 → s.throt.toNat ≤ lid →
      exec (.thermalCrossing sensor lid jmax true) s =
        .next { s with lid := BitVec.ofNat 16 lid, jmax := BitVec.ofNat 16 jmax }) ∧
    (∀ sensor lid jmax, s.lid.toNat < s.throt.toNat → lid < 1520 → jmax < 1680 → s.throt.toNat ≤ lid →
      exec (.thermalCrossing sensor lid jmax true) s =
        .next (({ s with lid := BitVec.ofNat 16 lid, jmax := BitVec.ofNat 16 jmax } : State).thermal 1 sensor)) ∧
    (∀ sensor lid jmax b, (1520 ≤ lid ∨ 1680 ≤ jmax) → lid < 65536 → jmax < 65536 →
      (∃ t : State, exec (.thermalShutdown sensor lid jmax b) s = .next t ∧ t.heldInReset = true) ∧
      (∃ t : State, exec (.thermalCrossing sensor lid jmax b) s = .next t ∧ t.heldInReset = true)) ∧
    (∀ sensor lid jmax b, lid < 1520 → jmax < 1680 → exec (.thermalShutdown sensor lid jmax b) s =
      .next { s with lid := BitVec.ofNat 16 lid, jmax := BitVec.ofNat 16 jmax }) ∧
    (∀ sensor, exec (.thermalSensorLost sensor) s = .next (s.replaceRequest 5 sensor 6)) ∧
    (∀ p peer lanes, p < 16 → s.fencePorts.contains p = false → natBit (s.mport p).ctl.toNat 0 = true →
      ∃ t : State, exec (.muwinPortState p 2 peer lanes) s = .next t ∧ (t.mport p).state = 2 ∧
        (t.mport p).peer = BitVec.ofNat 12 peer ∧ (t.mport p).lanes = BitVec.ofNat 8 lanes ∧ t.silent = [] ∧
        natBit t.funcReadyL.toNat p = true) ∧
    (∀ p, p < 16 → exec (.mwpStatRead p .dword) s = .next { s with
      hostData := bytesLE 8 (s.mport p).stat, hostPoison := false, ports := s.ports.put p { s.mport p with replay := 0 } }) ∧
    (∀ p, p < 16 → (s.mport p).state = 2 → exec (.flitReplay p) s = .next { s with
      ports := s.ports.put p { s.mport p with replay := (s.mport p).replay + 1 } }) ∧
    (∀ a n, s.opensAt a n = true → exec (.muwinPeerAccess a (.read n)) s = .next
      (let r := s.agentRead a n
       ({ r.1 with peerData := r.2.1, peerPoison := r.2.2 } : State)).settle) ∧
    (∀ o bs, s.opensAt (s.bar2 o) bs.length = true → exec (.hostBar2Access o (.write bs)) s = .next
      ({ (s.accessAs .write 0).hubStore (s.bar2 o) (bs.take (Config.devBytes - s.bar2 o)) with hostData := [], hostPoison := false } : State).settle) ∧
    (∀ v : Dword, exec (.registerWrite 0x1018 8 (some v)) s = .next ({ s with fqRd := v.extractLsb' 0 32 } : State).settle) ∧
    (∀ v : Dword, exec (.registerWrite 0x70 8 (some v)) s = .next ({ s with devid := v.extractLsb' 0 12 } : State).settle) ∧
    (∀ v : Dword, exec (.registerWrite 0x1060 8 (some v)) s = .next s.settle) ∧
    exec (.registerWrite 0x1018 8 none) s = .next { s with hostData := bytesLE 8 s.fqRd.toNat, hostPoison := false } ∧
    (∀ v : Option Dword, ∃ t : State, exec (.registerWrite 0x1018 2 v) s = .next t ∧
      t = (if v.isSome then s else { s with hostData := [0, 0], hostPoison := false }))

/-! ### Memory consistency -/

/-- Verdicts of the consistency model on the tests of R285: every row of its tables of message passing, store and load buffering,
independent reads, write-to-read causality, engines, the host, barriers, launches and graphs. -/
def Obligations.LitmusVerdicts : Prop :=
  let t0 := litmusThread 0
  let t1 := litmusThread 1
  let home := LocSpace.device 0
  let b0 := litmusThread 0 1
  let b1 := litmusThread 1 1
  ((messagePassing .plain .plain .dev false false).allowed = true ∧ (messagePassing .plain .plain .dev true true).allowed = true ∧
    (messagePassing .rel .acq .dev true true).allowed = false ∧ (messagePassing .rel .acq .dev true false).allowed = true ∧
    (messagePassing .rel .acq .wg true true).allowed = true ∧
    (messagePassingOf t0 t1 home .rlx .rlx .dev true true true true).allowed = false ∧
    (messagePassingOf t0 t1 home .plain .rlx .dev true true true true).allowed = true ∧
    (messagePassingOf t0 b1 home .rel .acq .dev false false true true).allowed = true ∧
    (messagePassingOf t0 b1 home .rel .acq .dom false false true true).allowed = false ∧
    (messagePassingOf b0 b1 home .rel .acq .dev false false true true).allowed = true) ∧
  ((storeBufferingOrdered .plain .plain .dev).allowed = true ∧ (storeBufferingOrdered .rel .acq .dev).allowed = true ∧
    (storeBuffering .ar .dev).allowed = true ∧ (storeBuffering .sc .dev).allowed = false ∧ (storeBuffering .sc .wg).allowed = true) ∧
  ((loadBuffering false).allowed = true ∧ (loadBuffering true).allowed = false) ∧
  ((independentReads .write .plain .plain none).allowed = true ∧ (independentReads .rmw .rlx .acq none).allowed = true ∧
    (independentReads .write .plain .plain (some [8, 9])).allowed = false ∧
    (independentReads .write .plain .plain (some [9, 8])).allowed = false) ∧
  ((writeToRead .plain .plain .dev).allowed = true ∧ (writeToRead .rel .acq .dev).allowed = false ∧
    (writeToReadOf (.thread 0 1 1 2) .rel .acq .wg).allowed = false) ∧
  ((copyThenRelease true).allowed = false ∧ (copyThenRelease false).allowed = true ∧ (copyAndStore false 5).allowed = true ∧
    (copyAndStore false 0).allowed = true ∧ (copyAndStore true 0).allowed = false ∧ (copyThenChdone [4]).allowed = false ∧
    (copyThenChdone []).allowed = false ∧ (twoCopies 0 (9, 9)).allowed = true ∧ (twoCopies 0 (12, 12)).allowed = true ∧
    (twoCopies 0 (9, 12)).allowed = false ∧ (twoCopies 0 (4, 5)).allowed = false ∧ (unlikeAtomics 0).allowed = false ∧
    (unlikeAtomics 2).allowed = true ∧
    (twoWrites t0 t0 (.engineWrite 0 none) [2, 3] (2, 2) (3, 3)).allowed = true ∧
    (twoWrites t0 t0 (.engineWrite 0 none) [2, 3] (2, 3) (3, 3)).allowed = false) ∧
  ((messagePassingOf (.host 0) t1 home .plain .acq .sys true false true true).allowed = false ∧
    (messagePassingOf (.host 0) t1 home .plain .acq .dev true false true true).allowed = true ∧
    (messagePassingOf t0 (.host 0) .host .rel .plain .sys false true true true).allowed = false ∧
    (messagePassingOf t0 (.host 0) .host .rel .plain .dev false true true true).allowed = true ∧
    (sharedLine (2, 3)).allowed = true ∧ (sharedLine (0, 3)).allowed = false ∧ (sharedLine (2, 1)).allowed = false ∧
    (twoWrites (.host 0) t0 .write [2, 3] (2, 2) (3, 3)).allowed = true ∧
    (twoWrites (.host 0) t0 .write [2, 3] (2, 2) (2, 3)).allowed = false ∧
    (hostAtomic true 0 [2, 1] 1).allowed = true ∧ (hostAtomic false 0 [2, 1] 1).allowed = false ∧
    (hostAtomic false 0 [1, 2] 2).allowed = true ∧ (hostAtomic false 2 [2, 1] 1).allowed = true) ∧
  ((barrierTest true).allowed = false ∧ (barrierTest false).allowed = true ∧ launchTest.allowed = false ∧ recordTest.allowed = false)
end

