-- ==== Sys2Proof/Laws/Memory.lean ====
section
/-! SUPPORT. Laws of tables and memories: reads after writes, and the canonical form that every write keeps. -/

namespace Sys2Proof.Machine

variable {α : Type}

/-! ### Tables -/

theorem Table.look_put_same (t : Table α) (n : Nat) (a : α) : (t.put n a).look n = some a := by
  induction t with
  | nil => simp [Table.put, Table.look]
  | cons kv t ih =>
    obtain ⟨k, v⟩ := kv
    unfold Table.put
    split
    · simp [Table.look]
    · split
      · rename_i h; simp [Table.look, h]
      · rename_i h; simp [Table.look, h, ih]

theorem Table.look_put_other (t : Table α) (n m : Nat) (a : α) (h : m ≠ n) : (t.put n a).look m = t.look m := by
  induction t with
  | nil => simp [Table.put, Table.look, h]
  | cons kv t ih =>
    obtain ⟨k, v⟩ := kv
    unfold Table.put
    split
    · simp [Table.look, h]
    · split
      · rename_i e; subst e; simp [Table.look, h]
      · simp [Table.look, ih]

theorem Table.look_del_same (t : Table α) (n : Nat) : (t.del n).look n = none := by
  induction t with
  | nil => rfl
  | cons kv t ih =>
    obtain ⟨k, v⟩ := kv
    unfold Table.del
    split
    · exact ih
    · rename_i h; simp [Table.look, h, ih]

theorem Table.look_del_other (t : Table α) (n m : Nat) (h : m ≠ n) : (t.del n).look m = t.look m := by
  induction t with
  | nil => rfl
  | cons kv t ih =>
    obtain ⟨k, v⟩ := kv
    unfold Table.del
    split
    · rename_i e; subst e; simp [Table.look, h, ih]
    · simp [Table.look, ih]

/-! ### The canonical form -/

/-- A memory whose keys all lie above a bound, in canonical form. -/
def wfAbove (b : Nat) : List Host.Cell → Prop
  | [] => True
  | (k, v) :: t => b ≤ k ∧ v ≠ 0 ∧ wfAbove (k + 1) t

theorem wfAbove_mono {b c : Nat} (h : c ≤ b) : ∀ {m : List Host.Cell}, wfAbove b m → wfAbove c m
  | [], _ => trivial
  | (_, _) :: _, ⟨h1, h2, h3⟩ => ⟨Nat.le_trans h h1, h2, h3⟩

theorem wf_cons (k : Nat) (v : BitVec 8) (t : List Host.Cell) :
    Memory.wf ((k, v) :: t) = true ↔ v ≠ 0 ∧ wfAbove (k + 1) t := by
  induction t generalizing k v with
  | nil => simp [Memory.wf, Table.sorted, wfAbove]
  | cons kv t ih =>
    obtain ⟨k', v'⟩ := kv
    have h := ih k' v'
    simp only [Memory.wf, Table.sorted, List.all_cons, Bool.and_eq_true, decide_eq_true_eq, bne_iff_ne, wfAbove] at h ⊢
    constructor
    · rintro ⟨⟨h1, h2⟩, h3, h4, h5⟩
      exact ⟨h3, by omega, h.1 ⟨h2, h4, h5⟩⟩
    · rintro ⟨h1, h2, h3, h4⟩
      have := h.2 ⟨h3, h4⟩
      exact ⟨⟨by omega, this.1⟩, h1, this.2⟩

theorem wf_iff (m : List Host.Cell) : Memory.wf m = true ↔ wfAbove 0 m := by
  cases m with
  | nil => simp [Memory.wf, Table.sorted, wfAbove]
  | cons kv t => obtain ⟨k, v⟩ := kv; simp [wf_cons, wfAbove]

theorem wfAbove_put {b n : Nat} {x : BitVec 8} (hx : x ≠ 0) (hb : b ≤ n) :
    ∀ {m : List Host.Cell}, wfAbove b m → wfAbove b (Table.put m n x)
  | [], _ => ⟨hb, hx, trivial⟩
  | (k, v) :: t, ⟨h1, h2, h3⟩ => by
    unfold Table.put
    split
    · exact ⟨hb, hx, by omega, h2, h3⟩
    · split
      · exact ⟨h1, hx, h3⟩
      · exact ⟨h1, h2, wfAbove_put hx (by omega) h3⟩

theorem wfAbove_del {b n : Nat} : ∀ {m : List Host.Cell}, wfAbove b m → wfAbove b (Table.del m n)
  | [], _ => trivial
  | (k, v) :: t, ⟨h1, h2, h3⟩ => by
    unfold Table.del
    split
    · exact wfAbove_mono (by omega) (wfAbove_del h3)
    · exact ⟨h1, h2, wfAbove_del h3⟩

/-- A byte write keeps the canonical form. -/
@[simp] theorem cellWrite_wf {m : List Host.Cell} (h : Memory.wf m = true) (a : Nat) (b : Byte) :
    Memory.wf (cellWrite m a b) = true := by
  rw [wf_iff] at h ⊢
  unfold cellWrite
  split
  · exact wfAbove_del h
  · rename_i hb; exact wfAbove_put hb (Nat.zero_le _) h

/-- A write of consecutive bytes keeps the canonical form. -/
@[simp] theorem cellWrites_wf (bs : List Byte) : ∀ {m : List Host.Cell}, Memory.wf m = true → ∀ a : Nat,
    Memory.wf (cellWrites m a bs) = true := by
  induction bs with
  | nil => intro m h a; exact h
  | cons b t ih => intro m h a; exact ih (cellWrite_wf h a b) (a + 1)

/-! ### Reads after writes -/

/-- A read of the byte just written. -/
theorem cellFold_wf {α : Type} {g : α → Nat} {v : α → Byte} {l : List α} {m : List Host.Cell} (h : Memory.wf m = true) :
    Memory.wf (l.foldl (fun m a => cellWrite m (g a) (v a)) m) = true := by
  induction l generalizing m with
  | nil => exact h
  | cons a l ih => exact ih (cellWrite_wf h (g a) (v a))

@[simp] theorem cellRead_cellWrite_same (m : List Host.Cell) (a : Nat) (b : Byte) : cellRead (cellWrite m a b) a = b := by
  unfold cellRead cellWrite
  split
  · rename_i h; simp [Table.look_del_same, h]
  · simp [Table.look_put_same]

/-- A write leaves every other byte. -/
theorem cellRead_cellWrite_other (m : List Host.Cell) (a x : Nat) (b : Byte) (h : x ≠ a) :
    cellRead (cellWrite m a b) x = cellRead m x := by
  unfold cellRead cellWrite
  split
  · rw [Table.look_del_other _ _ _ h]
  · rw [Table.look_put_other _ _ _ _ h]

/-- A write of consecutive bytes leaves every byte outside them. -/
theorem cellRead_cellWrites_other (bs : List Byte) : ∀ (m : List Host.Cell) (a x : Nat),
    (x < a ∨ a + bs.length ≤ x) → cellRead (cellWrites m a bs) x = cellRead m x := by
  induction bs with
  | nil => intro m a x _; rfl
  | cons b t ih =>
    intro m a x h
    simp only [List.length_cons] at h
    rw [cellWrites, ih _ _ _ (by omega), cellRead_cellWrite_other _ _ _ _ (by omega)]

/-- A write of consecutive bytes is read back. -/
theorem cellRead_cellWrites_same (bs : List Byte) : ∀ (m : List Host.Cell) (a i : Nat), i < bs.length →
    cellRead (cellWrites m a bs) (a + i) = (bs[i]?).getD 0 := by
  induction bs with
  | nil => intro m a i h; simp at h
  | cons b t ih =>
    intro m a i h
    cases i with
    | zero =>
      rw [cellWrites, cellRead_cellWrites_other _ _ _ _ (by omega)]
      simp
    | succ i =>
      have : a + (i + 1) = a + 1 + i := by omega
      rw [cellWrites, this, ih _ _ _ (by simpa using h)]
      simp

/-! ### Bytes of numbers (R7) -/

@[simp] theorem bytesLE_length (n : Nat) : ∀ v, (bytesLE n v).length = n := by
  induction n with
  | zero => intro v; rfl
  | succ n ih => intro v; simp [bytesLE, ih]

/-- The number of the little-endian bytes of a number. -/
theorem fromLE_bytesLE (n : Nat) : ∀ v, fromLE (bytesLE n v) = v % 256 ^ n := by
  induction n with
  | zero => intro v; simp [bytesLE, fromLE, Nat.mod_one]
  | succ n ih =>
    intro v
    have h : v % (256 * 256 ^ n) = v % 256 + 256 * (v / 256 % 256 ^ n) := Nat.mod_mul
    simp only [bytesLE, fromLE, ih, BitVec.toNat_ofNat, Nat.pow_succ', h]

/-- Device memory after reset is in canonical form. -/
theorem reset_mem_wf : Memory.wf State.reset.mem = true := rfl

end Sys2Proof.Machine
end

