-- ==== Sys2Proof/Laws/MemOk.lean ====
section
/-! SUPPORT. No operation over the state takes a memory out of its canonical form: the shared operations. -/

namespace Sys2Proof.Machine

set_option linter.unusedSimpArgs false

/-- An outcome keeps the canonical form when its next state has it. -/
def outOk (o : Host.Outcome State Fault Refusal) : Prop := ∀ t, o = .next t → t.memOk

/-- An optional state has the canonical form when there is one. -/
def optOk (o : Option State) : Prop := ∀ t, o = some t → t.memOk

theorem outOk_next {s : State} (h : s.memOk) : outOk (.next s) := by intro t e; cases e; exact h

theorem outOk_fault (r : Fault) : outOk (.fault r) := by intro t e; cases e

theorem outOk_refused (r : Refusal) : outOk (.refused r) := by intro t e; cases e

theorem optOk_some {s : State} (h : s.memOk) : optOk (some s) := by intro t e; cases e; exact h

theorem optOk_none : optOk none := by intro t e; cases e

/-- Five memories in canonical form. -/
def memsOk (m hm rm rc sr : List Host.Cell) : Prop :=
  Memory.wf m = true ∧ Memory.wf hm = true ∧ Memory.wf rm = true ∧ Memory.wf rc = true ∧ Memory.wf sr = true

/-- The memories of a state written out. -/
theorem memOk_mk {m hm rm rc sr}
    {a0 a1 a2 a3 a4 a5 a6 a7 a8 a10 a11 a12 a13 a14 a15 a16 a17 a19 a21 a22 a23 a24 a25 a26 a27 a28 a29 a30
    a31 a32 a33 a34 a35 a36 a37 a38 a39 a40 a41 a42 a43 a44 a45 a46 a47 a48 a49 a50 a51 a52 a53 a54 a55 a56
    a57 a58 a59 a60 a61 a62 a63 a64 a65 a66 a67 a68 a69 a70 a71 a72 a73 a74 a75 a76 a77 a78 a79 a80 a81 a82
    a83 a84 a85 a86 a87 a88 a89 a90 a91 a92 a93 a94 a95 a96 a97 a99 a100 a101 a102 a103 a104 a105 a106 a107
    a108 a109 a111 a112 a113 a114 a115 a116 a117 a118 a119 a120 a121 a122 a123} :
    (State.mk a0 a1 a2 a3 a4 a5 a6 a7 a8 m a10 a11 a12 a13 a14 a15 a16 a17 hm a19 rm a21 a22 a23 a24 a25 a26
    a27 a28 a29 a30 a31 a32 a33 a34 a35 a36 a37 a38 a39 a40 a41 a42 a43 a44 a45 a46 a47 a48 a49 a50 a51 a52
    a53 a54 a55 a56 a57 a58 a59 a60 a61 a62 a63 a64 a65 a66 a67 a68 a69 a70 a71 a72 a73 a74 a75 a76 a77 a78
    a79 a80 a81 a82 a83 a84 a85 a86 a87 a88 a89 a90 a91 a92 a93 a94 a95 a96 a97 sr a99 a100 a101 a102 a103
    a104 a105 a106 a107 a108 a109 rc a111 a112 a113 a114 a115 a116 a117 a118 a119 a120 a121 a122 a123).memOk ↔
    memsOk m hm rm rc sr := Iff.rfl

theorem memsOk_of {s : State} (h : s.memOk) : memsOk s.mem s.hostMem s.remoteMem s.recovery s.sram := h

theorem memsOk_mem {s : State} {m} (h : s.memOk) (k : Memory.wf m = true) :
    memsOk m s.hostMem s.remoteMem s.recovery s.sram :=
  ⟨k, h.2.1, h.2.2.1, h.2.2.2.1, h.2.2.2.2⟩

theorem memsOk_hostMem {s : State} {m} (h : s.memOk) (k : Memory.wf m = true) :
    memsOk s.mem m s.remoteMem s.recovery s.sram :=
  ⟨h.1, k, h.2.2.1, h.2.2.2.1, h.2.2.2.2⟩

theorem memsOk_remoteMem {s : State} {m} (h : s.memOk) (k : Memory.wf m = true) :
    memsOk s.mem s.hostMem m s.recovery s.sram :=
  ⟨h.1, h.2.1, k, h.2.2.2.1, h.2.2.2.2⟩

theorem memsOk_recovery {s : State} {m} (h : s.memOk) (k : Memory.wf m = true) :
    memsOk s.mem s.hostMem s.remoteMem m s.sram :=
  ⟨h.1, h.2.1, h.2.2.1, k, h.2.2.2.2⟩

theorem memsOk_sram {s : State} {m} (h : s.memOk) (k : Memory.wf m = true) :
    memsOk s.mem s.hostMem s.remoteMem s.recovery m :=
  ⟨h.1, h.2.1, h.2.2.1, h.2.2.2.1, k⟩

theorem State.memOk.mem {s : State} (h : s.memOk) : Memory.wf s.mem = true := h.1
theorem State.memOk.hostMem {s : State} (h : s.memOk) : Memory.wf s.hostMem = true := h.2.1
theorem State.memOk.remoteMem {s : State} (h : s.memOk) : Memory.wf s.remoteMem = true := h.2.2.1
theorem State.memOk.recovery {s : State} (h : s.memOk) : Memory.wf s.recovery = true := h.2.2.2.1
theorem State.memOk.sram {s : State} (h : s.memOk) : Memory.wf s.sram = true := h.2.2.2.2

theorem foldl_memOk {α : Type} {f : State → α → State} {l : List α} {s : State} (h : s.memOk)
    (hf : ∀ t a, t.memOk → (f t a).memOk) : (l.foldl f s).memOk := by
  induction l generalizing s with
  | nil => exact h
  | cons a l ih => exact ih (hf s a h)

theorem foldlP_memOk {α β : Type} {f : State × β → α → State × β} {l : List α} {p : State × β} (h : p.1.memOk)
    (hf : ∀ q a, q.1.memOk → (f q a).1.memOk) : (l.foldl f p).1.memOk := by
  induction l generalizing p with
  | nil => exact h
  | cons a l ih => exact ih (hf p a h)

/-- The state of a pair. -/
theorem fst_memOk {β : Type} {p : State × β} {t : State} {y : β} (e : p = (t, y)) (h : p.1.memOk) : t.memOk := by
  rwa [e] at h

/-- The state that an option holds. -/
theorem some_memOk {o : Option State} {t : State} (e : o = some t) (h : optOk o) : t.memOk := h t e

theorem optOk_bind {o : Option State} {f : State → Option State} (h : optOk o) (hf : ∀ t, t.memOk → optOk (f t)) :
    optOk (o.bind f) := by
  cases o with
  | none => exact optOk_none
  | some t => exact hf t (h t rfl)

theorem optOk_bind' {α : Type} {o : Option α} {f : α → Option State} (hf : ∀ t, optOk (f t)) :
    optOk (o.bind f) := by
  cases o with
  | none => exact optOk_none
  | some t => exact hf t

theorem getD_memOk {o : Option State} {s : State} (h : optOk o) (hs : s.memOk) : (o.getD s).memOk := by
  cases o with
  | none => exact hs
  | some t => exact h t rfl

theorem elim_memOk {α : Type} {o : Option α} {s : State} {f : α → State} (hs : s.memOk) (hf : ∀ a, (f a).memOk) :
    (o.elim s f).memOk := by
  cases o with
  | none => exact hs
  | some a => exact hf a

theorem foldl_optOk {α : Type} {f : Option State → α → Option State} {l : List α} {o : Option State} (h : optOk o)
    (hf : ∀ q a, optOk q → optOk (f q a)) : optOk (l.foldl f o) := by
  induction l generalizing o with
  | nil => exact h
  | cons a l ih => exact ih (hf o a h)

/-- The next state of an outcome. -/
theorem next_memOk {o : Host.Outcome State Fault Refusal} {t : State} (e : o = .next t) (h : outOk o) : t.memOk := h t e

theorem optOk_map {α : Type} {o : Option α} {f : α → State} (hf : ∀ a, (f a).memOk) : optOk (o.map f) := by
  cases o with
  | none => exact optOk_none
  | some a => exact optOk_some (hf a)

theorem optOk_mapS {o : Option State} {f : State → State} (h : optOk o) (hf : ∀ t, t.memOk → (f t).memOk) : optOk (o.map f) := by
  cases o with
  | none => exact optOk_none
  | some a => exact optOk_some (hf a (h a rfl))

theorem State.accessAs_memOk {s : State} {x1} {x2} (h : s.memOk) : (State.accessAs s x1 x2).memOk := by
  unfold State.accessAs
  with_reducible repeat' first | exact memsOk_of (by assumption) | simp only [memOk_mk]

theorem State.burstSense_memOk {s : State} {x1} (h : s.memOk) :
    (State.burstSense s x1).memOk := by
  unfold State.burstSense
  with_reducible repeat' first
    | assumption | exact memsOk_of (by assumption) | refine memsOk_of ?_ | simp only [memOk_mk] | split

theorem State.dramSense_memOk {s : State} {x1} (h : s.memOk) :
    (State.dramSense s x1).memOk := by
  unfold State.dramSense
  with_reducible repeat' first
    | assumption | exact memsOk_of (by assumption) | refine memsOk_of ?_ | simp only [memOk_mk] | split
    | refine State.burstSense_memOk ?_ | refine foldl_memOk ?_ (fun _ _ _ => ?_)

theorem State.fenceSense_memOk {s : State} {x1} (h : s.memOk) : (State.fenceSense s x1).memOk := by
  unfold State.fenceSense
  with_reducible repeat' first | assumption | exact memsOk_of (by assumption) | simp only [memOk_mk] | split

theorem State.dramPut_memOk {s : State} {x1} {x2} {x3} (h : s.memOk) : (State.dramPut s x1 x2 x3).memOk := by
  unfold State.dramPut
  with_reducible repeat' first
    | assumption | refine memsOk_mem ?_ (cellWrites_wf _ (State.memOk.mem ?_) _) | simp only [memOk_mk] | split

theorem State.dramPrepare_memOk {s : State} {x1} (h : s.memOk) :
    (State.dramPrepare s x1).memOk := by
  unfold State.dramPrepare
  with_reducible repeat' first
    | assumption | exact memsOk_of (by assumption) | refine memsOk_of ?_ | simp only [memOk_mk] | split
    | refine State.burstSense_memOk ?_ | refine foldl_memOk ?_ (fun _ _ _ => ?_)

theorem State.onDie_memOk {s : State} {x1} {x2} (h : s.memOk) : (State.onDie s x1 x2).memOk := by
  unfold State.onDie
  with_reducible repeat' first | exact memsOk_of (by assumption) | simp only [memOk_mk]

theorem State.dropL1_memOk {s : State} {x1} {x2} (h : s.memOk) : (State.dropL1 s x1 x2).memOk := by
  unfold State.dropL1
  with_reducible repeat' first | assumption | refine State.onDie_memOk ?_

theorem State.forwardL1_memOk {s : State} {x1} {x2} {x3} {x4} (h : s.memOk) : (State.forwardL1 s x1 x2 x3 x4).memOk := by
  unfold State.forwardL1
  with_reducible repeat' first | assumption | refine State.onDie_memOk ?_

theorem State.dirRelease_memOk {s : State} {x1} (h : s.memOk) : (State.dirRelease s x1).memOk := by
  unfold State.dirRelease
  with_reducible repeat' first | assumption | exact memsOk_of (by assumption) | simp only [memOk_mk] | split

theorem State.dropWords_memOk {s : State} {x1} {x2} (h : s.memOk) : (State.dropWords s x1 x2).memOk := by
  unfold State.dropWords
  with_reducible repeat' first
    | assumption | refine memsOk_of ?_ | simp only [memOk_mk] | split | refine State.dramPrepare_memOk ?_
    | refine State.dropL1_memOk ?_ | refine State.dramPut_memOk ?_ | refine foldl_memOk ?_ (fun _ _ _ => ?_)

theorem State.evict_memOk {s : State} {x1} {x2} {x3} (h : s.memOk) : (State.evict s x1 x2 x3).memOk := by
  unfold State.evict
  with_reducible repeat' first
    | assumption | refine memsOk_of ?_ | simp only [memOk_mk] | split | refine State.dropWords_memOk ?_
    | refine State.dirRelease_memOk ?_

theorem State.recall_memOk {s : State} {x1} (h : s.memOk) : (State.recall s x1).memOk := by
  unfold State.recall
  with_reducible repeat' first
    | assumption | refine memsOk_of ?_ | simp only [memOk_mk] | refine State.evict_memOk ?_
    | refine foldl_memOk ?_ (fun _ _ _ => ?_)

theorem State.dirEnsure_memOk {s : State} {x1} (h : s.memOk) : (State.dirEnsure s x1).memOk := by
  unfold State.dirEnsure
  with_reducible repeat' first
    | assumption | exact memsOk_of (by assumption) | simp only [memOk_mk] | split | refine State.recall_memOk ?_

theorem State.remoteHome_memOk {s : State} {x1} {x2} {x3} (h : s.memOk) : (State.remoteHome s x1 x2 x3).memOk := by
  unfold State.remoteHome
  rw [memOk_mk]
  exact memsOk_remoteMem h (cellFold_wf h.remoteMem)

theorem State.remoteSend_memOk {s : State} {x1} {x2} {x3} (h : s.memOk) :
    (State.remoteSend s x1 x2 x3).memOk := by
  unfold State.remoteSend
  with_reducible repeat' first
    | assumption | exact memsOk_of (by assumption) | refine memsOk_of ?_ | simp only [memOk_mk] | split
    | refine State.remoteHome_memOk ?_ | refine State.dropL1_memOk ?_

theorem State.hostGive_memOk {s : State} {x1} (h : s.memOk) :
    (State.hostGive s x1).memOk := by
  unfold State.hostGive
  with_reducible repeat' first
    | assumption | exact memsOk_of (by assumption) | refine memsOk_of ?_ | simp only [memOk_mk] | split
    | refine State.dropL1_memOk ?_ | refine foldl_memOk ?_ (fun _ _ _ => ?_)

theorem State.evictAny_memOk {s : State} {x1} {x2} (h : s.memOk) :
    (State.evictAny s x1 x2).memOk := by
  unfold State.evictAny
  with_reducible repeat' first
    | assumption | exact memsOk_of (by assumption) | refine memsOk_of ?_ | simp only [memOk_mk] | split
    | refine State.evict_memOk ?_ | refine State.hostGive_memOk ?_ | refine State.remoteSend_memOk ?_
    | refine foldl_memOk ?_ (fun _ _ _ => ?_)

theorem State.touchLine_memOk {s : State} {x1} {x2} (h : s.memOk) :
    (State.touchLine s x1 x2).memOk := by
  unfold State.touchLine
  with_reducible repeat' first
    | assumption | exact memsOk_of (by assumption) | refine memsOk_of ?_ | simp only [memOk_mk] | split
    | refine State.evictAny_memOk ?_

theorem State.hostYield_memOk {s : State} {x1} (h : s.memOk) : (State.hostYield s x1).memOk := by
  unfold State.hostYield
  with_reducible repeat' first | exact memsOk_of (by assumption) | simp only [memOk_mk]

theorem State.request_memOk {s : State} {x1} {x2} (h : s.memOk) : (State.request s x1 x2).memOk := by
  unfold State.request
  with_reducible repeat' first
    | assumption | refine State.touchLine_memOk ?_ | refine State.dirEnsure_memOk ?_ | refine State.hostYield_memOk ?_

theorem State.getS_memOk {s : State} {x1} {x2} (h : s.memOk) :
    (State.getS s x1 x2).memOk := by
  unfold State.getS
  with_reducible repeat' first
    | assumption | exact memsOk_of (by assumption) | refine memsOk_of ?_ | simp only [memOk_mk] | split
    | refine State.touchLine_memOk ?_ | refine State.fenceSense_memOk ?_ | refine State.request_memOk ?_
    | refine State.dramSense_memOk ?_

theorem State.getM_memOk {s : State} {x1} {x2} {x3} (h : s.memOk) :
    (State.getM s x1 x2 x3).memOk := by
  unfold State.getM
  with_reducible repeat' first
    | assumption | exact memsOk_of (by assumption) | refine memsOk_of ?_ | simp only [memOk_mk] | split
    | refine State.touchLine_memOk ?_ | refine State.request_memOk ?_ | refine State.dropL1_memOk ?_
    | refine State.dramSense_memOk ?_ | refine foldl_memOk ?_ (fun _ _ _ => ?_)

theorem State.storeWord_memOk {s : State} {x1} {x2} {x3} {x4} (h : s.memOk) : (State.storeWord s x1 x2 x3 x4).memOk := by
  unfold State.storeWord
  with_reducible repeat' first
    | assumption | refine memsOk_of ?_ | simp only [memOk_mk] | split | refine State.fenceSense_memOk ?_
    | refine State.getM_memOk ?_ | refine State.forwardL1_memOk ?_

theorem State.devStore_memOk {s : State} {x1} {x2} {x3} (h : s.memOk) : (State.devStore s x1 x2 x3).memOk := by
  unfold State.devStore
  with_reducible repeat' first | assumption | refine State.storeWord_memOk ?_ | refine foldl_memOk ?_ (fun _ _ _ => ?_)

theorem State.devPoison_memOk {s : State} {x1} {x2} (h : s.memOk) : (State.devPoison s x1 x2).memOk := by
  unfold State.devPoison
  with_reducible repeat' first
    | assumption | refine memsOk_of ?_ | simp only [memOk_mk] | split | refine State.fenceSense_memOk ?_
    | refine State.getM_memOk ?_ | refine State.forwardL1_memOk ?_

theorem State.devOwn_memOk {s : State} {x1} {x2} (h : s.memOk) :
    (State.devOwn s x1 x2).memOk := by
  unfold State.devOwn
  with_reducible repeat' first
    | assumption | exact memsOk_of (by assumption) | refine memsOk_of ?_ | simp only [memOk_mk] | split
    | refine State.fenceSense_memOk ?_ | refine State.getM_memOk ?_ | refine foldl_memOk ?_ (fun _ _ _ => ?_)

theorem State.devFetch_memOk {s : State} {x1} {x2} {x3} (h : s.memOk) : (State.devFetch s x1 x2 x3).memOk := by
  unfold State.devFetch
  with_reducible repeat' first | assumption | refine State.getS_memOk ?_ | refine foldl_memOk ?_ (fun _ _ _ => ?_)

theorem State.remoteFetch_memOk {s : State} {x1} {x2} {x3} (h : s.memOk) :
    (State.remoteFetch s x1 x2 x3).memOk := by
  unfold State.remoteFetch
  with_reducible repeat' first
    | assumption | exact memsOk_of (by assumption) | refine memsOk_of ?_ | simp only [memOk_mk] | split
    | refine State.touchLine_memOk ?_

theorem State.remoteStoreWord_memOk {s : State} {x1} {x2} {x3} {x4} {x5} {x6} (h : s.memOk) :
    (State.remoteStoreWord s x1 x2 x3 x4 x5 x6).memOk := by
  unfold State.remoteStoreWord
  with_reducible repeat' first
    | assumption | exact memsOk_of (by assumption) | refine memsOk_of ?_ | simp only [memOk_mk] | split
    | refine State.remoteFetch_memOk ?_ | refine State.forwardL1_memOk ?_

theorem State.remoteStore_memOk {s : State} {x1} {x2} {x3} {x4} (h : s.memOk) :
    (State.remoteStore s x1 x2 x3 x4).memOk := by
  unfold State.remoteStore
  with_reducible repeat' first
    | assumption | exact memsOk_of (by assumption) | refine memsOk_of ?_ | simp only [memOk_mk] | split
    | refine State.remoteStoreWord_memOk ?_ | refine foldl_memOk ?_ (fun _ _ _ => ?_)

theorem State.remoteWriteBack_memOk {s : State} {x1} (h : s.memOk) :
    (State.remoteWriteBack s x1).memOk := by
  unfold State.remoteWriteBack
  with_reducible repeat' first
    | assumption | exact memsOk_of (by assumption) | refine memsOk_of ?_ | simp only [memOk_mk] | split
    | refine State.remoteHome_memOk ?_ | refine foldl_memOk ?_ (fun _ _ _ => ?_)

theorem State.remoteInvalidate_memOk {s : State} {x1} (h : s.memOk) : (State.remoteInvalidate s x1).memOk := by
  unfold State.remoteInvalidate
  with_reducible repeat' first
    | assumption | refine memsOk_of ?_ | simp only [memOk_mk] | refine State.remoteWriteBack_memOk ?_
    | refine State.onDie_memOk ?_

theorem State.hostOwn_memOk {s : State} {x1} {x2} {x3} (h : s.memOk) :
    (State.hostOwn s x1 x2 x3).memOk := by
  unfold State.hostOwn
  with_reducible repeat' first
    | assumption | exact memsOk_of (by assumption) | refine memsOk_of ?_ | simp only [memOk_mk] | split
    | refine State.hostGive_memOk ?_ | refine State.touchLine_memOk ?_ | refine foldl_memOk ?_ (fun _ _ _ => ?_)

theorem State.archivePost_memOk {s : State} {x1} {x2} {x3} {x4} {x5} (h : s.memOk) : (State.archivePost s x1 x2 x3 x4 x5).memOk := by
  unfold State.archivePost
  with_reducible repeat' first | exact memsOk_of (by assumption) | simp only [memOk_mk]

theorem State.hubStore_memOk {s : State} {x1} {x2} (h : s.memOk) : (State.hubStore s x1 x2).memOk := by
  unfold State.hubStore
  with_reducible repeat' first | assumption | refine State.storeWord_memOk ?_ | refine foldl_memOk ?_ (fun _ _ _ => ?_)

theorem State.hubFetch_memOk {s : State} {x1} {x2} (h : s.memOk) : (State.hubFetch s x1 x2).memOk := by
  unfold State.hubFetch
  with_reducible repeat' first | assumption | refine State.getS_memOk ?_ | refine foldl_memOk ?_ (fun _ _ _ => ?_)

theorem State.hostStore_memOk {s : State} {x1} {x2} (h : s.memOk) : (State.hostStore s x1 x2).memOk := by
  unfold State.hostStore
  with_reducible repeat' first
    | assumption | refine memsOk_hostMem ?_ (cellWrites_wf _ (State.memOk.hostMem ?_) _) | simp only [memOk_mk]

theorem State.hostPut_memOk {s : State} {x1} {x2} (h : s.memOk) :
    (State.hostPut s x1 x2).memOk := by
  unfold State.hostPut
  with_reducible repeat' first
    | assumption | exact memsOk_of (by assumption) | refine memsOk_of ?_ | simp only [memOk_mk] | split
    | refine State.hostStore_memOk ?_ | refine State.hostGive_memOk ?_ | refine foldl_memOk ?_ (fun _ _ _ => ?_)

theorem State.hostWrite_memOk {s : State} {x1} {x2} {x3} (h : s.memOk) :
    (State.hostWrite s x1 x2 x3).memOk := by
  unfold State.hostWrite
  with_reducible repeat' first
    | assumption | exact memsOk_of (by assumption) | refine memsOk_of ?_ | simp only [memOk_mk] | split
    | refine State.hostStore_memOk ?_ | refine State.hostOwn_memOk ?_ | refine State.forwardL1_memOk ?_
    | refine foldl_memOk ?_ (fun _ _ _ => ?_)

theorem State.hostRing_memOk {s : State} {x1} {x2} {x3} {x4} (h : s.memOk) :
    (State.hostRing s x1 x2 x3 x4).memOk := by
  unfold State.hostRing
  with_reducible repeat' first
    | assumption | exact memsOk_of (by assumption) | refine memsOk_of ?_ | simp only [memOk_mk] | split
    | refine State.hostPut_memOk ?_

theorem State.engineToken_memOk {s : State} {x1} (h : s.memOk) : (State.engineToken s x1).memOk := by
  unfold State.engineToken
  with_reducible repeat' first | exact memsOk_of (by assumption) | simp only [memOk_mk] | split

theorem State.raiseEvent_memOk {s : State} {x1} {x2} {x3} {x4} (h : s.memOk) : (State.raiseEvent s x1 x2 x3 x4).memOk := by
  unfold State.raiseEvent
  with_reducible repeat' first
    | assumption | simp only [memOk_mk] | split | refine State.hostRing_memOk ?_ | refine State.engineToken_memOk ?_

theorem State.archiveRec_memOk {s : State} {x1} (h : s.memOk) : (State.archiveRec s x1).memOk := by
  unfold State.archiveRec
  with_reducible repeat' first | assumption | refine State.archivePost_memOk ?_

theorem State.onLaunch_memOk {s : State} {x1} {x2} (h : s.memOk) : (State.onLaunch s x1 x2).memOk := by
  unfold State.onLaunch
  with_reducible repeat' first | exact memsOk_of (by assumption) | simp only [memOk_mk]

theorem State.hubStoreBeside_memOk {s : State} {x1} {x2} (h : s.memOk) :
    (State.hubStoreBeside s x1 x2).memOk := by
  unfold State.hubStoreBeside
  with_reducible repeat' first
    | assumption | exact memsOk_of (by assumption) | refine memsOk_of ?_ | simp only [memOk_mk] | split
    | refine State.hubStore_memOk ?_

theorem State.fqWrite_memOk {s : State} {x1} {x2} (h : s.memOk) :
    (State.fqWrite s x1 x2).memOk := by
  unfold State.fqWrite
  with_reducible repeat' first
    | assumption | exact memsOk_of (by assumption) | refine memsOk_of ?_ | simp only [memOk_mk] | split
    | refine State.hostPut_memOk ?_ | refine State.hubStoreBeside_memOk ?_ | refine State.archiveRec_memOk ?_
    | refine State.onLaunch_memOk ?_ | refine State.raiseEvent_memOk ?_

theorem State.fqPost_memOk {s : State} {x1} {x2} (h : s.memOk) : (State.fqPost s x1 x2).memOk := by
  unfold State.fqPost
  with_reducible repeat' first
    | assumption | exact memsOk_of (by assumption) | refine memsOk_of ?_ | simp only [memOk_mk] | split
    | refine State.archiveRec_memOk ?_ | refine State.fqWrite_memOk ?_

theorem State.candidate_memOk {s : State} {x1} (h : s.memOk) :
    (State.candidate s x1).memOk := by
  unfold State.candidate
  with_reducible repeat' first
    | assumption | exact memsOk_of (by assumption) | refine memsOk_of ?_ | simp only [memOk_mk] | split

theorem State.postMemError_memOk {s : State} {x1} {x2} {x3} (h : s.memOk) :
    (State.postMemError s x1 x2 x3).memOk := by
  unfold State.postMemError
  with_reducible repeat' first
    | assumption | exact memsOk_of (by assumption) | refine memsOk_of ?_ | simp only [memOk_mk] | split
    | refine State.fqPost_memOk ?_ | refine State.candidate_memOk ?_

theorem State.postUnitError_memOk {s : State} {x1} {x2} {x3} (h : s.memOk) :
    (State.postUnitError s x1 x2 x3).memOk := by
  unfold State.postUnitError
  with_reducible repeat' first
    | assumption | exact memsOk_of (by assumption) | refine memsOk_of ?_ | simp only [memOk_mk] | split
    | refine State.fqPost_memOk ?_

theorem State.settle_memOk {s : State} (h : s.memOk) : (State.settle s).memOk := by
  unfold State.settle
  with_reducible repeat' first
    | assumption | exact memsOk_of (by assumption) | simp only [memOk_mk] | refine State.postMemError_memOk ?_
    | refine foldl_memOk ?_ (fun _ _ _ => ?_)

theorem State.walkLevels_memOk {s : State} {x1} {x2} {x3} {x4} {x5} {x6} (h : s.memOk) :
    (State.walkLevels x1 s x2 x3 x4 x5 x6).1.memOk := by
  induction x1 generalizing s x4 x5 x6 with
  | zero => exact h
  | succ _ ih =>
    unfold State.walkLevels
    with_reducible repeat' first
      | assumption | dsimp only | split | refine ih ?_ | refine State.settle_memOk ?_ | refine State.hubFetch_memOk ?_ | refine State.accessAs_memOk ?_

theorem State.walk_memOk {s : State} {x1} {x2} (h : s.memOk) :
    (State.walk s x1 x2).1.memOk := by
  unfold State.walk
  with_reducible repeat' first
    | assumption | exact memsOk_of (by assumption) | refine memsOk_of ?_ | simp only [memOk_mk] | split
    | refine State.settle_memOk ?_ | refine State.hubFetch_memOk ?_ | refine State.accessAs_memOk ?_
    | refine State.walkLevels_memOk ?_

theorem State.setCore_memOk {s : State} {x1} {x2} (h : s.memOk) : (State.setCore s x1 x2).memOk := by
  unfold State.setCore
  with_reducible repeat' first | exact memsOk_of (by assumption) | simp only [memOk_mk]

theorem State.onCore_memOk {s : State} {x1} {x2} (h : s.memOk) : (State.onCore s x1 x2).memOk := by
  unfold State.onCore
  with_reducible repeat' first | assumption | refine State.setCore_memOk ?_

theorem State.fillDie_memOk {s : State} {x1} {x2} (h : s.memOk) : (State.fillDie s x1 x2).memOk := by
  unfold State.fillDie
  with_reducible repeat' first | exact memsOk_of (by assumption) | simp only [memOk_mk]

theorem State.fillCluster_memOk {s : State} {x1} {x2} (h : s.memOk) : (State.fillCluster s x1 x2).memOk := by
  unfold State.fillCluster
  with_reducible repeat' first | exact memsOk_of (by assumption) | simp only [memOk_mk]

theorem State.fillMicro_memOk {s : State} {x1} {x2} (h : s.memOk) : (State.fillMicro s x1 x2).memOk := by
  unfold State.fillMicro
  with_reducible repeat' first | assumption | refine State.onCore_memOk ?_

theorem State.translate_memOk {s : State} {x1} {x2} {x3} {x4} {x5} (h : s.memOk) : (State.translate s x1 x2 x3 x4 x5).1.memOk := by
  unfold State.translate
  with_reducible repeat' first
    | assumption | exact memsOk_of (by assumption) | simp only [memOk_mk] | split | refine State.onCore_memOk ?_
    | refine State.fillMicro_memOk ?_ | refine State.fillCluster_memOk ?_ | refine State.walk_memOk ?_
    | refine State.fillDie_memOk ?_ | refine fst_memOk (by assumption) ?_

theorem State.hubTranslate_memOk {s : State} {x1} {x2} {x3} {x4} {x5} (h : s.memOk) :
    (State.hubTranslate s x1 x2 x3 x4 x5).1.memOk := by
  unfold State.hubTranslate
  with_reducible repeat' first
    | assumption | exact memsOk_of (by assumption) | refine memsOk_of ?_ | simp only [memOk_mk] | split
    | refine State.walk_memOk ?_ | refine State.accessAs_memOk ?_ | refine fst_memOk (by assumption) ?_

theorem State.hold_memOk {s : State} {x1} {x2} {x3} {x4} {x5} (h : s.memOk) : (State.hold s x1 x2 x3 x4 x5).memOk := by
  unfold State.hold
  with_reducible repeat' first
    | exact memsOk_of (by assumption) | simp only [memOk_mk] | split | refine State.fqPost_memOk ?_

theorem State.atsWait_memOk {s : State} {x1} {x2} {x3} {x4} (h : s.memOk) : (State.atsWait s x1 x2 x3 x4).memOk := by
  unfold State.atsWait
  with_reducible repeat' first | exact memsOk_of (by assumption) | simp only [memOk_mk] | split

theorem State.setFvalid_memOk {s : State} {x1} {x2} (h : s.memOk) :
    (State.setFvalid s x1 x2).memOk := by
  unfold State.setFvalid
  with_reducible repeat' first
    | assumption | exact memsOk_of (by assumption) | refine memsOk_of ?_ | simp only [memOk_mk] | split
    | refine State.onCore_memOk ?_

theorem State.storeRecord_memOk {s : State} {x1} {x2} {x3} {x4} {x5} (h : s.memOk) :
    (State.storeRecord s x1 x2 x3 x4 x5).1.memOk := by
  unfold State.storeRecord
  with_reducible repeat' first
    | assumption | exact memsOk_of (by assumption) | refine memsOk_of ?_ | simp only [memOk_mk] | split
    | refine State.translate_memOk ?_ | refine State.devStore_memOk ?_ | refine State.hostWrite_memOk ?_
    | refine State.remoteStore_memOk ?_ | refine State.setFvalid_memOk ?_ | refine State.hold_memOk ?_
    | refine State.atsWait_memOk ?_ | refine fst_memOk (by assumption) ?_

theorem State.wake_memOk {s : State} {x1} (h : s.memOk) : (State.wake s x1).memOk := by
  unfold State.wake
  with_reducible repeat' first
    | assumption | exact memsOk_of (by assumption) | simp only [memOk_mk] | split | refine State.onCore_memOk ?_
    | refine State.storeRecord_memOk ?_

theorem State.walkersGo_memOk {s : State} (h : s.memOk) : (State.walkersGo s).memOk := by
  unfold State.walkersGo
  with_reducible repeat' first
    | assumption | exact memsOk_of (by assumption) | simp only [memOk_mk] | refine State.wake_memOk ?_
    | refine foldl_memOk ?_ (fun _ _ _ => ?_)

theorem State.release_memOk {s : State} {x1} (h : s.memOk) : (State.release s x1).memOk := by
  unfold State.release
  with_reducible repeat' first
    | assumption | exact memsOk_of (by assumption) | simp only [memOk_mk] | refine State.walkersGo_memOk ?_
    | refine State.wake_memOk ?_ | refine foldl_memOk ?_ (fun _ _ _ => ?_)

theorem State.dropHeld_memOk {s : State} {x1} (h : s.memOk) :
    (State.dropHeld s x1).memOk := by
  unfold State.dropHeld
  with_reducible repeat' first
    | assumption | exact memsOk_of (by assumption) | refine memsOk_of ?_ | simp only [memOk_mk] | split
    | refine State.walkersGo_memOk ?_

theorem State.muteHeld_memOk {s : State} {x1} {x2} (h : s.memOk) :
    (State.muteHeld s x1 x2).memOk := by
  unfold State.muteHeld
  with_reducible repeat' first
    | assumption | exact memsOk_of (by assumption) | refine memsOk_of ?_ | simp only [memOk_mk] | split
    | refine State.onCore_memOk ?_

theorem State.onThread_memOk {s : State} {x1} {x2} {x3} (h : s.memOk) : (State.onThread s x1 x2 x3).memOk := by
  unfold State.onThread
  with_reducible repeat' first | assumption | refine State.onCore_memOk ?_

theorem State.onWg_memOk {s : State} {x1} {x2} {x3} (h : s.memOk) : (State.onWg s x1 x2 x3).memOk := by
  unfold State.onWg
  with_reducible repeat' first | exact memsOk_of (by assumption) | simp only [memOk_mk]

theorem State.fireOn_memOk {s : State} {x1} (h : s.memOk) :
    (State.fireOn s x1).memOk := by
  unfold State.fireOn
  with_reducible repeat' first
    | assumption | exact memsOk_of (by assumption) | refine memsOk_of ?_ | simp only [memOk_mk]

theorem State.abortWg_memOk {s : State} {x1} {x2} (h : s.memOk) :
    (State.abortWg s x1 x2).memOk := by
  unfold State.abortWg
  with_reducible repeat' first
    | assumption | exact memsOk_of (by assumption) | refine memsOk_of ?_ | simp only [memOk_mk] | split
    | refine State.onWg_memOk ?_ | refine State.onLaunch_memOk ?_ | refine State.dropHeld_memOk ?_
    | refine State.fireOn_memOk ?_ | refine State.onCore_memOk ?_ | refine foldl_memOk ?_ (fun _ _ _ => ?_)

theorem State.reportAbort_memOk {s : State} {x1} {x2} {x3} (h : s.memOk) :
    (State.reportAbort s x1 x2 x3).memOk := by
  unfold State.reportAbort
  with_reducible repeat' first
    | assumption | exact memsOk_of (by assumption) | refine memsOk_of ?_ | simp only [memOk_mk] | split
    | refine State.onWg_memOk ?_

theorem State.postCopies_memOk {s : State} (h : s.memOk) :
    (State.postCopies s).memOk := by
  unfold State.postCopies
  with_reducible repeat' first
    | assumption | exact memsOk_of (by assumption) | refine memsOk_of ?_ | simp only [memOk_mk] | split
    | refine State.fqPost_memOk ?_ | refine foldl_memOk ?_ (fun _ _ _ => ?_)

theorem State.divert_memOk {s : State} {x1} {x2} (h : s.memOk) : (State.divert s x1 x2).memOk := by
  unfold State.divert
  with_reducible repeat' first
    | assumption | simp only [memOk_mk] | split | refine State.onThread_memOk ?_ | refine State.abortWg_memOk ?_

theorem State.storeOwn_memOk {s : State} {x1} {x2} {x3} {x4} (h : s.memOk) :
    (State.storeOwn s x1 x2 x3 x4).1.memOk := by
  unfold State.storeOwn
  with_reducible repeat' first
    | assumption | exact memsOk_of (by assumption) | refine memsOk_of ?_ | simp only [memOk_mk] | split
    | refine State.storeRecord_memOk ?_

theorem State.recordRefused_memOk {s : State} {x1} {x2} {x3} (h : s.memOk) :
    (State.recordRefused s x1 x2 x3).memOk := by
  unfold State.recordRefused
  with_reducible repeat' first
    | assumption | exact memsOk_of (by assumption) | refine memsOk_of ?_ | simp only [memOk_mk] | split
    | refine State.abortWg_memOk ?_ | refine State.fqPost_memOk ?_

theorem State.laterFault_memOk {s : State} {x1} {x2} {x3} (h : s.memOk) :
    (State.laterFault s x1 x2 x3).memOk := by
  unfold State.laterFault
  with_reducible repeat' first
    | assumption | exact memsOk_of (by assumption) | refine memsOk_of ?_ | simp only [memOk_mk] | split
    | refine State.archiveRec_memOk ?_ | refine State.storeOwn_memOk ?_ | refine State.reportAbort_memOk ?_
    | refine State.onThread_memOk ?_

theorem State.contain_memOk {s : State} {x1} {x2} {x3} (h : s.memOk) :
    (State.contain s x1 x2 x3).memOk := by
  unfold State.contain
  with_reducible repeat' first
    | assumption | exact memsOk_of (by assumption) | refine memsOk_of ?_ | simp only [memOk_mk] | split
    | refine State.laterFault_memOk ?_ | refine State.fireOn_memOk ?_ | refine State.muteHeld_memOk ?_
    | refine State.archiveRec_memOk ?_ | refine State.storeOwn_memOk ?_ | refine State.onThread_memOk ?_
    | refine State.reportAbort_memOk ?_ | refine State.recordRefused_memOk ?_ | refine State.abortWg_memOk ?_
    | refine State.divert_memOk ?_

theorem State.commit_memOk {s : State} {x1} {x2} {x3} {x4} {x5} (h : s.memOk) :
    (State.commit s x1 x2 x3 x4 x5).memOk := by
  unfold State.commit
  with_reducible repeat' first
    | assumption | exact memsOk_of (by assumption) | refine memsOk_of ?_ | simp only [memOk_mk] | split
    | refine State.contain_memOk ?_

theorem State.abortFault_memOk {s : State} {x1} {x2} {x3} (h : s.memOk) :
    (State.abortFault s x1 x2 x3).memOk := by
  unfold State.abortFault
  with_reducible repeat' first
    | assumption | exact memsOk_of (by assumption) | refine memsOk_of ?_ | simp only [memOk_mk] | split
    | refine State.storeOwn_memOk ?_ | refine State.abortWg_memOk ?_ | refine State.fqPost_memOk ?_

theorem State.refuse_memOk {s : State} {x1} {x2} (h : s.memOk) :
    (State.refuse s x1 x2).memOk := by
  unfold State.refuse
  with_reducible repeat' first
    | assumption | exact memsOk_of (by assumption) | refine memsOk_of ?_ | simp only [memOk_mk] | split
    | refine State.abortFault_memOk ?_ | refine State.abortWg_memOk ?_ | refine State.fqPost_memOk ?_

theorem State.send_memOk {s : State} {x1} {x2} {x3} {x4} {x5} {x6} (h : s.memOk) : (State.send s x1 x2 x3 x4 x5 x6).memOk := by
  unfold State.send
  with_reducible repeat' first
    | assumption | simp only [memOk_mk] | split | refine State.onCore_memOk ?_ | refine State.onThread_memOk ?_
    | refine State.commit_memOk ?_

theorem State.emitBoth_memOk {s : State} {x1} {x2} {x3} (h : s.memOk) : (State.emitBoth s x1 x2 x3).memOk := by
  unfold State.emitBoth
  with_reducible repeat' first | assumption | refine State.send_memOk ?_

theorem State.emit2_memOk {s : State} {x1} {x2} {x3} {x4} (h : s.memOk) : (State.emit2 s x1 x2 x3 x4).memOk := by
  unfold State.emit2
  with_reducible repeat' first | assumption | refine State.send_memOk ?_

theorem State.park_memOk {s : State} {x1} {x2} (h : s.memOk) : (State.park s x1 x2).memOk := by
  unfold State.park
  with_reducible repeat' first | assumption | refine State.onCore_memOk ?_

theorem State.locateCtx_memOk {s : State} {x1} {x2} {x3} {x4} {x5} (h : s.memOk) : (State.locateCtx s x1 x2 x3 x4 x5).1.memOk := by
  unfold State.locateCtx
  with_reducible repeat' first
    | assumption | simp only [memOk_mk] | split | refine State.translate_memOk ?_ | refine fst_memOk (by assumption) ?_

theorem State.locate_memOk {s : State} {x1} {x2} {x3} {x4} {x5} (h : s.memOk) : (State.locate s x1 x2 x3 x4 x5).1.memOk := by
  unfold State.locate
  with_reducible repeat' first | assumption | refine State.locateCtx_memOk ?_ | refine State.accessAs_memOk ?_

theorem State.readPlace_memOk {s : State} {x1} {x2} {x3} {x4} {x5} {x6} (h : s.memOk) :
    (State.readPlace s x1 x2 x3 x4 x5 x6).1.memOk := by
  unfold State.readPlace
  with_reducible repeat' first
    | assumption | exact memsOk_of (by assumption) | refine memsOk_of ?_ | simp only [memOk_mk] | split
    | refine State.settle_memOk ?_ | refine State.devFetch_memOk ?_ | refine State.accessAs_memOk ?_
    | refine State.hostOwn_memOk ?_ | refine State.remoteFetch_memOk ?_ | refine foldl_memOk ?_ (fun _ _ _ => ?_)

theorem State.writePlace_memOk {s : State} {x1} {x2} {x3} {x4} {x5} {x6} (h : s.memOk) :
    (State.writePlace s x1 x2 x3 x4 x5 x6).memOk := by
  unfold State.writePlace
  with_reducible repeat' first
    | assumption | exact memsOk_of (by assumption) | refine memsOk_of ?_ | simp only [memOk_mk] | split
    | refine State.settle_memOk ?_ | refine State.devStore_memOk ?_ | refine State.accessAs_memOk ?_
    | refine State.hostWrite_memOk ?_ | refine State.remoteStore_memOk ?_ | refine State.onCore_memOk ?_

theorem State.poisonPlace_memOk {s : State} {x1} {x2} {x3} {x4} {x5} (h : s.memOk) :
    (State.poisonPlace s x1 x2 x3 x4 x5).memOk := by
  unfold State.poisonPlace
  with_reducible repeat' first
    | assumption | exact memsOk_of (by assumption) | refine memsOk_of ?_ | simp only [memOk_mk] | split
    | refine State.settle_memOk ?_ | refine State.devPoison_memOk ?_ | refine State.devStore_memOk ?_
    | refine State.accessAs_memOk ?_ | refine State.hostWrite_memOk ?_ | refine State.remoteStoreWord_memOk ?_
    | refine State.onCore_memOk ?_

theorem State.value2_memOk {s : State} {x1} {x2} {x3} (h : s.memOk) : (State.value2 s x1 x2 x3).memOk := by
  unfold State.value2
  with_reducible repeat' first
    | assumption | simp only [memOk_mk] | split | refine State.emitBoth_memOk ?_ | refine State.commit_memOk ?_
    | refine State.emit2_memOk ?_

theorem State.value_memOk {s : State} {x1} {x2} {x3} (h : s.memOk) : (State.value s x1 x2 x3).memOk := by
  unfold State.value
  with_reducible repeat' first | assumption | refine State.value2_memOk ?_

theorem State.triggered_memOk {s : State} {x1} {x2} {x3} (h : s.memOk) (hg : ∀ t : State, t.memOk → (x3 t).memOk) : (State.triggered s x1 x2 x3).memOk := by
  unfold State.triggered
  with_reducible repeat' first
    | assumption | split | refine State.emitBoth_memOk ?_ | refine State.commit_memOk ?_ | refine hg _ ?_

theorem State.operation_memOk {s : State} {x1} {x2} {x3} {x4} {x5} (h : s.memOk) (hg : ∀ t : State, t.memOk → (x5 t).memOk) : (State.operation s x1 x2 x3 x4 x5).memOk := by
  unfold State.operation
  with_reducible repeat' first
    | assumption | split | refine State.emitBoth_memOk ?_ | refine State.emit2_memOk ?_ | refine State.commit_memOk ?_
    | refine hg _ ?_

theorem State.locateOf_memOk {s : State} {x1} {x2} {x3} {x4} (h : s.memOk) :
    (State.locateOf s x1 x2 x3 x4).1.memOk := by
  unfold State.locateOf
  with_reducible repeat' first
    | assumption | exact memsOk_of (by assumption) | refine memsOk_of ?_ | simp only [memOk_mk] | split
    | refine State.locateCtx_memOk ?_ | refine State.accessAs_memOk ?_ | refine State.locate_memOk ?_

theorem State.stopAccess_memOk {s : State} {x1} {x2} {x3} {x4} (h : s.memOk) :
    (State.stopAccess s x1 x2 x3 x4).memOk := by
  unfold State.stopAccess
  with_reducible repeat' first
    | assumption | exact memsOk_of (by assumption) | refine memsOk_of ?_ | simp only [memOk_mk] | split
    | refine State.commit_memOk ?_ | refine State.hold_memOk ?_ | refine State.refuse_memOk ?_
    | refine State.atsWait_memOk ?_ | refine State.park_memOk ?_

theorem State.parkRelease_memOk {s : State} {x1} {x2} {x3} (h : s.memOk) :
    (State.parkRelease s x1 x2 x3).memOk := by
  unfold State.parkRelease
  with_reducible repeat' first
    | assumption | exact memsOk_of (by assumption) | refine memsOk_of ?_ | simp only [memOk_mk] | split
    | refine State.park_memOk ?_

theorem execAdd_memOk {s : State} {x1} (h : s.memOk) : outOk (execAdd x1 s) := by
  unfold execAdd
  with_reducible repeat' first | assumption | refine outOk_next ?_ | refine State.value_memOk ?_

theorem execSub_memOk {s : State} {x1} (h : s.memOk) : outOk (execSub x1 s) := by
  unfold execSub
  with_reducible repeat' first | assumption | refine outOk_next ?_ | refine State.value_memOk ?_

theorem execMul_memOk {s : State} {x1} (h : s.memOk) : outOk (execMul x1 s) := by
  unfold execMul
  with_reducible repeat' first | assumption | refine outOk_next ?_ | refine State.value_memOk ?_

theorem execMulh_memOk {s : State} {x1} (h : s.memOk) : outOk (execMulh x1 s) := by
  unfold execMulh
  with_reducible repeat' first | assumption | refine outOk_next ?_ | refine State.value_memOk ?_

theorem execMad_memOk {s : State} {x1} (h : s.memOk) : outOk (execMad x1 s) := by
  unfold execMad
  with_reducible repeat' first | assumption | refine outOk_next ?_ | refine State.value_memOk ?_

theorem execDiv_memOk {s : State} {x1} (h : s.memOk) : outOk (execDiv x1 s) := by
  unfold execDiv
  with_reducible repeat' first | assumption | refine outOk_next ?_ | refine State.value_memOk ?_

theorem execRem_memOk {s : State} {x1} (h : s.memOk) : outOk (execRem x1 s) := by
  unfold execRem
  with_reducible repeat' first | assumption | refine outOk_next ?_ | refine State.value_memOk ?_

theorem execNeg_memOk {s : State} {x1} (h : s.memOk) : outOk (execNeg x1 s) := by
  unfold execNeg
  with_reducible repeat' first | assumption | refine outOk_next ?_ | refine State.value_memOk ?_

theorem execAbs_memOk {s : State} {x1} (h : s.memOk) : outOk (execAbs x1 s) := by
  unfold execAbs
  with_reducible repeat' first | assumption | refine outOk_next ?_ | refine State.value_memOk ?_

theorem execMin_memOk {s : State} {x1} (h : s.memOk) : outOk (execMin x1 s) := by
  unfold execMin
  with_reducible repeat' first | assumption | refine outOk_next ?_ | refine State.value_memOk ?_

theorem execMax_memOk {s : State} {x1} (h : s.memOk) : outOk (execMax x1 s) := by
  unfold execMax
  with_reducible repeat' first | assumption | refine outOk_next ?_ | refine State.value_memOk ?_

theorem execAnd_memOk {s : State} {x1} (h : s.memOk) : outOk (execAnd x1 s) := by
  unfold execAnd
  with_reducible repeat' first | assumption | refine outOk_next ?_ | refine State.value_memOk ?_

theorem execOr_memOk {s : State} {x1} (h : s.memOk) : outOk (execOr x1 s) := by
  unfold execOr
  with_reducible repeat' first | assumption | refine outOk_next ?_ | refine State.value_memOk ?_

theorem execXor_memOk {s : State} {x1} (h : s.memOk) : outOk (execXor x1 s) := by
  unfold execXor
  with_reducible repeat' first | assumption | refine outOk_next ?_ | refine State.value_memOk ?_

theorem execNot_memOk {s : State} {x1} (h : s.memOk) : outOk (execNot x1 s) := by
  unfold execNot
  with_reducible repeat' first | assumption | refine outOk_next ?_ | refine State.value_memOk ?_

theorem execShl_memOk {s : State} {x1} (h : s.memOk) : outOk (execShl x1 s) := by
  unfold execShl
  with_reducible repeat' first | assumption | refine outOk_next ?_ | refine State.value_memOk ?_

theorem execShr_memOk {s : State} {x1} (h : s.memOk) : outOk (execShr x1 s) := by
  unfold execShr
  with_reducible repeat' first | assumption | refine outOk_next ?_ | refine State.value_memOk ?_

theorem execSar_memOk {s : State} {x1} (h : s.memOk) : outOk (execSar x1 s) := by
  unfold execSar
  with_reducible repeat' first | assumption | refine outOk_next ?_ | refine State.value_memOk ?_

theorem execRol_memOk {s : State} {x1} (h : s.memOk) : outOk (execRol x1 s) := by
  unfold execRol
  with_reducible repeat' first | assumption | refine outOk_next ?_ | refine State.value_memOk ?_

theorem execRor_memOk {s : State} {x1} (h : s.memOk) : outOk (execRor x1 s) := by
  unfold execRor
  with_reducible repeat' first | assumption | refine outOk_next ?_ | refine State.value_memOk ?_

theorem execClz_memOk {s : State} {x1} (h : s.memOk) : outOk (execClz x1 s) := by
  unfold execClz
  with_reducible repeat' first | assumption | refine outOk_next ?_ | refine State.value_memOk ?_

theorem execCtz_memOk {s : State} {x1} (h : s.memOk) : outOk (execCtz x1 s) := by
  unfold execCtz
  with_reducible repeat' first | assumption | refine outOk_next ?_ | refine State.value_memOk ?_

theorem execPopc_memOk {s : State} {x1} (h : s.memOk) : outOk (execPopc x1 s) := by
  unfold execPopc
  with_reducible repeat' first | assumption | refine outOk_next ?_ | refine State.value_memOk ?_

theorem execBrev_memOk {s : State} {x1} (h : s.memOk) : outOk (execBrev x1 s) := by
  unfold execBrev
  with_reducible repeat' first | assumption | refine outOk_next ?_ | refine State.value_memOk ?_

theorem execBfx_memOk {s : State} {x1} (h : s.memOk) : outOk (execBfx x1 s) := by
  unfold execBfx
  with_reducible repeat' first | assumption | refine outOk_next ?_ | refine State.value_memOk ?_

theorem execBfi_memOk {s : State} {x1} (h : s.memOk) : outOk (execBfi x1 s) := by
  unfold execBfi
  with_reducible repeat' first | assumption | refine outOk_next ?_ | refine State.value_memOk ?_

theorem execCmp_memOk {s : State} {x1} (h : s.memOk) : outOk (execCmp x1 s) := by
  unfold execCmp
  with_reducible repeat' first | assumption | refine outOk_next ?_ | refine State.value_memOk ?_

theorem execSel_memOk {s : State} {x1} (h : s.memOk) : outOk (execSel x1 s) := by
  unfold execSel
  with_reducible repeat' first
    | assumption | simp only [memOk_mk] | refine outOk_next ?_ | split | refine State.emitBoth_memOk ?_
    | refine State.commit_memOk ?_

theorem execSext_memOk {s : State} {x1} (h : s.memOk) : outOk (execSext x1 s) := by
  unfold execSext
  with_reducible repeat' first | assumption | refine outOk_next ?_ | refine State.value_memOk ?_

theorem execZext_memOk {s : State} {x1} (h : s.memOk) : outOk (execZext x1 s) := by
  unfold execZext
  with_reducible repeat' first | assumption | refine outOk_next ?_ | refine State.value_memOk ?_

theorem execAddc_memOk {s : State} {x1} (h : s.memOk) : outOk (execAddc x1 s) := by
  unfold execAddc
  with_reducible repeat' first
    | assumption | simp only [memOk_mk] | refine outOk_next ?_ | split | refine State.value2_memOk ?_

theorem execSubb_memOk {s : State} {x1} (h : s.memOk) : outOk (execSubb x1 s) := by
  unfold execSubb
  with_reducible repeat' first
    | assumption | simp only [memOk_mk] | refine outOk_next ?_ | split | refine State.value2_memOk ?_

theorem execLea_memOk {s : State} {x1} (h : s.memOk) : outOk (execLea x1 s) := by
  unfold execLea
  with_reducible repeat' first | assumption | refine outOk_next ?_ | refine State.value_memOk ?_

theorem execMov_memOk {s : State} {x1} (h : s.memOk) : outOk (execMov x1 s) := by
  unfold execMov
  with_reducible repeat' first | assumption | refine outOk_next ?_ | refine State.value_memOk ?_

theorem execConst_memOk {s : State} {x1} (h : s.memOk) : outOk (execConst x1 s) := by
  unfold execConst
  with_reducible repeat' first
    | assumption | simp only [memOk_mk] | refine outOk_next ?_ | split | refine State.triggered_memOk ?_ (fun _ _ => ?_)
    | refine State.emitBoth_memOk ?_

theorem State.floatOp_memOk {s : State} {x1} {x2} (h : s.memOk) : (State.floatOp s x1 x2).memOk := by
  unfold State.floatOp
  with_reducible repeat' first | assumption | simp only [memOk_mk] | refine State.value_memOk ?_

theorem State.packedOp_memOk {s : State} {x1} {x2} (h : s.memOk) : (State.packedOp s x1 x2).memOk := by
  unfold State.packedOp
  with_reducible repeat' first | assumption | simp only [memOk_mk] | refine State.value_memOk ?_

theorem execFadd_memOk {s : State} {x1} (h : s.memOk) : outOk (execFadd x1 s) := by
  unfold execFadd
  with_reducible repeat' first | assumption | refine outOk_next ?_ | refine State.floatOp_memOk ?_

theorem execFsub_memOk {s : State} {x1} (h : s.memOk) : outOk (execFsub x1 s) := by
  unfold execFsub
  with_reducible repeat' first | assumption | refine outOk_next ?_ | refine State.floatOp_memOk ?_

theorem execFmul_memOk {s : State} {x1} (h : s.memOk) : outOk (execFmul x1 s) := by
  unfold execFmul
  with_reducible repeat' first | assumption | refine outOk_next ?_ | refine State.floatOp_memOk ?_

theorem execFfma_memOk {s : State} {x1} (h : s.memOk) : outOk (execFfma x1 s) := by
  unfold execFfma
  with_reducible repeat' first | assumption | refine outOk_next ?_ | refine State.floatOp_memOk ?_

theorem execFrnd_memOk {s : State} {x1} (h : s.memOk) : outOk (execFrnd x1 s) := by
  unfold execFrnd
  with_reducible repeat' first | assumption | refine outOk_next ?_ | refine State.floatOp_memOk ?_

theorem execFdiv_memOk {s : State} {x1} (h : s.memOk) : outOk (execFdiv x1 s) := by
  unfold execFdiv
  with_reducible repeat' first | assumption | refine outOk_next ?_ | refine State.floatOp_memOk ?_

theorem execFrcp_memOk {s : State} {x1} (h : s.memOk) : outOk (execFrcp x1 s) := by
  unfold execFrcp
  with_reducible repeat' first | assumption | refine outOk_next ?_ | refine State.floatOp_memOk ?_

theorem execFsqrt_memOk {s : State} {x1} (h : s.memOk) : outOk (execFsqrt x1 s) := by
  unfold execFsqrt
  with_reducible repeat' first | assumption | refine outOk_next ?_ | refine State.floatOp_memOk ?_

theorem execFrsq_memOk {s : State} {x1} (h : s.memOk) : outOk (execFrsq x1 s) := by
  unfold execFrsq
  with_reducible repeat' first | assumption | refine outOk_next ?_ | refine State.floatOp_memOk ?_

theorem execFexp2_memOk {s : State} {x1} (h : s.memOk) : outOk (execFexp2 x1 s) := by
  unfold execFexp2
  with_reducible repeat' first | assumption | refine outOk_next ?_ | refine State.floatOp_memOk ?_

theorem execFlog2_memOk {s : State} {x1} (h : s.memOk) : outOk (execFlog2 x1 s) := by
  unfold execFlog2
  with_reducible repeat' first | assumption | refine outOk_next ?_ | refine State.floatOp_memOk ?_

theorem execFsin_memOk {s : State} {x1} (h : s.memOk) : outOk (execFsin x1 s) := by
  unfold execFsin
  with_reducible repeat' first | assumption | refine outOk_next ?_ | refine State.floatOp_memOk ?_

theorem execFcos_memOk {s : State} {x1} (h : s.memOk) : outOk (execFcos x1 s) := by
  unfold execFcos
  with_reducible repeat' first | assumption | refine outOk_next ?_ | refine State.floatOp_memOk ?_

theorem execFscale_memOk {s : State} {x1} (h : s.memOk) : outOk (execFscale x1 s) := by
  unfold execFscale
  with_reducible repeat' first | assumption | simp only [memOk_mk] | refine outOk_next ?_ | refine State.value_memOk ?_

theorem execFneg_memOk {s : State} {x1} (h : s.memOk) : outOk (execFneg x1 s) := by
  unfold execFneg
  with_reducible repeat' first | assumption | refine outOk_next ?_ | refine State.value_memOk ?_

theorem execFabs_memOk {s : State} {x1} (h : s.memOk) : outOk (execFabs x1 s) := by
  unfold execFabs
  with_reducible repeat' first | assumption | refine outOk_next ?_ | refine State.value_memOk ?_

theorem execFsign_memOk {s : State} {x1} (h : s.memOk) : outOk (execFsign x1 s) := by
  unfold execFsign
  with_reducible repeat' first
    | assumption | simp only [memOk_mk] | refine outOk_next ?_ | split | refine State.value_memOk ?_

theorem execFmin_memOk {s : State} {x1} (h : s.memOk) : outOk (execFmin x1 s) := by
  unfold execFmin
  with_reducible repeat' first | assumption | refine outOk_next ?_ | refine State.floatOp_memOk ?_

theorem execFmax_memOk {s : State} {x1} (h : s.memOk) : outOk (execFmax x1 s) := by
  unfold execFmax
  with_reducible repeat' first | assumption | refine outOk_next ?_ | refine State.floatOp_memOk ?_

theorem execFcmp_memOk {s : State} {x1} (h : s.memOk) : outOk (execFcmp x1 s) := by
  unfold execFcmp
  with_reducible repeat' first | assumption | refine outOk_next ?_ | refine State.value_memOk ?_

theorem execFclass_memOk {s : State} {x1} (h : s.memOk) : outOk (execFclass x1 s) := by
  unfold execFclass
  with_reducible repeat' first | assumption | refine outOk_next ?_ | refine State.value_memOk ?_

theorem execFcvt_memOk {s : State} {x1} (h : s.memOk) : outOk (execFcvt x1 s) := by
  unfold execFcvt
  with_reducible repeat' first | assumption | simp only [memOk_mk] | refine outOk_next ?_ | refine State.value_memOk ?_

theorem execFcvti_memOk {s : State} {x1} (h : s.memOk) : outOk (execFcvti x1 s) := by
  unfold execFcvti
  with_reducible repeat' first | assumption | simp only [memOk_mk] | refine outOk_next ?_ | refine State.value_memOk ?_

theorem execIcvtf_memOk {s : State} {x1} (h : s.memOk) : outOk (execIcvtf x1 s) := by
  unfold execIcvtf
  with_reducible repeat' first | assumption | simp only [memOk_mk] | refine outOk_next ?_ | refine State.value_memOk ?_

theorem execFfrexp_memOk {s : State} {x1} (h : s.memOk) : outOk (execFfrexp x1 s) := by
  unfold execFfrexp
  with_reducible repeat' first | assumption | simp only [memOk_mk] | refine outOk_next ?_ | refine State.value2_memOk ?_

theorem execHadd2_memOk {s : State} {x1} (h : s.memOk) : outOk (execHadd2 x1 s) := by
  unfold execHadd2
  with_reducible repeat' first | assumption | refine outOk_next ?_ | refine State.packedOp_memOk ?_

theorem execHmul2_memOk {s : State} {x1} (h : s.memOk) : outOk (execHmul2 x1 s) := by
  unfold execHmul2
  with_reducible repeat' first | assumption | refine outOk_next ?_ | refine State.packedOp_memOk ?_

theorem execHfma2_memOk {s : State} {x1} (h : s.memOk) : outOk (execHfma2 x1 s) := by
  unfold execHfma2
  with_reducible repeat' first | assumption | refine outOk_next ?_ | refine State.packedOp_memOk ?_

theorem execFdot2_memOk {s : State} {x1} (h : s.memOk) : outOk (execFdot2 x1 s) := by
  unfold execFdot2
  with_reducible repeat' first
    | assumption | simp only [memOk_mk] | refine outOk_next ?_ | split | refine State.value_memOk ?_

theorem State.setFpmode_memOk {s : State} {x1} {x2} (h : s.memOk) : (State.setFpmode s x1 x2).memOk := by
  unfold State.setFpmode
  with_reducible repeat' first
    | assumption | simp only [memOk_mk] | refine State.emitBoth_memOk ?_ | refine State.onThread_memOk ?_

theorem execFpmodeImm_memOk {s : State} {x1} (h : s.memOk) : outOk (execFpmodeImm x1 s) := by
  unfold execFpmodeImm
  with_reducible repeat' first
    | assumption | refine outOk_next ?_ | refine State.triggered_memOk ?_ (fun _ _ => ?_) | refine State.setFpmode_memOk ?_

theorem execFpmodeVal_memOk {s : State} {x1} (h : s.memOk) : outOk (execFpmodeVal x1 s) := by
  unfold execFpmodeVal
  with_reducible repeat' first
    | assumption | refine outOk_next ?_ | split | refine State.triggered_memOk ?_ (fun _ _ => ?_)
    | refine State.setFpmode_memOk ?_ | refine State.emitBoth_memOk ?_

theorem execEcatch_memOk {s : State} {x1} (h : s.memOk) : outOk (execEcatch x1 s) := by
  unfold execEcatch
  with_reducible repeat' first
    | assumption | simp only [memOk_mk] | refine outOk_next ?_ | split | refine State.emitBoth_memOk ?_
    | refine State.commit_memOk ?_ | refine State.emit2_memOk ?_

theorem State.blockReady_memOk {s : State} {x1} {x2} {x3} (h : s.memOk) :
    (State.blockReady s x1 x2 x3).memOk := by
  unfold State.blockReady
  with_reducible repeat' first
    | assumption | exact memsOk_of (by assumption) | refine memsOk_of ?_ | simp only [memOk_mk] | split
    | refine State.onCore_memOk ?_

theorem State.blockWait_memOk {s : State} {x1} {x2} (h : s.memOk) : (State.blockWait s x1 x2).memOk := by
  unfold State.blockWait
  with_reducible repeat' first | assumption | simp only [memOk_mk] | refine State.onCore_memOk ?_

theorem State.blockFired_memOk {s : State} {x1} {x2} {x3} (h : s.memOk) : (State.blockFired s x1 x2 x3).memOk := by
  unfold State.blockFired
  with_reducible repeat' first | assumption | simp only [memOk_mk] | refine State.onCore_memOk ?_

theorem State.blockNote_memOk {s : State} {x1} {x2} {x3} {x4} (h : s.memOk) : (State.blockNote s x1 x2 x3 x4).memOk := by
  unfold State.blockNote
  with_reducible repeat' first | assumption | simp only [memOk_mk] | refine State.onCore_memOk ?_

theorem State.sendScale_memOk {s : State} {x1} {x2} {x3} {x4} {x5} (h : s.memOk) : (State.sendScale s x1 x2 x3 x4 x5).memOk := by
  unfold State.sendScale
  with_reducible repeat' first | assumption | refine State.send_memOk ?_

theorem execBmax_memOk {s : State} {x1} (h : s.memOk) : outOk (execBmax x1 s) := by
  unfold execBmax
  with_reducible repeat' first
    | assumption | simp only [memOk_mk] | refine outOk_next ?_ | split | refine State.onCore_memOk ?_
    | refine State.sendScale_memOk ?_

theorem execBscale_memOk {s : State} {x1} (h : s.memOk) : outOk (execBscale x1 s) := by
  unfold execBscale
  with_reducible repeat' first
    | assumption | simp only [memOk_mk] | refine outOk_next ?_ | split | refine State.sendScale_memOk ?_

theorem State.withScale_memOk {s : State} {x1} {x2} {x3} (h : s.memOk) : (State.withScale s x1 x2 x3).memOk := by
  unfold State.withScale
  with_reducible repeat' first
    | assumption | simp only [memOk_mk] | split | refine State.blockFired_memOk ?_ | refine State.emitBoth_memOk ?_
    | refine State.blockWait_memOk ?_

theorem execBquant_memOk {s : State} {x1} (h : s.memOk) : outOk (execBquant x1 s) := by
  unfold execBquant
  with_reducible repeat' first | assumption | refine outOk_next ?_ | refine State.withScale_memOk ?_

theorem execBdequant_memOk {s : State} {x1} (h : s.memOk) : outOk (execBdequant x1 s) := by
  unfold execBdequant
  with_reducible repeat' first | assumption | refine outOk_next ?_ | refine State.withScale_memOk ?_

theorem execBpack_memOk {s : State} {x1} (h : s.memOk) : outOk (execBpack x1 s) := by
  unfold execBpack
  with_reducible repeat' first
    | assumption | simp only [memOk_mk] | refine outOk_next ?_ | split | refine State.blockNote_memOk ?_
    | refine State.blockFired_memOk ?_ | refine State.emitBoth_memOk ?_ | refine State.emit2_memOk ?_
    | refine State.blockWait_memOk ?_

theorem execBunpack_memOk {s : State} {x1} (h : s.memOk) : outOk (execBunpack x1 s) := by
  unfold execBunpack
  with_reducible repeat' first
    | assumption | simp only [memOk_mk] | refine outOk_next ?_ | split | refine State.blockNote_memOk ?_
    | refine State.blockFired_memOk ?_ | refine State.send_memOk ?_ | refine State.sendScale_memOk ?_
    | refine State.blockWait_memOk ?_

theorem execBdot_memOk {s : State} {x1} (h : s.memOk) : outOk (execBdot x1 s) := by
  unfold execBdot
  with_reducible repeat' first
    | assumption | simp only [memOk_mk] | refine outOk_next ?_ | split | refine State.blockNote_memOk ?_
    | refine State.blockFired_memOk ?_ | refine State.emitBoth_memOk ?_ | refine State.blockWait_memOk ?_

theorem execBsfwd_memOk {s : State} {x1} (h : s.memOk) : outOk (execBsfwd x1 s) := by
  unfold execBsfwd
  with_reducible repeat' first | assumption | refine outOk_next ?_ | refine State.send_memOk ?_

theorem State.fireXbegin_memOk {s : State} {x1} {x2} {x3} (h : s.memOk) : (State.fireXbegin s x1 x2 x3).memOk := by
  unfold State.fireXbegin
  with_reducible repeat' first
    | assumption | simp only [memOk_mk] | split | refine State.commit_memOk ?_ | refine State.onCore_memOk ?_
    | refine State.emit2_memOk ?_ | refine foldl_memOk ?_ (fun _ _ _ => ?_)

theorem State.giveLanes_memOk {s : State} {x1} {x2} {x3} {x4} {x5} (h : s.memOk) : (State.giveLanes s x1 x2 x3 x4 x5).memOk := by
  unfold State.giveLanes
  with_reducible repeat' first
    | assumption | simp only [memOk_mk] | split | refine State.commit_memOk ?_ | refine State.emit2_memOk ?_
    | refine State.emitBoth_memOk ?_ | refine foldl_memOk ?_ (fun _ _ _ => ?_)

theorem State.fireXend_memOk {s : State} {x1} {x2} {x3} (h : s.memOk) : (State.fireXend s x1 x2 x3).memOk := by
  unfold State.fireXend
  with_reducible repeat' first
    | assumption | simp only [memOk_mk] | split | refine State.giveLanes_memOk ?_ | refine State.onCore_memOk ?_

theorem State.fireGroup_memOk {s : State} {x1} {x2} (h : s.memOk) : (State.fireGroup s x1 x2).memOk := by
  unfold State.fireGroup
  with_reducible repeat' first
    | assumption | simp only [memOk_mk] | split | refine State.onCore_memOk ?_ | refine State.fireXbegin_memOk ?_
    | refine State.fireXend_memOk ?_ | refine State.giveLanes_memOk ?_

theorem State.tryGroup_memOk {s : State} {x1} {x2} (h : s.memOk) : (State.tryGroup s x1 x2).memOk := by
  unfold State.tryGroup
  with_reducible repeat' first | assumption | split | refine State.fireGroup_memOk ?_

theorem State.groupsGo_memOk {s : State} {x1} (h : s.memOk) : (State.groupsGo s x1).memOk := by
  unfold State.groupsGo
  with_reducible repeat' first
    | assumption | simp only [memOk_mk] | refine State.tryGroup_memOk ?_ | refine foldl_memOk ?_ (fun _ _ _ => ?_)

theorem State.groupIn_memOk {s : State} {x1} {x2} (h : s.memOk) : (State.groupIn s x1 x2).memOk := by
  unfold State.groupIn
  with_reducible repeat' first
    | assumption | simp only [memOk_mk] | refine State.setCore_memOk ?_ | refine State.groupsGo_memOk ?_

theorem State.gang_memOk {s : State} {x1} {x2} (h : s.memOk) : (State.gang s x1 x2).memOk := by
  unfold State.gang
  with_reducible repeat' first
    | assumption | simp only [memOk_mk] | split | refine State.groupIn_memOk ?_ | refine State.commit_memOk ?_

theorem execShfl_memOk {s : State} {x1} (h : s.memOk) : outOk (execShfl x1 s) := by
  unfold execShfl
  with_reducible repeat' first | assumption | refine outOk_next ?_ | refine State.gang_memOk ?_

theorem execLpush_memOk {s : State} {x1} (h : s.memOk) : outOk (execLpush x1 s) := by
  unfold execLpush
  with_reducible repeat' first | assumption | refine outOk_next ?_ | refine State.gang_memOk ?_

theorem execVote_memOk {s : State} {x1} (h : s.memOk) : outOk (execVote x1 s) := by
  unfold execVote
  with_reducible repeat' first | assumption | refine outOk_next ?_ | refine State.gang_memOk ?_

theorem execGscan_memOk {s : State} {x1} (h : s.memOk) : outOk (execGscan x1 s) := by
  unfold execGscan
  with_reducible repeat' first | assumption | refine outOk_next ?_ | refine State.gang_memOk ?_

theorem execGred_memOk {s : State} {x1} (h : s.memOk) : outOk (execGred x1 s) := by
  unfold execGred
  with_reducible repeat' first | assumption | refine outOk_next ?_ | refine State.gang_memOk ?_

theorem execGbcast_memOk {s : State} {x1} (h : s.memOk) : outOk (execGbcast x1 s) := by
  unfold execGbcast
  with_reducible repeat' first | assumption | refine outOk_next ?_ | refine State.gang_memOk ?_

theorem execGmatch_memOk {s : State} {x1} (h : s.memOk) : outOk (execGmatch x1 s) := by
  unfold execGmatch
  with_reducible repeat' first | assumption | refine outOk_next ?_ | refine State.gang_memOk ?_

theorem State.emitAt_memOk {s : State} {x1} {x2} {x3} {x4} (h : s.memOk) : (State.emitAt s x1 x2 x3 x4).memOk := by
  unfold State.emitAt
  with_reducible repeat' first | assumption | simp only [memOk_mk] | split | refine State.emitBoth_memOk ?_

theorem State.laneFinished_memOk {s : State} {x1} {x2} {x3} (h : s.memOk) : (State.laneFinished s x1 x2 x3).memOk := by
  unfold State.laneFinished
  with_reducible repeat' first | assumption | refine State.groupsGo_memOk ?_ | refine State.onCore_memOk ?_

theorem State.loopFinish_memOk {s : State} {x1} {x2} (h : s.memOk) : (State.loopFinish s x1 x2).memOk := by
  unfold State.loopFinish
  with_reducible repeat' first
    | assumption | simp only [memOk_mk] | split | refine State.setCore_memOk ?_ | refine State.send_memOk ?_
    | refine State.emitAt_memOk ?_ | refine State.laneFinished_memOk ?_

theorem State.issueIter_memOk {s : State} {x1} {x2} (h : s.memOk) : (State.issueIter s x1 x2).memOk := by
  unfold State.issueIter
  with_reducible repeat' first
    | assumption | simp only [memOk_mk] | split | refine State.setCore_memOk ?_ | refine State.send_memOk ?_

theorem State.issueLoop_memOk {s : State} {x1} {x2} {x3} (h : s.memOk) : (State.issueLoop s x1 x2 x3).memOk := by
  induction x3 generalizing s x1 x2 with
  | zero =>
    unfold State.issueLoop
    assumption
  | succ _ ih =>
    unfold State.issueLoop
    with_reducible repeat' first | assumption | split | refine State.issueIter_memOk ?_ | refine ih ?_

theorem State.startLoop_memOk {s : State} {x1} {x2} {x3} {x4} {x5} {x6} (h : s.memOk) : (State.startLoop s x1 x2 x3 x4 x5 x6).memOk := by
  unfold State.startLoop
  with_reducible repeat' first
    | assumption | simp only [memOk_mk] | split | refine State.commit_memOk ?_ | refine State.loopFinish_memOk ?_
    | refine State.setCore_memOk ?_

theorem State.badTrip_memOk {s : State} {x1} {x2} (h : s.memOk) : (State.badTrip s x1 x2).memOk := by
  unfold State.badTrip
  with_reducible repeat' first | assumption | split | refine State.commit_memOk ?_

theorem execLhead_memOk {s : State} {x1} (h : s.memOk) : outOk (execLhead x1 s) := by
  unfold execLhead
  with_reducible repeat' first
    | assumption | simp only [memOk_mk] | refine outOk_next ?_ | split | refine State.startLoop_memOk ?_
    | refine State.badTrip_memOk ?_

theorem execLsparse_memOk {s : State} {x1} (h : s.memOk) : outOk (execLsparse x1 s) := by
  unfold execLsparse
  with_reducible repeat' first
    | assumption | simp only [memOk_mk] | refine outOk_next ?_ | split | refine State.startLoop_memOk ?_
    | refine State.badTrip_memOk ?_

theorem execLtail_memOk {s : State} {x1} (h : s.memOk) : outOk (execLtail x1 s) := by
  unfold execLtail
  with_reducible repeat' first
    | assumption | simp only [memOk_mk] | refine outOk_next ?_ | split | refine State.setCore_memOk ?_
    | refine State.send_memOk ?_ | refine State.loopFinish_memOk ?_

theorem execLexit_memOk {s : State} {x1} (h : s.memOk) : outOk (execLexit x1 s) := by
  unfold execLexit
  with_reducible repeat' first
    | assumption | simp only [memOk_mk] | refine outOk_next ?_ | split | refine State.badTrip_memOk ?_
    | refine State.setCore_memOk ?_ | refine State.send_memOk ?_ | refine State.loopFinish_memOk ?_

theorem execLoopIssue_memOk {s : State} {x1} {x2} {x3} (h : s.memOk) : outOk (execLoopIssue x1 x2 x3 s) := by
  unfold execLoopIssue
  with_reducible repeat' first | assumption | refine outOk_next ?_ | split | refine State.issueLoop_memOk ?_

theorem execTagStarve_memOk {s : State} {x1} {x2} (h : s.memOk) : outOk (execTagStarve x1 x2 s) := by
  unfold execTagStarve
  with_reducible repeat' first | assumption | refine outOk_next ?_ | split | refine State.commit_memOk ?_

theorem execXbegin_memOk {s : State} {x1} (h : s.memOk) : outOk (execXbegin x1 s) := by
  unfold execXbegin
  with_reducible repeat' first | assumption | refine outOk_next ?_ | refine State.gang_memOk ?_

theorem execXround_memOk {s : State} {x1} (h : s.memOk) : outOk (execXround x1 s) := by
  unfold execXround
  with_reducible repeat' first
    | assumption | simp only [memOk_mk] | refine outOk_next ?_ | split | refine State.startLoop_memOk ?_
    | refine State.badTrip_memOk ?_

theorem State.handItem_memOk {s : State} {x1} {x2} {x3} {x4} {x5} (h : s.memOk) : (State.handItem s x1 x2 x3 x4 x5).memOk := by
  unfold State.handItem
  with_reducible repeat' first | assumption | refine State.onCore_memOk ?_

theorem execXsegred_memOk {s : State} {x1} (h : s.memOk) : outOk (execXsegred x1 s) := by
  unfold execXsegred
  with_reducible repeat' first
    | assumption | simp only [memOk_mk] | refine outOk_next ?_ | split | refine State.handItem_memOk ?_
    | refine State.emitBoth_memOk ?_ | refine State.commit_memOk ?_ | refine State.badTrip_memOk ?_

theorem execXend_memOk {s : State} {x1} (h : s.memOk) : outOk (execXend x1 s) := by
  unfold execXend
  with_reducible repeat' first | assumption | refine outOk_next ?_ | refine State.gang_memOk ?_

theorem State.quietTiles_memOk {s : State} {x1} {x2} (h : s.memOk) :
    (State.quietTiles s x1 x2).memOk := by
  unfold State.quietTiles
  with_reducible repeat' first
    | assumption | exact memsOk_of (by assumption) | refine memsOk_of ?_ | simp only [memOk_mk]

theorem State.purge_memOk {s : State} {x1} {x2} (h : s.memOk) :
    (State.purge s x1 x2).memOk := by
  unfold State.purge
  with_reducible repeat' first
    | assumption | exact memsOk_of (by assumption) | refine memsOk_of ?_ | simp only [memOk_mk] | split
    | refine State.onCore_memOk ?_ | refine State.quietTiles_memOk ?_ | refine State.muteHeld_memOk ?_
    | refine State.groupsGo_memOk ?_

theorem State.barrierTry_memOk {s : State} {x1} {x2} {x3} (h : s.memOk) : (State.barrierTry s x1 x2 x3).memOk := by
  unfold State.barrierTry
  with_reducible repeat' first
    | assumption | simp only [memOk_mk] | split | refine State.onThread_memOk ?_ | refine State.onWg_memOk ?_
    | refine foldl_memOk ?_ (fun _ _ _ => ?_)

theorem State.barriers_memOk {s : State} {x1} {x2} (h : s.memOk) : (State.barriers s x1 x2).memOk := by
  unfold State.barriers
  with_reducible repeat' first | assumption | refine State.barrierTry_memOk ?_ | refine foldl_memOk ?_ (fun _ _ _ => ?_)

theorem State.onGraph_memOk {s : State} {x1} {x2} (h : s.memOk) : (State.onGraph s x1 x2).memOk := by
  unfold State.onGraph
  with_reducible repeat' first | exact memsOk_of (by assumption) | simp only [memOk_mk]

theorem State.retireWg_memOk {s : State} {x1} {x2} (h : s.memOk) :
    (State.retireWg s x1 x2).memOk := by
  unfold State.retireWg
  with_reducible repeat' first
    | assumption | exact memsOk_of (by assumption) | refine memsOk_of ?_ | simp only [memOk_mk] | split
    | refine State.onCore_memOk ?_ | refine State.onLaunch_memOk ?_ | refine State.onGraph_memOk ?_
    | refine foldl_memOk ?_ (fun _ _ _ => ?_)

theorem State.wgReleases_memOk {s : State} {x1} {x2} (h : s.memOk) : (State.wgReleases s x1 x2).memOk := by
  unfold State.wgReleases
  with_reducible repeat' first | assumption | split | refine State.onLaunch_memOk ?_

theorem State.freeThread_memOk {s : State} {x1} {x2} (h : s.memOk) : (State.freeThread s x1 x2).memOk := by
  unfold State.freeThread
  with_reducible repeat' first
    | assumption | simp only [memOk_mk] | refine State.purge_memOk ?_ | refine State.onGraph_memOk ?_
    | refine State.onCore_memOk ?_ | refine State.wgReleases_memOk ?_ | refine State.barriers_memOk ?_
    | refine State.retireWg_memOk ?_

theorem State.countDown_memOk {s : State} {x1} {x2} {x3} (h : s.memOk) : (State.countDown s x1 x2 x3).memOk := by
  unfold State.countDown
  with_reducible repeat' first
    | assumption | simp only [memOk_mk] | split | refine State.onThread_memOk ?_ | refine State.freeThread_memOk ?_

theorem State.countUp_memOk {s : State} {x1} {x2} {x3} (h : s.memOk) : (State.countUp s x1 x2 x3).memOk := by
  unfold State.countUp
  with_reducible repeat' first | assumption | refine State.onThread_memOk ?_

theorem State.parkCounter_memOk {s : State} {x1} (h : s.memOk) : (State.parkCounter s x1).memOk := by
  unfold State.parkCounter
  with_reducible repeat' first | assumption | refine State.park_memOk ?_ | refine State.onCore_memOk ?_

theorem execFaultedDrained_memOk {s : State} {x1} {x2} (h : s.memOk) :
    outOk (execFaultedDrained x1 x2 s) := by
  unfold execFaultedDrained
  with_reducible repeat' first
    | assumption | exact memsOk_of (by assumption) | refine memsOk_of ?_ | simp only [memOk_mk] | refine outOk_next ?_
    | exact outOk_fault _ | exact outOk_refused _ | split | refine State.freeThread_memOk ?_
    | refine State.groupsGo_memOk ?_ | refine State.divert_memOk ?_ | refine State.purge_memOk ?_

end Sys2Proof.Machine
end

