-- ==== Sys2Proof/Laws/MemOkSlots.lean ====
section
/-! SUPPORT. No slot operation takes a memory out of its canonical form. -/

namespace Sys2Proof.Machine

set_option linter.unusedSimpArgs false

theorem execEntry_memOk {s : State} {x1} (h : s.memOk) : outOk (execEntry x1 s) := by
  unfold execEntry
  with_reducible repeat' first | assumption | refine outOk_next ?_ | split | refine State.emitBoth_memOk ?_

theorem execLvr_memOk {s : State} {x1} (h : s.memOk) : outOk (execLvr x1 s) := by
  unfold execLvr
  with_reducible repeat' first
    | assumption | simp only [memOk_mk] | refine outOk_next ?_ | refine State.triggered_memOk ?_ (fun _ _ => ?_)
    | refine State.emitBoth_memOk ?_

theorem execLvw_memOk {s : State} {x1} (h : s.memOk) : outOk (execLvw x1 s) := by
  unfold execLvw
  with_reducible repeat' first
    | assumption | simp only [memOk_mk] | refine outOk_next ?_ | refine State.triggered_memOk ?_ (fun _ _ => ?_)
    | refine State.emitBoth_memOk ?_ | refine State.send_memOk ?_

theorem State.emitFan_memOk {s : State} {x1} {x2} {x3} (h : s.memOk) : (State.emitFan s x1 x2 x3).memOk := by
  unfold State.emitFan
  with_reducible repeat' first | assumption | refine State.send_memOk ?_ | refine foldl_memOk ?_ (fun _ _ _ => ?_)

theorem execFan_memOk {s : State} {x1} (h : s.memOk) : outOk (execFan x1 s) := by
  unfold execFan
  with_reducible repeat' first
    | assumption | simp only [memOk_mk] | refine outOk_next ?_ | split | refine State.emitFan_memOk ?_
    | refine State.commit_memOk ?_

theorem execSteer_memOk {s : State} {x1} (h : s.memOk) : outOk (execSteer x1 s) := by
  unfold execSteer
  with_reducible repeat' first
    | assumption | simp only [memOk_mk] | refine outOk_next ?_ | split | refine State.emitBoth_memOk ?_
    | refine State.commit_memOk ?_ | refine State.emit2_memOk ?_

theorem execMergeFirst_memOk {s : State} {x1} (h : s.memOk) : outOk (execMergeFirst x1 s) := by
  unfold execMergeFirst
  with_reducible repeat' first
    | assumption | simp only [memOk_mk] | refine outOk_next ?_ | split | refine State.onCore_memOk ?_
    | refine State.emitBoth_memOk ?_

theorem execMergeJoin_memOk {s : State} {x1} (h : s.memOk) : outOk (execMergeJoin x1 s) := by
  unfold execMergeJoin
  with_reducible repeat' first | assumption | refine outOk_next ?_ | refine State.emitBoth_memOk ?_

theorem execSink_memOk {s : State} {x1} (h : s.memOk) : outOk (execSink x1 s) := by
  unfold execSink
  with_reducible repeat' first | assumption | refine outOk_next ?_

theorem State.leave_memOk {s : State} {x1} {x2} (h : s.memOk) : (State.leave s x1 x2).memOk := by
  unfold State.leave
  with_reducible repeat' first | assumption | refine State.purge_memOk ?_ | refine State.onThread_memOk ?_

theorem State.leaveTo_memOk {s : State} {x1} {x2} {x3} (h : s.memOk) : (State.leaveTo s x1 x2 x3).memOk := by
  unfold State.leaveTo
  with_reducible repeat' first | assumption | simp only [memOk_mk] | refine State.leave_memOk ?_

theorem execBr_memOk {s : State} {x1} (h : s.memOk) : outOk (execBr x1 s) := by
  unfold execBr
  with_reducible repeat' first
    | assumption | simp only [memOk_mk] | refine outOk_next ?_ | split | refine State.commit_memOk ?_
    | refine State.leaveTo_memOk ?_

theorem execJmp_memOk {s : State} {x1} (h : s.memOk) : outOk (execJmp x1 s) := by
  unfold execJmp
  with_reducible repeat' first
    | assumption | simp only [memOk_mk] | refine outOk_next ?_ | split | refine State.leaveTo_memOk ?_

theorem execBrx_memOk {s : State} {x1} (h : s.memOk) : outOk (execBrx x1 s) := by
  unfold execBrx
  with_reducible repeat' first
    | assumption | simp only [memOk_mk] | refine outOk_next ?_ | split | refine State.commit_memOk ?_
    | refine State.leaveTo_memOk ?_

theorem State.stopSpill_memOk {s : State} {x1} {x2} {x3} {x4} (h : s.memOk) :
    (State.stopSpill s x1 x2 x3 x4).memOk := by
  unfold State.stopSpill
  with_reducible repeat' first
    | assumption | exact memsOk_of (by assumption) | refine memsOk_of ?_ | simp only [memOk_mk] | split
    | refine State.onThread_memOk ?_ | refine State.stopAccess_memOk ?_

theorem execCall_memOk {s : State} {x1} (h : s.memOk) :
    outOk (execCall x1 s) := by
  unfold execCall
  with_reducible repeat' first
    | assumption | exact memsOk_of (by assumption) | refine memsOk_of ?_ | simp only [memOk_mk] | refine outOk_next ?_
    | exact outOk_fault _ | exact outOk_refused _ | split | refine State.leaveTo_memOk ?_
    | refine State.commit_memOk ?_ | refine State.locate_memOk ?_ | refine State.stopSpill_memOk ?_
    | refine State.settle_memOk ?_ | refine State.writePlace_memOk ?_ | refine fst_memOk (by assumption) ?_

theorem execRet_memOk {s : State} {x1} (h : s.memOk) :
    outOk (execRet x1 s) := by
  unfold execRet
  with_reducible repeat' first
    | assumption | exact memsOk_of (by assumption) | refine memsOk_of ?_ | simp only [memOk_mk] | refine outOk_next ?_
    | exact outOk_fault _ | exact outOk_refused _ | split | refine State.commit_memOk ?_
    | refine State.leaveTo_memOk ?_ | refine State.locate_memOk ?_ | refine State.stopSpill_memOk ?_
    | refine State.readPlace_memOk ?_ | refine State.settle_memOk ?_ | refine fst_memOk (by assumption) ?_

theorem execExit_memOk {s : State} {x1} (h : s.memOk) : outOk (execExit x1 s) := by
  unfold execExit
  with_reducible repeat' first
    | assumption | simp only [memOk_mk] | refine outOk_next ?_ | split | refine State.freeThread_memOk ?_
    | refine State.leave_memOk ?_ | refine State.barriers_memOk ?_

theorem State.atBarrier_memOk {s : State} {x1} {x2} {x3} (h : s.memOk) :
    (State.atBarrier s x1 x2 x3).memOk := by
  unfold State.atBarrier
  with_reducible repeat' first
    | assumption | exact memsOk_of (by assumption) | refine memsOk_of ?_ | simp only [memOk_mk] | split
    | refine State.park_memOk ?_ | refine State.barriers_memOk ?_ | refine State.leave_memOk ?_

theorem execBarSync_memOk {s : State} {x1} (h : s.memOk) :
    outOk (execBarSync x1 s) := by
  unfold execBarSync
  with_reducible repeat' first
    | assumption | exact memsOk_of (by assumption) | refine memsOk_of ?_ | simp only [memOk_mk] | refine outOk_next ?_
    | exact outOk_fault _ | exact outOk_refused _ | split | refine State.atBarrier_memOk ?_

theorem execBarArrive_memOk {s : State} {x1} (h : s.memOk) :
    outOk (execBarArrive x1 s) := by
  unfold execBarArrive
  with_reducible repeat' first
    | assumption | exact memsOk_of (by assumption) | refine memsOk_of ?_ | simp only [memOk_mk] | refine outOk_next ?_
    | exact outOk_fault _ | exact outOk_refused _ | split | refine State.atBarrier_memOk ?_

theorem execBarWait_memOk {s : State} {x1} (h : s.memOk) :
    outOk (execBarWait x1 s) := by
  unfold execBarWait
  with_reducible repeat' first
    | assumption | exact memsOk_of (by assumption) | refine memsOk_of ?_ | simp only [memOk_mk] | refine outOk_next ?_
    | exact outOk_fault _ | exact outOk_refused _ | split | refine State.atBarrier_memOk ?_

theorem execGate_memOk {s : State} {x1} (h : s.memOk) : outOk (execGate x1 s) := by
  unfold execGate
  with_reducible repeat' first
    | assumption | simp only [memOk_mk] | refine outOk_next ?_ | split | refine State.emitBoth_memOk ?_
    | refine State.park_memOk ?_

theorem execRelease_memOk {s : State} {x1} (h : s.memOk) :
    outOk (execRelease x1 s) := by
  unfold execRelease
  with_reducible repeat' first
    | assumption | exact memsOk_of (by assumption) | refine memsOk_of ?_ | simp only [memOk_mk] | refine outOk_next ?_
    | exact outOk_fault _ | exact outOk_refused _ | split | refine State.emitBoth_memOk ?_
    | refine State.parkRelease_memOk ?_ | refine State.onThread_memOk ?_ | refine State.wgReleases_memOk ?_

theorem execTrap_memOk {s : State} {x1} (h : s.memOk) : outOk (execTrap x1 s) := by
  unfold execTrap
  with_reducible repeat' first
    | assumption | simp only [memOk_mk] | refine outOk_next ?_ | split | refine State.commit_memOk ?_

theorem State.withPlace_memOk {s : State} {x1} {x2} {x3} {x4} {x5} {x6} {x7} {x8} (h : s.memOk) (hk : ∀ t y0 y1, t.memOk → (x8 t y0 y1).memOk) :
    (State.withPlace s x1 x2 x3 x4 x5 x6 x7 x8).memOk := by
  unfold State.withPlace
  with_reducible repeat' first
    | assumption | exact memsOk_of (by assumption) | refine memsOk_of ?_ | simp only [memOk_mk] | split
    | refine State.commit_memOk ?_ | refine State.parkRelease_memOk ?_ | refine State.locateOf_memOk ?_
    | refine State.stopAccess_memOk ?_ | refine hk _ _ _ ?_ | refine fst_memOk (by assumption) ?_

theorem State.releaseActs_memOk {s : State} {x1} {x2} {x3} (h : s.memOk) : (State.releaseActs s x1 x2 x3).memOk := by
  unfold State.releaseActs
  with_reducible repeat' first | assumption | split | refine State.remoteWriteBack_memOk ?_

theorem State.releasing_memOk {s : State} {x1} {x2} {x3} {x4} {x5} {x6} (h : s.memOk) (hk : ∀ t, t.memOk → (x6 t).memOk) :
    (State.releasing s x1 x2 x3 x4 x5 x6).memOk := by
  unfold State.releasing
  with_reducible repeat' first
    | assumption | exact memsOk_of (by assumption) | refine memsOk_of ?_ | simp only [memOk_mk] | split
    | refine State.commit_memOk ?_ | refine State.releaseActs_memOk ?_ | refine hk _  ?_

theorem State.acquireActs_memOk {s : State} {x1} {x2} {x3} (h : s.memOk) : (State.acquireActs s x1 x2 x3).memOk := by
  unfold State.acquireActs
  with_reducible repeat' first | assumption | split | refine State.remoteInvalidate_memOk ?_

theorem State.sliceWord_memOk {s : State} {x1} {x2} (h : s.memOk) :
    (State.sliceWord s x1 x2).1.memOk := by
  unfold State.sliceWord
  with_reducible repeat' first
    | assumption | exact memsOk_of (by assumption) | refine memsOk_of ?_ | simp only [memOk_mk] | split
    | refine State.getS_memOk ?_ | refine State.remoteFetch_memOk ?_ | refine State.hostOwn_memOk ?_

theorem State.fillWord_memOk {s : State} {x1} {x2} (h : s.memOk) :
    (State.fillWord s x1 x2).memOk := by
  unfold State.fillWord
  with_reducible repeat' first
    | assumption | exact memsOk_of (by assumption) | refine memsOk_of ?_ | simp only [memOk_mk] | split
    | refine State.sliceWord_memOk ?_ | refine State.onCore_memOk ?_

theorem State.fillLine_memOk {s : State} {x1} {x2} (h : s.memOk) :
    (State.fillLine s x1 x2).memOk := by
  unfold State.fillLine
  with_reducible repeat' first
    | assumption | exact memsOk_of (by assumption) | refine memsOk_of ?_ | simp only [memOk_mk] | split
    | refine State.fillWord_memOk ?_ | refine foldl_memOk ?_ (fun _ _ _ => ?_)

theorem State.readAt_memOk {s : State} {x1} {x2} {x3} {x4} (h : s.memOk) : (State.readAt s x1 x2 x3 x4).1.memOk := by
  unfold State.readAt
  with_reducible repeat' first | assumption | refine State.readPlace_memOk ?_

theorem State.writeAt_memOk {s : State} {x1} {x2} {x3} {x4} (h : s.memOk) : (State.writeAt s x1 x2 x3 x4).memOk := by
  unfold State.writeAt
  with_reducible repeat' first | assumption | refine State.writePlace_memOk ?_

theorem State.tileSend_memOk {s : State} {x1} {x2} {x3} {x4} {x5} {x6} (h : s.memOk) :
    (State.tileSend s x1 x2 x3 x4 x5 x6).memOk := by
  unfold State.tileSend
  with_reducible repeat' first
    | assumption | exact memsOk_of (by assumption) | refine memsOk_of ?_ | simp only [memOk_mk] | split
    | refine State.onCore_memOk ?_

theorem State.spadSend_memOk {s : State} {x1} {x2} {x3} {x4} {x5} {x6} (h : s.memOk) :
    (State.spadSend s x1 x2 x3 x4 x5 x6).memOk := by
  unfold State.spadSend
  with_reducible repeat' first
    | assumption | exact memsOk_of (by assumption) | refine memsOk_of ?_ | simp only [memOk_mk] | split
    | refine State.tileSend_memOk ?_

theorem State.deliver_memOk {s : State} {x1} {x2} {x3} {x4} (h : s.memOk) :
    (State.deliver s x1 x2 x3 x4).memOk := by
  unfold State.deliver
  with_reducible repeat' first
    | assumption | exact memsOk_of (by assumption) | refine memsOk_of ?_ | simp only [memOk_mk] | split
    | refine State.emit2_memOk ?_ | refine State.acquireActs_memOk ?_

theorem execLd_memOk {s : State} {x1} (h : s.memOk) :
    outOk (execLd x1 s) := by
  unfold execLd
  with_reducible repeat' first
    | assumption | exact memsOk_of (by assumption) | refine memsOk_of ?_ | simp only [memOk_mk] | refine outOk_next ?_
    | exact outOk_fault _ | exact outOk_refused _ | split | refine State.settle_memOk ?_
    | refine State.operation_memOk ?_ (fun _ _ => ?_) | refine State.withPlace_memOk ?_ (fun _ _ _ _ => ?_)
    | refine State.spadSend_memOk ?_ | refine State.deliver_memOk ?_ | refine State.onCore_memOk ?_
    | refine State.readAt_memOk ?_

theorem execSt_memOk {s : State} {x1} (h : s.memOk) :
    outOk (execSt x1 s) := by
  unfold execSt
  with_reducible repeat' first
    | assumption | exact memsOk_of (by assumption) | refine memsOk_of ?_ | simp only [memOk_mk] | refine outOk_next ?_
    | exact outOk_fault _ | exact outOk_refused _ | split | refine State.settle_memOk ?_
    | refine State.operation_memOk ?_ (fun _ _ => ?_) | refine State.withPlace_memOk ?_ (fun _ _ _ _ => ?_)
    | refine State.commit_memOk ?_ | refine State.releasing_memOk ?_ (fun _ _ => ?_) | refine State.spadSend_memOk ?_
    | refine State.emitBoth_memOk ?_ | refine State.writeAt_memOk ?_

theorem State.ownPlace_memOk {s : State} {x1} {x2} {x3} (h : s.memOk) :
    (State.ownPlace s x1 x2 x3).memOk := by
  unfold State.ownPlace
  with_reducible repeat' first
    | assumption | exact memsOk_of (by assumption) | refine memsOk_of ?_ | simp only [memOk_mk] | split
    | refine State.settle_memOk ?_ | refine State.devOwn_memOk ?_ | refine State.accessAs_memOk ?_

theorem State.rmwAt_memOk {s : State} {x1} {x2} {x3} {x4} (h : s.memOk) :
    (State.rmwAt s x1 x2 x3 x4).1.memOk := by
  unfold State.rmwAt
  with_reducible repeat' first
    | assumption | exact memsOk_of (by assumption) | refine memsOk_of ?_
    | refine memsOk_mem ?_ (cellWrites_wf _ (State.memOk.mem ?_) _)
    | refine memsOk_mem ?_ (cellWrite_wf _ (State.memOk.mem ?_) _ _)
    | refine memsOk_hostMem ?_ (cellWrites_wf _ (State.memOk.hostMem ?_) _)
    | refine memsOk_hostMem ?_ (cellWrite_wf _ (State.memOk.hostMem ?_) _ _)
    | refine memsOk_remoteMem ?_ (cellWrites_wf _ (State.memOk.remoteMem ?_) _)
    | refine memsOk_remoteMem ?_ (cellWrite_wf _ (State.memOk.remoteMem ?_) _ _)
    | refine memsOk_recovery ?_ (cellWrites_wf _ (State.memOk.recovery ?_) _)
    | refine memsOk_recovery ?_ (cellWrite_wf _ (State.memOk.recovery ?_) _ _)
    | refine memsOk_sram ?_ (cellWrites_wf _ (State.memOk.sram ?_) _)
    | refine memsOk_sram ?_ (cellWrite_wf _ (State.memOk.sram ?_) _ _) | simp only [memOk_mk] | split
    | refine State.remoteSend_memOk ?_ | refine State.readAt_memOk ?_ | refine State.ownPlace_memOk ?_
    | refine State.writeAt_memOk ?_ | refine foldl_memOk ?_ (fun _ _ _ => ?_)
    | refine foldlP_memOk ?_ (fun _ _ _ => ?_) | refine fst_memOk (by assumption) ?_

theorem State.atomicAt_memOk {s : State} {x1} {x2} {x3} {x4} {x5} {x6} {x7} {x8} (h : s.memOk) (hk : ∀ t y0, t.memOk → (x8 t y0).memOk) :
    (State.atomicAt s x1 x2 x3 x4 x5 x6 x7 x8).memOk := by
  unfold State.atomicAt
  with_reducible repeat' first
    | assumption | exact memsOk_of (by assumption) | refine memsOk_of ?_ | simp only [memOk_mk] | split
    | refine State.releasing_memOk ?_ (fun _ _ => ?_) | refine State.rmwAt_memOk ?_
    | refine State.acquireActs_memOk ?_ | refine State.spadSend_memOk ?_ | refine State.refuse_memOk ?_
    | refine State.commit_memOk ?_ | refine hk _ _ ?_

theorem execAtom_memOk {s : State} {x1} (h : s.memOk) : outOk (execAtom x1 s) := by
  unfold execAtom
  with_reducible repeat' first
    | assumption | simp only [memOk_mk] | refine outOk_next ?_ | split | refine State.settle_memOk ?_
    | refine State.operation_memOk ?_ (fun _ _ => ?_) | refine State.withPlace_memOk ?_ (fun _ _ _ _ => ?_)
    | refine State.commit_memOk ?_ | refine State.atomicAt_memOk ?_ (fun _ _ _ => ?_) | refine State.emit2_memOk ?_

theorem execCas_memOk {s : State} {x1} (h : s.memOk) : outOk (execCas x1 s) := by
  unfold execCas
  with_reducible repeat' first
    | assumption | simp only [memOk_mk] | refine outOk_next ?_ | split | refine State.settle_memOk ?_
    | refine State.operation_memOk ?_ (fun _ _ => ?_) | refine State.withPlace_memOk ?_ (fun _ _ _ _ => ?_)
    | refine State.atomicAt_memOk ?_ (fun _ _ _ => ?_) | refine State.emit2_memOk ?_ | refine State.commit_memOk ?_

theorem State.emitFour_memOk {s : State} {x1} {x2} {x3} {x4} {x5} {x6} (h : s.memOk) :
    (State.emitFour s x1 x2 x3 x4 x5 x6).memOk := by
  unfold State.emitFour
  with_reducible repeat' first
    | assumption | exact memsOk_of (by assumption) | refine memsOk_of ?_ | simp only [memOk_mk] | split
    | refine State.emit2_memOk ?_

theorem execCas2_memOk {s : State} {x1} (h : s.memOk) :
    outOk (execCas2 x1 s) := by
  unfold execCas2
  with_reducible repeat' first
    | assumption | exact memsOk_of (by assumption) | refine memsOk_of ?_ | simp only [memOk_mk] | refine outOk_next ?_
    | exact outOk_fault _ | exact outOk_refused _ | split | refine State.emitFour_memOk ?_
    | refine State.commit_memOk ?_ | refine State.settle_memOk ?_
    | refine State.withPlace_memOk ?_ (fun _ _ _ _ => ?_) | refine State.atomicAt_memOk ?_ (fun _ _ _ => ?_)

theorem State.fenceActs_memOk {s : State} {x1} {x2} (h : s.memOk) :
    (State.fenceActs s x1 x2).memOk := by
  unfold State.fenceActs
  with_reducible repeat' first
    | assumption | exact memsOk_of (by assumption) | refine memsOk_of ?_ | simp only [memOk_mk] | split
    | refine State.releasing_memOk ?_ (fun _ _ => ?_) | refine State.emitBoth_memOk ?_
    | refine State.acquireActs_memOk ?_

theorem execFence_memOk {s : State} {x1} (h : s.memOk) :
    outOk (execFence x1 s) := by
  unfold execFence
  with_reducible repeat' first
    | assumption | exact memsOk_of (by assumption) | refine memsOk_of ?_ | simp only [memOk_mk] | refine outOk_next ?_
    | exact outOk_fault _ | exact outOk_refused _ | split | refine State.emitBoth_memOk ?_
    | refine State.parkRelease_memOk ?_ | refine State.park_memOk ?_ | refine State.fenceActs_memOk ?_

theorem execSptest_memOk {s : State} {x1} (h : s.memOk) : outOk (execSptest x1 s) := by
  unfold execSptest
  with_reducible repeat' first | assumption | refine outOk_next ?_ | refine State.value_memOk ?_

theorem State.castOp_memOk {s : State} {x1} {x2} {x3} (h : s.memOk) : (State.castOp s x1 x2 x3).memOk := by
  unfold State.castOp
  with_reducible repeat' first | assumption | split | refine State.emitBoth_memOk ?_ | refine State.commit_memOk ?_

theorem execSpcastTo_memOk {s : State} {x1} (h : s.memOk) : outOk (execSpcastTo x1 s) := by
  unfold execSpcastTo
  with_reducible repeat' first | assumption | refine outOk_next ?_ | split | refine State.castOp_memOk ?_

theorem execSpcastFrom_memOk {s : State} {x1} (h : s.memOk) : outOk (execSpcastFrom x1 s) := by
  unfold execSpcastFrom
  with_reducible repeat' first | assumption | refine outOk_next ?_ | refine State.castOp_memOk ?_

theorem execPref_memOk {s : State} {x1} (h : s.memOk) :
    outOk (execPref x1 s) := by
  unfold execPref
  with_reducible repeat' first
    | assumption | exact memsOk_of (by assumption) | refine memsOk_of ?_ | simp only [memOk_mk] | refine outOk_next ?_
    | exact outOk_fault _ | exact outOk_refused _ | split | refine State.settle_memOk ?_
    | refine State.operation_memOk ?_ (fun _ _ => ?_) | refine State.emitBoth_memOk ?_ | refine State.locate_memOk ?_
    | refine State.readAt_memOk ?_ | refine State.fillLine_memOk ?_ | refine fst_memOk (by assumption) ?_

theorem execGth_memOk {s : State} {x1} (h : s.memOk) :
    outOk (execGth x1 s) := by
  unfold execGth
  with_reducible repeat' first
    | assumption | exact memsOk_of (by assumption) | refine memsOk_of ?_ | simp only [memOk_mk] | refine outOk_next ?_
    | exact outOk_fault _ | exact outOk_refused _ | split | refine State.operation_memOk ?_ (fun _ _ => ?_)
    | refine State.commit_memOk ?_ | refine State.tileSend_memOk ?_

theorem execSct_memOk {s : State} {x1} (h : s.memOk) :
    outOk (execSct x1 s) := by
  unfold execSct
  with_reducible repeat' first
    | assumption | exact memsOk_of (by assumption) | refine memsOk_of ?_ | simp only [memOk_mk] | refine outOk_next ?_
    | exact outOk_fault _ | exact outOk_refused _ | split | refine State.operation_memOk ?_ (fun _ _ => ?_)
    | refine State.commit_memOk ?_ | refine State.tileSend_memOk ?_

theorem State.tileAnswer_memOk {s : State} {x1} (h : s.memOk) :
    (State.tileAnswer s x1).memOk := by
  unfold State.tileAnswer
  with_reducible repeat' first
    | assumption | exact memsOk_of (by assumption) | refine memsOk_of ?_ | simp only [memOk_mk] | split
    | refine State.remoteInvalidate_memOk ?_ | refine State.emitBoth_memOk ?_ | refine State.emit2_memOk ?_
    | refine State.emitFour_memOk ?_

theorem State.tileAnswers_memOk {s : State} {x1} {x2} (h : s.memOk) :
    (State.tileAnswers s x1 x2).memOk := by
  unfold State.tileAnswers
  with_reducible repeat' first
    | assumption | exact memsOk_of (by assumption) | refine memsOk_of ?_ | simp only [memOk_mk] | split
    | refine State.tileAnswer_memOk ?_ | refine State.onCore_memOk ?_ | refine foldl_memOk ?_ (fun _ _ _ => ?_)

theorem execTileRequestService_memOk {s : State} {x1} {x2} (h : s.memOk) :
    outOk (execTileRequestService x1 x2 s) := by
  unfold execTileRequestService
  with_reducible repeat' first
    | assumption | exact memsOk_of (by assumption) | refine memsOk_of ?_ | simp only [memOk_mk] | refine outOk_next ?_
    | exact outOk_fault _ | exact outOk_refused _ | split | refine State.tileAnswers_memOk ?_
    | refine State.setCore_memOk ?_

theorem State.startTransfer_memOk {s : State} {x1} (h : s.memOk) : (State.startTransfer s x1).memOk := by
  unfold State.startTransfer
  with_reducible repeat' first
    | assumption | simp only [memOk_mk] | refine State.countUp_memOk ?_ | refine State.onCore_memOk ?_

theorem State.tileMove_memOk {s : State} {x1} {x2} {x3} (h : s.memOk) : (State.tileMove s x1 x2 x3).memOk := by
  unfold State.tileMove
  with_reducible repeat' first
    | assumption | simp only [memOk_mk] | split | refine State.commit_memOk ?_ | refine State.emitBoth_memOk ?_
    | refine State.startTransfer_memOk ?_ | refine State.parkCounter_memOk ?_

theorem execMtld_memOk {s : State} {x1} (h : s.memOk) : outOk (execMtld x1 s) := by
  unfold execMtld
  with_reducible repeat' first
    | assumption | refine outOk_next ?_ | refine State.operation_memOk ?_ (fun _ _ => ?_) | refine State.tileMove_memOk ?_

theorem execMtst_memOk {s : State} {x1} (h : s.memOk) : outOk (execMtst x1 s) := by
  unfold execMtst
  with_reducible repeat' first
    | assumption | refine outOk_next ?_ | refine State.operation_memOk ?_ (fun _ _ => ?_) | refine State.tileMove_memOk ?_

theorem State.onQueue_memOk {s : State} {x1} {x2} (h : s.memOk) : (State.onQueue s x1 x2).memOk := by
  unfold State.onQueue
  with_reducible repeat' first | exact memsOk_of (by assumption) | simp only [memOk_mk]

theorem State.queueError_memOk {s : State} {x1} {x2} {x3} (h : s.memOk) : (State.queueError s x1 x2 x3).memOk := by
  unfold State.queueError
  with_reducible repeat' first | assumption | refine State.onQueue_memOk ?_

theorem State.hubPlace_memOk {s : State} {x1} {x2} {x3} {x4} {x5} (h : s.memOk) :
    (State.hubPlace s x1 x2 x3 x4 x5).1.memOk := by
  unfold State.hubPlace
  with_reducible repeat' first
    | assumption | exact memsOk_of (by assumption) | refine memsOk_of ?_ | simp only [memOk_mk] | split
    | refine State.hubTranslate_memOk ?_ | refine State.hold_memOk ?_ | refine State.atsWait_memOk ?_
    | refine State.fqPost_memOk ?_ | refine fst_memOk (by assumption) ?_

theorem State.hubReadAs_memOk {s : State} {x1} {x2} {x3} {x4} (h : s.memOk) :
    (State.hubReadAs s x1 x2 x3 x4).1.memOk := by
  unfold State.hubReadAs
  with_reducible repeat' first
    | assumption | exact memsOk_of (by assumption) | refine memsOk_of ?_ | simp only [memOk_mk] | split
    | refine State.settle_memOk ?_ | refine State.hubFetch_memOk ?_ | refine State.accessAs_memOk ?_

theorem State.hubRead_memOk {s : State} {x1} {x2} (h : s.memOk) :
    (State.hubRead s x1 x2).1.memOk := by
  unfold State.hubRead
  with_reducible repeat' first
    | assumption | exact memsOk_of (by assumption) | refine memsOk_of ?_ | simp only [memOk_mk] | split
    | refine State.hubReadAs_memOk ?_

theorem State.hubWriteAs_memOk {s : State} {x1} {x2} {x3} {x4} (h : s.memOk) :
    (State.hubWriteAs s x1 x2 x3 x4).memOk := by
  unfold State.hubWriteAs
  with_reducible repeat' first
    | assumption | exact memsOk_of (by assumption) | refine memsOk_of ?_
    | refine memsOk_mem ?_ (cellWrites_wf _ (State.memOk.mem ?_) _)
    | refine memsOk_mem ?_ (cellWrite_wf _ (State.memOk.mem ?_) _ _)
    | refine memsOk_hostMem ?_ (cellWrites_wf _ (State.memOk.hostMem ?_) _)
    | refine memsOk_hostMem ?_ (cellWrite_wf _ (State.memOk.hostMem ?_) _ _)
    | refine memsOk_remoteMem ?_ (cellWrites_wf _ (State.memOk.remoteMem ?_) _)
    | refine memsOk_remoteMem ?_ (cellWrite_wf _ (State.memOk.remoteMem ?_) _ _)
    | refine memsOk_recovery ?_ (cellWrites_wf _ (State.memOk.recovery ?_) _)
    | refine memsOk_recovery ?_ (cellWrite_wf _ (State.memOk.recovery ?_) _ _)
    | refine memsOk_sram ?_ (cellWrites_wf _ (State.memOk.sram ?_) _)
    | refine memsOk_sram ?_ (cellWrite_wf _ (State.memOk.sram ?_) _ _) | simp only [memOk_mk] | split
    | refine State.settle_memOk ?_ | refine State.hubStore_memOk ?_ | refine State.accessAs_memOk ?_
    | refine State.hostPut_memOk ?_

theorem State.hubWrite_memOk {s : State} {x1} {x2} (h : s.memOk) :
    (State.hubWrite s x1 x2).memOk := by
  unfold State.hubWrite
  with_reducible repeat' first
    | assumption | exact memsOk_of (by assumption) | refine memsOk_of ?_ | simp only [memOk_mk] | split
    | refine State.hubWriteAs_memOk ?_

theorem State.hubOwn_memOk {s : State} {x1} {x2} (h : s.memOk) :
    (State.hubOwn s x1 x2).memOk := by
  unfold State.hubOwn
  with_reducible repeat' first
    | assumption | exact memsOk_of (by assumption) | refine memsOk_of ?_ | simp only [memOk_mk] | split
    | refine State.settle_memOk ?_ | refine State.devOwn_memOk ?_ | refine State.accessAs_memOk ?_
    | refine foldl_memOk ?_ (fun _ _ _ => ?_)

theorem State.hubRelease_memOk {s : State} (h : s.memOk) :
    (State.hubRelease s).memOk := by
  unfold State.hubRelease
  with_reducible repeat' first
    | assumption | exact memsOk_of (by assumption) | refine memsOk_of ?_ | simp only [memOk_mk] | split
    | refine State.remoteWriteBack_memOk ?_ | refine foldl_memOk ?_ (fun _ _ _ => ?_)

theorem State.signalDown_memOk {s : State} {x1} {x2} {x3} {x4} (h : s.memOk) :
    (State.signalDown s x1 x2 x3 x4).1.memOk := by
  unfold State.signalDown
  with_reducible repeat' first
    | assumption | exact memsOk_of (by assumption) | refine memsOk_of ?_ | simp only [memOk_mk] | split
    | refine State.hubPlace_memOk ?_ | refine State.queueError_memOk ?_ | refine State.hubReadAs_memOk ?_
    | refine State.hubWriteAs_memOk ?_ | refine State.hubRelease_memOk ?_ | refine State.hubOwn_memOk ?_
    | refine fst_memOk (by assumption) ?_

theorem State.completePacket_memOk {s : State} {x1} {x2} {x3} {x4} {x5} (h : s.memOk) :
    (State.completePacket s x1 x2 x3 x4 x5).1.memOk := by
  unfold State.completePacket
  with_reducible repeat' first
    | assumption | exact memsOk_of (by assumption) | refine memsOk_of ?_ | simp only [memOk_mk] | split
    | refine State.signalDown_memOk ?_ | refine State.onQueue_memOk ?_ | refine fst_memOk (by assumption) ?_

theorem State.engineAt_memOk {s : State} {x1} {x2} {x3} {x4} {x5} {x6} (h : s.memOk) : (State.engineAt s x1 x2 x3 x4 x5 x6).1.memOk := by
  unfold State.engineAt
  with_reducible repeat' first | assumption | split | refine State.locateCtx_memOk ?_ | refine State.accessAs_memOk ?_

theorem State.pauseTransfer_memOk {s : State} {x1} {x2} (h : s.memOk) :
    (State.pauseTransfer s x1 x2).memOk := by
  unfold State.pauseTransfer
  with_reducible repeat' first
    | assumption | exact memsOk_of (by assumption) | refine memsOk_of ?_ | simp only [memOk_mk] | split
    | refine State.onCore_memOk ?_

theorem State.holdTransfer_memOk {s : State} {x1} {x2} (h : s.memOk) :
    (State.holdTransfer s x1 x2).memOk := by
  unfold State.holdTransfer
  with_reducible repeat' first
    | assumption | exact memsOk_of (by assumption) | refine memsOk_of ?_ | simp only [memOk_mk] | split
    | refine State.onCore_memOk ?_ | refine State.pauseTransfer_memOk ?_

theorem State.denyTransfer_memOk {s : State} {x1} {x2} {x3} {x4} {x5} {x6} (h : s.memOk) : (State.denyTransfer s x1 x2 x3 x4 x5 x6).memOk := by
  unfold State.denyTransfer
  with_reducible repeat' first
    | assumption | simp only [memOk_mk] | split | refine State.onCore_memOk ?_ | refine State.abortFault_memOk ?_

theorem State.stallTransfer_memOk {s : State} {x1} {x2} {x3} {x4} {x5} (h : s.memOk) :
    (State.stallTransfer s x1 x2 x3 x4 x5).memOk := by
  unfold State.stallTransfer
  with_reducible repeat' first
    | assumption | exact memsOk_of (by assumption) | refine memsOk_of ?_ | simp only [memOk_mk] | split
    | refine State.holdTransfer_memOk ?_ | refine State.hold_memOk ?_ | refine State.pauseTransfer_memOk ?_
    | refine State.atsWait_memOk ?_ | refine State.denyTransfer_memOk ?_

theorem State.failNote_memOk {s : State} {x1} {x2} {x3} {x4} {x5} {x6} {x7} (h : s.memOk) :
    (State.failNote s x1 x2 x3 x4 x5 x6 x7).memOk := by
  unfold State.failNote
  with_reducible repeat' first
    | assumption | exact memsOk_of (by assumption) | refine memsOk_of ?_ | simp only [memOk_mk] | split
    | refine State.onCore_memOk ?_ | refine State.fqPost_memOk ?_

theorem State.reached_memOk {s : State} {x1} {x2} {x3} (h : s.memOk) :
    (State.reached s x1 x2 x3).memOk := by
  unfold State.reached
  with_reducible repeat' first
    | assumption | exact memsOk_of (by assumption) | refine memsOk_of ?_ | simp only [memOk_mk] | split
    | refine State.onCore_memOk ?_

theorem State.copyRead_memOk {s : State} {x1} {x2} {x3} (h : s.memOk) :
    (State.copyRead s x1 x2 x3).1.memOk := by
  unfold State.copyRead
  with_reducible repeat' first
    | assumption | exact memsOk_of (by assumption) | refine memsOk_of ?_ | simp only [memOk_mk] | split
    | refine State.engineAt_memOk ?_ | refine State.readPlace_memOk ?_ | refine State.reached_memOk ?_
    | refine State.failNote_memOk ?_ | refine State.stallTransfer_memOk ?_ | refine fst_memOk (by assumption) ?_

theorem State.putDword_memOk {s : State} {x1} {x2} {x3} {x4} {x5} (h : s.memOk) : (State.putDword s x1 x2 x3 x4 x5).memOk := by
  unfold State.putDword
  with_reducible repeat' first
    | assumption | split | refine State.poisonPlace_memOk ?_ | refine State.writePlace_memOk ?_

theorem State.copyWrite_memOk {s : State} {x1} {x2} {x3} {x4} {x5} (h : s.memOk) :
    (State.copyWrite s x1 x2 x3 x4 x5).1.memOk := by
  unfold State.copyWrite
  with_reducible repeat' first
    | assumption | exact memsOk_of (by assumption) | refine memsOk_of ?_ | simp only [memOk_mk] | split
    | refine State.onCore_memOk ?_ | refine State.putDword_memOk ?_ | refine State.engineAt_memOk ?_
    | refine State.reached_memOk ?_ | refine State.failNote_memOk ?_ | refine State.stallTransfer_memOk ?_
    | refine foldl_memOk ?_ (fun _ _ _ => ?_) | refine foldlP_memOk ?_ (fun _ _ _ => ?_)
    | refine fst_memOk (by assumption) ?_

theorem State.copyStep_memOk {s : State} {x1} {x2} (h : s.memOk) : (State.copyStep s x1 x2).1.memOk := by
  unfold State.copyStep
  with_reducible repeat' first
    | assumption | simp only [memOk_mk] | split | refine State.copyRead_memOk ?_ | refine State.copyWrite_memOk ?_
    | refine State.onCore_memOk ?_ | refine fst_memOk (by assumption) ?_

theorem State.streamIn_memOk {s : State} {x1} {x2} (h : s.memOk) :
    (State.streamIn s x1 x2).1.memOk := by
  unfold State.streamIn
  with_reducible repeat' first
    | assumption | exact memsOk_of (by assumption) | refine memsOk_of ?_ | simp only [memOk_mk] | split
    | refine State.onCore_memOk ?_ | refine State.engineAt_memOk ?_ | refine State.readPlace_memOk ?_
    | refine State.reached_memOk ?_ | refine State.failNote_memOk ?_ | refine State.stallTransfer_memOk ?_
    | refine fst_memOk (by assumption) ?_

theorem State.streamOut_memOk {s : State} {x1} {x2} (h : s.memOk) :
    (State.streamOut s x1 x2).1.memOk := by
  unfold State.streamOut
  with_reducible repeat' first
    | assumption | exact memsOk_of (by assumption) | refine memsOk_of ?_ | simp only [memOk_mk] | split
    | refine State.onCore_memOk ?_ | refine State.engineAt_memOk ?_ | refine State.poisonPlace_memOk ?_
    | refine State.writePlace_memOk ?_ | refine State.reached_memOk ?_ | refine State.failNote_memOk ?_
    | refine State.stallTransfer_memOk ?_ | refine fst_memOk (by assumption) ?_

theorem State.streamJoin_memOk {s : State} {x1} {x2} (h : s.memOk) : (State.streamJoin s x1 x2).1.memOk := by
  unfold State.streamJoin
  with_reducible repeat' first | assumption | simp only [memOk_mk] | split | refine State.onCore_memOk ?_

theorem State.transferStep_memOk {s : State} {x1} {x2} (h : s.memOk) : (State.transferStep s x1 x2).1.memOk := by
  unfold State.transferStep
  with_reducible repeat' first
    | assumption | split | refine State.streamIn_memOk ?_ | refine State.streamOut_memOk ?_
    | refine State.streamJoin_memOk ?_ | refine State.copyStep_memOk ?_

theorem State.burst_memOk {s : State} {x1} {x2} {x3} {x4} (h : s.memOk) : (State.burst s x1 x2 x3 x4).memOk := by
  induction x4 generalizing s with
  | zero => exact h
  | succ _ ih =>
    unfold State.burst
    with_reducible repeat' first
      | assumption | split | refine State.transferStep_memOk ?_ | refine ih ?_ | refine fst_memOk (by assumption) ?_

theorem execCopyBurst_memOk {s : State} {x1} {x2} (h : s.memOk) :
    outOk (execCopyBurst x1 x2 s) := by
  unfold execCopyBurst
  with_reducible repeat' first
    | assumption | exact memsOk_of (by assumption) | refine memsOk_of ?_ | simp only [memOk_mk] | refine outOk_next ?_
    | exact outOk_fault _ | exact outOk_refused _ | split | refine State.settle_memOk ?_ | refine State.burst_memOk ?_
    | refine State.setCore_memOk ?_

theorem State.replayTransfer_memOk {s : State} {x1} {x2} (h : s.memOk) :
    (State.replayTransfer s x1 x2).memOk := by
  unfold State.replayTransfer
  with_reducible repeat' first
    | assumption | exact memsOk_of (by assumption) | refine memsOk_of ?_ | simp only [memOk_mk] | split
    | refine State.onCore_memOk ?_ | refine State.settle_memOk ?_ | refine State.burst_memOk ?_

theorem State.copyPacketDone_memOk {s : State} {x1} {x2} {x3} {x4} {x5} {x6} {x7} (h : s.memOk) :
    (State.copyPacketDone s x1 x2 x3 x4 x5 x6 x7).1.memOk := by
  unfold State.copyPacketDone
  with_reducible repeat' first
    | assumption | exact memsOk_of (by assumption) | refine memsOk_of ?_ | simp only [memOk_mk] | split
    | refine State.completePacket_memOk ?_ | refine State.hubPlace_memOk ?_ | refine State.queueError_memOk ?_
    | refine State.hubWrite_memOk ?_ | refine fst_memOk (by assumption) ?_

theorem execEngineOperationComplete_memOk {s : State} {x1} {x2} (h : s.memOk) :
    outOk (execEngineOperationComplete x1 x2 s) := by
  unfold execEngineOperationComplete
  with_reducible repeat' first
    | assumption | exact memsOk_of (by assumption) | refine memsOk_of ?_ | simp only [memOk_mk] | refine outOk_next ?_
    | exact outOk_fault _ | exact outOk_refused _ | split | refine State.copyPacketDone_memOk ?_
    | refine State.onCore_memOk ?_ | refine State.countDown_memOk ?_ | refine fst_memOk (by assumption) ?_

theorem State.issueCopy_memOk {s : State} {x1} {x2} {x3} (h : s.memOk) :
    (State.issueCopy s x1 x2 x3).memOk := by
  unfold State.issueCopy
  with_reducible repeat' first
    | assumption | exact memsOk_of (by assumption) | refine memsOk_of ?_ | simp only [memOk_mk] | split
    | refine State.park_memOk ?_ | refine State.parkCounter_memOk ?_ | refine State.startTransfer_memOk ?_
    | refine State.onCore_memOk ?_ | refine State.emit2_memOk ?_

theorem State.portFault_memOk {s : State} {x1} {x2} (h : s.memOk) : (State.portFault s x1 x2).memOk := by
  unfold State.portFault
  with_reducible repeat' first | assumption | simp only [memOk_mk] | refine State.contain_memOk ?_

theorem State.runCopy_memOk {s : State} {x1} {x2} {x3} (h : s.memOk) :
    (State.runCopy s x1 x2 x3).memOk := by
  unfold State.runCopy
  with_reducible repeat' first
    | assumption | exact memsOk_of (by assumption) | refine memsOk_of ?_ | simp only [memOk_mk] | split
    | refine State.issueCopy_memOk ?_ | refine State.portFault_memOk ?_ | refine State.commit_memOk ?_

theorem execCpy_memOk {s : State} {x1} (h : s.memOk) :
    outOk (execCpy x1 s) := by
  unfold execCpy
  with_reducible repeat' first
    | assumption | exact memsOk_of (by assumption) | refine memsOk_of ?_ | simp only [memOk_mk] | refine outOk_next ?_
    | exact outOk_fault _ | exact outOk_refused _ | split | refine State.operation_memOk ?_ (fun _ _ => ?_)
    | refine State.runCopy_memOk ?_

theorem execCpymc_memOk {s : State} {x1} (h : s.memOk) :
    outOk (execCpymc x1 s) := by
  unfold execCpymc
  with_reducible repeat' first
    | assumption | exact memsOk_of (by assumption) | refine memsOk_of ?_ | simp only [memOk_mk] | refine outOk_next ?_
    | exact outOk_fault _ | exact outOk_refused _ | split | refine State.operation_memOk ?_ (fun _ _ => ?_)
    | refine State.runCopy_memOk ?_

theorem execCpyms_memOk {s : State} {x1} (h : s.memOk) :
    outOk (execCpyms x1 s) := by
  unfold execCpyms
  with_reducible repeat' first
    | assumption | exact memsOk_of (by assumption) | refine memsOk_of ?_ | simp only [memOk_mk] | refine outOk_next ?_
    | exact outOk_fault _ | exact outOk_refused _ | split | refine State.operation_memOk ?_ (fun _ _ => ?_)
    | refine State.runCopy_memOk ?_

theorem execCpysm_memOk {s : State} {x1} (h : s.memOk) :
    outOk (execCpysm x1 s) := by
  unfold execCpysm
  with_reducible repeat' first
    | assumption | exact memsOk_of (by assumption) | refine memsOk_of ?_ | simp only [memOk_mk] | refine outOk_next ?_
    | exact outOk_fault _ | exact outOk_refused _ | split | refine State.operation_memOk ?_ (fun _ _ => ?_)
    | refine State.runCopy_memOk ?_

theorem execCpyss_memOk {s : State} {x1} (h : s.memOk) :
    outOk (execCpyss x1 s) := by
  unfold execCpyss
  with_reducible repeat' first
    | assumption | exact memsOk_of (by assumption) | refine memsOk_of ?_ | simp only [memOk_mk] | refine outOk_next ?_
    | exact outOk_fault _ | exact outOk_refused _ | split | refine State.operation_memOk ?_ (fun _ _ => ?_)
    | refine State.runCopy_memOk ?_

theorem execSget_memOk {s : State} {x1} (h : s.memOk) : outOk (execSget x1 s) := by
  unfold execSget
  with_reducible repeat' first
    | assumption | simp only [memOk_mk] | refine outOk_next ?_ | split | refine State.operation_memOk ?_ (fun _ _ => ?_)
    | refine State.emit2_memOk ?_ | refine State.portFault_memOk ?_ | refine State.park_memOk ?_
    | refine State.emitBoth_memOk ?_ | refine State.onCore_memOk ?_

theorem execSput_memOk {s : State} {x1} (h : s.memOk) : outOk (execSput x1 s) := by
  unfold execSput
  with_reducible repeat' first
    | assumption | simp only [memOk_mk] | refine outOk_next ?_ | split | refine State.operation_memOk ?_ (fun _ _ => ?_)
    | refine State.portFault_memOk ?_ | refine State.commit_memOk ?_ | refine State.park_memOk ?_
    | refine State.onCore_memOk ?_ | refine State.emitBoth_memOk ?_

theorem execSclose_memOk {s : State} {x1} (h : s.memOk) : outOk (execSclose x1 s) := by
  unfold execSclose
  with_reducible repeat' first
    | assumption | simp only [memOk_mk] | refine outOk_next ?_ | split | refine State.operation_memOk ?_ (fun _ _ => ?_)
    | refine State.portFault_memOk ?_ | refine State.emitBoth_memOk ?_ | refine State.park_memOk ?_
    | refine State.onCore_memOk ?_

theorem execChdone_memOk {s : State} {x1} (h : s.memOk) : outOk (execChdone x1 s) := by
  unfold execChdone
  with_reducible repeat' first
    | assumption | simp only [memOk_mk] | refine outOk_next ?_ | split | refine State.operation_memOk ?_ (fun _ _ => ?_)
    | refine State.emitBoth_memOk ?_ | refine State.park_memOk ?_

theorem execEwait_memOk {s : State} {x1} (h : s.memOk) : outOk (execEwait x1 s) := by
  unfold execEwait
  with_reducible repeat' first
    | assumption | simp only [memOk_mk] | refine outOk_next ?_ | split | refine State.operation_memOk ?_ (fun _ _ => ?_)
    | refine State.emitBoth_memOk ?_ | refine State.park_memOk ?_

theorem execAgcfg_memOk {s : State} {x1} (h : s.memOk) : outOk (execAgcfg x1 s) := by
  unfold execAgcfg
  with_reducible repeat' first
    | assumption | simp only [memOk_mk] | refine outOk_next ?_ | split | refine State.operation_memOk ?_ (fun _ _ => ?_)
    | refine State.commit_memOk ?_ | refine State.emitBoth_memOk ?_ | refine State.onCore_memOk ?_

theorem State.mxSend_memOk {s : State} {x1} {x2} {x3} (h : s.memOk) : (State.mxSend s x1 x2 x3).memOk := by
  unfold State.mxSend
  with_reducible repeat' first | assumption | simp only [memOk_mk] | split | refine State.onCore_memOk ?_

theorem State.mxFire_memOk {s : State} {x1} {x2} {x3} (h : s.memOk) : (State.mxFire s x1 x2 x3).memOk := by
  unfold State.mxFire
  with_reducible repeat' first
    | assumption | refine State.triggered_memOk ?_ (fun _ _ => ?_) | refine State.mxSend_memOk ?_

theorem execMxop_memOk {s : State} {x1} (h : s.memOk) : outOk (execMxop x1 s) := by
  unfold execMxop
  with_reducible repeat' first | assumption | refine outOk_next ?_ | refine State.mxFire_memOk ?_

theorem execMxzero_memOk {s : State} {x1} (h : s.memOk) : outOk (execMxzero x1 s) := by
  unfold execMxzero
  with_reducible repeat' first | assumption | refine outOk_next ?_ | refine State.mxFire_memOk ?_

theorem execMxld_memOk {s : State} {x1} (h : s.memOk) : outOk (execMxld x1 s) := by
  unfold execMxld
  with_reducible repeat' first | assumption | refine outOk_next ?_ | refine State.mxFire_memOk ?_

theorem execMxrd_memOk {s : State} {x1} (h : s.memOk) : outOk (execMxrd x1 s) := by
  unfold execMxrd
  with_reducible repeat' first | assumption | refine outOk_next ?_ | refine State.mxFire_memOk ?_

theorem execMxst_memOk {s : State} {x1} (h : s.memOk) : outOk (execMxst x1 s) := by
  unfold execMxst
  with_reducible repeat' first | assumption | refine outOk_next ?_ | refine State.mxFire_memOk ?_

theorem execMxrel_memOk {s : State} {x1} (h : s.memOk) : outOk (execMxrel x1 s) := by
  unfold execMxrel
  with_reducible repeat' first | assumption | refine outOk_next ?_ | refine State.mxFire_memOk ?_

theorem execMxinfo_memOk {s : State} {x1} (h : s.memOk) : outOk (execMxinfo x1 s) := by
  unfold execMxinfo
  with_reducible repeat' first | assumption | refine outOk_next ?_ | refine State.mxFire_memOk ?_

theorem State.mxPop_memOk {s : State} {x1} (h : s.memOk) : (State.mxPop s x1).memOk := by
  unfold State.mxPop
  with_reducible repeat' first | assumption | refine State.onCore_memOk ?_

theorem State.mxTake_memOk {s : State} {x1} {x2} (h : s.memOk) : (State.mxTake s x1 x2).memOk := by
  unfold State.mxTake
  with_reducible repeat' first
    | assumption | simp only [memOk_mk] | split | refine State.mxPop_memOk ?_ | refine State.onCore_memOk ?_
    | refine State.countUp_memOk ?_ | refine State.emitBoth_memOk ?_

theorem State.mxFail_memOk {s : State} {x1} {x2} {x3} (h : s.memOk) : (State.mxFail s x1 x2 x3).memOk := by
  unfold State.mxFail
  with_reducible repeat' first
    | assumption | simp only [memOk_mk] | split | refine State.commit_memOk ?_ | refine State.mxPop_memOk ?_

theorem execMatrixAccept_memOk {s : State} {x1} (h : s.memOk) : outOk (execMatrixAccept x1 s) := by
  unfold execMatrixAccept
  with_reducible repeat' first
    | assumption | simp only [memOk_mk] | refine outOk_next ?_ | split | refine State.mxPop_memOk ?_
    | refine State.mxFail_memOk ?_ | refine State.setCore_memOk ?_ | refine State.mxTake_memOk ?_

theorem execAccExhausted_memOk {s : State} {x1} (h : s.memOk) : outOk (execAccExhausted x1 s) := by
  unfold execAccExhausted
  with_reducible repeat' first
    | assumption | simp only [memOk_mk] | refine outOk_next ?_ | split | refine State.mxFail_memOk ?_

theorem State.mxLoad_memOk {s : State} {x1} {x2} (h : s.memOk) : (State.mxLoad s x1 x2).memOk := by
  unfold State.mxLoad
  with_reducible repeat' first | assumption | simp only [memOk_mk] | refine State.setCore_memOk ?_

theorem State.mxStore_memOk {s : State} {x1} {x2} (h : s.memOk) : (State.mxStore s x1 x2).memOk := by
  unfold State.mxStore
  with_reducible repeat' first
    | assumption | simp only [memOk_mk] | split | refine State.setCore_memOk ?_ | refine foldl_memOk ?_ (fun _ _ _ => ?_)

theorem State.mxRun_memOk {s : State} {x1} {x2} (h : s.memOk) : optOk (State.mxRun s x1 x2) := by
  unfold State.mxRun
  with_reducible repeat' first
    | assumption | simp only [memOk_mk] | refine optOk_some ?_ | exact optOk_none | split | refine State.setCore_memOk ?_
    | refine State.mxLoad_memOk ?_ | refine State.mxStore_memOk ?_ | refine State.emitBoth_memOk ?_

theorem execMatrixExecuteComplete_memOk {s : State} {x1} (h : s.memOk) : outOk (execMatrixExecuteComplete x1 s) := by
  unfold execMatrixExecuteComplete
  with_reducible repeat' first
    | assumption | simp only [memOk_mk] | refine outOk_next ?_ | split | refine State.mxRun_memOk ?_
    | refine State.onCore_memOk ?_ | refine State.countDown_memOk ?_ | refine some_memOk (by assumption) ?_

theorem State.controlWrites_memOk {s : State} {x1} {x2} {x3} {x4} {x5} (h : s.memOk) :
    (State.controlWrites s x1 x2 x3 x4 x5).memOk := by
  induction x3 generalizing s x4 x5 with
  | zero => exact h
  | succ _ ih =>
    unfold State.controlWrites
    with_reducible repeat' first
      | assumption | dsimp only | split | refine ih ?_ | refine State.hubWriteAs_memOk ?_ | refine State.hubTranslate_memOk ?_
      | refine fst_memOk (by assumption) ?_

theorem State.controlWrite_memOk {s : State} {x1} {x2} {x3} {x4} (h : s.memOk) :
    (State.controlWrite s x1 x2 x3 x4).memOk := by
  unfold State.controlWrite
  with_reducible repeat' first
    | assumption | exact memsOk_of (by assumption) | refine memsOk_of ?_ | simp only [memOk_mk] | split
    | refine State.controlWrites_memOk ?_

theorem State.enqueue_memOk {s : State} {x1} {x2} {x3} {x4} (h : s.memOk) : (State.enqueue s x1 x2 x3 x4).memOk := by
  unfold State.enqueue
  with_reducible repeat' first
    | assumption | simp only [memOk_mk] | split | refine State.controlWrite_memOk ?_ | refine State.onGraph_memOk ?_

theorem State.recFault_memOk {s : State} {x1} {x2} {x3} {x4} (h : s.memOk) : (State.recFault s x1 x2 x3 x4).memOk := by
  unfold State.recFault
  with_reducible repeat' first | assumption | split | refine State.commit_memOk ?_

theorem State.recGive_memOk {s : State} {x1} {x2} {x3} {x4} {x5} (h : s.memOk) : (State.recGive s x1 x2 x3 x4 x5).memOk := by
  unfold State.recGive
  with_reducible repeat' first
    | assumption | simp only [memOk_mk] | refine State.onGraph_memOk ?_ | refine State.onThread_memOk ?_
    | refine State.emit2_memOk ?_

theorem State.recWait_memOk {s : State} {x1} {x2} {x3} (h : s.memOk) :
    (State.recWait s x1 x2 x3).memOk := by
  unfold State.recWait
  with_reducible repeat' first
    | assumption | exact memsOk_of (by assumption) | refine memsOk_of ?_ | simp only [memOk_mk] | split
    | refine State.onGraph_memOk ?_ | refine State.onCore_memOk ?_

theorem State.unwait_memOk {s : State} {x1} (h : s.memOk) :
    (State.unwait s x1).memOk := by
  unfold State.unwait
  with_reducible repeat' first
    | assumption | exact memsOk_of (by assumption) | refine memsOk_of ?_ | simp only [memOk_mk] | split
    | refine State.onGraph_memOk ?_

theorem execRecalloc_memOk {s : State} {x1} (h : s.memOk) :
    outOk (execRecalloc x1 s) := by
  unfold execRecalloc
  with_reducible repeat' first
    | assumption | exact memsOk_of (by assumption) | refine memsOk_of ?_ | simp only [memOk_mk] | refine outOk_next ?_
    | exact outOk_fault _ | exact outOk_refused _ | split | refine State.operation_memOk ?_ (fun _ _ => ?_)
    | refine State.unwait_memOk ?_ | refine State.recFault_memOk ?_ | refine State.emit2_memOk ?_
    | refine State.recWait_memOk ?_ | refine State.recGive_memOk ?_

theorem execRecordPoolExhausted_memOk {s : State} {x1} {x2} (h : s.memOk) : outOk (execRecordPoolExhausted x1 x2 s) := by
  unfold execRecordPoolExhausted
  with_reducible repeat' first
    | assumption | simp only [memOk_mk] | refine outOk_next ?_ | split | refine State.setCore_memOk ?_
    | refine State.onGraph_memOk ?_ | refine State.recFault_memOk ?_

theorem State.recStore_memOk {s : State} {x1} {x2} {x3} {x4} (h : s.memOk) :
    (State.recStore s x1 x2 x3 x4).memOk := by
  unfold State.recStore
  with_reducible repeat' first
    | assumption | exact memsOk_of (by assumption) | refine memsOk_of ?_ | simp only [memOk_mk] | split
    | refine State.locateOf_memOk ?_ | refine State.stopAccess_memOk ?_ | refine State.writeAt_memOk ?_
    | refine State.onGraph_memOk ?_ | refine State.emitBoth_memOk ?_ | refine fst_memOk (by assumption) ?_

theorem execRecw_memOk {s : State} {x1} (h : s.memOk) :
    outOk (execRecw x1 s) := by
  unfold execRecw
  with_reducible repeat' first
    | assumption | exact memsOk_of (by assumption) | refine memsOk_of ?_ | simp only [memOk_mk] | refine outOk_next ?_
    | exact outOk_fault _ | exact outOk_refused _ | split | refine State.settle_memOk ?_
    | refine State.operation_memOk ?_ (fun _ _ => ?_) | refine State.recStore_memOk ?_
    | refine State.recFault_memOk ?_ | refine State.commit_memOk ?_

theorem State.recLoad_memOk {s : State} {x1} {x2} {x3} (h : s.memOk) :
    (State.recLoad s x1 x2 x3).memOk := by
  unfold State.recLoad
  with_reducible repeat' first
    | assumption | exact memsOk_of (by assumption) | refine memsOk_of ?_ | simp only [memOk_mk] | split
    | refine State.locateOf_memOk ?_ | refine State.stopAccess_memOk ?_ | refine State.readAt_memOk ?_
    | refine State.emit2_memOk ?_ | refine fst_memOk (by assumption) ?_

theorem execRecrd_memOk {s : State} {x1} (h : s.memOk) :
    outOk (execRecrd x1 s) := by
  unfold execRecrd
  with_reducible repeat' first
    | assumption | exact memsOk_of (by assumption) | refine memsOk_of ?_ | simp only [memOk_mk] | refine outOk_next ?_
    | exact outOk_fault _ | exact outOk_refused _ | split | refine State.settle_memOk ?_
    | refine State.operation_memOk ?_ (fun _ _ => ?_) | refine State.recLoad_memOk ?_ | refine State.recFault_memOk ?_

theorem execRecemit_memOk {s : State} {x1} (h : s.memOk) :
    outOk (execRecemit x1 s) := by
  unfold execRecemit
  with_reducible repeat' first
    | assumption | exact memsOk_of (by assumption) | refine memsOk_of ?_ | simp only [memOk_mk] | refine outOk_next ?_
    | exact outOk_fault _ | exact outOk_refused _ | split | refine State.settle_memOk ?_
    | refine State.operation_memOk ?_ (fun _ _ => ?_) | refine State.recFault_memOk ?_
    | refine State.parkRelease_memOk ?_ | refine State.releaseActs_memOk ?_ | refine State.onThread_memOk ?_
    | refine State.emitBoth_memOk ?_ | refine State.enqueue_memOk ?_

theorem execRecinfo_memOk {s : State} {x1} (h : s.memOk) : outOk (execRecinfo x1 s) := by
  unfold execRecinfo
  with_reducible repeat' first
    | assumption | simp only [memOk_mk] | refine outOk_next ?_ | split | refine State.operation_memOk ?_ (fun _ _ => ?_)
    | refine State.recFault_memOk ?_ | refine State.emit2_memOk ?_

end Sys2Proof.Machine
end

