-- ==== Sys2Proof/Laws/MemOkEvents.lean ====
section
/-! SUPPORT. No activity of the machine and no input takes a memory out of its canonical form. -/

namespace Sys2Proof.Machine

set_option linter.unusedSimpArgs false

theorem State.forward_memOk {s : State} {x1} (h : s.memOk) : (State.forward s x1).memOk := by
  unfold State.forward
  with_reducible repeat' first
    | assumption | simp only [memOk_mk] | refine State.triggered_memOk ?_ (fun _ _ => ?_) | refine State.emitBoth_memOk ?_

theorem execNop_memOk {s : State} {x1} (h : s.memOk) : outOk (execNop x1 s) := by
  unfold execNop
  with_reducible repeat' first | assumption | refine outOk_next ?_ | refine State.forward_memOk ?_

theorem execHint_memOk {s : State} {x1} (h : s.memOk) : outOk (execHint x1 s) := by
  unfold execHint
  with_reducible repeat' first | assumption | refine outOk_next ?_ | refine State.forward_memOk ?_

theorem execRdclk_memOk {s : State} {x1} (h : s.memOk) : outOk (execRdclk x1 s) := by
  unfold execRdclk
  with_reducible repeat' first
    | assumption | simp only [memOk_mk] | refine outOk_next ?_ | refine State.triggered_memOk ?_ (fun _ _ => ?_)
    | refine State.emitBoth_memOk ?_

theorem execRdctr_memOk {s : State} {x1} (h : s.memOk) : outOk (execRdctr x1 s) := by
  unfold execRdctr
  with_reducible repeat' first
    | assumption | simp only [memOk_mk] | refine outOk_next ?_ | refine State.triggered_memOk ?_ (fun _ _ => ?_)
    | refine State.emitBoth_memOk ?_

theorem execSysrd_memOk {s : State} {x1} (h : s.memOk) : outOk (execSysrd x1 s) := by
  unfold execSysrd
  with_reducible repeat' first
    | assumption | simp only [memOk_mk] | refine outOk_next ?_ | refine State.triggered_memOk ?_ (fun _ _ => ?_)
    | refine State.emitBoth_memOk ?_

theorem execSyswr_memOk {s : State} {x1} (h : s.memOk) :
    outOk (execSyswr x1 s) := by
  unfold execSyswr
  with_reducible repeat' first
    | assumption | exact memsOk_of (by assumption) | refine memsOk_of ?_ | simp only [memOk_mk] | refine outOk_next ?_
    | exact outOk_fault _ | exact outOk_refused _ | split | refine State.triggered_memOk ?_ (fun _ _ => ?_)
    | refine State.commit_memOk ?_ | refine State.parkRelease_memOk ?_
    | refine State.releasing_memOk ?_ (fun _ _ => ?_) | refine State.emitBoth_memOk ?_
    | refine State.raiseEvent_memOk ?_

theorem execBrk_memOk {s : State} {x1} (h : s.memOk) : outOk (execBrk x1 s) := by
  unfold execBrk
  with_reducible repeat' first
    | assumption | simp only [memOk_mk] | refine outOk_next ?_ | split | refine State.commit_memOk ?_

theorem State.heldRecord_memOk {s : State} {x1} {x2} (h : s.memOk) (hk : ∀ t, t.memOk → (x2 t).memOk) :
    (State.heldRecord s x1 x2).memOk := by
  unfold State.heldRecord
  with_reducible repeat' first
    | assumption | exact memsOk_of (by assumption) | refine memsOk_of ?_ | simp only [memOk_mk] | split
    | refine State.triggered_memOk ?_ (fun _ _ => ?_) | refine State.emitBoth_memOk ?_
    | refine State.locateOf_memOk ?_ | refine State.stopAccess_memOk ?_ | refine State.readAt_memOk ?_
    | refine hk _  ?_ | refine fst_memOk (by assumption) ?_

theorem execFltrd_memOk {s : State} {x1} (h : s.memOk) : outOk (execFltrd x1 s) := by
  unfold execFltrd
  exact outOk_next (State.settle_memOk (State.heldRecord_memOk h (fun _ k => k)))

theorem execFltrdClr_memOk {s : State} {x1} (h : s.memOk) :
    outOk (execFltrdClr x1 s) := by
  unfold execFltrdClr
  with_reducible repeat' first
    | assumption | exact memsOk_of (by assumption) | refine memsOk_of ?_ | simp only [memOk_mk] | refine outOk_next ?_
    | exact outOk_fault _ | exact outOk_refused _ | split | refine State.settle_memOk ?_
    | refine State.heldRecord_memOk ?_ (fun _ _ => ?_) | refine State.onThread_memOk ?_

theorem State.matchedIn_memOk {s : State} {x1} (h : s.memOk) :
    (State.matchedIn s x1).memOk := by
  unfold State.matchedIn
  with_reducible repeat' first
    | assumption | exact memsOk_of (by assumption) | refine memsOk_of ?_ | simp only [memOk_mk] | split
    | refine State.blockReady_memOk ?_ | refine State.onCore_memOk ?_

theorem State.join_memOk {s : State} {x1} {x2} {x3} {x4} {x5} {x6} {x7} (h : s.memOk) :
    optOk (State.join s x1 x2 x3 x4 x5 x6 x7) := by
  unfold State.join
  with_reducible repeat' first
    | assumption | exact memsOk_of (by assumption) | refine memsOk_of ?_ | simp only [memOk_mk] | refine optOk_some ?_
    | exact optOk_none | split | refine State.setCore_memOk ?_ | refine State.matchedIn_memOk ?_

theorem State.mergeJoin_memOk {s : State} {x1} {x2} {x3} {x4} {x5} {x6} (h : s.memOk) :
    optOk (State.mergeJoin s x1 x2 x3 x4 x5 x6) := by
  unfold State.mergeJoin
  with_reducible repeat' first
    | assumption | exact memsOk_of (by assumption) | refine memsOk_of ?_ | simp only [memOk_mk] | refine optOk_some ?_
    | exact optOk_none | split | refine State.setCore_memOk ?_

theorem State.scaleArrives_memOk {s : State} {x1} {x2} {x3} {x4} (h : s.memOk) :
    optOk (State.scaleArrives s x1 x2 x3 x4) := by
  unfold State.scaleArrives
  with_reducible repeat' first
    | assumption | exact memsOk_of (by assumption) | refine memsOk_of ?_ | simp only [memOk_mk] | refine optOk_some ?_
    | exact optOk_none | split | refine State.send_memOk ?_ | refine State.setCore_memOk ?_

theorem State.tokenArrives_memOk {s : State} {x1} {x2} (h : s.memOk) :
    optOk (State.tokenArrives s x1 x2) := by
  unfold State.tokenArrives
  with_reducible repeat' first
    | assumption | exact memsOk_of (by assumption) | refine memsOk_of ?_ | simp only [memOk_mk] | refine optOk_some ?_
    | exact optOk_none | split | refine State.scaleArrives_memOk ?_ | refine State.setCore_memOk ?_
    | refine State.mergeJoin_memOk ?_ | refine State.join_memOk ?_

theorem execTokenArrival_memOk {s : State} {x1} {x2} (h : s.memOk) :
    outOk (execTokenArrival x1 x2 s) := by
  unfold execTokenArrival
  with_reducible repeat' first
    | assumption | exact memsOk_of (by assumption) | refine memsOk_of ?_ | simp only [memOk_mk] | refine outOk_next ?_
    | exact outOk_fault _ | exact outOk_refused _ | refine optOk_some ?_ | exact optOk_none | split
    | refine State.tokenArrives_memOk ?_ | refine State.setCore_memOk ?_ | refine some_memOk (by assumption) ?_
    | refine getD_memOk ?_ ?_

theorem State.issueOne_memOk {s : State} {x1} (h : s.memOk) :
    (State.issueOne s x1).memOk := by
  unfold State.issueOne
  with_reducible repeat' first
    | assumption | exact memsOk_of (by assumption) | refine memsOk_of ?_ | simp only [memOk_mk] | split
    | refine State.setCore_memOk ?_

theorem execElementIssue_memOk {s : State} {x1} {x2} (h : s.memOk) :
    outOk (execElementIssue x1 x2 s) := by
  unfold execElementIssue
  with_reducible repeat' first
    | assumption | exact memsOk_of (by assumption) | refine memsOk_of ?_ | simp only [memOk_mk] | refine outOk_next ?_
    | exact outOk_fault _ | exact outOk_refused _ | split | refine State.issueOne_memOk ?_
    | refine State.onCore_memOk ?_ | refine foldl_memOk ?_ (fun _ _ _ => ?_)

theorem execCreditReturn_memOk {s : State} {x1} {x2} (h : s.memOk) :
    outOk (execCreditReturn x1 x2 s) := by
  unfold execCreditReturn
  with_reducible repeat' first
    | assumption | exact memsOk_of (by assumption) | refine memsOk_of ?_ | simp only [memOk_mk] | refine outOk_next ?_
    | exact outOk_fault _ | exact outOk_refused _ | split | refine State.setCore_memOk ?_
    | refine State.emitBoth_memOk ?_

theorem State.snapshot_memOk {s : State} {x1} {x2} (h : s.memOk) : (State.snapshot s x1 x2).memOk := by
  unfold State.snapshot
  with_reducible repeat' first | assumption | simp only [memOk_mk] | split | refine State.setCore_memOk ?_

theorem execGangSnapshot_memOk {s : State} {x1} (h : s.memOk) : outOk (execGangSnapshot x1 s) := by
  unfold execGangSnapshot
  with_reducible repeat' first
    | assumption | simp only [memOk_mk] | refine outOk_next ?_ | split | refine State.snapshot_memOk ?_
    | refine State.setCore_memOk ?_

theorem execSwitchBegin_memOk {s : State} {x1} (h : s.memOk) : outOk (execSwitchBegin x1 s) := by
  unfold execSwitchBegin
  with_reducible repeat' first
    | assumption | simp only [memOk_mk] | refine outOk_next ?_ | split | refine State.setCore_memOk ?_

theorem execFlip_memOk {s : State} {x1} (h : s.memOk) : outOk (execFlip x1 s) := by
  unfold execFlip
  with_reducible repeat' first
    | assumption | simp only [memOk_mk] | refine outOk_next ?_ | split | refine State.setCore_memOk ?_

theorem execDecodeStart_memOk {s : State} {x1} (h : s.memOk) : outOk (execDecodeStart x1 s) := by
  unfold execDecodeStart
  with_reducible repeat' first
    | assumption | simp only [memOk_mk] | refine outOk_next ?_ | split | refine State.setCore_memOk ?_

theorem execDecodeReady_memOk {s : State} {x1} (h : s.memOk) : outOk (execDecodeReady x1 s) := by
  unfold execDecodeReady
  with_reducible repeat' first
    | assumption | simp only [memOk_mk] | refine outOk_next ?_ | split | refine State.setCore_memOk ?_

theorem execPinWatchdog_memOk {s : State} {x1} (h : s.memOk) : outOk (execPinWatchdog x1 s) := by
  unfold execPinWatchdog
  with_reducible repeat' first
    | assumption | simp only [memOk_mk] | refine outOk_next ?_ | split | refine State.dropHeld_memOk ?_
    | refine State.onCore_memOk ?_ | refine State.fqPost_memOk ?_ | refine State.abortWg_memOk ?_
    | refine foldl_memOk ?_ (fun _ _ _ => ?_)

theorem execWaitWatchdog_memOk {s : State} {x1} {x2} (h : s.memOk) : outOk (execWaitWatchdog x1 x2 s) := by
  unfold execWaitWatchdog
  with_reducible repeat' first
    | assumption | simp only [memOk_mk] | refine outOk_next ?_ | split | refine State.setCore_memOk ?_
    | refine State.abortFault_memOk ?_

theorem execScTicket_memOk {s : State} {x1} {x2} (h : s.memOk) : outOk (execScTicket x1 x2 s) := by
  unfold execScTicket
  with_reducible repeat' first
    | assumption | refine memsOk_of ?_ | simp only [memOk_mk] | refine outOk_next ?_ | split | refine State.setCore_memOk ?_
    | refine State.commit_memOk ?_ | refine State.fenceActs_memOk ?_

theorem State.admitPart_memOk {s : State} {x1} {x2} {x3} {x4} {x5} {x6} {x7} {x8} (h : s.memOk) : (State.admitPart s x1 x2 x3 x4 x5 x6 x7 x8).memOk := by
  unfold State.admitPart
  with_reducible repeat' first | assumption | simp only [memOk_mk] | split | refine State.setCore_memOk ?_

theorem State.admitNext_memOk {s : State} {x1} {x2} (h : s.memOk) : (State.admitNext s x1 x2).memOk := by
  unfold State.admitNext
  with_reducible repeat' first
    | assumption | exact memsOk_of (by assumption) | simp only [memOk_mk] | refine State.admitPart_memOk ?_
    | refine State.onLaunch_memOk ?_ | refine foldl_memOk ?_ (fun _ _ _ => ?_)

theorem execAdmitWorkgroup_memOk {s : State} {x1} {x2} (h : s.memOk) : outOk (execAdmitWorkgroup x1 x2 s) := by
  unfold execAdmitWorkgroup
  with_reducible repeat' first
    | assumption | simp only [memOk_mk] | refine outOk_next ?_ | split | refine State.admitNext_memOk ?_

theorem State.imagePages_memOk {s : State} {x1} {x2} {x3} {x4} (h : s.memOk) : (State.imagePages s x1 x2 x3 x4).1.memOk := by
  induction x3 generalizing s x1 x2 x4 with
  | zero =>
    unfold State.imagePages
    assumption
  | succ _ ih =>
    unfold State.imagePages
    with_reducible repeat' first
      | assumption | simp only [memOk_mk] | split | refine State.translate_memOk ?_ | refine State.hold_memOk ?_
      | refine State.atsWait_memOk ?_ | refine ih ?_ | refine fst_memOk (by assumption) ?_

theorem State.readImage_memOk {s : State} {x1} {x2} {x3} {x4} (h : s.memOk) :
    (State.readImage s x1 x2 x3 x4).memOk := by
  unfold State.readImage
  with_reducible repeat' first
    | assumption | exact memsOk_of (by assumption) | refine memsOk_of ?_ | simp only [memOk_mk] | split
    | refine State.devFetch_memOk ?_ | refine State.accessAs_memOk ?_ | refine State.remoteFetch_memOk ?_
    | refine State.hostOwn_memOk ?_ | refine foldl_memOk ?_ (fun _ _ _ => ?_)

theorem State.internKernel_memOk {s : State} {x1} (h : s.memOk) : (State.internKernel s x1).1.memOk := by
  unfold State.internKernel
  with_reducible repeat' first | assumption | exact memsOk_of (by assumption) | simp only [memOk_mk] | split

theorem State.nameKernel_memOk {s : State} {x1} {x2} {x3} (h : s.memOk) : (State.nameKernel s x1 x2 x3).memOk := by
  unfold State.nameKernel
  with_reducible repeat' first
    | assumption | simp only [memOk_mk] | refine State.onLaunch_memOk ?_ | refine State.onGraph_memOk ?_

theorem State.validated_memOk {s : State} {x1} {x2} {x3} {x4} (h : s.memOk) : (State.validated s x1 x2 x3 x4).memOk := by
  unfold State.validated
  with_reducible repeat' first
    | assumption | simp only [memOk_mk] | refine State.internKernel_memOk ?_ | refine State.nameKernel_memOk ?_
    | refine State.setCore_memOk ?_

theorem State.rejectKernel_memOk {s : State} {x1} {x2} {x3} {x4} (h : s.memOk) : (State.rejectKernel s x1 x2 x3 x4).memOk := by
  unfold State.rejectKernel
  with_reducible repeat' first
    | assumption | simp only [memOk_mk] | refine State.onCore_memOk ?_ | refine State.onLaunch_memOk ?_

theorem State.refuseFetch_memOk {s : State} {x1} {x2} {x3} {x4} {x5} {x6} (h : s.memOk) : (State.refuseFetch s x1 x2 x3 x4 x5 x6).memOk := by
  unfold State.refuseFetch
  with_reducible repeat' first
    | assumption | simp only [memOk_mk] | split | refine State.fqPost_memOk ?_ | refine State.rejectKernel_memOk ?_

theorem State.validateAt_memOk {s : State} {x1} {x2} {x3} (h : s.memOk) :
    (State.validateAt s x1 x2 x3).memOk := by
  unfold State.validateAt
  with_reducible repeat' first
    | assumption | exact memsOk_of (by assumption) | refine memsOk_of ?_ | simp only [memOk_mk] | split
    | refine State.onCore_memOk ?_ | refine State.imagePages_memOk ?_ | refine State.accessAs_memOk ?_
    | refine State.refuseFetch_memOk ?_ | refine State.readImage_memOk ?_ | refine State.nameKernel_memOk ?_
    | refine State.validated_memOk ?_ | refine State.rejectKernel_memOk ?_ | refine fst_memOk (by assumption) ?_

theorem execValidateKernel_memOk {s : State} {x1} {x2} (h : s.memOk) : outOk (execValidateKernel x1 x2 s) := by
  unfold execValidateKernel
  with_reducible repeat' first
    | assumption | simp only [memOk_mk] | refine outOk_next ?_ | split | refine State.settle_memOk ?_
    | refine State.validateAt_memOk ?_

theorem State.refuseDecode_memOk {s : State} {x1} {x2} {x3} {x4} {x5} (h : s.memOk) : (State.refuseDecode s x1 x2 x3 x4 x5).memOk := by
  unfold State.refuseDecode
  with_reducible repeat' first
    | assumption | simp only [memOk_mk] | split | refine State.fqPost_memOk ?_ | refine State.onCore_memOk ?_
    | refine State.abortWg_memOk ?_ | refine foldl_memOk ?_ (fun _ _ _ => ?_)

theorem execConfigCacheFill_memOk {s : State} {x1} (h : s.memOk) :
    outOk (execConfigCacheFill x1 s) := by
  unfold execConfigCacheFill
  with_reducible repeat' first
    | assumption | exact memsOk_of (by assumption) | refine memsOk_of ?_ | simp only [memOk_mk] | refine outOk_next ?_
    | exact outOk_fault _ | exact outOk_refused _ | split | refine State.imagePages_memOk ?_
    | refine State.accessAs_memOk ?_ | refine State.refuseDecode_memOk ?_ | refine State.readImage_memOk ?_
    | refine State.settle_memOk ?_ | refine State.setCore_memOk ?_ | refine fst_memOk (by assumption) ?_

theorem State.fillMiss_memOk {s : State} {x1} {x2} (h : s.memOk) :
    (State.fillMiss s x1 x2).memOk := by
  unfold State.fillMiss
  with_reducible repeat' first
    | assumption | exact memsOk_of (by assumption) | refine memsOk_of ?_ | simp only [memOk_mk] | split
    | refine State.sliceWord_memOk ?_ | refine State.accessAs_memOk ?_ | refine State.onCore_memOk ?_
    | refine State.settle_memOk ?_ | refine State.deliver_memOk ?_ | refine foldl_memOk ?_ (fun _ _ _ => ?_)

theorem execCacheFill_memOk {s : State} {x1} {x2} {x3} (h : s.memOk) :
    outOk (execCacheFill x1 x2 x3 s) := by
  unfold execCacheFill
  with_reducible repeat' first
    | assumption | exact memsOk_of (by assumption) | refine memsOk_of ?_ | simp only [memOk_mk] | refine outOk_next ?_
    | exact outOk_fault _ | exact outOk_refused _ | split | refine State.settle_memOk ?_
    | refine State.fillMiss_memOk ?_ | refine foldl_memOk ?_ (fun _ _ _ => ?_)

theorem execL2Store_memOk {s : State} {x1} {x2} {x3} {x4} (h : s.memOk) : outOk (execL2Store x1 x2 x3 x4 s) := by
  unfold execL2Store
  with_reducible repeat' first
    | assumption | refine outOk_next ?_ | refine State.settle_memOk ?_ | refine State.devStore_memOk ?_
    | refine State.accessAs_memOk ?_

theorem execGets_memOk {s : State} {x1} {x2} {x3} (h : s.memOk) : outOk (execGets x1 x2 x3 s) := by
  unfold execGets
  with_reducible repeat' first
    | assumption | refine outOk_next ?_ | refine State.settle_memOk ?_ | refine State.getS_memOk ?_
    | refine State.accessAs_memOk ?_ | refine foldl_memOk ?_ (fun _ _ _ => ?_)

theorem execGetm_memOk {s : State} {x1} {x2} {x3} (h : s.memOk) : outOk (execGetm x1 x2 x3 s) := by
  unfold execGetm
  with_reducible repeat' first
    | assumption | refine outOk_next ?_ | split | refine State.settle_memOk ?_ | refine State.fenceSense_memOk ?_
    | refine State.getM_memOk ?_ | refine State.accessAs_memOk ?_ | refine foldl_memOk ?_ (fun _ _ _ => ?_)

theorem execPutm_memOk {s : State} {x1} {x2} {x3} (h : s.memOk) : outOk (execPutm x1 x2 x3 s) := by
  unfold execPutm
  with_reducible repeat' first
    | assumption | refine outOk_next ?_ | refine State.settle_memOk ?_ | refine State.evict_memOk ?_
    | refine State.accessAs_memOk ?_

theorem execPuts_memOk {s : State} {x1} {x2} {x3} (h : s.memOk) : outOk (execPuts x1 x2 x3 s) := by
  unfold execPuts
  with_reducible repeat' first
    | assumption | refine outOk_next ?_ | refine State.settle_memOk ?_ | refine State.evict_memOk ?_
    | refine State.accessAs_memOk ?_

theorem execInvalidation_memOk {s : State} {x1} {x2} {x3} (h : s.memOk) : outOk (execInvalidation x1 x2 x3 s) := by
  unfold execInvalidation
  with_reducible repeat' first
    | assumption | refine outOk_next ?_ | refine State.settle_memOk ?_ | refine State.evict_memOk ?_
    | refine State.accessAs_memOk ?_

theorem execBackInvalidationSnoop_memOk {s : State} {x1} {x2} {x3} (h : s.memOk) : outOk (execBackInvalidationSnoop x1 x2 x3 s) := by
  unfold execBackInvalidationSnoop
  with_reducible repeat' first
    | exact memsOk_of (by assumption) | simp only [memOk_mk] | refine outOk_next ?_ | refine State.dirRelease_memOk ?_

theorem execHostHalfRequest_memOk {s : State} {x1} {x2} (h : s.memOk) :
    outOk (execHostHalfRequest x1 x2 s) := by
  unfold execHostHalfRequest
  with_reducible repeat' first
    | assumption | exact memsOk_of (by assumption) | refine memsOk_of ?_ | simp only [memOk_mk] | refine outOk_next ?_
    | exact outOk_fault _ | exact outOk_refused _ | split | refine State.hostGive_memOk ?_
    | refine State.evict_memOk ?_ | refine State.dirEnsure_memOk ?_ | refine State.settle_memOk ?_
    | refine foldl_memOk ?_ (fun _ _ _ => ?_)

theorem execPatrolScrub_memOk {s : State} {x1} (h : s.memOk) : outOk (execPatrolScrub x1 s) := by
  unfold execPatrolScrub
  with_reducible repeat' first
    | assumption | simp only [memOk_mk] | refine outOk_next ?_ | split | refine State.settle_memOk ?_
    | refine State.dramSense_memOk ?_ | refine State.accessAs_memOk ?_ | refine foldl_memOk ?_ (fun _ _ _ => ?_)

theorem State.rotate_memOk {s : State} (h : s.memOk) : (State.rotate s).memOk := by
  unfold State.rotate
  with_reducible repeat' first | exact memsOk_of (by assumption) | simp only [memOk_mk]

theorem execNotify_memOk {s : State} {x1} {x2} (h : s.memOk) : outOk (execNotify x1 x2 s) := by
  unfold execNotify
  with_reducible repeat' first
    | assumption | simp only [memOk_mk] | refine outOk_next ?_ | split | refine State.rotate_memOk ?_
    | refine State.queueError_memOk ?_ | refine State.raiseEvent_memOk ?_ | refine State.onQueue_memOk ?_

theorem execQctlEnable_memOk {s : State} {x1} (h : s.memOk) : outOk (execQctlEnable x1 s) := by
  unfold execQctlEnable
  with_reducible repeat' first
    | assumption | refine outOk_next ?_ | split | refine State.rotate_memOk ?_ | refine State.onQueue_memOk ?_

theorem execQctlDisable_memOk {s : State} {x1} (h : s.memOk) : outOk (execQctlDisable x1 s) := by
  unfold execQctlDisable
  with_reducible repeat' first
    | assumption | refine outOk_next ?_ | refine State.rotate_memOk ?_ | refine State.onQueue_memOk ?_

theorem State.packetPlace_memOk {s : State} {x1} {x2} {x3} {x4} {x5} {x6} (h : s.memOk) : (State.packetPlace s x1 x2 x3 x4 x5 x6).1.memOk := by
  unfold State.packetPlace
  with_reducible repeat' first | assumption | split | refine State.hubPlace_memOk ?_

theorem State.packetStop_memOk {s : State} {x1} {x2} {x3} (h : s.memOk) : (State.packetStop s x1 x2 x3).memOk := by
  unfold State.packetStop
  with_reducible repeat' first | assumption | split | refine State.rotate_memOk ?_ | refine State.queueError_memOk ?_

theorem execPacketHeaderPoll_memOk {s : State} {x1} (h : s.memOk) : outOk (execPacketHeaderPoll x1 s) := by
  unfold execPacketHeaderPoll
  with_reducible repeat' first
    | assumption | simp only [memOk_mk] | refine outOk_next ?_ | split | refine State.packetPlace_memOk ?_
    | refine State.packetStop_memOk ?_ | refine State.hubRead_memOk ?_ | refine State.settle_memOk ?_
    | refine State.onQueue_memOk ?_ | refine State.rotate_memOk ?_ | refine State.queueError_memOk ?_
    | refine fst_memOk (by assumption) ?_

theorem State.startPacket_memOk {s : State} {x1} {x2} (h : s.memOk) : (State.startPacket s x1 x2).memOk := by
  unfold State.startPacket
  with_reducible repeat' first | assumption | refine State.onQueue_memOk ?_

theorem execPacketNop_memOk {s : State} {x1} (h : s.memOk) : outOk (execPacketNop x1 s) := by
  unfold execPacketNop
  with_reducible repeat' first
    | assumption | refine outOk_next ?_ | split | refine State.rotate_memOk ?_ | refine State.startPacket_memOk ?_

theorem State.pollLater_memOk {s : State} {x1} (h : s.memOk) : (State.pollLater s x1).memOk := by
  unfold State.pollLater
  with_reducible repeat' first | assumption | refine State.onQueue_memOk ?_

theorem execPacketWaitsig_memOk {s : State} {x1} (h : s.memOk) : outOk (execPacketWaitsig x1 s) := by
  unfold execPacketWaitsig
  with_reducible repeat' first
    | assumption | simp only [memOk_mk] | refine outOk_next ?_ | split | refine State.hubPlace_memOk ?_
    | refine State.packetStop_memOk ?_ | refine State.hubRead_memOk ?_ | refine State.settle_memOk ?_
    | refine State.rotate_memOk ?_ | refine State.startPacket_memOk ?_ | refine State.pollLater_memOk ?_
    | refine fst_memOk (by assumption) ?_

theorem State.signalsZero_memOk {s : State} {x1} {x2} {x3} (h : s.memOk) : (State.signalsZero s x1 x2 x3).1.memOk := by
  induction x3 generalizing s x1 x2 with
  | nil =>
    unfold State.signalsZero
    assumption
  | cons _ _ ih =>
    unfold State.signalsZero
    with_reducible repeat' first
      | assumption | simp only [memOk_mk] | split | refine State.hubPlace_memOk ?_ | refine State.hubRead_memOk ?_
      | refine ih ?_ | refine fst_memOk (by assumption) ?_

theorem execPacketBarrierAnd_memOk {s : State} {x1} (h : s.memOk) : outOk (execPacketBarrierAnd x1 s) := by
  unfold execPacketBarrierAnd
  with_reducible repeat' first
    | assumption | refine outOk_next ?_ | split | refine State.signalsZero_memOk ?_ | refine State.packetStop_memOk ?_
    | refine State.settle_memOk ?_ | refine State.rotate_memOk ?_ | refine State.startPacket_memOk ?_
    | refine State.pollLater_memOk ?_ | refine fst_memOk (by assumption) ?_

theorem execPacketRetire_memOk {s : State} {x1} (h : s.memOk) : outOk (execPacketRetire x1 s) := by
  unfold execPacketRetire
  with_reducible repeat' first
    | assumption | simp only [memOk_mk] | refine outOk_next ?_ | split | refine State.settle_memOk ?_
    | refine State.rotate_memOk ?_ | refine State.completePacket_memOk ?_ | refine State.onQueue_memOk ?_
    | refine State.packetPlace_memOk ?_ | refine State.packetStop_memOk ?_ | refine State.hubWrite_memOk ?_
    | refine fst_memOk (by assumption) ?_

theorem State.startLaunch_memOk {s : State} {x1} {x2} (h : s.memOk) : (State.startLaunch s x1 x2).memOk := by
  unfold State.startLaunch
  with_reducible repeat' first | exact memsOk_of (by assumption) | simp only [memOk_mk]

theorem State.mailTaken_memOk {s : State} (h : s.memOk) : (State.mailTaken s).memOk := by
  unfold State.mailTaken
  with_reducible repeat' first | exact memsOk_of (by assumption) | simp only [memOk_mk]

theorem State.takeRecord_memOk {s : State} {x1} {x2} {x3} (h : s.memOk) (hg : ∀ (t : State) p b, t.memOk → (x3 t p b).memOk) : (State.takeRecord s x1 x2 x3).memOk := by
  unfold State.takeRecord
  with_reducible repeat' first
    | assumption | simp only [memOk_mk] | split | refine State.mailTaken_memOk ?_ | refine State.packetStop_memOk ?_
    | refine State.hubPlace_memOk ?_ | refine State.hubRead_memOk ?_ | refine State.rotate_memOk ?_
    | refine State.startPacket_memOk ?_ | refine hg _ _ _ ?_ | refine fst_memOk (by assumption) ?_

theorem execPacketLaunch_memOk {s : State} {x1} (h : s.memOk) : outOk (execPacketLaunch x1 s) := by
  unfold execPacketLaunch
  with_reducible repeat' first
    | assumption | refine outOk_next ?_ | refine State.settle_memOk ?_
    | refine State.takeRecord_memOk ?_ (fun _ _ _ _ => ?_) | refine State.startLaunch_memOk ?_

theorem execPacketCopy_memOk {s : State} {x1} (h : s.memOk) : outOk (execPacketCopy x1 s) := by
  unfold execPacketCopy
  with_reducible repeat' first
    | assumption | simp only [memOk_mk] | refine outOk_next ?_ | split | refine State.rotate_memOk ?_
    | refine State.queueError_memOk ?_ | refine State.onCore_memOk ?_ | refine State.startPacket_memOk ?_

theorem State.endLaunch_memOk {s : State} {x1} {x2} (h : s.memOk) : (State.endLaunch s x1 x2).memOk := by
  unfold State.endLaunch
  with_reducible repeat' first
    | exact memsOk_of (by assumption) | simp only [memOk_mk] | refine State.raiseEvent_memOk ?_
    | refine State.rotate_memOk ?_

theorem State.finishLaunch_memOk {s : State} {x1} {x2} (h : s.memOk) : (State.finishLaunch s x1 x2).memOk := by
  unfold State.finishLaunch
  with_reducible repeat' first
    | assumption | simp only [memOk_mk] | split | refine State.completePacket_memOk ?_ | refine State.endLaunch_memOk ?_
    | refine State.hubPlace_memOk ?_ | refine State.packetStop_memOk ?_ | refine State.hubWrite_memOk ?_
    | refine fst_memOk (by assumption) ?_

theorem execLaunchComplete_memOk {s : State} {x1} (h : s.memOk) : outOk (execLaunchComplete x1 s) := by
  unfold execLaunchComplete
  with_reducible repeat' first
    | assumption | refine outOk_next ?_ | split | refine State.settle_memOk ?_ | refine State.finishLaunch_memOk ?_

theorem execLmbGo_memOk {s : State} {x1} (h : s.memOk) : outOk (execLmbGo x1 s) := by
  unfold execLmbGo
  with_reducible repeat' first
    | assumption | exact memsOk_of (by assumption) | simp only [memOk_mk] | refine outOk_next ?_ | split

theorem State.hostReads_memOk {s : State} {x1} {x2} (h : s.memOk) : (State.hostReads s x1 x2).memOk := by
  unfold State.hostReads
  with_reducible repeat' first | exact memsOk_of (by assumption) | simp only [memOk_mk]

theorem execLmbStatRead_memOk {s : State} {x1} (h : s.memOk) : outOk (execLmbStatRead x1 s) := by
  unfold execLmbStatRead
  with_reducible repeat' first
    | assumption | refine memsOk_of ?_ | simp only [memOk_mk] | refine outOk_next ?_ | split
    | refine State.hostReads_memOk ?_

theorem State.hubChunks_memOk {s : State} {x1} {x2} {x3} {x4} {x5} {x6} {x7} (h : s.memOk) : (State.hubChunks s x1 x2 x3 x4 x5 x6 x7).1.memOk := by
  induction x5 generalizing s x1 x2 x3 x4 x6 x7 with
  | zero =>
    unfold State.hubChunks
    assumption
  | succ _ ih =>
    unfold State.hubChunks
    with_reducible repeat' first
      | assumption | simp only [memOk_mk] | split | refine State.hubPlace_memOk ?_ | refine ih ?_
      | refine fst_memOk (by assumption) ?_

theorem State.hubSpan_memOk {s : State} {x1} {x2} {x3} {x4} {x5} {x6} (h : s.memOk) : (State.hubSpan s x1 x2 x3 x4 x5 x6).1.memOk := by
  unfold State.hubSpan
  with_reducible repeat' first | assumption | refine State.hubChunks_memOk ?_

theorem State.hubReadAll_memOk {s : State} {x1} {x2} {x3} (h : s.memOk) : (State.hubReadAll s x1 x2 x3).1.memOk := by
  induction x3 generalizing s with
  | nil => exact h
  | cons _ _ ih =>
    unfold State.hubReadAll
    exact ih (State.hubReadAs_memOk h)

theorem State.hubPut_memOk {s : State} {x1} {x2} (h : s.memOk) : (State.hubPut s x1 x2).memOk := by
  unfold State.hubPut
  with_reducible repeat' first
    | assumption | simp only [memOk_mk] | split | refine State.hubWrite_memOk ?_ | refine State.devPoison_memOk ?_

theorem State.startGraph_memOk {s : State} {x1} {x2} (h : s.memOk) : (State.startGraph s x1 x2).memOk := by
  unfold State.startGraph
  with_reducible repeat' first | exact memsOk_of (by assumption) | simp only [memOk_mk]

theorem State.freeReserves_memOk {s : State} {x1} (h : s.memOk) : (State.freeReserves s x1).memOk := by
  unfold State.freeReserves
  with_reducible repeat' first
    | assumption | simp only [memOk_mk] | refine State.onCore_memOk ?_ | refine foldl_memOk ?_ (fun _ _ _ => ?_)

theorem State.failStart_memOk {s : State} {x1} (h : s.memOk) :
    (State.failStart s x1).memOk := by
  unfold State.failStart
  with_reducible repeat' first
    | assumption | exact memsOk_of (by assumption) | refine memsOk_of ?_ | simp only [memOk_mk] | split
    | refine State.onLaunch_memOk ?_ | refine State.freeReserves_memOk ?_ | refine State.onGraph_memOk ?_

theorem State.startStop_memOk {s : State} {x1} {x2} (h : s.memOk) : (State.startStop s x1 x2).memOk := by
  unfold State.startStop
  with_reducible repeat' first | assumption | split | refine State.failStart_memOk ?_

theorem State.takeGraph_memOk {s : State} {x1} {x2} {x3} {x4} (h : s.memOk) :
    (State.takeGraph s x1 x2 x3 x4).memOk := by
  unfold State.takeGraph
  with_reducible repeat' first
    | assumption | exact memsOk_of (by assumption) | refine memsOk_of ?_ | simp only [memOk_mk] | split
    | refine State.failStart_memOk ?_ | refine State.onGraph_memOk ?_

theorem State.readHead_memOk {s : State} {x1} (h : s.memOk) :
    (State.readHead s x1).1.memOk := by
  unfold State.readHead
  with_reducible repeat' first
    | assumption | exact memsOk_of (by assumption) | refine memsOk_of ?_ | simp only [memOk_mk] | split
    | refine State.hubSpan_memOk ?_

theorem State.readNodes_memOk {s : State} {x1} {x2} {x3} (h : s.memOk) :
    (State.readNodes s x1 x2 x3).memOk := by
  unfold State.readNodes
  with_reducible repeat' first
    | assumption | exact memsOk_of (by assumption) | refine memsOk_of ?_ | simp only [memOk_mk] | split
    | refine State.hubSpan_memOk ?_ | refine State.startStop_memOk ?_ | refine State.hubReadAll_memOk ?_
    | refine State.takeGraph_memOk ?_ | refine fst_memOk (by assumption) ?_

theorem State.afterHead_memOk {s : State} {x1} {x2} {x3} (h : s.memOk) :
    (State.afterHead s x1 x2 x3).memOk := by
  unfold State.afterHead
  with_reducible repeat' first
    | assumption | exact memsOk_of (by assumption) | refine memsOk_of ?_ | simp only [memOk_mk] | split
    | refine State.failStart_memOk ?_ | refine State.readNodes_memOk ?_

theorem State.readGraph_memOk {s : State} {x1} {x2} (h : s.memOk) : (State.readGraph s x1 x2).memOk := by
  rw [State.readGraph.eq_def]
  have h1 := State.readHead_memOk (x1 := x1) h
  revert h1
  generalize State.readHead s x1 = r
  obtain ⟨s1, e | hd⟩ := r
  · exact State.startStop_memOk
  · intro h1
    exact State.afterHead_memOk (State.hubReadAll_memOk h1)

theorem State.reserveNode_memOk {s : State} {x1} {x2} {x3} (h : s.memOk) :
    optOk (State.reserveNode s x1 x2 x3) := by
  unfold State.reserveNode
  with_reducible repeat' first
    | assumption | exact memsOk_of (by assumption) | refine memsOk_of ?_ | simp only [memOk_mk] | refine optOk_some ?_
    | exact optOk_none | split | refine State.onCore_memOk ?_ | refine State.setCore_memOk ?_
    | refine foldl_memOk ?_ (fun _ _ _ => ?_) | refine foldlP_memOk ?_ (fun _ _ _ => ?_) | refine getD_memOk ?_ ?_
    | refine optOk_map (fun _ => ?_)

theorem State.reserveNodes_memOk {s : State} {x1} {x2} {x3} (h : s.memOk) : optOk (State.reserveNodes s x1 x2 x3) := by
  induction x3 generalizing s x1 x2 with
  | nil =>
    unfold State.reserveNodes
    with_reducible repeat' first | assumption | refine optOk_some ?_
  | cons _ _ ih =>
    unfold State.reserveNodes
    with_reducible repeat' first
      | assumption | refine State.reserveNode_memOk ?_ | refine ih ?_ | refine optOk_bind ?_ (fun _ _ => ?_)

theorem State.copySeed_memOk {s : State} {x1} {x2} (h : s.memOk) : (State.copySeed s x1 x2).memOk := by
  induction x1 generalizing s x2 with
  | nil =>
    unfold State.copySeed
    assumption
  | cons _ _ ih =>
    unfold State.copySeed
    with_reducible repeat' first
      | assumption | simp only [memOk_mk] | split | refine State.hubPut_memOk ?_ | refine ih ?_
      | refine foldl_memOk ?_ (fun _ _ _ => ?_)

theorem State.seedGraph_memOk {s : State} {x1} {x2} (h : s.memOk) :
    (State.seedGraph s x1 x2).memOk := by
  unfold State.seedGraph
  with_reducible repeat' first
    | assumption | exact memsOk_of (by assumption) | refine memsOk_of ?_ | simp only [memOk_mk] | split
    | refine State.failStart_memOk ?_ | refine State.hubSpan_memOk ?_ | refine State.startStop_memOk ?_
    | refine State.hubReadAll_memOk ?_ | refine State.copySeed_memOk ?_ | refine State.onGraph_memOk ?_
    | refine State.enqueue_memOk ?_ | refine foldl_memOk ?_ (fun _ _ _ => ?_)
    | refine foldlP_memOk ?_ (fun _ _ _ => ?_) | refine fst_memOk (by assumption) ?_

theorem State.graphStart_memOk {s : State} {x1} {x2} (h : s.memOk) : (State.graphStart s x1 x2).memOk := by
  unfold State.graphStart
  with_reducible repeat' first
    | assumption | split | refine State.readGraph_memOk ?_ | refine State.failStart_memOk ?_
    | refine State.reserveNodes_memOk ?_ | refine State.seedGraph_memOk ?_ | refine some_memOk (by assumption) ?_

theorem execPacketGraph_memOk {s : State} {x1} (h : s.memOk) : outOk (execPacketGraph x1 s) := by
  unfold execPacketGraph
  with_reducible repeat' first
    | assumption | simp only [memOk_mk] | refine outOk_next ?_ | split
    | refine State.takeRecord_memOk ?_ (fun _ _ _ _ => ?_) | refine State.startGraph_memOk ?_ | refine State.settle_memOk ?_
    | refine State.graphStart_memOk ?_ | refine foldl_memOk ?_ (fun _ _ _ => ?_)

theorem State.admitGroup_memOk {s : State} {x1} {x2} {x3} {x4} {x5} {x6} {x7} (h : s.memOk) : (State.admitGroup s x1 x2 x3 x4 x5 x6 x7).memOk := by
  unfold State.admitGroup
  with_reducible repeat' first
    | exact memsOk_of (by assumption) | simp only [memOk_mk] | split | refine State.admitPart_memOk ?_
    | refine State.onCore_memOk ?_ | refine State.onLaunch_memOk ?_ | refine State.onGraph_memOk ?_

theorem State.launchFirst_memOk {s : State} {x1} {x2} {x3} (h : s.memOk) : (State.launchFirst s x1 x2 x3).memOk := by
  induction x3 generalizing s x1 x2 with
  | nil =>
    unfold State.launchFirst
    assumption
  | cons _ _ ih =>
    unfold State.launchFirst
    with_reducible repeat' first
      | assumption | refine memsOk_of ?_ | simp only [memOk_mk] | split | refine State.admitGroup_memOk ?_ | refine ih ?_

theorem State.writeStats_memOk {s : State} {x1} {x2} (h : s.memOk) :
    (State.writeStats s x1 x2).memOk := by
  unfold State.writeStats
  with_reducible repeat' first
    | assumption | exact memsOk_of (by assumption) | refine memsOk_of ?_ | simp only [memOk_mk] | split
    | refine State.controlWrite_memOk ?_ | refine foldl_memOk ?_ (fun _ _ _ => ?_)

theorem execGraphComplete_memOk {s : State} {x1} (h : s.memOk) : outOk (execGraphComplete x1 s) := by
  unfold execGraphComplete
  with_reducible repeat' first
    | assumption | simp only [memOk_mk] | refine outOk_next ?_ | split | refine State.freeReserves_memOk ?_
    | refine State.writeStats_memOk ?_ | refine State.onLaunch_memOk ?_ | refine State.settle_memOk ?_
    | refine State.finishLaunch_memOk ?_

theorem State.areaOpen_memOk {s : State} {x1} {x2} {x3} {x4} {x5} {x6} (h : s.memOk) :
    (State.areaOpen s x1 x2 x3 x4 x5 x6).1.memOk := by
  induction x4 generalizing s x5 x6 with
  | zero => exact h
  | succ _ ih =>
    unfold State.areaOpen
    with_reducible repeat' first
      | assumption | dsimp only | split | refine ih ?_ | refine State.translate_memOk ?_ | refine State.hold_memOk ?_
      | refine State.atsWait_memOk ?_ | refine fst_memOk (by assumption) ?_

theorem State.coreWrites_memOk {s : State} {x1} {x2} {x3} {x4} {x5} (h : s.memOk) : (State.coreWrites s x1 x2 x3 x4 x5).memOk := by
  induction x3 generalizing s x1 x2 x4 x5 with
  | zero =>
    unfold State.coreWrites
    assumption
  | succ _ ih =>
    unfold State.coreWrites
    with_reducible repeat' first
      | assumption | simp only [memOk_mk] | split | refine State.translate_memOk ?_ | refine State.writePlace_memOk ?_
      | refine ih ?_ | refine fst_memOk (by assumption) ?_

theorem State.coreReads_memOk {s : State} {x1} {x2} {x3} {x4} {x5} (h : s.memOk) :
    (State.coreReads s x1 x2 x3 x4 x5).1.memOk := by
  induction x3 generalizing s x4 x5 with
  | zero => exact h
  | succ _ ih =>
    unfold State.coreReads
    with_reducible repeat' first
      | assumption | dsimp only | split | refine State.translate_memOk ?_ | refine State.readPlace_memOk ?_
      | refine fst_memOk (by assumption) ?_ | refine ih ?_

theorem State.saveCore_memOk {s : State} {x1} {x2} {x3} (h : s.memOk) : (State.saveCore s x1 x2 x3).memOk := by
  unfold State.saveCore
  with_reducible repeat' first
    | assumption | refine memsOk_of ?_ | simp only [memOk_mk] | split | refine State.coreWrites_memOk ?_
    | refine State.dropHeld_memOk ?_ | refine State.onCore_memOk ?_ | refine State.raiseEvent_memOk ?_

theorem State.archivePreempt_memOk {s : State} {x1} {x2} (h : s.memOk) : (State.archivePreempt s x1 x2).memOk := by
  unfold State.archivePreempt
  with_reducible repeat' first | assumption | refine State.archivePost_memOk ?_

theorem State.askStop_memOk {s : State} {x1} {x2} (h : s.memOk) :
    (State.askStop s x1 x2).memOk := by
  unfold State.askStop
  with_reducible repeat' first
    | assumption | exact memsOk_of (by assumption) | refine memsOk_of ?_ | simp only [memOk_mk] | split
    | refine State.onQueue_memOk ?_ | refine State.onLaunch_memOk ?_ | refine State.onGraph_memOk ?_

theorem State.askQueue_memOk {s : State} {x1} (h : s.memOk) : (State.askQueue s x1).memOk := by
  unfold State.askQueue
  with_reducible repeat' first | assumption | refine State.askStop_memOk ?_ | refine foldl_memOk ?_ (fun _ _ _ => ?_)

theorem execQuantumExpiry_memOk {s : State} {x1} (h : s.memOk) : outOk (execQuantumExpiry x1 s) := by
  unfold execQuantumExpiry
  with_reducible repeat' first
    | assumption | refine memsOk_of ?_ | simp only [memOk_mk] | refine outOk_next ?_ | split | refine State.onQueue_memOk ?_
    | refine State.rotate_memOk ?_ | refine State.askQueue_memOk ?_

theorem execLauncherTick_memOk {s : State} {x1} (h : s.memOk) : outOk (execLauncherTick x1 s) := by
  unfold execLauncherTick
  with_reducible repeat' first
    | assumption | exact memsOk_of (by assumption) | simp only [memOk_mk] | refine outOk_next ?_ | split
    | refine State.launchFirst_memOk ?_

theorem execLaunchPreempt_memOk {s : State} {x1} (h : s.memOk) : outOk (execLaunchPreempt x1 s) := by
  unfold execLaunchPreempt
  with_reducible repeat' first | assumption | refine outOk_next ?_ | split | refine State.askQueue_memOk ?_

theorem State.writeNextWg_memOk {s : State} {x1} (h : s.memOk) : (State.writeNextWg s x1).1.memOk := by
  unfold State.writeNextWg
  with_reducible repeat' first
    | assumption | simp only [memOk_mk] | split | refine State.hubPlace_memOk ?_ | refine State.packetStop_memOk ?_
    | refine State.hubWrite_memOk ?_ | refine fst_memOk (by assumption) ?_

theorem State.preempted_memOk {s : State} {x1} {x2} (h : s.memOk) : (State.preempted s x1 x2).memOk := by
  unfold State.preempted
  with_reducible repeat' first | assumption | refine State.archivePreempt_memOk ?_ | refine State.onLaunch_memOk ?_

theorem execWorkgroupPreempt_memOk {s : State} {x1} (h : s.memOk) : outOk (execWorkgroupPreempt x1 s) := by
  unfold execWorkgroupPreempt
  with_reducible repeat' first
    | assumption | refine outOk_next ?_ | split | refine State.writeNextWg_memOk ?_ | refine State.settle_memOk ?_
    | refine State.preempted_memOk ?_ | refine State.askStop_memOk ?_ | refine fst_memOk (by assumption) ?_

theorem State.areasOpen_memOk {s : State} {x1} (h : s.memOk) :
    (State.areasOpen s x1).1.memOk := by
  unfold State.areasOpen
  with_reducible repeat' first
    | assumption | exact memsOk_of (by assumption) | refine memsOk_of ?_ | simp only [memOk_mk] | split
    | refine State.areaOpen_memOk ?_ | refine foldl_memOk ?_ (fun _ _ _ => ?_)
    | refine foldlP_memOk ?_ (fun _ _ _ => ?_)

theorem State.saveAll_memOk {s : State} {x1} (h : s.memOk) : (State.saveAll s x1).memOk := by
  unfold State.saveAll
  with_reducible repeat' first | assumption | refine State.saveCore_memOk ?_ | refine foldl_memOk ?_ (fun _ _ _ => ?_)

theorem execLoadPreempt_memOk {s : State} {x1} (h : s.memOk) :
    outOk (execLoadPreempt x1 s) := by
  unfold execLoadPreempt
  with_reducible repeat' first
    | assumption | exact memsOk_of (by assumption) | refine memsOk_of ?_ | simp only [memOk_mk] | refine outOk_next ?_
    | exact outOk_fault _ | exact outOk_refused _ | split | refine State.areasOpen_memOk ?_
    | refine State.settle_memOk ?_ | refine State.preempted_memOk ?_ | refine State.saveAll_memOk ?_
    | refine State.askStop_memOk ?_ | refine fst_memOk (by assumption) ?_

theorem execGraphPreempt_memOk {s : State} {x1} {x2} (h : s.memOk) :
    outOk (execGraphPreempt x1 x2 s) := by
  unfold execGraphPreempt
  with_reducible repeat' first
    | assumption | exact memsOk_of (by assumption) | refine memsOk_of ?_ | simp only [memOk_mk] | refine outOk_next ?_
    | exact outOk_fault _ | exact outOk_refused _ | split | refine State.areasOpen_memOk ?_
    | refine State.settle_memOk ?_ | refine State.saveAll_memOk ?_ | refine State.onGraph_memOk ?_
    | refine State.preempted_memOk ?_ | refine State.freeReserves_memOk ?_ | refine State.writeStats_memOk ?_
    | refine State.askStop_memOk ?_

theorem State.restorePart_memOk {s : State} {x1} {x2} {x3} {x4} (h : s.memOk) :
    optOk (State.restorePart s x1 x2 x3 x4) := by
  unfold State.restorePart
  with_reducible repeat' first
    | assumption | exact memsOk_of (by assumption) | refine memsOk_of ?_ | simp only [memOk_mk] | refine optOk_some ?_
    | exact optOk_none | split | refine State.setCore_memOk ?_ | refine optOk_map (fun _ => ?_)

theorem State.restoreParts_memOk {s : State} {x1} {x2} (h : s.memOk) : optOk (State.restoreParts s x1 x2) := by
  induction x2 generalizing s with
  | nil => exact optOk_some h
  | cons _ _ ih =>
    unfold State.restoreParts
    exact optOk_bind (State.restorePart_memOk h) (fun _ k => ih k)

theorem State.readSaved_memOk {s : State} {x1} {x2} {x3} (h : s.memOk) :
    (State.readSaved s x1 x2 x3).1.memOk := by
  unfold State.readSaved
  with_reducible repeat' first
    | assumption | exact memsOk_of (by assumption) | refine memsOk_of ?_ | simp only [memOk_mk] | split
    | refine State.areaOpen_memOk ?_ | refine State.coreReads_memOk ?_ | refine fst_memOk (by assumption) ?_

theorem State.restoreCore_memOk {s : State} {x1} {x2} (h : s.memOk) : optOk (State.restoreCore s x1 x2) := by
  unfold State.restoreCore
  with_reducible repeat' first
    | assumption | exact memsOk_of (by assumption) | refine memsOk_of ?_ | simp only [memOk_mk] | exact optOk_none
    | split | refine State.onCore_memOk ?_ | refine optOk_mapS (State.restoreParts_memOk h) (fun _ _ => ?_)

theorem State.dropSavedWg_memOk {s : State} {x1} {x2} {x3} (h : s.memOk) : (State.dropSavedWg s x1 x2 x3).memOk := by
  unfold State.dropSavedWg
  with_reducible repeat' first
    | assumption | refine memsOk_of ?_ | simp only [memOk_mk] | split | refine State.fqPost_memOk ?_
    | refine State.onWg_memOk ?_ | refine State.onLaunch_memOk ?_ | refine State.onGraph_memOk ?_
    | refine State.retireWg_memOk ?_

theorem State.dropFenced_memOk {s : State} {x1} (h : s.memOk) : (State.dropFenced s x1).memOk := by
  unfold State.dropFenced
  with_reducible repeat' first
    | assumption | simp only [memOk_mk] | refine State.dropSavedWg_memOk ?_ | refine foldl_memOk ?_ (fun _ _ _ => ?_)

theorem State.restoreAll_memOk {s : State} {x1} (h : s.memOk) : optOk (State.restoreAll s x1) := by
  induction x1 generalizing s with
  | nil => exact optOk_some h
  | cons _ _ ih =>
    unfold State.restoreAll
    exact optOk_bind (State.restoreCore_memOk h) (fun _ k => ih k)

theorem State.readAreas_memOk {s : State} {x1} {x2} (h : s.memOk) : (State.readAreas s x1 x2).1.memOk := by
  induction x2 generalizing s with
  | nil => exact h
  | cons _ _ ih =>
    unfold State.readAreas
    with_reducible repeat' first
      | assumption | split | refine State.readSaved_memOk ?_ | refine fst_memOk (by assumption) ?_ | refine ih ?_

theorem State.goOn_memOk {s : State} {x1} (h : s.memOk) : optOk (State.goOn s x1) := by
  unfold State.goOn
  with_reducible repeat' first
    | assumption | simp only [memOk_mk] | refine optOk_some ?_ | split | refine State.onLaunch_memOk ?_
    | refine State.onGraph_memOk ?_ | refine State.reserveNodes_memOk ?_ | refine optOk_mapS ?_ (fun _ _ => ?_)

theorem execRestore_memOk {s : State} {x1} (h : s.memOk) :
    outOk (execRestore x1 s) := by
  unfold execRestore
  with_reducible repeat' first
    | assumption | exact memsOk_of (by assumption) | refine memsOk_of ?_ | simp only [memOk_mk] | refine outOk_next ?_
    | exact outOk_fault _ | exact outOk_refused _ | refine optOk_some ?_ | exact optOk_none | split
    | refine State.onQueue_memOk ?_ | refine State.dropFenced_memOk ?_ | refine State.readAreas_memOk ?_
    | refine State.settle_memOk ?_ | refine State.restoreAll_memOk ?_ | refine State.goOn_memOk ?_
    | refine fst_memOk (by assumption) ?_ | refine some_memOk (by assumption) ?_ | refine getD_memOk ?_ ?_
    | refine optOk_bind ?_ (fun _ _ => ?_)

theorem State.replaceRequest_memOk {s : State} {x1} {x2} {x3} (h : s.memOk) : (State.replaceRequest s x1 x2 x3).memOk := by
  unfold State.replaceRequest
  with_reducible repeat' first
    | assumption | refine memsOk_of ?_ | simp only [memOk_mk] | split | refine State.archivePost_memOk ?_

theorem execDeferredRecordWrite_memOk {s : State} (h : s.memOk) : outOk (execDeferredRecordWrite s) := by
  unfold execDeferredRecordWrite
  with_reducible repeat' first
    | assumption | exact memsOk_of (by assumption) | simp only [memOk_mk] | refine outOk_next ?_ | split
    | refine State.fqWrite_memOk ?_

theorem State.resume_memOk {s : State} {x1} (h : s.memOk) :
    (State.resume s x1).memOk := by
  unfold State.resume
  with_reducible repeat' first
    | assumption | exact memsOk_of (by assumption) | refine memsOk_of ?_ | simp only [memOk_mk] | split
    | refine State.settle_memOk ?_ | refine State.remoteInvalidate_memOk ?_ | refine State.release_memOk ?_
    | refine foldl_memOk ?_ (fun _ _ _ => ?_)

theorem execFqResume_memOk {s : State} {x1} (h : s.memOk) :
    outOk (execFqResume x1 s) := by
  unfold execFqResume
  with_reducible repeat' first
    | assumption | exact memsOk_of (by assumption) | refine memsOk_of ?_ | simp only [memOk_mk] | refine outOk_next ?_
    | exact outOk_fault _ | exact outOk_refused _ | split | refine State.resume_memOk ?_

theorem execFqRdWrite_memOk {s : State} {x1} (h : s.memOk) : outOk (execFqRdWrite x1 s) := by
  unfold execFqRdWrite
  with_reducible repeat' first | exact memsOk_of (by assumption) | simp only [memOk_mk] | refine outOk_next ?_

theorem execFqStatRead_memOk {s : State} {x1} (h : s.memOk) : outOk (execFqStatRead x1 s) := by
  unfold execFqStatRead
  with_reducible repeat' first
    | assumption | refine memsOk_of ?_ | simp only [memOk_mk] | refine outOk_next ?_ | split
    | refine State.hostReads_memOk ?_

theorem execTableWalk_memOk {s : State} {x1} {x2} {x3} {x4} (h : s.memOk) : outOk (execTableWalk x1 x2 x3 x4 s) := by
  unfold execTableWalk
  with_reducible repeat' first
    | assumption | simp only [memOk_mk] | refine outOk_next ?_ | refine State.settle_memOk ?_
    | refine State.translate_memOk ?_

theorem execAtsResponse_memOk {s : State} {x1} {x2} {x3} {x4} (h : s.memOk) : outOk (execAtsResponse x1 x2 x3 x4 s) := by
  unfold execAtsResponse
  with_reducible repeat' first
    | assumption | exact memsOk_of (by assumption) | simp only [memOk_mk] | refine outOk_next ?_ | split
    | refine State.fillDie_memOk ?_ | refine State.settle_memOk ?_ | refine State.wake_memOk ?_
    | refine foldl_memOk ?_ (fun _ _ _ => ?_)

theorem State.failFiring_memOk {s : State} {x1} {x2} (h : s.memOk) :
    (State.failFiring s x1 x2).memOk := by
  unfold State.failFiring
  with_reducible repeat' first
    | assumption | exact memsOk_of (by assumption) | refine memsOk_of ?_ | simp only [memOk_mk] | split
    | refine State.refuse_memOk ?_

theorem State.failTransfer_memOk {s : State} {x1} {x2} {x3} (h : s.memOk) : (State.failTransfer s x1 x2 x3).memOk := by
  unfold State.failTransfer
  with_reducible repeat' first
    | assumption | simp only [memOk_mk] | split | refine State.onCore_memOk ?_ | refine State.denyTransfer_memOk ?_

theorem State.failConfig_memOk {s : State} {x1} {x2} (h : s.memOk) : (State.failConfig s x1 x2).memOk := by
  unfold State.failConfig
  with_reducible repeat' first
    | assumption | split | refine State.refuseFetch_memOk ?_ | refine State.refuseDecode_memOk ?_

theorem State.failPacket_memOk {s : State} {x1} (h : s.memOk) : (State.failPacket s x1).memOk := by
  unfold State.failPacket
  with_reducible repeat' first
    | assumption | refine memsOk_of ?_ | simp only [memOk_mk] | split | refine State.packetStop_memOk ?_
    | refine State.mailTaken_memOk ?_ | refine State.failStart_memOk ?_ | refine State.endLaunch_memOk ?_
    | refine State.onQueue_memOk ?_ | refine State.preempted_memOk ?_

theorem State.failItem_memOk {s : State} {x1} {x2} {x3} (h : s.memOk) :
    (State.failItem s x1 x2 x3).memOk := by
  unfold State.failItem
  with_reducible repeat' first
    | assumption | exact memsOk_of (by assumption) | refine memsOk_of ?_ | simp only [memOk_mk] | split
    | refine State.fqPost_memOk ?_ | refine State.failFiring_memOk ?_ | refine State.failTransfer_memOk ?_
    | refine State.failConfig_memOk ?_ | refine State.failStart_memOk ?_ | refine State.failPacket_memOk ?_
    | refine State.recordRefused_memOk ?_

theorem execPriResponse_memOk {s : State} {x1} {x2} {x3} (h : s.memOk) :
    outOk (execPriResponse x1 x2 x3 s) := by
  unfold execPriResponse
  with_reducible repeat' first
    | assumption | exact memsOk_of (by assumption) | refine memsOk_of ?_ | simp only [memOk_mk] | refine outOk_next ?_
    | exact outOk_fault _ | exact outOk_refused _ | split | refine State.settle_memOk ?_
    | refine State.release_memOk ?_ | refine State.walkersGo_memOk ?_ | refine State.failItem_memOk ?_
    | refine foldl_memOk ?_ (fun _ _ _ => ?_)

theorem State.dropEntries_memOk {s : State} {x1} (h : s.memOk) : (State.dropEntries s x1).memOk := by
  unfold State.dropEntries
  with_reducible repeat' first | exact memsOk_of (by assumption) | simp only [memOk_mk]

theorem execAtsInvalidateRequest_memOk {s : State} {x1} {x2} {x3} (h : s.memOk) : outOk (execAtsInvalidateRequest x1 x2 x3 s) := by
  unfold execAtsInvalidateRequest
  with_reducible repeat' first
    | assumption | refine memsOk_of ?_ | simp only [memOk_mk] | refine outOk_next ?_ | refine State.dropEntries_memOk ?_

theorem execXltInv_memOk {s : State} {x1} (h : s.memOk) : outOk (execXltInv x1 s) := by
  unfold execXltInv
  with_reducible repeat' first
    | assumption | exact memsOk_of (by assumption) | simp only [memOk_mk] | refine outOk_next ?_ | split

theorem execXltInvDone_memOk {s : State} (h : s.memOk) : outOk (execXltInvDone s) := by
  unfold execXltInvDone
  with_reducible repeat' first
    | assumption | refine memsOk_of ?_ | simp only [memOk_mk] | refine outOk_next ?_ | split
    | refine State.dropEntries_memOk ?_

theorem execDqPush_memOk {s : State} {x1} (h : s.memOk) : outOk (execDqPush x1 s) := by
  unfold execDqPush
  with_reducible repeat' first | exact memsOk_of (by assumption) | simp only [memOk_mk] | refine outOk_next ?_ | split

theorem State.dropKernels_memOk {s : State} {x1} (h : s.memOk) : (State.dropKernels s x1).memOk := by
  unfold State.dropKernels
  with_reducible repeat' first | exact memsOk_of (by assumption) | simp only [memOk_mk]

theorem execPageRelease_memOk {s : State} (h : s.memOk) : outOk (execPageRelease s) := by
  unfold execPageRelease
  with_reducible repeat' first
    | assumption | refine memsOk_of ?_ | simp only [memOk_mk] | refine outOk_next ?_ | refine State.dropKernels_memOk ?_

theorem State.retirePage_memOk {s : State} {x1} (h : s.memOk) :
    (State.retirePage s x1).memOk := by
  unfold State.retirePage
  with_reducible repeat' first
    | assumption | exact memsOk_of (by assumption) | refine memsOk_of ?_ | simp only [memOk_mk] | split
    | refine State.hubStoreBeside_memOk ?_ | refine State.replaceRequest_memOk ?_

theorem execDqPop_memOk {s : State} {x1} (h : s.memOk) : outOk (execDqPop x1 s) := by
  unfold execDqPop
  with_reducible repeat' first
    | assumption | refine memsOk_of ?_ | simp only [memOk_mk] | refine outOk_next ?_ | split
    | refine State.hostReads_memOk ?_ | refine State.retirePage_memOk ?_

theorem execDqStatClear_memOk {s : State} {x1} (h : s.memOk) : outOk (execDqStatClear x1 s) := by
  unfold execDqStatClear
  with_reducible repeat' first
    | assumption | exact memsOk_of (by assumption) | simp only [memOk_mk] | refine outOk_next ?_ | split

theorem State.taskStops_memOk {s : State} {x1} (h : s.memOk) :
    (State.taskStops s x1).memOk := by
  unfold State.taskStops
  with_reducible repeat' first
    | assumption | exact memsOk_of (by assumption) | refine memsOk_of ?_ | simp only [memOk_mk] | split
    | refine State.engineToken_memOk ?_

theorem State.endTask_memOk {s : State} {x1} (h : s.memOk) : (State.endTask s x1).memOk := by
  unfold State.endTask
  with_reducible repeat' first
    | assumption | split | refine State.taskStops_memOk ?_ | exact memsOk_sram h (cellFold_wf h.sram) | simp only [memOk_mk]

theorem State.dispatchTo_memOk {s : State} {x1} (h : s.memOk) :
    (State.dispatchTo s x1).memOk := by
  unfold State.dispatchTo
  with_reducible repeat' first
    | assumption | exact memsOk_of (by assumption) | refine memsOk_of ?_ | simp only [memOk_mk] | split

theorem State.dispatchPairs_memOk {s : State} (h : s.memOk) :
    (State.dispatchPairs s).memOk := by
  unfold State.dispatchPairs
  with_reducible repeat' first
    | assumption | exact memsOk_of (by assumption) | refine memsOk_of ?_ | simp only [memOk_mk] | split
    | refine State.dispatchTo_memOk ?_ | refine foldl_memOk ?_ (fun _ _ _ => ?_)

theorem State.raiseRoom_memOk {s : State} {x1} (h : s.memOk) :
    (State.raiseRoom s x1).memOk := by
  unfold State.raiseRoom
  with_reducible repeat' first
    | assumption | exact memsOk_of (by assumption) | refine memsOk_of ?_ | simp only [memOk_mk] | split
    | refine State.raiseEvent_memOk ?_

theorem State.hartsGo_memOk {s : State} (h : s.memOk) :
    (State.hartsGo s).memOk := by
  unfold State.hartsGo
  with_reducible repeat' first
    | assumption | exact memsOk_of (by assumption) | refine memsOk_of ?_ | simp only [memOk_mk] | split
    | refine State.raiseRoom_memOk ?_ | refine State.dispatchPairs_memOk ?_ | refine State.endTask_memOk ?_
    | refine foldl_memOk ?_ (fun _ _ _ => ?_)

theorem State.offerToken_memOk {s : State} {x1} (h : s.memOk) :
    (State.offerToken s x1).memOk := by
  unfold State.offerToken
  with_reducible repeat' first
    | assumption | exact memsOk_of (by assumption) | refine memsOk_of ?_ | simp only [memOk_mk] | split
    | refine State.dispatchPairs_memOk ?_

theorem execEventToken_memOk {s : State} {x1} (h : s.memOk) : outOk (execEventToken x1 s) := by
  unfold execEventToken
  with_reducible repeat' first | assumption | refine outOk_next ?_ | refine State.offerToken_memOk ?_

theorem State.offerAll_memOk {s : State} {x1} (h : s.memOk) : (State.offerAll s x1).memOk := by
  induction x1 generalizing s  with
  | nil =>
    unfold State.offerAll
    assumption
  | cons _ _ ih =>
    unfold State.offerAll
    with_reducible repeat' first
      | assumption | refine State.offerToken_memOk ?_ | refine ih ?_ | refine elim_memOk ?_ (fun _ => ?_)

theorem execEventTokenRetry_memOk {s : State} (h : s.memOk) :
    outOk (execEventTokenRetry s) := by
  unfold execEventTokenRetry
  with_reducible repeat' first
    | assumption | exact memsOk_of (by assumption) | refine memsOk_of ?_ | simp only [memOk_mk] | refine outOk_next ?_
    | exact outOk_fault _ | exact outOk_refused _ | split | refine State.offerAll_memOk ?_
    | refine State.hartsGo_memOk ?_

theorem execFirmwareTimer_memOk {s : State} {x1} (h : s.memOk) : outOk (execFirmwareTimer x1 s) := by
  unfold execFirmwareTimer
  with_reducible repeat' first | assumption | refine outOk_next ?_ | split | refine State.raiseEvent_memOk ?_

theorem execHevStatRead_memOk {s : State} {x1} (h : s.memOk) : outOk (execHevStatRead x1 s) := by
  unfold execHevStatRead
  with_reducible repeat' first
    | assumption | refine memsOk_of ?_ | simp only [memOk_mk] | refine outOk_next ?_ | split
    | refine State.hostReads_memOk ?_

theorem State.reportFence_memOk {s : State} {x1} {x2} {x3} (h : s.memOk) : (State.reportFence s x1 x2 x3).memOk := by
  unfold State.reportFence
  with_reducible repeat' first
    | assumption | simp only [memOk_mk] | split | refine State.archivePost_memOk ?_ | refine State.raiseEvent_memOk ?_
    | refine State.replaceRequest_memOk ?_

theorem State.fenceSome_memOk {s : State} {x1} (h : s.memOk) : (State.fenceSome s x1).memOk := by
  unfold State.fenceSome
  with_reducible repeat' first
    | assumption | exact memsOk_of (by assumption) | simp only [memOk_mk] | split | refine State.abortWg_memOk ?_
    | refine State.fqPost_memOk ?_ | refine foldl_memOk ?_ (fun _ _ _ => ?_)

theorem State.fenceCore_memOk {s : State} {x1} {x2} (h : s.memOk) : (State.fenceCore s x1 x2).memOk := by
  unfold State.fenceCore
  with_reducible repeat' first
    | assumption | split | refine State.reportFence_memOk ?_ | refine State.fenceSome_memOk ?_

theorem State.fenceCluster_memOk {s : State} {x1} {x2} (h : s.memOk) : (State.fenceCluster s x1 x2).memOk := by
  unfold State.fenceCluster
  with_reducible repeat' first
    | assumption | split | refine State.reportFence_memOk ?_ | refine State.fenceSome_memOk ?_

theorem State.fenceStack_memOk {s : State} {x1} {x2} (h : s.memOk) : (State.fenceStack s x1 x2).memOk := by
  unfold State.fenceStack
  with_reducible repeat' first
    | assumption | exact memsOk_of (by assumption) | simp only [memOk_mk] | split | refine State.reportFence_memOk ?_

theorem State.setReady_memOk {s : State} {x1} (h : s.memOk) : (State.setReady s x1).memOk := by
  unfold State.setReady
  with_reducible repeat' first
    | exact memsOk_of (by assumption) | simp only [memOk_mk] | split | refine State.raiseEvent_memOk ?_

theorem State.unroute_memOk {s : State} {x1} (h : s.memOk) : (State.unroute s x1).memOk := by
  unfold State.unroute
  with_reducible repeat' first | exact memsOk_of (by assumption) | simp only [memOk_mk]

theorem State.portTo_memOk {s : State} {x1} {x2} (h : s.memOk) : (State.portTo s x1 x2).memOk := by
  unfold State.portTo
  with_reducible repeat' first
    | exact memsOk_of (by assumption) | simp only [memOk_mk] | split | refine State.archivePost_memOk ?_
    | refine State.raiseEvent_memOk ?_ | refine State.unroute_memOk ?_

theorem State.fencePort_memOk {s : State} {x1} {x2} (h : s.memOk) : (State.fencePort s x1 x2).memOk := by
  unfold State.fencePort
  with_reducible repeat' first
    | assumption | exact memsOk_of (by assumption) | simp only [memOk_mk] | split | refine State.reportFence_memOk ?_
    | refine State.portTo_memOk ?_

theorem execFenceCore_memOk {s : State} {x1} {x2} (h : s.memOk) : outOk (execFenceCore x1 x2 s) := by
  unfold execFenceCore
  with_reducible repeat' first | assumption | refine outOk_next ?_ | refine State.fenceCore_memOk ?_

theorem execFenceCluster_memOk {s : State} {x1} {x2} (h : s.memOk) : outOk (execFenceCluster x1 x2 s) := by
  unfold execFenceCluster
  with_reducible repeat' first | assumption | refine outOk_next ?_ | refine State.fenceCluster_memOk ?_

theorem execFenceStack_memOk {s : State} {x1} {x2} (h : s.memOk) : outOk (execFenceStack x1 x2 s) := by
  unfold execFenceStack
  with_reducible repeat' first | assumption | refine outOk_next ?_ | refine State.fenceStack_memOk ?_

theorem execFencePort_memOk {s : State} {x1} {x2} (h : s.memOk) : outOk (execFencePort x1 x2 s) := by
  unfold execFencePort
  with_reducible repeat' first | assumption | refine outOk_next ?_ | refine State.fencePort_memOk ?_

theorem State.enablePort_memOk {s : State} {x1} {x2} (h : s.memOk) :
    (State.enablePort s x1 x2).memOk := by
  unfold State.enablePort
  with_reducible repeat' first
    | assumption | exact memsOk_of (by assumption) | refine memsOk_of ?_ | simp only [memOk_mk] | split
    | refine State.portTo_memOk ?_

theorem execMuwinPortState_memOk {s : State} {x1} {x2} {x3} {x4} (h : s.memOk) :
    outOk (execMuwinPortState x1 x2 x3 x4 s) := by
  unfold execMuwinPortState
  with_reducible repeat' first
    | assumption | exact memsOk_of (by assumption) | refine memsOk_of ?_ | simp only [memOk_mk] | refine outOk_next ?_
    | exact outOk_fault _ | exact outOk_refused _ | split | refine State.portTo_memOk ?_
    | refine State.setReady_memOk ?_ | refine State.fencePort_memOk ?_

theorem execRemoteUnreachable_memOk {s : State} {x1} (h : s.memOk) : outOk (execRemoteUnreachable x1 s) := by
  unfold execRemoteUnreachable
  with_reducible repeat' first | exact memsOk_of (by assumption) | simp only [memOk_mk] | refine outOk_next ?_

theorem execMwpStatRead_memOk {s : State} {x1} {x2} (h : s.memOk) : outOk (execMwpStatRead x1 x2 s) := by
  unfold execMwpStatRead
  with_reducible repeat' first
    | assumption | refine memsOk_of ?_ | simp only [memOk_mk] | refine outOk_next ?_ | split
    | refine State.hostReads_memOk ?_

theorem execFlitReplay_memOk {s : State} {x1} (h : s.memOk) : outOk (execFlitReplay x1 s) := by
  unfold execFlitReplay
  with_reducible repeat' first
    | assumption | exact memsOk_of (by assumption) | simp only [memOk_mk] | refine outOk_next ?_ | split

theorem State.firmwareStarts_memOk {s : State} (h : s.memOk) :
    (State.firmwareStarts s).memOk := by
  unfold State.firmwareStarts
  with_reducible repeat' first
    | assumption | exact memsOk_of (by assumption) | refine memsOk_of ?_ | simp only [memOk_mk] | split
    | refine State.hubStoreBeside_memOk ?_ | refine foldl_memOk ?_ (fun _ _ _ => ?_)

theorem State.hubTested_memOk {s : State} (h : s.memOk) :
    (State.hubTested s).memOk := by
  unfold State.hubTested
  with_reducible repeat' first
    | assumption | exact memsOk_of (by assumption) | refine memsOk_of ?_ | simp only [memOk_mk] | split
    | refine State.replaceRequest_memOk ?_

theorem State.boot_memOk {s : State} (h : s.memOk) :
    (State.boot s).memOk := by
  unfold State.boot
  with_reducible repeat' first
    | assumption | exact memsOk_of (by assumption) | refine memsOk_of ?_ | simp only [memOk_mk] | split
    | refine State.raiseEvent_memOk ?_ | refine State.setReady_memOk ?_ | refine State.hubTested_memOk ?_
    | refine State.firmwareStarts_memOk ?_

theorem State.ownerMeasures_memOk {s : State} {x1} {x2} (h : s.memOk) :
    (State.ownerMeasures s x1 x2).memOk := by
  unfold State.ownerMeasures
  with_reducible repeat' first
    | assumption | exact memsOk_of (by assumption) | refine memsOk_of ?_ | simp only [memOk_mk] | split

theorem execFunctionReady_memOk {s : State} {x1} (h : s.memOk) : outOk (execFunctionReady x1 s) := by
  unfold execFunctionReady
  with_reducible repeat' first
    | assumption | exact memsOk_of (by assumption) | simp only [memOk_mk] | refine outOk_next ?_ | split
    | refine State.setReady_memOk ?_ | refine State.boot_memOk ?_ | refine State.raiseEvent_memOk ?_

theorem State.bootCmd_memOk {s : State} {x1} (h : s.memOk) : (State.bootCmd s x1).memOk := by
  unfold State.bootCmd
  with_reducible repeat' first | assumption | exact memsOk_of (by assumption) | simp only [memOk_mk] | split

theorem execBootCmd_memOk {s : State} {x1} (h : s.memOk) : outOk (execBootCmd x1 s) := by
  unfold execBootCmd
  with_reducible repeat' first | assumption | refine outOk_next ?_ | refine State.bootCmd_memOk ?_

theorem execOwnerCommand_memOk {s : State} {x1} (h : s.memOk) : outOk (execOwnerCommand x1 s) := by
  unfold execOwnerCommand
  with_reducible repeat' first
    | assumption | exact memsOk_of (by assumption) | simp only [memOk_mk] | refine outOk_next ?_ | split

theorem State.attest_memOk {s : State} {x1} (h : s.memOk) : (State.attest s x1).memOk := by
  unfold State.attest
  with_reducible repeat' first | assumption | exact memsOk_of (by assumption) | simp only [memOk_mk] | split

theorem State.attestHigh_memOk {s : State} {x1} (h : s.memOk) :
    (State.attestHigh s x1).memOk := by
  unfold State.attestHigh
  with_reducible repeat' first
    | assumption | exact memsOk_of (by assumption) | refine memsOk_of ?_ | simp only [memOk_mk] | split

theorem execAttCmd_memOk {s : State} {x1} (h : s.memOk) : outOk (execAttCmd x1 s) := by
  unfold execAttCmd
  with_reducible repeat' first | assumption | refine outOk_next ?_ | refine State.attest_memOk ?_

theorem execQuoteComplete_memOk {s : State} (h : s.memOk) : outOk (execQuoteComplete s) := by
  unfold execQuoteComplete
  with_reducible repeat' first
    | assumption | exact memsOk_of (by assumption) | simp only [memOk_mk] | refine outOk_next ?_ | split

theorem State.cleared_memOk {s : State} (h : s.memOk) : (State.cleared s).memOk := by
  unfold State.cleared
  simp only [memOk_mk]
  exact ⟨rfl, h.hostMem, h.remoteMem, rfl, rfl⟩

theorem State.archiveReset_memOk {s : State} {x1} (h : s.memOk) : (State.archiveReset s x1).memOk := by
  unfold State.archiveReset
  with_reducible repeat' first | assumption | refine State.archivePost_memOk ?_

theorem execColdReset_memOk {s : State} (h : s.memOk) : outOk (execColdReset s) := by
  unfold execColdReset
  with_reducible repeat' first
    | assumption | refine memsOk_of ?_ | simp only [memOk_mk] | refine outOk_next ?_ | refine State.archiveReset_memOk ?_
    | refine State.cleared_memOk ?_

theorem State.warm_memOk {s : State} (h : s.memOk) : (State.warm s).memOk := by
  unfold State.warm
  with_reducible repeat' first
    | assumption | refine memsOk_of ?_ | simp only [memOk_mk] | refine State.archiveReset_memOk ?_
    | refine State.cleared_memOk ?_

theorem execWarmReset_memOk {s : State} (h : s.memOk) : outOk (execWarmReset s) := by
  unfold execWarmReset
  with_reducible repeat' first | assumption | refine outOk_next ?_ | refine State.warm_memOk ?_

theorem execPowerLoss_memOk {s : State} (h : s.memOk) : outOk (execPowerLoss s) := by
  unfold execPowerLoss
  with_reducible repeat' first
    | assumption | refine memsOk_of ?_ | simp only [memOk_mk] | refine outOk_next ?_ | refine State.cleared_memOk ?_

theorem execGovernorTick_memOk {s : State} (h : s.memOk) : outOk (execGovernorTick s) := by
  unfold execGovernorTick
  with_reducible repeat' first
    | assumption | refine memsOk_of ?_ | simp only [memOk_mk] | refine outOk_next ?_ | split | refine State.onCore_memOk ?_
    | refine foldl_memOk ?_ (fun _ _ _ => ?_)

theorem State.thermal_memOk {s : State} {x1} {x2} (h : s.memOk) : (State.thermal s x1 x2).memOk := by
  unfold State.thermal
  with_reducible repeat' first
    | assumption | simp only [memOk_mk] | refine State.archivePost_memOk ?_ | refine State.raiseEvent_memOk ?_

theorem State.thermalLimits_memOk {s : State} {x1} {x2} (h : s.memOk) :
    (State.thermalLimits s x1 x2).memOk := by
  unfold State.thermalLimits
  with_reducible repeat' first
    | assumption | exact memsOk_of (by assumption) | refine memsOk_of ?_ | simp only [memOk_mk] | split
    | refine State.archivePost_memOk ?_ | refine State.thermal_memOk ?_

theorem execThermalCrossing_memOk {s : State} {x1} {x2} {x3} {x4} (h : s.memOk) :
    outOk (execThermalCrossing x1 x2 x3 x4 s) := by
  unfold execThermalCrossing
  with_reducible repeat' first
    | assumption | exact memsOk_of (by assumption) | refine memsOk_of ?_ | simp only [memOk_mk] | refine outOk_next ?_
    | exact outOk_fault _ | exact outOk_refused _ | split | refine State.thermalLimits_memOk ?_
    | refine State.thermal_memOk ?_

theorem execThermalShutdown_memOk {s : State} {x1} {x2} {x3} {x4} (h : s.memOk) :
    outOk (execThermalShutdown x1 x2 x3 x4 s) := by
  unfold execThermalShutdown
  with_reducible repeat' first
    | assumption | exact memsOk_of (by assumption) | refine memsOk_of ?_ | simp only [memOk_mk] | refine outOk_next ?_
    | exact outOk_fault _ | exact outOk_refused _ | split | refine State.thermalLimits_memOk ?_

theorem execThermalSensorLost_memOk {s : State} {x1} (h : s.memOk) : outOk (execThermalSensorLost x1 s) := by
  unfold execThermalSensorLost
  with_reducible repeat' first | assumption | refine outOk_next ?_ | refine State.replaceRequest_memOk ?_

theorem State.agentRead_memOk {s : State} {x1} {x2} (h : s.memOk) : (State.agentRead s x1 x2).1.memOk := by
  unfold State.agentRead
  with_reducible repeat' first
    | assumption | simp only [memOk_mk] | split | refine State.hubFetch_memOk ?_ | refine State.accessAs_memOk ?_

theorem State.agentWrite_memOk {s : State} {x1} {x2} (h : s.memOk) :
    (State.agentWrite s x1 x2).memOk := by
  unfold State.agentWrite
  with_reducible repeat' first
    | assumption | exact memsOk_of (by assumption) | refine memsOk_of ?_ | simp only [memOk_mk] | split
    | refine State.hubStore_memOk ?_ | refine State.accessAs_memOk ?_

theorem State.agentAtomic_memOk {s : State} {x1} {x2} {x3} (h : s.memOk) :
    (State.agentAtomic s x1 x2 x3).1.memOk := by
  unfold State.agentAtomic
  with_reducible repeat' first
    | assumption | exact memsOk_of (by assumption) | refine memsOk_of ?_ | simp only [memOk_mk] | split
    | refine State.hubOwn_memOk ?_ | refine State.hubStore_memOk ?_ | refine State.accessAs_memOk ?_

theorem State.agentOp_memOk {s : State} {x1} {x2} (h : s.memOk) :
    (State.agentOp s x1 x2).1.memOk := by
  unfold State.agentOp
  with_reducible repeat' first
    | assumption | exact memsOk_of (by assumption) | refine memsOk_of ?_ | simp only [memOk_mk] | split
    | refine State.agentRead_memOk ?_ | refine State.agentWrite_memOk ?_ | refine State.agentAtomic_memOk ?_

theorem execHostBar2Access_memOk {s : State} {x1} {x2} (h : s.memOk) : outOk (execHostBar2Access x1 x2 s) := by
  unfold execHostBar2Access
  with_reducible repeat' first
    | assumption | exact memsOk_of (by assumption) | refine memsOk_of ?_ | simp only [memOk_mk] | refine outOk_next ?_
    | split | refine State.agentOp_memOk ?_ | refine State.settle_memOk ?_

theorem execMuwinPeerAccess_memOk {s : State} {x1} {x2} (h : s.memOk) : outOk (execMuwinPeerAccess x1 x2 s) := by
  unfold execMuwinPeerAccess
  with_reducible repeat' first
    | assumption | exact memsOk_of (by assumption) | refine memsOk_of ?_ | simp only [memOk_mk] | refine outOk_next ?_
    | split | refine State.agentOp_memOk ?_ | refine State.settle_memOk ?_

theorem State.fenceSet_memOk {s : State} {x1} (h : s.memOk) : (State.fenceSet s x1).memOk := by
  unfold State.fenceSet
  with_reducible repeat' first
    | assumption | simp only [memOk_mk] | split | refine State.fenceCore_memOk ?_ | refine State.fenceCluster_memOk ?_
    | refine State.fenceStack_memOk ?_ | refine State.fencePort_memOk ?_

theorem State.writeDevice_memOk {s : State} {x1} {x2} (h : s.memOk) : (State.writeDevice s x1 x2).memOk := by
  unfold State.writeDevice
  with_reducible repeat' first
    | assumption | exact memsOk_of (by assumption) | simp only [memOk_mk] | split | refine State.fenceSet_memOk ?_
    | refine State.warm_memOk ?_

theorem State.writeFaults_memOk {s : State} {x1} {x2} (h : s.memOk) :
    (State.writeFaults s x1 x2).memOk := by
  unfold State.writeFaults
  with_reducible repeat' first
    | assumption | exact memsOk_of (by assumption) | refine memsOk_of ?_ | simp only [memOk_mk] | split
    | refine execFqResume_memOk ?_ | refine execXltInv_memOk ?_ | refine execDqPush_memOk ?_
    | refine execDqStatClear_memOk ?_ | refine next_memOk (by assumption) ?_

theorem State.writeEvents_memOk {s : State} {x1} {x2} (h : s.memOk) : (State.writeEvents s x1 x2).memOk := by
  unfold State.writeEvents
  with_reducible repeat' first
    | assumption | exact memsOk_of (by assumption) | simp only [memOk_mk] | split | refine execLmbGo_memOk ?_
    | refine next_memOk (by assumption) ?_

theorem State.writeSecurity_memOk {s : State} {x1} {x2} (h : s.memOk) : (State.writeSecurity s x1 x2).memOk := by
  unfold State.writeSecurity
  with_reducible repeat' first | assumption | split | refine State.bootCmd_memOk ?_ | refine State.attest_memOk ?_

theorem State.writeQctl_memOk {s : State} {x1} {x2} (h : s.memOk) : (State.writeQctl s x1 x2).memOk := by
  unfold State.writeQctl
  with_reducible repeat' first
    | assumption | simp only [memOk_mk] | split | refine State.onQueue_memOk ?_ | refine State.rotate_memOk ?_

theorem State.writeQueue_memOk {s : State} {x1} {x2} {x3} (h : s.memOk) : (State.writeQueue s x1 x2 x3).memOk := by
  unfold State.writeQueue
  with_reducible repeat' first | assumption | split | refine State.onQueue_memOk ?_ | refine State.writeQctl_memOk ?_

theorem State.writeCore_memOk {s : State} {x1} {x2} {x3} (h : s.memOk) : (State.writeCore s x1 x2 x3).memOk := by
  unfold State.writeCore
  with_reducible repeat' first | assumption | simp only [memOk_mk] | split | refine State.onCore_memOk ?_

theorem State.writeRoutes_memOk {s : State} {x1} {x2} (h : s.memOk) : (State.writeRoutes s x1 x2).memOk := by
  unfold State.writeRoutes
  with_reducible repeat' first | exact memsOk_of (by assumption) | simp only [memOk_mk]

theorem State.keepLow_memOk {s : State} {x1} {x2} (h : s.memOk) :
    (State.keepLow s x1 x2).memOk := by
  unfold State.keepLow
  with_reducible repeat' first
    | assumption | exact memsOk_of (by assumption) | refine memsOk_of ?_ | simp only [memOk_mk] | split

theorem State.writeReg_memOk {s : State} {x1} {x2} (h : s.memOk) :
    (State.writeReg s x1 x2).memOk := by
  unfold State.writeReg
  with_reducible repeat' first
    | assumption | exact memsOk_of (by assumption) | refine memsOk_of ?_ | simp only [memOk_mk] | split
    | refine State.writeDevice_memOk ?_ | refine State.writeFaults_memOk ?_ | refine State.writeEvents_memOk ?_
    | refine State.writeSecurity_memOk ?_ | refine State.enablePort_memOk ?_ | refine State.writeRoutes_memOk ?_
    | refine State.writeQueue_memOk ?_ | refine State.writeCore_memOk ?_

theorem State.hostWritesReg_memOk {s : State} {x1} {x2} {x3} (h : s.memOk) :
    (State.hostWritesReg s x1 x2 x3).memOk := by
  unfold State.hostWritesReg
  with_reducible repeat' first
    | assumption | exact memsOk_of (by assumption) | refine memsOk_of ?_
    | refine memsOk_mem ?_ (cellWrites_wf _ (State.memOk.mem ?_) _)
    | refine memsOk_mem ?_ (cellWrite_wf _ (State.memOk.mem ?_) _ _)
    | refine memsOk_hostMem ?_ (cellWrites_wf _ (State.memOk.hostMem ?_) _)
    | refine memsOk_hostMem ?_ (cellWrite_wf _ (State.memOk.hostMem ?_) _ _)
    | refine memsOk_remoteMem ?_ (cellWrites_wf _ (State.memOk.remoteMem ?_) _)
    | refine memsOk_remoteMem ?_ (cellWrite_wf _ (State.memOk.remoteMem ?_) _ _)
    | refine memsOk_recovery ?_ (cellWrites_wf _ (State.memOk.recovery ?_) _)
    | refine memsOk_recovery ?_ (cellWrite_wf _ (State.memOk.recovery ?_) _ _)
    | refine memsOk_sram ?_ (cellWrites_wf _ (State.memOk.sram ?_) _)
    | refine memsOk_sram ?_ (cellWrite_wf _ (State.memOk.sram ?_) _ _) | simp only [memOk_mk] | split
    | refine State.keepLow_memOk ?_ | refine State.attestHigh_memOk ?_ | refine State.settle_memOk ?_
    | refine State.writeReg_memOk ?_

theorem nextOr_memOk {s : State} {x1} (h : s.memOk) (ho : outOk x1) : (nextOr s x1).memOk := by
  cases x1 with
  | next t => exact ho t rfl
  | fault _ => exact h
  | refused _ => exact h

theorem State.hostReadsReg_memOk {s : State} {x1} {x2} (h : s.memOk) :
    (State.hostReadsReg s x1 x2).memOk := by
  unfold State.hostReadsReg
  with_reducible repeat' first
    | assumption | exact memsOk_of (by assumption) | refine memsOk_of ?_ | simp only [memOk_mk] | split
    | refine nextOr_memOk ?_ ?_ | refine execFqStatRead_memOk ?_ | refine execDqPop_memOk ?_
    | refine execHevStatRead_memOk ?_ | refine execLmbStatRead_memOk ?_ | refine execMwpStatRead_memOk ?_
    | refine State.hostReads_memOk ?_

theorem execRegisterWrite_memOk {s : State} {x1} {x2} {x3} (h : s.memOk) :
    outOk (execRegisterWrite x1 x2 x3 s) := by
  unfold execRegisterWrite
  with_reducible repeat' first
    | assumption | exact memsOk_of (by assumption) | refine memsOk_of ?_ | simp only [memOk_mk] | refine outOk_next ?_
    | exact outOk_fault _ | exact outOk_refused _ | split | refine State.hostWritesReg_memOk ?_
    | refine State.hostReadsReg_memOk ?_

theorem State.hartSets_memOk {s : State} {x1} {x2} {x3} (h : s.memOk) :
    (State.hartSets s x1 x2 x3).memOk := by
  unfold State.hartSets
  with_reducible repeat' first
    | assumption | exact memsOk_of (by assumption) | refine memsOk_of ?_ | simp only [memOk_mk] | split

theorem State.hartLoad_memOk {s : State} {x1} {x2} (h : s.memOk) :
    (State.hartLoad s x1 x2).1.memOk := by
  unfold State.hartLoad
  with_reducible repeat' first
    | assumption | exact memsOk_of (by assumption) | refine memsOk_of ?_ | simp only [memOk_mk] | split
    | refine execRegisterWrite_memOk ?_ | refine State.agentOp_memOk ?_ | refine State.settle_memOk ?_
    | refine fst_memOk (by assumption) ?_ | refine next_memOk (by assumption) ?_

theorem State.hartStore_memOk {s : State} {x1} {x2} (h : s.memOk) :
    (State.hartStore s x1 x2).memOk := by
  unfold State.hartStore
  with_reducible repeat' first
    | assumption | exact memsOk_of (by assumption) | refine memsOk_of ?_ | simp only [memOk_mk] | split
    | refine execRegisterWrite_memOk ?_ | refine State.settle_memOk ?_ | refine State.agentOp_memOk ?_
    | refine State.hostPut_memOk ?_ | refine fst_memOk (by assumption) ?_ | refine next_memOk (by assumption) ?_

theorem State.hartAmo_memOk {s : State} {x1} {x2} {x3} {x4} (h : s.memOk) :
    (State.hartAmo s x1 x2 x3 x4).1.memOk := by
  unfold State.hartAmo
  with_reducible repeat' first
    | assumption | exact memsOk_of (by assumption) | refine memsOk_of ?_ | simp only [memOk_mk] | split
    | refine State.agentOp_memOk ?_ | refine State.settle_memOk ?_ | refine State.hostPut_memOk ?_
    | refine fst_memOk (by assumption) ?_

theorem State.hartDoes_memOk {s : State} {x1} {x2} (h : s.memOk) :
    (State.hartDoes s x1 x2).memOk := by
  unfold State.hartDoes
  with_reducible repeat' first
    | assumption | exact memsOk_of (by assumption) | refine memsOk_of ?_ | simp only [memOk_mk] | split
    | refine State.hartLoad_memOk ?_ | refine State.hartSets_memOk ?_ | refine State.hartStore_memOk ?_
    | refine State.hartAmo_memOk ?_

theorem State.takesInput_memOk {s : State} {x1} (h : s.memOk) :
    (State.takesInput s x1).memOk := by
  unfold State.takesInput
  with_reducible repeat' first
    | assumption | exact memsOk_of (by assumption) | refine memsOk_of ?_ | simp only [memOk_mk] | split
    | refine State.hostPut_memOk ?_ | refine State.hartDoes_memOk ?_ | refine State.ownerMeasures_memOk ?_

theorem State.latchFiring_memOk {s : State} {x1} {x2} (h : s.memOk) : (State.latchFiring s x1 x2).memOk := by
  unfold State.latchFiring
  with_reducible repeat' first | exact memsOk_of (by assumption) | simp only [memOk_mk]

theorem State.placeFetch_memOk {s : State} {x1} (h : s.memOk) : (State.placeFetch s x1).memOk := by
  unfold State.placeFetch
  with_reducible repeat' first | assumption | refine memsOk_of ?_ | simp only [memOk_mk] | refine State.onCore_memOk ?_

theorem State.chosen_memOk {s : State} {x1} (h : s.memOk) : (State.chosen s x1).memOk := by
  unfold State.chosen
  with_reducible repeat' first | exact memsOk_of (by assumption) | simp only [memOk_mk]

theorem State.countCorrected_memOk {s : State} {x1} (h : s.memOk) :
    (State.countCorrected s x1).memOk := by
  unfold State.countCorrected
  with_reducible repeat' first
    | assumption | exact memsOk_of (by assumption) | refine memsOk_of ?_ | simp only [memOk_mk] | split
    | refine State.candidate_memOk ?_

theorem State.coreError_memOk {s : State} {x1} {x2} (h : s.memOk) :
    (State.coreError s x1 x2).memOk := by
  unfold State.coreError
  with_reducible repeat' first
    | assumption | exact memsOk_of (by assumption) | refine memsOk_of ?_ | simp only [memOk_mk] | split
    | refine State.postUnitError_memOk ?_ | refine State.fenceCore_memOk ?_

theorem State.decay_memOk {s : State} {x1} (h : s.memOk) :
    (State.decay s x1).memOk := by
  unfold State.decay
  with_reducible repeat' first
    | assumption | exact memsOk_of (by assumption) | refine memsOk_of ?_ | simp only [memOk_mk] | split
    | refine State.countCorrected_memOk ?_ | refine State.postUnitError_memOk ?_ | refine State.setCore_memOk ?_
    | refine State.coreError_memOk ?_ | refine State.onThread_memOk ?_ | refine State.onCore_memOk ?_

theorem State.tick_memOk {s : State} (h : s.memOk) :
    (State.tick s).memOk := by
  unfold State.tick
  with_reducible repeat' first
    | assumption | exact memsOk_of (by assumption) | refine memsOk_of ?_ | simp only [memOk_mk] | split
    | refine State.postCopies_memOk ?_

theorem State.withFetchWord_memOk {s : State} {x1} {x2} (h : s.memOk) : (State.withFetchWord s x1 x2).memOk := by
  unfold State.withFetchWord
  with_reducible repeat' first | assumption | refine State.placeFetch_memOk ?_

end Sys2Proof.Machine
end

