-- ==== Sys2Proof/Laws/PerInstr.lean ====
section
/-! SUPPORT. Encoding and decoding of slot words undo each other: field by field (spec 03 R75 to R82), and then for each
instruction, the family `Encoding`. -/

namespace Sys2Proof

theorem append_low {n m : Nat} (x : BitVec n) (y : BitVec m) : (x ++ y).extractLsb' 0 m = y := by
  ext i h
  simp only [BitVec.getElem_extractLsb', BitVec.getLsbD_append]
  rw [if_pos (by omega), ← BitVec.getLsbD_eq_getElem]
  congr 1
  omega

theorem append_high {n m : Nat} (x : BitVec n) (y : BitVec m) : (x ++ y).extractLsb' m n = x := by
  ext i h
  simp only [BitVec.getElem_extractLsb', BitVec.getLsbD_append]
  rw [if_neg (by omega), ← BitVec.getLsbD_eq_getElem]
  congr 1
  omega

theorem append_mid {n m k : Nat} (x : BitVec n) (y : BitVec m) (z : BitVec k) : (x ++ y ++ z).extractLsb' k m = y := by
  ext i h
  simp only [BitVec.getElem_extractLsb', BitVec.getLsbD_append]
  rw [if_neg (by omega), if_pos (by omega), ← BitVec.getLsbD_eq_getElem]
  congr 1
  omega

/-! ### Fields -/

@[simp] theorem Ty.ofCode_code (t : Ty) : Ty.ofCode t.code = t := by cases t <;> rfl

theorem Ty.code_lt (t : Ty) : t.code < 16 := by cases t <;> decide

@[simp] theorem PredMode.decode_encode (p : PredMode) : PredMode.decode p.encode = some p := by cases p <;> rfl

@[simp] theorem Src.decode_encode (s : Src) : Src.decode s.encode = some s := by
  cases s with
  | pool i =>
    simp only [Src.decode, Src.encode, append_high, append_low]
    rfl
  | const c => cases c <;> rfl
  | token => rfl
  | absent => rfl

@[simp] theorem Src.raw_encode (s : Src) : Src.raw s.encode = s := by simp [Src.raw]

@[simp] theorem PortId.decode_encode (p : PortId) : PortId.decode p.encode = p := by cases p <;> rfl

@[simp] theorem IslandPort.decode_encode (p : IslandPort) : IslandPort.decode p.encode = some p := by
  cases p with
  | sp n =>
    simp only [IslandPort.decode, IslandPort.encode, append_high, append_low]
    rfl
  | mxa => rfl
  | mxb => rfl
  | mxsa => rfl
  | mxsb => rfl

theorem dst_port (e : BitVec 7) (s : BitVec 4) (q : BitVec 2) :
    let x : BitVec 16 := (1 : BitVec 1) ++ (0 : BitVec 2) ++ e ++ s ++ q
    x.extractLsb' 15 1 = 1 ∧ x.extractLsb' 13 2 = 0 ∧ x.extractLsb' 6 7 = e ∧ x.extractLsb' 2 4 = s ∧ x.extractLsb' 0 2 = q := by
  refine ⟨?_, ?_, ?_, append_mid _ _ _, append_low _ _⟩ <;>
  · ext i h
    simp only [BitVec.getElem_extractLsb', BitVec.getLsbD_append]
    repeat rw [if_neg (by omega)]
    try rw [if_pos (by omega)]
    rw [← BitVec.getLsbD_eq_getElem]
    congr 1
    omega

theorem dst_id (k : BitVec 2) (n : BitVec 7) :
    let x : BitVec 16 := (1 : BitVec 1) ++ k ++ n ++ (0 : BitVec 6)
    x.extractLsb' 15 1 = 1 ∧ x.extractLsb' 13 2 = k ∧ x.extractLsb' 6 7 = n ∧ x.extractLsb' 0 6 = 0 := by
  refine ⟨?_, ?_, append_mid _ _ _, append_low _ _⟩ <;>
  · ext i h
    simp only [BitVec.getElem_extractLsb', BitVec.getLsbD_append]
    repeat rw [if_neg (by omega)]
    try rw [if_pos (by omega)]
    rw [← BitVec.getLsbD_eq_getElem]
    congr 1
    omega

@[simp] theorem Dst.decode_encode (d : Dst) : Dst.decode d.encode = .ok d := by
  rcases d with _ | ⟨e, s, p⟩ | p | n
  · rfl
  · obtain ⟨h1, h2, h3, h4, h5⟩ := dst_port e s p.encode
    simp only [Dst.encode, Dst.decode, h1, h2, h3, h4, h5, PortId.decode_encode]
    rfl
  · obtain ⟨h1, h2, h3, h4⟩ := dst_id 1 p.encode
    simp only [Dst.encode, Dst.decode, h1, h2, h3, h4, IslandPort.decode_encode]
    rfl
  · obtain ⟨h1, h2, h3, h4⟩ := dst_id 2 n
    simp only [Dst.encode, Dst.decode, h1, h2, h3, h4]
    rfl

set_option maxRecDepth 8000 in
/-- Where the fields of a slot word stand (R75). -/
theorem word_parts (o : BitVec 8) (t m : BitVec 4) (p : BitVec 2) (a b c : BitVec 12) (d e : BitVec 16) (xf : BitVec 6)
    (z : BitVec 4) (imm : BitVec 32) :
    let x : Word128 := o ++ t ++ m ++ p ++ a ++ b ++ c ++ d ++ e ++ xf ++ z ++ imm
    x.field 120 8 = o ∧ x.field 116 4 = t ∧ x.field 112 4 = m ∧ x.field 110 2 = p ∧
      x.field 98 12 = a ∧ x.field 86 12 = b ∧ x.field 74 12 = c ∧ x.field 58 16 = d ∧
      x.field 42 16 = e ∧ x.field 36 6 = xf ∧ x.field 32 4 = z ∧ x.field 0 32 = imm := by
  refine ⟨?_, ?_, ?_, ?_, ?_, ?_, ?_, ?_, ?_, ?_, append_mid _ _ _, append_low _ _⟩ <;>
  · unfold Word128.field
    ext i h
    simp only [BitVec.getElem_extractLsb', BitVec.getLsbD_append]
    repeat rw [if_neg (by omega)]
    try rw [if_pos (by omega)]
    rw [← BitVec.getLsbD_eq_getElem]
    congr 1
    omega

/-- The fields of an encoded word. -/
theorem fields_encode (opc : Nat) (w : SlotWord) : (w.encode opc).fields = w := by
  obtain ⟨-, h1, h2, h3, h4, h5, h6, h7, h8, h9, -, h10⟩ := word_parts (BitVec.ofNat 8 opc) (BitVec.ofNat 4 w.ty.code) w.mod
    w.pm.encode w.a.encode w.b.encode w.c.encode w.d0.encode w.d1.encode w.xf 0 w.imm
  have ht : (BitVec.ofNat 4 w.ty.code).toNat = w.ty.code := by
    rw [BitVec.toNat_ofNat, Nat.mod_eq_of_lt (Ty.code_lt w.ty)]
  unfold SlotWord.encode Word128.fields
  simp only [h1, h2, h3, h4, h5, h6, h7, h8, h9, h10, ht, Ty.ofCode_code, PredMode.decode_encode, Src.raw_encode,
    Dst.decode_encode]
  rfl

/-- An encoded word fails no check of a field's own form. -/
theorem fieldCheck_encode (opc : Nat) (w : SlotWord) : (w.encode opc).fieldCheck = none := by
  obtain ⟨-, -, -, h3, h4, h5, h6, h7, h8, -, h9, -⟩ := word_parts (BitVec.ofNat 8 opc) (BitVec.ofNat 4 w.ty.code) w.mod
    w.pm.encode w.a.encode w.b.encode w.c.encode w.d0.encode w.d1.encode w.xf 0 w.imm
  unfold SlotWord.encode Word128.fieldCheck
  simp only [h3, h4, h5, h6, h7, h8, h9, PredMode.decode_encode, Src.decode_encode, Dst.decode_encode]
  rfl

theorem opcode_encode (opc : Nat) (w : SlotWord) : (w.encode opc).field 120 8 = BitVec.ofNat 8 opc :=
  (word_parts (BitVec.ofNat 8 opc) (BitVec.ofNat 4 w.ty.code) w.mod
    w.pm.encode w.a.encode w.b.encode w.c.encode w.d0.encode w.d1.encode w.xf 0 w.imm).1

end Sys2Proof

namespace Sys2Proof.Laws.Encoding

/-- The word of a well-formed instruction decodes to it, with every operand at every value that the encoding admits. -/
def Statement (i : Instr) : Prop :=
  i.wf = true → fanCheck i = none → ∀ x, encode i = some x → decodeWord x = .ok i

theorem of_spec {i : Instr} {r : OpSpec} {w : SlotWord} (hs : i.spec = some (r, w))
    (ho : r.mod w = true → Instr.ofOpcode (BitVec.ofNat 8 r.opc) w = some i) : Statement i := by
  intro hw hf x hx
  have hc : i.check = none := by
    simp only [Instr.wf, Bool.and_eq_true, Option.isNone_iff_eq_none] at hw
    exact hw.1
  have hm : r.mod w = true := by
    by_contra h
    simp only [Instr.check, hs, OpSpec.check] at hc
    split_ifs at hc
    simp_all
  simp only [encode, hs, Option.map_some, Option.some.injEq] at hx
  subst hx
  simp only [decodeWord, opcode_encode, fields_encode, fieldCheck_encode, ho hm, hc, hf, firstCheck]

theorem of_none {i : Instr} (hs : i.spec = none) : Statement i := by
  intro _ _ x hx
  simp [encode, hs] at hx

theorem of_mod0 {w : SlotWord} {i j : Instr} (h : Check.modIn [0] w = true) :
    (if w.mod == 1 then some j else some i) = some i := by
  have h0 : w.mod = 0 := by simpa [Check.modIn, BitVec.toNat_eq] using h
  simp [h0]

theorem of_mod1 {w : SlotWord} {i j : Instr} (h : Check.modIn [1] w = true) :
    (if w.mod == 1 then some i else some j) = some i := by
  have h0 : w.mod = 1 := by simpa [Check.modIn, BitVec.toNat_eq] using h
  simp [h0]

theorem of_bar0 {w : SlotWord} {i j k : Instr} (h : Check.modIn [0] w = true) :
    (if w.mod == 1 then some j else if w.mod == 2 then some k else some i) = some i := by
  have h0 : w.mod = 0 := by simpa [Check.modIn, BitVec.toNat_eq] using h
  simp [h0]

theorem of_bar2 {w : SlotWord} {i j k : Instr} (h : Check.modIn [2] w = true) :
    (if w.mod == 1 then some j else if w.mod == 2 then some i else some k) = some i := by
  have h0 : w.mod = 2 := by simpa [Check.modIn, BitVec.toNat_eq] using h
  simp [h0]

theorem of_bar1 {w : SlotWord} {i j k : Instr} (h : Check.modIn [1] w = true) :
    (if w.mod == 1 then some i else if w.mod == 2 then some j else some k) = some i := by
  have h0 : w.mod = 1 := by simpa [Check.modIn, BitVec.toNat_eq] using h
  simp [h0]

theorem add (w : SlotWord) : Statement (.add w) := of_spec rfl (fun _ => rfl)
theorem sub (w : SlotWord) : Statement (.sub w) := of_spec rfl (fun _ => rfl)
theorem mul (w : SlotWord) : Statement (.mul w) := of_spec rfl (fun _ => rfl)
theorem mulh (w : SlotWord) : Statement (.mulh w) := of_spec rfl (fun _ => rfl)
theorem mad (w : SlotWord) : Statement (.mad w) := of_spec rfl (fun _ => rfl)
theorem div (w : SlotWord) : Statement (.div w) := of_spec rfl (fun _ => rfl)
theorem rem (w : SlotWord) : Statement (.rem w) := of_spec rfl (fun _ => rfl)
theorem neg (w : SlotWord) : Statement (.neg w) := of_spec rfl (fun _ => rfl)
theorem abs (w : SlotWord) : Statement (.abs w) := of_spec rfl (fun _ => rfl)
theorem min (w : SlotWord) : Statement (.min w) := of_spec rfl (fun _ => rfl)
theorem max (w : SlotWord) : Statement (.max w) := of_spec rfl (fun _ => rfl)
theorem and (w : SlotWord) : Statement (.and w) := of_spec rfl (fun _ => rfl)
theorem or (w : SlotWord) : Statement (.or w) := of_spec rfl (fun _ => rfl)
theorem xor (w : SlotWord) : Statement (.xor w) := of_spec rfl (fun _ => rfl)
theorem not (w : SlotWord) : Statement (.not w) := of_spec rfl (fun _ => rfl)
theorem shl (w : SlotWord) : Statement (.shl w) := of_spec rfl (fun _ => rfl)
theorem shr (w : SlotWord) : Statement (.shr w) := of_spec rfl (fun _ => rfl)
theorem sar (w : SlotWord) : Statement (.sar w) := of_spec rfl (fun _ => rfl)
theorem rol (w : SlotWord) : Statement (.rol w) := of_spec rfl (fun _ => rfl)
theorem ror (w : SlotWord) : Statement (.ror w) := of_spec rfl (fun _ => rfl)
theorem clz (w : SlotWord) : Statement (.clz w) := of_spec rfl (fun _ => rfl)
theorem ctz (w : SlotWord) : Statement (.ctz w) := of_spec rfl (fun _ => rfl)
theorem popc (w : SlotWord) : Statement (.popc w) := of_spec rfl (fun _ => rfl)
theorem brev (w : SlotWord) : Statement (.brev w) := of_spec rfl (fun _ => rfl)
theorem bfx (w : SlotWord) : Statement (.bfx w) := of_spec rfl (fun _ => rfl)
theorem bfi (w : SlotWord) : Statement (.bfi w) := of_spec rfl (fun _ => rfl)
theorem cmp (w : SlotWord) : Statement (.cmp w) := of_spec rfl (fun _ => rfl)
theorem sel (w : SlotWord) : Statement (.sel w) := of_spec rfl (fun _ => rfl)
theorem sext (w : SlotWord) : Statement (.sext w) := of_spec rfl (fun _ => rfl)
theorem zext (w : SlotWord) : Statement (.zext w) := of_spec rfl (fun _ => rfl)
theorem addc (w : SlotWord) : Statement (.addc w) := of_spec rfl (fun _ => rfl)
theorem subb (w : SlotWord) : Statement (.subb w) := of_spec rfl (fun _ => rfl)
theorem lea (w : SlotWord) : Statement (.lea w) := of_spec rfl (fun _ => rfl)
theorem mov (w : SlotWord) : Statement (.mov w) := of_spec rfl (fun _ => rfl)
theorem const (w : SlotWord) : Statement (.const w) := of_spec rfl (fun _ => rfl)
theorem fadd (w : SlotWord) : Statement (.fadd w) := of_spec rfl (fun _ => rfl)
theorem fsub (w : SlotWord) : Statement (.fsub w) := of_spec rfl (fun _ => rfl)
theorem fmul (w : SlotWord) : Statement (.fmul w) := of_spec rfl (fun _ => rfl)
theorem ffma (w : SlotWord) : Statement (.ffma w) := of_spec rfl (fun _ => rfl)
theorem fneg (w : SlotWord) : Statement (.fneg w) := of_spec rfl (fun _ => rfl)
theorem fabs (w : SlotWord) : Statement (.fabs w) := of_spec rfl (fun _ => rfl)
theorem fmin (w : SlotWord) : Statement (.fmin w) := of_spec rfl (fun _ => rfl)
theorem fmax (w : SlotWord) : Statement (.fmax w) := of_spec rfl (fun _ => rfl)
theorem fcmp (w : SlotWord) : Statement (.fcmp w) := of_spec rfl (fun _ => rfl)
theorem fcvt (w : SlotWord) : Statement (.fcvt w) := of_spec rfl (fun _ => rfl)
theorem fcvti (w : SlotWord) : Statement (.fcvti w) := of_spec rfl (fun _ => rfl)
theorem icvtf (w : SlotWord) : Statement (.icvtf w) := of_spec rfl (fun _ => rfl)
theorem frnd (w : SlotWord) : Statement (.frnd w) := of_spec rfl (fun _ => rfl)
theorem fdiv (w : SlotWord) : Statement (.fdiv w) := of_spec rfl (fun _ => rfl)
theorem frcp (w : SlotWord) : Statement (.frcp w) := of_spec rfl (fun _ => rfl)
theorem fsqrt (w : SlotWord) : Statement (.fsqrt w) := of_spec rfl (fun _ => rfl)
theorem frsq (w : SlotWord) : Statement (.frsq w) := of_spec rfl (fun _ => rfl)
theorem fexp2 (w : SlotWord) : Statement (.fexp2 w) := of_spec rfl (fun _ => rfl)
theorem flog2 (w : SlotWord) : Statement (.flog2 w) := of_spec rfl (fun _ => rfl)
theorem fsin (w : SlotWord) : Statement (.fsin w) := of_spec rfl (fun _ => rfl)
theorem fcos (w : SlotWord) : Statement (.fcos w) := of_spec rfl (fun _ => rfl)
theorem fclass (w : SlotWord) : Statement (.fclass w) := of_spec rfl (fun _ => rfl)
theorem fscale (w : SlotWord) : Statement (.fscale w) := of_spec rfl (fun _ => rfl)
theorem ffrexp (w : SlotWord) : Statement (.ffrexp w) := of_spec rfl (fun _ => rfl)
theorem fsign (w : SlotWord) : Statement (.fsign w) := of_spec rfl (fun _ => rfl)
theorem fpmodeImm (w : SlotWord) : Statement (.fpmodeImm w) := of_spec rfl (fun h => of_mod0 h)
theorem fpmodeVal (w : SlotWord) : Statement (.fpmodeVal w) := of_spec rfl (fun h => of_mod1 h)
theorem hadd2 (w : SlotWord) : Statement (.hadd2 w) := of_spec rfl (fun _ => rfl)
theorem hmul2 (w : SlotWord) : Statement (.hmul2 w) := of_spec rfl (fun _ => rfl)
theorem hfma2 (w : SlotWord) : Statement (.hfma2 w) := of_spec rfl (fun _ => rfl)
theorem fdot2 (w : SlotWord) : Statement (.fdot2 w) := of_spec rfl (fun _ => rfl)
theorem ecatch (w : SlotWord) : Statement (.ecatch w) := of_spec rfl (fun _ => rfl)
theorem bmax (w : SlotWord) : Statement (.bmax w) := of_spec rfl (fun _ => rfl)
theorem bscale (w : SlotWord) : Statement (.bscale w) := of_spec rfl (fun _ => rfl)
theorem bquant (w : SlotWord) : Statement (.bquant w) := of_spec rfl (fun _ => rfl)
theorem bdequant (w : SlotWord) : Statement (.bdequant w) := of_spec rfl (fun _ => rfl)
theorem bpack (w : SlotWord) : Statement (.bpack w) := of_spec rfl (fun _ => rfl)
theorem bunpack (w : SlotWord) : Statement (.bunpack w) := of_spec rfl (fun _ => rfl)
theorem bdot (w : SlotWord) : Statement (.bdot w) := of_spec rfl (fun _ => rfl)
theorem bsfwd (w : SlotWord) : Statement (.bsfwd w) := of_spec rfl (fun _ => rfl)
theorem entry (w : SlotWord) : Statement (.entry w) := of_spec rfl (fun _ => rfl)
theorem lvr (w : SlotWord) : Statement (.lvr w) := of_spec rfl (fun _ => rfl)
theorem lvw (w : SlotWord) : Statement (.lvw w) := of_spec rfl (fun _ => rfl)
theorem fan (w : SlotWord) : Statement (.fan w) := of_spec rfl (fun _ => rfl)
theorem steer (w : SlotWord) : Statement (.steer w) := of_spec rfl (fun _ => rfl)
theorem mergeFirst (w : SlotWord) : Statement (.mergeFirst w) := of_spec rfl (fun h => of_mod0 h)
theorem mergeJoin (w : SlotWord) : Statement (.mergeJoin w) := of_spec rfl (fun h => of_mod1 h)
theorem sink (w : SlotWord) : Statement (.sink w) := of_spec rfl (fun _ => rfl)
theorem lhead (w : SlotWord) : Statement (.lhead w) := of_spec rfl (fun _ => rfl)
theorem lsparse (w : SlotWord) : Statement (.lsparse w) := of_spec rfl (fun _ => rfl)
theorem ltail (w : SlotWord) : Statement (.ltail w) := of_spec rfl (fun _ => rfl)
theorem lexit (w : SlotWord) : Statement (.lexit w) := of_spec rfl (fun _ => rfl)
theorem br (w : SlotWord) : Statement (.br w) := of_spec rfl (fun _ => rfl)
theorem jmp (w : SlotWord) : Statement (.jmp w) := of_spec rfl (fun _ => rfl)
theorem brx (w : SlotWord) : Statement (.brx w) := of_spec rfl (fun _ => rfl)
theorem call (w : SlotWord) : Statement (.call w) := of_spec rfl (fun _ => rfl)
theorem ret (w : SlotWord) : Statement (.ret w) := of_spec rfl (fun _ => rfl)
theorem exit (w : SlotWord) : Statement (.exit w) := of_spec rfl (fun _ => rfl)
theorem barSync (w : SlotWord) : Statement (.barSync w) := of_spec rfl (fun h => of_bar0 h)
theorem barArrive (w : SlotWord) : Statement (.barArrive w) := of_spec rfl (fun h => of_bar1 h)
theorem barWait (w : SlotWord) : Statement (.barWait w) := of_spec rfl (fun h => of_bar2 h)
theorem gate (w : SlotWord) : Statement (.gate w) := of_spec rfl (fun _ => rfl)
theorem release (w : SlotWord) : Statement (.release w) := of_spec rfl (fun _ => rfl)
theorem trap (w : SlotWord) : Statement (.trap w) := of_spec rfl (fun _ => rfl)
theorem ld (w : SlotWord) : Statement (.ld w) := of_spec rfl (fun _ => rfl)
theorem st (w : SlotWord) : Statement (.st w) := of_spec rfl (fun _ => rfl)
theorem atom (w : SlotWord) : Statement (.atom w) := of_spec rfl (fun _ => rfl)
theorem cas (w : SlotWord) : Statement (.cas w) := of_spec rfl (fun _ => rfl)
theorem cas2 (w : SlotWord) : Statement (.cas2 w) := of_spec rfl (fun _ => rfl)
theorem fence (w : SlotWord) : Statement (.fence w) := of_spec rfl (fun _ => rfl)
theorem sptest (w : SlotWord) : Statement (.sptest w) := of_spec rfl (fun _ => rfl)
theorem spcastTo (w : SlotWord) : Statement (.spcastTo w) := of_spec rfl (fun h => of_mod0 h)
theorem spcastFrom (w : SlotWord) : Statement (.spcastFrom w) := of_spec rfl (fun h => of_mod1 h)
theorem pref (w : SlotWord) : Statement (.pref w) := of_spec rfl (fun _ => rfl)
theorem gth (w : SlotWord) : Statement (.gth w) := of_spec rfl (fun _ => rfl)
theorem sct (w : SlotWord) : Statement (.sct w) := of_spec rfl (fun _ => rfl)
theorem mtld (w : SlotWord) : Statement (.mtld w) := of_spec rfl (fun _ => rfl)
theorem mtst (w : SlotWord) : Statement (.mtst w) := of_spec rfl (fun _ => rfl)
theorem shfl (w : SlotWord) : Statement (.shfl w) := of_spec rfl (fun _ => rfl)
theorem lpush (w : SlotWord) : Statement (.lpush w) := of_spec rfl (fun _ => rfl)
theorem vote (w : SlotWord) : Statement (.vote w) := of_spec rfl (fun _ => rfl)
theorem gscan (w : SlotWord) : Statement (.gscan w) := of_spec rfl (fun _ => rfl)
theorem gred (w : SlotWord) : Statement (.gred w) := of_spec rfl (fun _ => rfl)
theorem gbcast (w : SlotWord) : Statement (.gbcast w) := of_spec rfl (fun _ => rfl)
theorem gmatch (w : SlotWord) : Statement (.gmatch w) := of_spec rfl (fun _ => rfl)
theorem xbegin (w : SlotWord) : Statement (.xbegin w) := of_spec rfl (fun _ => rfl)
theorem xround (w : SlotWord) : Statement (.xround w) := of_spec rfl (fun _ => rfl)
theorem xsegred (w : SlotWord) : Statement (.xsegred w) := of_spec rfl (fun _ => rfl)
theorem xend (w : SlotWord) : Statement (.xend w) := of_spec rfl (fun _ => rfl)
theorem mxop (w : SlotWord) : Statement (.mxop w) := of_spec rfl (fun _ => rfl)
theorem mxzero (w : SlotWord) : Statement (.mxzero w) := of_spec rfl (fun _ => rfl)
theorem mxld (w : SlotWord) : Statement (.mxld w) := of_spec rfl (fun _ => rfl)
theorem mxrd (w : SlotWord) : Statement (.mxrd w) := of_spec rfl (fun _ => rfl)
theorem mxst (w : SlotWord) : Statement (.mxst w) := of_spec rfl (fun _ => rfl)
theorem mxrel (w : SlotWord) : Statement (.mxrel w) := of_spec rfl (fun _ => rfl)
theorem mxinfo (w : SlotWord) : Statement (.mxinfo w) := of_spec rfl (fun _ => rfl)
theorem cpy (w : SlotWord) : Statement (.cpy w) := of_spec rfl (fun _ => rfl)
theorem cpyms (w : SlotWord) : Statement (.cpyms w) := of_spec rfl (fun _ => rfl)
theorem cpysm (w : SlotWord) : Statement (.cpysm w) := of_spec rfl (fun _ => rfl)
theorem cpyss (w : SlotWord) : Statement (.cpyss w) := of_spec rfl (fun _ => rfl)
theorem cpymc (w : SlotWord) : Statement (.cpymc w) := of_spec rfl (fun _ => rfl)
theorem sget (w : SlotWord) : Statement (.sget w) := of_spec rfl (fun _ => rfl)
theorem sput (w : SlotWord) : Statement (.sput w) := of_spec rfl (fun _ => rfl)
theorem sclose (w : SlotWord) : Statement (.sclose w) := of_spec rfl (fun _ => rfl)
theorem chdone (w : SlotWord) : Statement (.chdone w) := of_spec rfl (fun _ => rfl)
theorem ewait (w : SlotWord) : Statement (.ewait w) := of_spec rfl (fun _ => rfl)
theorem agcfg (w : SlotWord) : Statement (.agcfg w) := of_spec rfl (fun _ => rfl)
theorem recalloc (w : SlotWord) : Statement (.recalloc w) := of_spec rfl (fun _ => rfl)
theorem recw (w : SlotWord) : Statement (.recw w) := of_spec rfl (fun _ => rfl)
theorem recrd (w : SlotWord) : Statement (.recrd w) := of_spec rfl (fun _ => rfl)
theorem recemit (w : SlotWord) : Statement (.recemit w) := of_spec rfl (fun _ => rfl)
theorem recinfo (w : SlotWord) : Statement (.recinfo w) := of_spec rfl (fun _ => rfl)
theorem nop (w : SlotWord) : Statement (.nop w) := of_spec rfl (fun _ => rfl)
theorem rdclk (w : SlotWord) : Statement (.rdclk w) := of_spec rfl (fun _ => rfl)
theorem rdctr (w : SlotWord) : Statement (.rdctr w) := of_spec rfl (fun _ => rfl)
theorem sysrd (w : SlotWord) : Statement (.sysrd w) := of_spec rfl (fun _ => rfl)
theorem syswr (w : SlotWord) : Statement (.syswr w) := of_spec rfl (fun _ => rfl)
theorem brk (w : SlotWord) : Statement (.brk w) := of_spec rfl (fun _ => rfl)
theorem hint (w : SlotWord) : Statement (.hint w) := of_spec rfl (fun _ => rfl)
theorem fltrd (w : SlotWord) : Statement (.fltrd w) := of_spec rfl (fun h => of_mod0 h)
theorem fltrdClr (w : SlotWord) : Statement (.fltrdClr w) := of_spec rfl (fun h => of_mod1 h)
theorem faultedDrained (core thread : Nat) : Statement (.faultedDrained core thread) := of_none rfl
theorem admitWorkgroup (launch cluster : Nat) : Statement (.admitWorkgroup launch cluster) := of_none rfl
theorem gangSnapshot (core : Nat) : Statement (.gangSnapshot core) := of_none rfl
theorem tokenArrival (core index : Nat) : Statement (.tokenArrival core index) := of_none rfl
theorem elementIssue (core elem : Nat) : Statement (.elementIssue core elem) := of_none rfl
theorem creditReturn (core index : Nat) : Statement (.creditReturn core index) := of_none rfl
theorem loopIssue (core elem slot : Nat) : Statement (.loopIssue core elem slot) := of_none rfl
theorem tagStarve (core index : Nat) : Statement (.tagStarve core index) := of_none rfl
theorem matrixAccept (core : Nat) : Statement (.matrixAccept core) := of_none rfl
theorem matrixExecuteComplete (core : Nat) : Statement (.matrixExecuteComplete core) := of_none rfl
theorem accExhausted (core : Nat) : Statement (.accExhausted core) := of_none rfl
theorem engineOperationComplete (core transfer : Nat) : Statement (.engineOperationComplete core transfer) := of_none rfl
theorem copyBurst (core transfer : Nat) : Statement (.copyBurst core transfer) := of_none rfl
theorem remoteUnreachable (device : Nat) : Statement (.remoteUnreachable device) := of_none rfl
theorem pinWatchdog (core : Nat) : Statement (.pinWatchdog core) := of_none rfl
theorem waitWatchdog (core index : Nat) : Statement (.waitWatchdog core index) := of_none rfl
theorem switchBegin (core : Nat) : Statement (.switchBegin core) := of_none rfl
theorem flip (core : Nat) : Statement (.flip core) := of_none rfl
theorem decodeStart (core : Nat) : Statement (.decodeStart core) := of_none rfl
theorem decodeReady (core : Nat) : Statement (.decodeReady core) := of_none rfl
theorem configCacheFill (core : Nat) : Statement (.configCacheFill core) := of_none rfl
theorem validateKernel (core launch : Nat) : Statement (.validateKernel core launch) := of_none rfl
theorem tileRequestService (core bank : Nat) : Statement (.tileRequestService core bank) := of_none rfl
theorem cacheFill (core line mask : Nat) : Statement (.cacheFill core line mask) := of_none rfl
theorem l2Store (core addr width : Nat) (value : BitVec 64) : Statement (.l2Store core addr width value) := of_none rfl
theorem gets (die line mask : Nat) : Statement (.gets die line mask) := of_none rfl
theorem getm (die line mask : Nat) : Statement (.getm die line mask) := of_none rfl
theorem putm (die line mask : Nat) : Statement (.putm die line mask) := of_none rfl
theorem puts (die line mask : Nat) : Statement (.puts die line mask) := of_none rfl
theorem invalidation (die line mask : Nat) : Statement (.invalidation die line mask) := of_none rfl
theorem backInvalidationSnoop (die line half : Nat) : Statement (.backInvalidationSnoop die line half) := of_none rfl
theorem hostHalfRequest (line half : Nat) : Statement (.hostHalfRequest line half) := of_none rfl
theorem patrolScrub (line : Nat) : Statement (.patrolScrub line) := of_none rfl
theorem tableWalk (core ctx va : Nat) (kind : AccessKind) : Statement (.tableWalk core ctx va kind) := of_none rfl
theorem atsResponse (die ctx va : Nat) (answer : AtsAnswer) : Statement (.atsResponse die ctx va answer) := of_none rfl
theorem priResponse (ctx va : Nat) (answer : PriAnswer) : Statement (.priResponse ctx va answer) := of_none rfl
theorem atsInvalidateRequest (pasid va : Nat) (all : Bool) : Statement (.atsInvalidateRequest pasid va all) := of_none rfl
theorem fqResume (seq : BitVec 32) : Statement (.fqResume seq) := of_none rfl
theorem fqRdWrite (seq : BitVec 32) : Statement (.fqRdWrite seq) := of_none rfl
theorem fqStatRead (acc : RegAccess) : Statement (.fqStatRead acc) := of_none rfl
theorem xltInv (value : BitVec 64) : Statement (.xltInv value) := of_none rfl
theorem dqPush (value : BitVec 64) : Statement (.dqPush value) := of_none rfl
theorem dqPop (acc : RegAccess) : Statement (.dqPop acc) := of_none rfl
theorem dqStatClear (value : BitVec 64) : Statement (.dqStatClear value) := of_none rfl
theorem loadPreempt (launch : Nat) : Statement (.loadPreempt launch) := of_none rfl
theorem workgroupPreempt (launch : Nat) : Statement (.workgroupPreempt launch) := of_none rfl
theorem launchPreempt (queue : Nat) : Statement (.launchPreempt queue) := of_none rfl
theorem restore (launch : Nat) : Statement (.restore launch) := of_none rfl
theorem quantumExpiry (queue : Nat) : Statement (.quantumExpiry queue) := of_none rfl
theorem notify (queue : Nat) (index : BitVec 64) : Statement (.notify queue index) := of_none rfl
theorem qctlEnable (queue : Nat) : Statement (.qctlEnable queue) := of_none rfl
theorem qctlDisable (queue : Nat) : Statement (.qctlDisable queue) := of_none rfl
theorem packetHeaderPoll (queue : Nat) : Statement (.packetHeaderPoll queue) := of_none rfl
theorem packetNop (queue : Nat) : Statement (.packetNop queue) := of_none rfl
theorem packetLaunch (queue : Nat) : Statement (.packetLaunch queue) := of_none rfl
theorem packetGraph (queue : Nat) : Statement (.packetGraph queue) := of_none rfl
theorem packetCopy (queue : Nat) : Statement (.packetCopy queue) := of_none rfl
theorem packetWaitsig (queue : Nat) : Statement (.packetWaitsig queue) := of_none rfl
theorem packetBarrierAnd (queue : Nat) : Statement (.packetBarrierAnd queue) := of_none rfl
theorem packetRetire (queue : Nat) : Statement (.packetRetire queue) := of_none rfl
theorem launchComplete (launch : Nat) : Statement (.launchComplete launch) := of_none rfl
theorem eventToken (index : Nat) : Statement (.eventToken index) := of_none rfl
theorem firmwareTimer (timer : Nat) : Statement (.firmwareTimer timer) := of_none rfl
theorem hevStatRead (acc : RegAccess) : Statement (.hevStatRead acc) := of_none rfl
theorem lmbGo (value : BitVec 64) : Statement (.lmbGo value) := of_none rfl
theorem lmbStatRead (acc : RegAccess) : Statement (.lmbStatRead acc) := of_none rfl
theorem fenceCore (unit : Nat) (reason : Nat) : Statement (.fenceCore unit reason) := of_none rfl
theorem fenceCluster (unit : Nat) (reason : Nat) : Statement (.fenceCluster unit reason) := of_none rfl
theorem fenceStack (unit : Nat) (reason : Nat) : Statement (.fenceStack unit reason) := of_none rfl
theorem fencePort (unit : Nat) (reason : Nat) : Statement (.fencePort unit reason) := of_none rfl
theorem functionReady (bit : Nat) : Statement (.functionReady bit) := of_none rfl
theorem bootCmd (value : BitVec 64) : Statement (.bootCmd value) := of_none rfl
theorem ownerCommand (cmd : OwnerCmd) : Statement (.ownerCommand cmd) := of_none rfl
theorem attCmd (value : BitVec 64) : Statement (.attCmd value) := of_none rfl
theorem thermalCrossing (sensor lid jmax : Nat) (up : Bool) : Statement (.thermalCrossing sensor lid jmax up) := of_none rfl
theorem thermalShutdown (sensor lid jmax : Nat) (junction : Bool) : Statement (.thermalShutdown sensor lid jmax junction) := of_none rfl
theorem muwinPortState (port state peer lanes : Nat) : Statement (.muwinPortState port state peer lanes) := of_none rfl
theorem mwpStatRead (port : Nat) (acc : RegAccess) : Statement (.mwpStatRead port acc) := of_none rfl
theorem flitReplay (port : Nat) : Statement (.flitReplay port) := of_none rfl
theorem scTicket (core index : Nat) : Statement (.scTicket core index) := of_none rfl
theorem launcherTick (die : Nat) : Statement (.launcherTick die) := of_none rfl
theorem recordPoolExhausted (core index : Nat) : Statement (.recordPoolExhausted core index) := of_none rfl
theorem graphComplete (launch : Nat) : Statement (.graphComplete launch) := of_none rfl
theorem graphPreempt (launch : Nat) (depth : PreemptDepth) : Statement (.graphPreempt launch depth) := of_none rfl
theorem registerWrite (offset size : Nat) (value : Option (BitVec 64)) : Statement (.registerWrite offset size value) := of_none rfl
theorem hostBar2Access (offset : Nat) (op : MemOp) : Statement (.hostBar2Access offset op) := of_none rfl
theorem muwinPeerAccess (addr : Nat) (op : MemOp) : Statement (.muwinPeerAccess addr op) := of_none rfl
theorem thermalSensorLost (sensor : Nat) : Statement (.thermalSensorLost sensor) := of_none rfl
theorem deferredRecordWrite : Statement .deferredRecordWrite := of_none rfl
theorem xltInvDone : Statement .xltInvDone := of_none rfl
theorem pageRelease : Statement .pageRelease := of_none rfl
theorem coldReset : Statement .coldReset := of_none rfl
theorem warmReset : Statement .warmReset := of_none rfl
theorem quoteComplete : Statement .quoteComplete := of_none rfl
theorem governorTick : Statement .governorTick := of_none rfl
theorem powerLoss : Statement .powerLoss := of_none rfl
theorem eventTokenRetry : Statement .eventTokenRetry := of_none rfl

end Sys2Proof.Laws.Encoding
end

