-- ==== Sys2Proof/Laws/State.lean ====
section
/-! SUPPORT. What the named updates of the state do to each field, one lemma a field, so that no proof unfolds a record update. -/

namespace Sys2Proof.Machine

/-! ### A core's threads -/

@[simp] theorem Core.onThread_parts (c : Core) (t f) : (c.onThread t f).parts = c.parts := rfl
@[simp] theorem Core.onThread_rows (c : Core) (t f) : (c.onThread t f).rows = c.rows := rfl
@[simp] theorem Core.onThread_reserves (c : Core) (t f) : (c.onThread t f).reserves = c.reserves := rfl
@[simp] theorem Core.onThread_planeA (c : Core) (t f) : (c.onThread t f).planeA = c.planeA := rfl
@[simp] theorem Core.onThread_planeB (c : Core) (t f) : (c.onThread t f).planeB = c.planeB := rfl
@[simp] theorem Core.onThread_activeB (c : Core) (t f) : (c.onThread t f).activeB = c.activeB := rfl
@[simp] theorem Core.onThread_switchTo (c : Core) (t f) : (c.onThread t f).switchTo = c.switchTo := rfl
@[simp] theorem Core.onThread_decoding (c : Core) (t f) : (c.onThread t f).decoding = c.decoding := rfl
@[simp] theorem Core.onThread_validating (c : Core) (t f) : (c.onThread t f).validating = c.validating := rfl
@[simp] theorem Core.onThread_activeSince (c : Core) (t f) : (c.onThread t f).activeSince = c.activeSince := rfl
@[simp] theorem Core.onThread_spans (c : Core) (t f) : (c.onThread t f).spans = c.spans := rfl
@[simp] theorem Core.onThread_nextSpan (c : Core) (t f) : (c.onThread t f).nextSpan = c.nextSpan := rfl
@[simp] theorem Core.onThread_flights (c : Core) (t f) : (c.onThread t f).flights = c.flights := rfl
@[simp] theorem Core.onThread_lines (c : Core) (t f) : (c.onThread t f).lines = c.lines := rfl
@[simp] theorem Core.onThread_pendings (c : Core) (t f) : (c.onThread t f).pendings = c.pendings := rfl
@[simp] theorem Core.onThread_blocks (c : Core) (t f) : (c.onThread t f).blocks = c.blocks := rfl
@[simp] theorem Core.onThread_merges (c : Core) (t f) : (c.onThread t f).merges = c.merges := rfl
@[simp] theorem Core.onThread_rq (c : Core) (t f) : (c.onThread t f).rq = c.rq := rfl
@[simp] theorem Core.onThread_parked (c : Core) (t f) : (c.onThread t f).parked = c.parked := rfl
@[simp] theorem Core.onThread_headers (c : Core) (t f) : (c.onThread t f).headers = c.headers := rfl
@[simp] theorem Core.onThread_loops (c : Core) (t f) : (c.onThread t f).loops = c.loops := rfl
@[simp] theorem Core.onThread_groups (c : Core) (t f) : (c.onThread t f).groups = c.groups := rfl
@[simp] theorem Core.onThread_xctxs (c : Core) (t f) : (c.onThread t f).xctxs = c.xctxs := rfl
@[simp] theorem Core.onThread_nextCtx (c : Core) (t f) : (c.onThread t f).nextCtx = c.nextCtx := rfl
@[simp] theorem Core.onThread_mxSent (c : Core) (t f) : (c.onThread t f).mxSent = c.mxSent := rfl
@[simp] theorem Core.onThread_mxQueue (c : Core) (t f) : (c.onThread t f).mxQueue = c.mxQueue := rfl
@[simp] theorem Core.onThread_mxHold (c : Core) (t f) : (c.onThread t f).mxHold = c.mxHold := rfl
@[simp] theorem Core.onThread_feeds (c : Core) (t f) : (c.onThread t f).feeds = c.feeds := rfl
@[simp] theorem Core.onThread_feedNext (c : Core) (t f) : (c.onThread t f).feedNext = c.feedNext := rfl
@[simp] theorem Core.onThread_transfers (c : Core) (t f) : (c.onThread t f).transfers = c.transfers := rfl
@[simp] theorem Core.onThread_nextTransfer (c : Core) (t f) : (c.onThread t f).nextTransfer = c.nextTransfer := rfl
@[simp] theorem Core.onThread_ports (c : Core) (t f) : (c.onThread t f).ports = c.ports := rfl
@[simp] theorem Core.onThread_chans (c : Core) (t f) : (c.onThread t f).chans = c.chans := rfl
@[simp] theorem Core.onThread_ags (c : Core) (t f) : (c.onThread t f).ags = c.ags := rfl
@[simp] theorem Core.onThread_tiles (c : Core) (t f) : (c.onThread t f).tiles = c.tiles := rfl
@[simp] theorem Core.onThread_tilePoison (c : Core) (t f) : (c.onThread t f).tilePoison = c.tilePoison := rfl
@[simp] theorem Core.onThread_tileReqs (c : Core) (t f) : (c.onThread t f).tileReqs = c.tileReqs := rfl
@[simp] theorem Core.onThread_acc (c : Core) (t f) : (c.onThread t f).acc = c.acc := rfl
@[simp] theorem Core.onThread_accFree (c : Core) (t f) : (c.onThread t f).accFree = c.accFree := rfl
@[simp] theorem Core.onThread_ksched (c : Core) (t f) : (c.onThread t f).ksched = c.ksched := rfl
@[simp] theorem Core.onThread_kpwr (c : Core) (t f) : (c.onThread t f).kpwr = c.kpwr := rfl
@[simp] theorem Core.onThread_kwdog (c : Core) (t f) : (c.onThread t f).kwdog = c.kwdog := rfl
@[simp] theorem Core.onThread_kstat (c : Core) (t f) : (c.onThread t f).kstat = c.kstat := rfl
@[simp] theorem Core.onThread_admitCycles (c : Core) (t f) : (c.onThread t f).admitCycles = c.admitCycles := rfl
@[simp] theorem Core.onThread_l1 (c : Core) (t f) : (c.onThread t f).l1 = c.l1 := rfl
@[simp] theorem Core.onThread_utlb (c : Core) (t f) : (c.onThread t f).utlb = c.utlb := rfl
@[simp] theorem Core.onThread_cache (c : Core) (t f) : (c.onThread t f).cache = c.cache := rfl
@[simp] theorem Core.onThread_validated (c : Core) (t f) : (c.onThread t f).validated = c.validated := rfl
@[simp] theorem Core.onThread_idleSince (c : Core) (t f) : (c.onThread t f).idleSince = c.idleSince := rfl
@[simp] theorem Core.onThread_retries (c : Core) (t f) : (c.onThread t f).retries = c.retries := rfl
@[simp] theorem Core.onThread_keptSpads (c : Core) (t f) : (c.onThread t f).keptSpads = c.keptSpads := rfl
@[simp] theorem Core.onThread_round (c : Core) (t f) : (c.onThread t f).round = c.round := rfl
@[simp] theorem Core.onThread_lastTurn (c : Core) (t f) : (c.onThread t f).lastTurn = c.lastTurn := rfl
@[simp] theorem Core.onThread_overflows (c : Core) (t f) : (c.onThread t f).overflows = c.overflows := rfl
@[simp] theorem Core.onThread_tileWritten (c : Core) (t f) : (c.onThread t f).tileWritten = c.tileWritten := rfl
@[simp] theorem Core.onThread_misses (c : Core) (t f) : (c.onThread t f).misses = c.misses := rfl

@[simp] theorem Core.onThread_thread_same (c : Core) (t : Nat) (f) : (c.onThread t f).thread t = f (c.thread t) := by
  unfold Core.thread Core.onThread
  simp [Table.look_put_same, Core.thread]

theorem Core.onThread_thread_other (c : Core) (t u : Nat) (f) (h : u ≠ t) : (c.onThread t f).thread u = c.thread u := by
  unfold Core.thread Core.onThread
  simp [Table.look_put_other _ _ _ _ h]

/-! ### Cores of the machine -/

@[simp] theorem State.setCore_core_same (s : State) (k : Nat) (c : Core) : (s.setCore k c).core k = c := by
  unfold State.core State.setCore
  simp [Table.look_put_same]

theorem State.setCore_core_other (s : State) (k j : Nat) (c : Core) (h : j ≠ k) : (s.setCore k c).core j = s.core j := by
  unfold State.core State.setCore
  simp [Table.look_put_other _ _ _ _ h]

@[simp] theorem State.onCore_core_same (s : State) (k : Nat) (f) : (s.onCore k f).core k = f (s.core k) :=
  State.setCore_core_same s k _

theorem State.onCore_core_other (s : State) (k j : Nat) (f) (h : j ≠ k) : (s.onCore k f).core j = s.core j :=
  State.setCore_core_other s k j _ h

@[simp] theorem State.onThread_thread_same (s : State) (k t : Nat) (f) :
    (s.onThread k t f).thread k t = f (s.thread k t) := by
  simp [State.thread, State.onThread]

theorem State.onThread_core_other (s : State) (k j t : Nat) (f) (h : j ≠ k) : (s.onThread k t f).core j = s.core j :=
  State.onCore_core_other s k j _ h


/-! ### `State.setCore` -/

@[simp] theorem State.setCore_fire (s : State) (k c) : (s.setCore k c).fire = s.fire := rfl
@[simp] theorem State.setCore_ready (s : State) (k c) : (s.setCore k c).ready = s.ready := rfl
@[simp] theorem State.setCore_inbox (s : State) (k c) : (s.setCore k c).inbox = s.inbox := rfl
@[simp] theorem State.setCore_waiting (s : State) (k c) : (s.setCore k c).waiting = s.waiting := rfl
@[simp] theorem State.setCore_stepNo (s : State) (k c) : (s.setCore k c).stepNo = s.stepNo := rfl
@[simp] theorem State.setCore_time (s : State) (k c) : (s.setCore k c).time = s.time := rfl
@[simp] theorem State.setCore_warmAt (s : State) (k c) : (s.setCore k c).warmAt = s.warmAt := rfl
@[simp] theorem State.setCore_mem (s : State) (k c) : (s.setCore k c).mem = s.mem := rfl
@[simp] theorem State.setCore_memPoison (s : State) (k c) : (s.setCore k c).memPoison = s.memPoison := rfl
@[simp] theorem State.setCore_badBursts (s : State) (k c) : (s.setCore k c).badBursts = s.badBursts := rfl
@[simp] theorem State.setCore_access (s : State) (k c) : (s.setCore k c).access = s.access := rfl
@[simp] theorem State.setCore_detected (s : State) (k c) : (s.setCore k c).detected = s.detected := rfl
@[simp] theorem State.setCore_l2 (s : State) (k c) : (s.setCore k c).l2 = s.l2 := rfl
@[simp] theorem State.setCore_l2Lines (s : State) (k c) : (s.setCore k c).l2Lines = s.l2Lines := rfl
@[simp] theorem State.setCore_directory (s : State) (k c) : (s.setCore k c).directory = s.directory := rfl
@[simp] theorem State.setCore_hostHalves (s : State) (k c) : (s.setCore k c).hostHalves = s.hostHalves := rfl
@[simp] theorem State.setCore_hostMem (s : State) (k c) : (s.setCore k c).hostMem = s.hostMem := rfl
@[simp] theorem State.setCore_remoteMem (s : State) (k c) : (s.setCore k c).remoteMem = s.remoteMem := rfl
@[simp] theorem State.setCore_remoteL2 (s : State) (k c) : (s.setCore k c).remoteL2 = s.remoteL2 := rfl
@[simp] theorem State.setCore_kernels (s : State) (k c) : (s.setCore k c).kernels = s.kernels := rfl
@[simp] theorem State.setCore_launches (s : State) (k c) : (s.setCore k c).launches = s.launches := rfl
@[simp] theorem State.setCore_wgs (s : State) (k c) : (s.setCore k c).wgs = s.wgs := rfl
@[simp] theorem State.setCore_queues (s : State) (k c) : (s.setCore k c).queues = s.queues := rfl
@[simp] theorem State.setCore_graphs (s : State) (k c) : (s.setCore k c).graphs = s.graphs := rfl
@[simp] theorem State.setCore_saved (s : State) (k c) : (s.setCore k c).saved = s.saved := rfl
@[simp] theorem State.setCore_rotation (s : State) (k c) : (s.setCore k c).rotation = s.rotation := rfl
@[simp] theorem State.setCore_nextLauncher (s : State) (k c) : (s.setCore k c).nextLauncher = s.nextLauncher := rfl
@[simp] theorem State.setCore_lastTick (s : State) (k c) : (s.setCore k c).lastTick = s.lastTick := rfl
@[simp] theorem State.setCore_lmbRec (s : State) (k c) : (s.setCore k c).lmbRec = s.lmbRec := rfl
@[simp] theorem State.setCore_lmbCtl (s : State) (k c) : (s.setCore k c).lmbCtl = s.lmbCtl := rfl
@[simp] theorem State.setCore_lmbIdx (s : State) (k c) : (s.setCore k c).lmbIdx = s.lmbIdx := rfl
@[simp] theorem State.setCore_lmbSig (s : State) (k c) : (s.setCore k c).lmbSig = s.lmbSig := rfl
@[simp] theorem State.setCore_lmbResult (s : State) (k c) : (s.setCore k c).lmbResult = s.lmbResult := rfl
@[simp] theorem State.setCore_lmbBusy (s : State) (k c) : (s.setCore k c).lmbBusy = s.lmbBusy := rfl
@[simp] theorem State.setCore_fqBase (s : State) (k c) : (s.setCore k c).fqBase = s.fqBase := rfl
@[simp] theorem State.setCore_fqCtl (s : State) (k c) : (s.setCore k c).fqCtl = s.fqCtl := rfl
@[simp] theorem State.setCore_fqWr (s : State) (k c) : (s.setCore k c).fqWr = s.fqWr := rfl
@[simp] theorem State.setCore_fqRd (s : State) (k c) : (s.setCore k c).fqRd = s.fqRd := rfl
@[simp] theorem State.setCore_fqDrop (s : State) (k c) : (s.setCore k c).fqDrop = s.fqDrop := rfl
@[simp] theorem State.setCore_deferred (s : State) (k c) : (s.setCore k c).deferred = s.deferred := rfl
@[simp] theorem State.setCore_holds (s : State) (k c) : (s.setCore k c).holds = s.holds := rfl
@[simp] theorem State.setCore_nextHold (s : State) (k c) : (s.setCore k c).nextHold = s.nextHold := rfl
@[simp] theorem State.setCore_walkQueue (s : State) (k c) : (s.setCore k c).walkQueue = s.walkQueue := rfl
@[simp] theorem State.setCore_ats (s : State) (k c) : (s.setCore k c).ats = s.ats := rfl
@[simp] theorem State.setCore_priPages (s : State) (k c) : (s.setCore k c).priPages = s.priPages := rfl
@[simp] theorem State.setCore_atsInv (s : State) (k c) : (s.setCore k c).atsInv = s.atsInv := rfl
@[simp] theorem State.setCore_atsDone (s : State) (k c) : (s.setCore k c).atsDone = s.atsDone := rfl
@[simp] theorem State.setCore_xltCtxBase (s : State) (k c) : (s.setCore k c).xltCtxBase = s.xltCtxBase := rfl
@[simp] theorem State.setCore_xltInv (s : State) (k c) : (s.setCore k c).xltInv = s.xltInv := rfl
@[simp] theorem State.setCore_clusterTlb (s : State) (k c) : (s.setCore k c).clusterTlb = s.clusterTlb := rfl
@[simp] theorem State.setCore_dieTlb (s : State) (k c) : (s.setCore k c).dieTlb = s.dieTlb := rfl
@[simp] theorem State.setCore_epoch (s : State) (k c) : (s.setCore k c).epoch = s.epoch := rfl
@[simp] theorem State.setCore_qdone (s : State) (k c) : (s.setCore k c).qdone = s.qdone := rfl
@[simp] theorem State.setCore_dq (s : State) (k c) : (s.setCore k c).dq = s.dq := rfl
@[simp] theorem State.setCore_dqOvf (s : State) (k c) : (s.setCore k c).dqOvf = s.dqOvf := rfl
@[simp] theorem State.setCore_retiredPages (s : State) (k c) : (s.setCore k c).retiredPages = s.retiredPages := rfl
@[simp] theorem State.setCore_retireCandidates (s : State) (k c) : (s.setCore k c).retireCandidates = s.retireCandidates := rfl
@[simp] theorem State.setCore_hostcap (s : State) (k c) : (s.setCore k c).hostcap = s.hostcap := rfl
@[simp] theorem State.setCore_funcMode (s : State) (k c) : (s.setCore k c).funcMode = s.funcMode := rfl
@[simp] theorem State.setCore_funcReady (s : State) (k c) : (s.setCore k c).funcReady = s.funcReady := rfl
@[simp] theorem State.setCore_funcReadyL (s : State) (k c) : (s.setCore k c).funcReadyL = s.funcReadyL := rfl
@[simp] theorem State.setCore_fenceCores (s : State) (k c) : (s.setCore k c).fenceCores = s.fenceCores := rfl
@[simp] theorem State.setCore_fencePorts (s : State) (k c) : (s.setCore k c).fencePorts = s.fencePorts := rfl
@[simp] theorem State.setCore_fenceStacks (s : State) (k c) : (s.setCore k c).fenceStacks = s.fenceStacks := rfl
@[simp] theorem State.setCore_fencePages (s : State) (k c) : (s.setCore k c).fencePages = s.fencePages := rfl
@[simp] theorem State.setCore_replaceReq (s : State) (k c) : (s.setCore k c).replaceReq = s.replaceReq := rfl
@[simp] theorem State.setCore_memmapPart (s : State) (k c) : (s.setCore k c).memmapPart = s.memmapPart := rfl
@[simp] theorem State.setCore_devid (s : State) (k c) : (s.setCore k c).devid = s.devid := rfl
@[simp] theorem State.setCore_boardCap (s : State) (k c) : (s.setCore k c).boardCap = s.boardCap := rfl
@[simp] theorem State.setCore_govAt (s : State) (k c) : (s.setCore k c).govAt = s.govAt := rfl
@[simp] theorem State.setCore_throt (s : State) (k c) : (s.setCore k c).throt = s.throt := rfl
@[simp] theorem State.setCore_jmax (s : State) (k c) : (s.setCore k c).jmax = s.jmax := rfl
@[simp] theorem State.setCore_lid (s : State) (k c) : (s.setCore k c).lid = s.lid := rfl
@[simp] theorem State.setCore_retiredReg (s : State) (k c) : (s.setCore k c).retiredReg = s.retiredReg := rfl
@[simp] theorem State.setCore_bar2Base (s : State) (k c) : (s.setCore k c).bar2Base = s.bar2Base := rfl
@[simp] theorem State.setCore_mwOrd (s : State) (k c) : (s.setCore k c).mwOrd = s.mwOrd := rfl
@[simp] theorem State.setCore_hostData (s : State) (k c) : (s.setCore k c).hostData = s.hostData := rfl
@[simp] theorem State.setCore_hostPoison (s : State) (k c) : (s.setCore k c).hostPoison = s.hostPoison := rfl
@[simp] theorem State.setCore_peerData (s : State) (k c) : (s.setCore k c).peerData = s.peerData := rfl
@[simp] theorem State.setCore_peerPoison (s : State) (k c) : (s.setCore k c).peerPoison = s.peerPoison := rfl
@[simp] theorem State.setCore_evPending (s : State) (k c) : (s.setCore k c).evPending = s.evPending := rfl
@[simp] theorem State.setCore_evStore (s : State) (k c) : (s.setCore k c).evStore = s.evStore := rfl
@[simp] theorem State.setCore_evPairs (s : State) (k c) : (s.setCore k c).evPairs = s.evPairs := rfl
@[simp] theorem State.setCore_hevBase (s : State) (k c) : (s.setCore k c).hevBase = s.hevBase := rfl
@[simp] theorem State.setCore_hevCtl (s : State) (k c) : (s.setCore k c).hevCtl = s.hevCtl := rfl
@[simp] theorem State.setCore_hevWr (s : State) (k c) : (s.setCore k c).hevWr = s.hevWr := rfl
@[simp] theorem State.setCore_hevRd (s : State) (k c) : (s.setCore k c).hevRd = s.hevRd := rfl
@[simp] theorem State.setCore_hevDrop (s : State) (k c) : (s.setCore k c).hevDrop = s.hevDrop := rfl
@[simp] theorem State.setCore_msix (s : State) (k c) : (s.setCore k c).msix = s.msix := rfl
@[simp] theorem State.setCore_archive (s : State) (k c) : (s.setCore k c).archive = s.archive := rfl
@[simp] theorem State.setCore_archWr (s : State) (k c) : (s.setCore k c).archWr = s.archWr := rfl
@[simp] theorem State.setCore_keySlots (s : State) (k c) : (s.setCore k c).keySlots = s.keySlots := rfl
@[simp] theorem State.setCore_bootStatus (s : State) (k c) : (s.setCore k c).bootStatus = s.bootStatus := rfl
@[simp] theorem State.setCore_recovery (s : State) (k c) : (s.setCore k c).recovery = s.recovery := rfl
@[simp] theorem State.setCore_flash (s : State) (k c) : (s.setCore k c).flash = s.flash := rfl
@[simp] theorem State.setCore_meas (s : State) (k c) : (s.setCore k c).meas = s.meas := rfl
@[simp] theorem State.setCore_nonce (s : State) (k c) : (s.setCore k c).nonce = s.nonce := rfl
@[simp] theorem State.setCore_attCmd (s : State) (k c) : (s.setCore k c).attCmd = s.attCmd := rfl
@[simp] theorem State.setCore_attRunning (s : State) (k c) : (s.setCore k c).attRunning = s.attRunning := rfl
@[simp] theorem State.setCore_attSig (s : State) (k c) : (s.setCore k c).attSig = s.attSig := rfl
@[simp] theorem State.setCore_bootCnt (s : State) (k c) : (s.setCore k c).bootCnt = s.bootCnt := rfl
@[simp] theorem State.setCore_ports (s : State) (k c) : (s.setCore k c).ports = s.ports := rfl
@[simp] theorem State.setCore_routes (s : State) (k c) : (s.setCore k c).routes = s.routes := rfl
@[simp] theorem State.setCore_tickets (s : State) (k c) : (s.setCore k c).tickets = s.tickets := rfl
@[simp] theorem State.setCore_silent (s : State) (k c) : (s.setCore k c).silent = s.silent := rfl
@[simp] theorem State.setCore_powered (s : State) (k c) : (s.setCore k c).powered = s.powered := rfl
@[simp] theorem State.setCore_heldInReset (s : State) (k c) : (s.setCore k c).heldInReset = s.heldInReset := rfl
@[simp] theorem State.setCore_retries (s : State) (k c) : (s.setCore k c).retries = s.retries := rfl
@[simp] theorem State.setCore_issued (s : State) (k c) : (s.setCore k c).issued = s.issued := rfl
@[simp] theorem State.setCore_hostOwned (s : State) (k c) : (s.setCore k c).hostOwned = s.hostOwned := rfl
@[simp] theorem State.setCore_remotePoison (s : State) (k c) : (s.setCore k c).remotePoison = s.remotePoison := rfl
@[simp] theorem State.setCore_lmbLow (s : State) (k c) : (s.setCore k c).lmbLow = s.lmbLow := rfl
@[simp] theorem State.setCore_hostCandidates (s : State) (k c) : (s.setCore k c).hostCandidates = s.hostCandidates := rfl
@[simp] theorem State.setCore_corrected (s : State) (k c) : (s.setCore k c).corrected = s.corrected := rfl
@[simp] theorem State.setCore_coreErrors (s : State) (k c) : (s.setCore k c).coreErrors = s.coreErrors := rfl
@[simp] theorem State.setCore_patrolAt (s : State) (k c) : (s.setCore k c).patrolAt = s.patrolAt := rfl
@[simp] theorem State.setCore_harts (s : State) (k c) : (s.setCore k c).harts = s.harts := rfl
@[simp] theorem State.setCore_sram (s : State) (k c) : (s.setCore k c).sram = s.sram := rfl
@[simp] theorem State.setCore_bootLow (s : State) (k c) : (s.setCore k c).bootLow = s.bootLow := rfl
@[simp] theorem State.setCore_ticking (s : State) (k c) : (s.setCore k c).ticking = s.ticking := rfl
@[simp] theorem State.setCore_stopAsked (s : State) (k c) : (s.setCore k c).stopAsked = s.stopAsked := rfl
@[simp] theorem State.setCore_dqLow (s : State) (k c) : (s.setCore k c).dqLow = s.dqLow := rfl
@[simp] theorem State.setCore_copies (s : State) (k c) : (s.setCore k c).copies = s.copies := rfl

/-! ### `State.onCore` -/

@[simp] theorem State.onCore_fire (s : State) (k f) : (s.onCore k f).fire = s.fire := rfl
@[simp] theorem State.onCore_ready (s : State) (k f) : (s.onCore k f).ready = s.ready := rfl
@[simp] theorem State.onCore_inbox (s : State) (k f) : (s.onCore k f).inbox = s.inbox := rfl
@[simp] theorem State.onCore_waiting (s : State) (k f) : (s.onCore k f).waiting = s.waiting := rfl
@[simp] theorem State.onCore_stepNo (s : State) (k f) : (s.onCore k f).stepNo = s.stepNo := rfl
@[simp] theorem State.onCore_time (s : State) (k f) : (s.onCore k f).time = s.time := rfl
@[simp] theorem State.onCore_warmAt (s : State) (k f) : (s.onCore k f).warmAt = s.warmAt := rfl
@[simp] theorem State.onCore_mem (s : State) (k f) : (s.onCore k f).mem = s.mem := rfl
@[simp] theorem State.onCore_memPoison (s : State) (k f) : (s.onCore k f).memPoison = s.memPoison := rfl
@[simp] theorem State.onCore_badBursts (s : State) (k f) : (s.onCore k f).badBursts = s.badBursts := rfl
@[simp] theorem State.onCore_access (s : State) (k f) : (s.onCore k f).access = s.access := rfl
@[simp] theorem State.onCore_detected (s : State) (k f) : (s.onCore k f).detected = s.detected := rfl
@[simp] theorem State.onCore_l2 (s : State) (k f) : (s.onCore k f).l2 = s.l2 := rfl
@[simp] theorem State.onCore_l2Lines (s : State) (k f) : (s.onCore k f).l2Lines = s.l2Lines := rfl
@[simp] theorem State.onCore_directory (s : State) (k f) : (s.onCore k f).directory = s.directory := rfl
@[simp] theorem State.onCore_hostHalves (s : State) (k f) : (s.onCore k f).hostHalves = s.hostHalves := rfl
@[simp] theorem State.onCore_hostMem (s : State) (k f) : (s.onCore k f).hostMem = s.hostMem := rfl
@[simp] theorem State.onCore_remoteMem (s : State) (k f) : (s.onCore k f).remoteMem = s.remoteMem := rfl
@[simp] theorem State.onCore_remoteL2 (s : State) (k f) : (s.onCore k f).remoteL2 = s.remoteL2 := rfl
@[simp] theorem State.onCore_kernels (s : State) (k f) : (s.onCore k f).kernels = s.kernels := rfl
@[simp] theorem State.onCore_launches (s : State) (k f) : (s.onCore k f).launches = s.launches := rfl
@[simp] theorem State.onCore_wgs (s : State) (k f) : (s.onCore k f).wgs = s.wgs := rfl
@[simp] theorem State.onCore_queues (s : State) (k f) : (s.onCore k f).queues = s.queues := rfl
@[simp] theorem State.onCore_graphs (s : State) (k f) : (s.onCore k f).graphs = s.graphs := rfl
@[simp] theorem State.onCore_saved (s : State) (k f) : (s.onCore k f).saved = s.saved := rfl
@[simp] theorem State.onCore_rotation (s : State) (k f) : (s.onCore k f).rotation = s.rotation := rfl
@[simp] theorem State.onCore_nextLauncher (s : State) (k f) : (s.onCore k f).nextLauncher = s.nextLauncher := rfl
@[simp] theorem State.onCore_lastTick (s : State) (k f) : (s.onCore k f).lastTick = s.lastTick := rfl
@[simp] theorem State.onCore_lmbRec (s : State) (k f) : (s.onCore k f).lmbRec = s.lmbRec := rfl
@[simp] theorem State.onCore_lmbCtl (s : State) (k f) : (s.onCore k f).lmbCtl = s.lmbCtl := rfl
@[simp] theorem State.onCore_lmbIdx (s : State) (k f) : (s.onCore k f).lmbIdx = s.lmbIdx := rfl
@[simp] theorem State.onCore_lmbSig (s : State) (k f) : (s.onCore k f).lmbSig = s.lmbSig := rfl
@[simp] theorem State.onCore_lmbResult (s : State) (k f) : (s.onCore k f).lmbResult = s.lmbResult := rfl
@[simp] theorem State.onCore_lmbBusy (s : State) (k f) : (s.onCore k f).lmbBusy = s.lmbBusy := rfl
@[simp] theorem State.onCore_fqBase (s : State) (k f) : (s.onCore k f).fqBase = s.fqBase := rfl
@[simp] theorem State.onCore_fqCtl (s : State) (k f) : (s.onCore k f).fqCtl = s.fqCtl := rfl
@[simp] theorem State.onCore_fqWr (s : State) (k f) : (s.onCore k f).fqWr = s.fqWr := rfl
@[simp] theorem State.onCore_fqRd (s : State) (k f) : (s.onCore k f).fqRd = s.fqRd := rfl
@[simp] theorem State.onCore_fqDrop (s : State) (k f) : (s.onCore k f).fqDrop = s.fqDrop := rfl
@[simp] theorem State.onCore_deferred (s : State) (k f) : (s.onCore k f).deferred = s.deferred := rfl
@[simp] theorem State.onCore_holds (s : State) (k f) : (s.onCore k f).holds = s.holds := rfl
@[simp] theorem State.onCore_nextHold (s : State) (k f) : (s.onCore k f).nextHold = s.nextHold := rfl
@[simp] theorem State.onCore_walkQueue (s : State) (k f) : (s.onCore k f).walkQueue = s.walkQueue := rfl
@[simp] theorem State.onCore_ats (s : State) (k f) : (s.onCore k f).ats = s.ats := rfl
@[simp] theorem State.onCore_priPages (s : State) (k f) : (s.onCore k f).priPages = s.priPages := rfl
@[simp] theorem State.onCore_atsInv (s : State) (k f) : (s.onCore k f).atsInv = s.atsInv := rfl
@[simp] theorem State.onCore_atsDone (s : State) (k f) : (s.onCore k f).atsDone = s.atsDone := rfl
@[simp] theorem State.onCore_xltCtxBase (s : State) (k f) : (s.onCore k f).xltCtxBase = s.xltCtxBase := rfl
@[simp] theorem State.onCore_xltInv (s : State) (k f) : (s.onCore k f).xltInv = s.xltInv := rfl
@[simp] theorem State.onCore_clusterTlb (s : State) (k f) : (s.onCore k f).clusterTlb = s.clusterTlb := rfl
@[simp] theorem State.onCore_dieTlb (s : State) (k f) : (s.onCore k f).dieTlb = s.dieTlb := rfl
@[simp] theorem State.onCore_epoch (s : State) (k f) : (s.onCore k f).epoch = s.epoch := rfl
@[simp] theorem State.onCore_qdone (s : State) (k f) : (s.onCore k f).qdone = s.qdone := rfl
@[simp] theorem State.onCore_dq (s : State) (k f) : (s.onCore k f).dq = s.dq := rfl
@[simp] theorem State.onCore_dqOvf (s : State) (k f) : (s.onCore k f).dqOvf = s.dqOvf := rfl
@[simp] theorem State.onCore_retiredPages (s : State) (k f) : (s.onCore k f).retiredPages = s.retiredPages := rfl
@[simp] theorem State.onCore_retireCandidates (s : State) (k f) : (s.onCore k f).retireCandidates = s.retireCandidates := rfl
@[simp] theorem State.onCore_hostcap (s : State) (k f) : (s.onCore k f).hostcap = s.hostcap := rfl
@[simp] theorem State.onCore_funcMode (s : State) (k f) : (s.onCore k f).funcMode = s.funcMode := rfl
@[simp] theorem State.onCore_funcReady (s : State) (k f) : (s.onCore k f).funcReady = s.funcReady := rfl
@[simp] theorem State.onCore_funcReadyL (s : State) (k f) : (s.onCore k f).funcReadyL = s.funcReadyL := rfl
@[simp] theorem State.onCore_fenceCores (s : State) (k f) : (s.onCore k f).fenceCores = s.fenceCores := rfl
@[simp] theorem State.onCore_fencePorts (s : State) (k f) : (s.onCore k f).fencePorts = s.fencePorts := rfl
@[simp] theorem State.onCore_fenceStacks (s : State) (k f) : (s.onCore k f).fenceStacks = s.fenceStacks := rfl
@[simp] theorem State.onCore_fencePages (s : State) (k f) : (s.onCore k f).fencePages = s.fencePages := rfl
@[simp] theorem State.onCore_replaceReq (s : State) (k f) : (s.onCore k f).replaceReq = s.replaceReq := rfl
@[simp] theorem State.onCore_memmapPart (s : State) (k f) : (s.onCore k f).memmapPart = s.memmapPart := rfl
@[simp] theorem State.onCore_devid (s : State) (k f) : (s.onCore k f).devid = s.devid := rfl
@[simp] theorem State.onCore_boardCap (s : State) (k f) : (s.onCore k f).boardCap = s.boardCap := rfl
@[simp] theorem State.onCore_govAt (s : State) (k f) : (s.onCore k f).govAt = s.govAt := rfl
@[simp] theorem State.onCore_throt (s : State) (k f) : (s.onCore k f).throt = s.throt := rfl
@[simp] theorem State.onCore_jmax (s : State) (k f) : (s.onCore k f).jmax = s.jmax := rfl
@[simp] theorem State.onCore_lid (s : State) (k f) : (s.onCore k f).lid = s.lid := rfl
@[simp] theorem State.onCore_retiredReg (s : State) (k f) : (s.onCore k f).retiredReg = s.retiredReg := rfl
@[simp] theorem State.onCore_bar2Base (s : State) (k f) : (s.onCore k f).bar2Base = s.bar2Base := rfl
@[simp] theorem State.onCore_mwOrd (s : State) (k f) : (s.onCore k f).mwOrd = s.mwOrd := rfl
@[simp] theorem State.onCore_hostData (s : State) (k f) : (s.onCore k f).hostData = s.hostData := rfl
@[simp] theorem State.onCore_hostPoison (s : State) (k f) : (s.onCore k f).hostPoison = s.hostPoison := rfl
@[simp] theorem State.onCore_peerData (s : State) (k f) : (s.onCore k f).peerData = s.peerData := rfl
@[simp] theorem State.onCore_peerPoison (s : State) (k f) : (s.onCore k f).peerPoison = s.peerPoison := rfl
@[simp] theorem State.onCore_evPending (s : State) (k f) : (s.onCore k f).evPending = s.evPending := rfl
@[simp] theorem State.onCore_evStore (s : State) (k f) : (s.onCore k f).evStore = s.evStore := rfl
@[simp] theorem State.onCore_evPairs (s : State) (k f) : (s.onCore k f).evPairs = s.evPairs := rfl
@[simp] theorem State.onCore_hevBase (s : State) (k f) : (s.onCore k f).hevBase = s.hevBase := rfl
@[simp] theorem State.onCore_hevCtl (s : State) (k f) : (s.onCore k f).hevCtl = s.hevCtl := rfl
@[simp] theorem State.onCore_hevWr (s : State) (k f) : (s.onCore k f).hevWr = s.hevWr := rfl
@[simp] theorem State.onCore_hevRd (s : State) (k f) : (s.onCore k f).hevRd = s.hevRd := rfl
@[simp] theorem State.onCore_hevDrop (s : State) (k f) : (s.onCore k f).hevDrop = s.hevDrop := rfl
@[simp] theorem State.onCore_msix (s : State) (k f) : (s.onCore k f).msix = s.msix := rfl
@[simp] theorem State.onCore_archive (s : State) (k f) : (s.onCore k f).archive = s.archive := rfl
@[simp] theorem State.onCore_archWr (s : State) (k f) : (s.onCore k f).archWr = s.archWr := rfl
@[simp] theorem State.onCore_keySlots (s : State) (k f) : (s.onCore k f).keySlots = s.keySlots := rfl
@[simp] theorem State.onCore_bootStatus (s : State) (k f) : (s.onCore k f).bootStatus = s.bootStatus := rfl
@[simp] theorem State.onCore_recovery (s : State) (k f) : (s.onCore k f).recovery = s.recovery := rfl
@[simp] theorem State.onCore_flash (s : State) (k f) : (s.onCore k f).flash = s.flash := rfl
@[simp] theorem State.onCore_meas (s : State) (k f) : (s.onCore k f).meas = s.meas := rfl
@[simp] theorem State.onCore_nonce (s : State) (k f) : (s.onCore k f).nonce = s.nonce := rfl
@[simp] theorem State.onCore_attCmd (s : State) (k f) : (s.onCore k f).attCmd = s.attCmd := rfl
@[simp] theorem State.onCore_attRunning (s : State) (k f) : (s.onCore k f).attRunning = s.attRunning := rfl
@[simp] theorem State.onCore_attSig (s : State) (k f) : (s.onCore k f).attSig = s.attSig := rfl
@[simp] theorem State.onCore_bootCnt (s : State) (k f) : (s.onCore k f).bootCnt = s.bootCnt := rfl
@[simp] theorem State.onCore_ports (s : State) (k f) : (s.onCore k f).ports = s.ports := rfl
@[simp] theorem State.onCore_routes (s : State) (k f) : (s.onCore k f).routes = s.routes := rfl
@[simp] theorem State.onCore_tickets (s : State) (k f) : (s.onCore k f).tickets = s.tickets := rfl
@[simp] theorem State.onCore_silent (s : State) (k f) : (s.onCore k f).silent = s.silent := rfl
@[simp] theorem State.onCore_powered (s : State) (k f) : (s.onCore k f).powered = s.powered := rfl
@[simp] theorem State.onCore_heldInReset (s : State) (k f) : (s.onCore k f).heldInReset = s.heldInReset := rfl
@[simp] theorem State.onCore_retries (s : State) (k f) : (s.onCore k f).retries = s.retries := rfl
@[simp] theorem State.onCore_issued (s : State) (k f) : (s.onCore k f).issued = s.issued := rfl
@[simp] theorem State.onCore_hostOwned (s : State) (k f) : (s.onCore k f).hostOwned = s.hostOwned := rfl
@[simp] theorem State.onCore_remotePoison (s : State) (k f) : (s.onCore k f).remotePoison = s.remotePoison := rfl
@[simp] theorem State.onCore_lmbLow (s : State) (k f) : (s.onCore k f).lmbLow = s.lmbLow := rfl
@[simp] theorem State.onCore_hostCandidates (s : State) (k f) : (s.onCore k f).hostCandidates = s.hostCandidates := rfl
@[simp] theorem State.onCore_corrected (s : State) (k f) : (s.onCore k f).corrected = s.corrected := rfl
@[simp] theorem State.onCore_coreErrors (s : State) (k f) : (s.onCore k f).coreErrors = s.coreErrors := rfl
@[simp] theorem State.onCore_patrolAt (s : State) (k f) : (s.onCore k f).patrolAt = s.patrolAt := rfl
@[simp] theorem State.onCore_harts (s : State) (k f) : (s.onCore k f).harts = s.harts := rfl
@[simp] theorem State.onCore_sram (s : State) (k f) : (s.onCore k f).sram = s.sram := rfl
@[simp] theorem State.onCore_bootLow (s : State) (k f) : (s.onCore k f).bootLow = s.bootLow := rfl
@[simp] theorem State.onCore_ticking (s : State) (k f) : (s.onCore k f).ticking = s.ticking := rfl
@[simp] theorem State.onCore_stopAsked (s : State) (k f) : (s.onCore k f).stopAsked = s.stopAsked := rfl
@[simp] theorem State.onCore_dqLow (s : State) (k f) : (s.onCore k f).dqLow = s.dqLow := rfl
@[simp] theorem State.onCore_copies (s : State) (k f) : (s.onCore k f).copies = s.copies := rfl

/-! ### `State.onThread` -/

@[simp] theorem State.onThread_fire (s : State) (k t f) : (s.onThread k t f).fire = s.fire := rfl
@[simp] theorem State.onThread_ready (s : State) (k t f) : (s.onThread k t f).ready = s.ready := rfl
@[simp] theorem State.onThread_inbox (s : State) (k t f) : (s.onThread k t f).inbox = s.inbox := rfl
@[simp] theorem State.onThread_waiting (s : State) (k t f) : (s.onThread k t f).waiting = s.waiting := rfl
@[simp] theorem State.onThread_stepNo (s : State) (k t f) : (s.onThread k t f).stepNo = s.stepNo := rfl
@[simp] theorem State.onThread_time (s : State) (k t f) : (s.onThread k t f).time = s.time := rfl
@[simp] theorem State.onThread_warmAt (s : State) (k t f) : (s.onThread k t f).warmAt = s.warmAt := rfl
@[simp] theorem State.onThread_mem (s : State) (k t f) : (s.onThread k t f).mem = s.mem := rfl
@[simp] theorem State.onThread_memPoison (s : State) (k t f) : (s.onThread k t f).memPoison = s.memPoison := rfl
@[simp] theorem State.onThread_badBursts (s : State) (k t f) : (s.onThread k t f).badBursts = s.badBursts := rfl
@[simp] theorem State.onThread_access (s : State) (k t f) : (s.onThread k t f).access = s.access := rfl
@[simp] theorem State.onThread_detected (s : State) (k t f) : (s.onThread k t f).detected = s.detected := rfl
@[simp] theorem State.onThread_l2 (s : State) (k t f) : (s.onThread k t f).l2 = s.l2 := rfl
@[simp] theorem State.onThread_l2Lines (s : State) (k t f) : (s.onThread k t f).l2Lines = s.l2Lines := rfl
@[simp] theorem State.onThread_directory (s : State) (k t f) : (s.onThread k t f).directory = s.directory := rfl
@[simp] theorem State.onThread_hostHalves (s : State) (k t f) : (s.onThread k t f).hostHalves = s.hostHalves := rfl
@[simp] theorem State.onThread_hostMem (s : State) (k t f) : (s.onThread k t f).hostMem = s.hostMem := rfl
@[simp] theorem State.onThread_remoteMem (s : State) (k t f) : (s.onThread k t f).remoteMem = s.remoteMem := rfl
@[simp] theorem State.onThread_remoteL2 (s : State) (k t f) : (s.onThread k t f).remoteL2 = s.remoteL2 := rfl
@[simp] theorem State.onThread_kernels (s : State) (k t f) : (s.onThread k t f).kernels = s.kernels := rfl
@[simp] theorem State.onThread_launches (s : State) (k t f) : (s.onThread k t f).launches = s.launches := rfl
@[simp] theorem State.onThread_wgs (s : State) (k t f) : (s.onThread k t f).wgs = s.wgs := rfl
@[simp] theorem State.onThread_queues (s : State) (k t f) : (s.onThread k t f).queues = s.queues := rfl
@[simp] theorem State.onThread_graphs (s : State) (k t f) : (s.onThread k t f).graphs = s.graphs := rfl
@[simp] theorem State.onThread_saved (s : State) (k t f) : (s.onThread k t f).saved = s.saved := rfl
@[simp] theorem State.onThread_rotation (s : State) (k t f) : (s.onThread k t f).rotation = s.rotation := rfl
@[simp] theorem State.onThread_nextLauncher (s : State) (k t f) : (s.onThread k t f).nextLauncher = s.nextLauncher := rfl
@[simp] theorem State.onThread_lastTick (s : State) (k t f) : (s.onThread k t f).lastTick = s.lastTick := rfl
@[simp] theorem State.onThread_lmbRec (s : State) (k t f) : (s.onThread k t f).lmbRec = s.lmbRec := rfl
@[simp] theorem State.onThread_lmbCtl (s : State) (k t f) : (s.onThread k t f).lmbCtl = s.lmbCtl := rfl
@[simp] theorem State.onThread_lmbIdx (s : State) (k t f) : (s.onThread k t f).lmbIdx = s.lmbIdx := rfl
@[simp] theorem State.onThread_lmbSig (s : State) (k t f) : (s.onThread k t f).lmbSig = s.lmbSig := rfl
@[simp] theorem State.onThread_lmbResult (s : State) (k t f) : (s.onThread k t f).lmbResult = s.lmbResult := rfl
@[simp] theorem State.onThread_lmbBusy (s : State) (k t f) : (s.onThread k t f).lmbBusy = s.lmbBusy := rfl
@[simp] theorem State.onThread_fqBase (s : State) (k t f) : (s.onThread k t f).fqBase = s.fqBase := rfl
@[simp] theorem State.onThread_fqCtl (s : State) (k t f) : (s.onThread k t f).fqCtl = s.fqCtl := rfl
@[simp] theorem State.onThread_fqWr (s : State) (k t f) : (s.onThread k t f).fqWr = s.fqWr := rfl
@[simp] theorem State.onThread_fqRd (s : State) (k t f) : (s.onThread k t f).fqRd = s.fqRd := rfl
@[simp] theorem State.onThread_fqDrop (s : State) (k t f) : (s.onThread k t f).fqDrop = s.fqDrop := rfl
@[simp] theorem State.onThread_deferred (s : State) (k t f) : (s.onThread k t f).deferred = s.deferred := rfl
@[simp] theorem State.onThread_holds (s : State) (k t f) : (s.onThread k t f).holds = s.holds := rfl
@[simp] theorem State.onThread_nextHold (s : State) (k t f) : (s.onThread k t f).nextHold = s.nextHold := rfl
@[simp] theorem State.onThread_walkQueue (s : State) (k t f) : (s.onThread k t f).walkQueue = s.walkQueue := rfl
@[simp] theorem State.onThread_ats (s : State) (k t f) : (s.onThread k t f).ats = s.ats := rfl
@[simp] theorem State.onThread_priPages (s : State) (k t f) : (s.onThread k t f).priPages = s.priPages := rfl
@[simp] theorem State.onThread_atsInv (s : State) (k t f) : (s.onThread k t f).atsInv = s.atsInv := rfl
@[simp] theorem State.onThread_atsDone (s : State) (k t f) : (s.onThread k t f).atsDone = s.atsDone := rfl
@[simp] theorem State.onThread_xltCtxBase (s : State) (k t f) : (s.onThread k t f).xltCtxBase = s.xltCtxBase := rfl
@[simp] theorem State.onThread_xltInv (s : State) (k t f) : (s.onThread k t f).xltInv = s.xltInv := rfl
@[simp] theorem State.onThread_clusterTlb (s : State) (k t f) : (s.onThread k t f).clusterTlb = s.clusterTlb := rfl
@[simp] theorem State.onThread_dieTlb (s : State) (k t f) : (s.onThread k t f).dieTlb = s.dieTlb := rfl
@[simp] theorem State.onThread_epoch (s : State) (k t f) : (s.onThread k t f).epoch = s.epoch := rfl
@[simp] theorem State.onThread_qdone (s : State) (k t f) : (s.onThread k t f).qdone = s.qdone := rfl
@[simp] theorem State.onThread_dq (s : State) (k t f) : (s.onThread k t f).dq = s.dq := rfl
@[simp] theorem State.onThread_dqOvf (s : State) (k t f) : (s.onThread k t f).dqOvf = s.dqOvf := rfl
@[simp] theorem State.onThread_retiredPages (s : State) (k t f) : (s.onThread k t f).retiredPages = s.retiredPages := rfl
@[simp] theorem State.onThread_retireCandidates (s : State) (k t f) : (s.onThread k t f).retireCandidates = s.retireCandidates := rfl
@[simp] theorem State.onThread_hostcap (s : State) (k t f) : (s.onThread k t f).hostcap = s.hostcap := rfl
@[simp] theorem State.onThread_funcMode (s : State) (k t f) : (s.onThread k t f).funcMode = s.funcMode := rfl
@[simp] theorem State.onThread_funcReady (s : State) (k t f) : (s.onThread k t f).funcReady = s.funcReady := rfl
@[simp] theorem State.onThread_funcReadyL (s : State) (k t f) : (s.onThread k t f).funcReadyL = s.funcReadyL := rfl
@[simp] theorem State.onThread_fenceCores (s : State) (k t f) : (s.onThread k t f).fenceCores = s.fenceCores := rfl
@[simp] theorem State.onThread_fencePorts (s : State) (k t f) : (s.onThread k t f).fencePorts = s.fencePorts := rfl
@[simp] theorem State.onThread_fenceStacks (s : State) (k t f) : (s.onThread k t f).fenceStacks = s.fenceStacks := rfl
@[simp] theorem State.onThread_fencePages (s : State) (k t f) : (s.onThread k t f).fencePages = s.fencePages := rfl
@[simp] theorem State.onThread_replaceReq (s : State) (k t f) : (s.onThread k t f).replaceReq = s.replaceReq := rfl
@[simp] theorem State.onThread_memmapPart (s : State) (k t f) : (s.onThread k t f).memmapPart = s.memmapPart := rfl
@[simp] theorem State.onThread_devid (s : State) (k t f) : (s.onThread k t f).devid = s.devid := rfl
@[simp] theorem State.onThread_boardCap (s : State) (k t f) : (s.onThread k t f).boardCap = s.boardCap := rfl
@[simp] theorem State.onThread_govAt (s : State) (k t f) : (s.onThread k t f).govAt = s.govAt := rfl
@[simp] theorem State.onThread_throt (s : State) (k t f) : (s.onThread k t f).throt = s.throt := rfl
@[simp] theorem State.onThread_jmax (s : State) (k t f) : (s.onThread k t f).jmax = s.jmax := rfl
@[simp] theorem State.onThread_lid (s : State) (k t f) : (s.onThread k t f).lid = s.lid := rfl
@[simp] theorem State.onThread_retiredReg (s : State) (k t f) : (s.onThread k t f).retiredReg = s.retiredReg := rfl
@[simp] theorem State.onThread_bar2Base (s : State) (k t f) : (s.onThread k t f).bar2Base = s.bar2Base := rfl
@[simp] theorem State.onThread_mwOrd (s : State) (k t f) : (s.onThread k t f).mwOrd = s.mwOrd := rfl
@[simp] theorem State.onThread_hostData (s : State) (k t f) : (s.onThread k t f).hostData = s.hostData := rfl
@[simp] theorem State.onThread_hostPoison (s : State) (k t f) : (s.onThread k t f).hostPoison = s.hostPoison := rfl
@[simp] theorem State.onThread_peerData (s : State) (k t f) : (s.onThread k t f).peerData = s.peerData := rfl
@[simp] theorem State.onThread_peerPoison (s : State) (k t f) : (s.onThread k t f).peerPoison = s.peerPoison := rfl
@[simp] theorem State.onThread_evPending (s : State) (k t f) : (s.onThread k t f).evPending = s.evPending := rfl
@[simp] theorem State.onThread_evStore (s : State) (k t f) : (s.onThread k t f).evStore = s.evStore := rfl
@[simp] theorem State.onThread_evPairs (s : State) (k t f) : (s.onThread k t f).evPairs = s.evPairs := rfl
@[simp] theorem State.onThread_hevBase (s : State) (k t f) : (s.onThread k t f).hevBase = s.hevBase := rfl
@[simp] theorem State.onThread_hevCtl (s : State) (k t f) : (s.onThread k t f).hevCtl = s.hevCtl := rfl
@[simp] theorem State.onThread_hevWr (s : State) (k t f) : (s.onThread k t f).hevWr = s.hevWr := rfl
@[simp] theorem State.onThread_hevRd (s : State) (k t f) : (s.onThread k t f).hevRd = s.hevRd := rfl
@[simp] theorem State.onThread_hevDrop (s : State) (k t f) : (s.onThread k t f).hevDrop = s.hevDrop := rfl
@[simp] theorem State.onThread_msix (s : State) (k t f) : (s.onThread k t f).msix = s.msix := rfl
@[simp] theorem State.onThread_archive (s : State) (k t f) : (s.onThread k t f).archive = s.archive := rfl
@[simp] theorem State.onThread_archWr (s : State) (k t f) : (s.onThread k t f).archWr = s.archWr := rfl
@[simp] theorem State.onThread_keySlots (s : State) (k t f) : (s.onThread k t f).keySlots = s.keySlots := rfl
@[simp] theorem State.onThread_bootStatus (s : State) (k t f) : (s.onThread k t f).bootStatus = s.bootStatus := rfl
@[simp] theorem State.onThread_recovery (s : State) (k t f) : (s.onThread k t f).recovery = s.recovery := rfl
@[simp] theorem State.onThread_flash (s : State) (k t f) : (s.onThread k t f).flash = s.flash := rfl
@[simp] theorem State.onThread_meas (s : State) (k t f) : (s.onThread k t f).meas = s.meas := rfl
@[simp] theorem State.onThread_nonce (s : State) (k t f) : (s.onThread k t f).nonce = s.nonce := rfl
@[simp] theorem State.onThread_attCmd (s : State) (k t f) : (s.onThread k t f).attCmd = s.attCmd := rfl
@[simp] theorem State.onThread_attRunning (s : State) (k t f) : (s.onThread k t f).attRunning = s.attRunning := rfl
@[simp] theorem State.onThread_attSig (s : State) (k t f) : (s.onThread k t f).attSig = s.attSig := rfl
@[simp] theorem State.onThread_bootCnt (s : State) (k t f) : (s.onThread k t f).bootCnt = s.bootCnt := rfl
@[simp] theorem State.onThread_ports (s : State) (k t f) : (s.onThread k t f).ports = s.ports := rfl
@[simp] theorem State.onThread_routes (s : State) (k t f) : (s.onThread k t f).routes = s.routes := rfl
@[simp] theorem State.onThread_tickets (s : State) (k t f) : (s.onThread k t f).tickets = s.tickets := rfl
@[simp] theorem State.onThread_silent (s : State) (k t f) : (s.onThread k t f).silent = s.silent := rfl
@[simp] theorem State.onThread_powered (s : State) (k t f) : (s.onThread k t f).powered = s.powered := rfl
@[simp] theorem State.onThread_heldInReset (s : State) (k t f) : (s.onThread k t f).heldInReset = s.heldInReset := rfl
@[simp] theorem State.onThread_retries (s : State) (k t f) : (s.onThread k t f).retries = s.retries := rfl
@[simp] theorem State.onThread_issued (s : State) (k t f) : (s.onThread k t f).issued = s.issued := rfl
@[simp] theorem State.onThread_hostOwned (s : State) (k t f) : (s.onThread k t f).hostOwned = s.hostOwned := rfl
@[simp] theorem State.onThread_remotePoison (s : State) (k t f) : (s.onThread k t f).remotePoison = s.remotePoison := rfl
@[simp] theorem State.onThread_lmbLow (s : State) (k t f) : (s.onThread k t f).lmbLow = s.lmbLow := rfl
@[simp] theorem State.onThread_hostCandidates (s : State) (k t f) : (s.onThread k t f).hostCandidates = s.hostCandidates := rfl
@[simp] theorem State.onThread_corrected (s : State) (k t f) : (s.onThread k t f).corrected = s.corrected := rfl
@[simp] theorem State.onThread_coreErrors (s : State) (k t f) : (s.onThread k t f).coreErrors = s.coreErrors := rfl
@[simp] theorem State.onThread_patrolAt (s : State) (k t f) : (s.onThread k t f).patrolAt = s.patrolAt := rfl
@[simp] theorem State.onThread_harts (s : State) (k t f) : (s.onThread k t f).harts = s.harts := rfl
@[simp] theorem State.onThread_sram (s : State) (k t f) : (s.onThread k t f).sram = s.sram := rfl
@[simp] theorem State.onThread_bootLow (s : State) (k t f) : (s.onThread k t f).bootLow = s.bootLow := rfl
@[simp] theorem State.onThread_ticking (s : State) (k t f) : (s.onThread k t f).ticking = s.ticking := rfl
@[simp] theorem State.onThread_stopAsked (s : State) (k t f) : (s.onThread k t f).stopAsked = s.stopAsked := rfl
@[simp] theorem State.onThread_dqLow (s : State) (k t f) : (s.onThread k t f).dqLow = s.dqLow := rfl
@[simp] theorem State.onThread_copies (s : State) (k t f) : (s.onThread k t f).copies = s.copies := rfl

/-! ### `State.onLaunch` -/

@[simp] theorem State.onLaunch_fire (s : State) (l f) : (s.onLaunch l f).fire = s.fire := rfl
@[simp] theorem State.onLaunch_ready (s : State) (l f) : (s.onLaunch l f).ready = s.ready := rfl
@[simp] theorem State.onLaunch_inbox (s : State) (l f) : (s.onLaunch l f).inbox = s.inbox := rfl
@[simp] theorem State.onLaunch_waiting (s : State) (l f) : (s.onLaunch l f).waiting = s.waiting := rfl
@[simp] theorem State.onLaunch_stepNo (s : State) (l f) : (s.onLaunch l f).stepNo = s.stepNo := rfl
@[simp] theorem State.onLaunch_time (s : State) (l f) : (s.onLaunch l f).time = s.time := rfl
@[simp] theorem State.onLaunch_warmAt (s : State) (l f) : (s.onLaunch l f).warmAt = s.warmAt := rfl
@[simp] theorem State.onLaunch_mem (s : State) (l f) : (s.onLaunch l f).mem = s.mem := rfl
@[simp] theorem State.onLaunch_memPoison (s : State) (l f) : (s.onLaunch l f).memPoison = s.memPoison := rfl
@[simp] theorem State.onLaunch_badBursts (s : State) (l f) : (s.onLaunch l f).badBursts = s.badBursts := rfl
@[simp] theorem State.onLaunch_access (s : State) (l f) : (s.onLaunch l f).access = s.access := rfl
@[simp] theorem State.onLaunch_detected (s : State) (l f) : (s.onLaunch l f).detected = s.detected := rfl
@[simp] theorem State.onLaunch_l2 (s : State) (l f) : (s.onLaunch l f).l2 = s.l2 := rfl
@[simp] theorem State.onLaunch_l2Lines (s : State) (l f) : (s.onLaunch l f).l2Lines = s.l2Lines := rfl
@[simp] theorem State.onLaunch_directory (s : State) (l f) : (s.onLaunch l f).directory = s.directory := rfl
@[simp] theorem State.onLaunch_hostHalves (s : State) (l f) : (s.onLaunch l f).hostHalves = s.hostHalves := rfl
@[simp] theorem State.onLaunch_hostMem (s : State) (l f) : (s.onLaunch l f).hostMem = s.hostMem := rfl
@[simp] theorem State.onLaunch_remoteMem (s : State) (l f) : (s.onLaunch l f).remoteMem = s.remoteMem := rfl
@[simp] theorem State.onLaunch_remoteL2 (s : State) (l f) : (s.onLaunch l f).remoteL2 = s.remoteL2 := rfl
@[simp] theorem State.onLaunch_cores (s : State) (l f) : (s.onLaunch l f).cores = s.cores := rfl
@[simp] theorem State.onLaunch_kernels (s : State) (l f) : (s.onLaunch l f).kernels = s.kernels := rfl
@[simp] theorem State.onLaunch_wgs (s : State) (l f) : (s.onLaunch l f).wgs = s.wgs := rfl
@[simp] theorem State.onLaunch_queues (s : State) (l f) : (s.onLaunch l f).queues = s.queues := rfl
@[simp] theorem State.onLaunch_graphs (s : State) (l f) : (s.onLaunch l f).graphs = s.graphs := rfl
@[simp] theorem State.onLaunch_saved (s : State) (l f) : (s.onLaunch l f).saved = s.saved := rfl
@[simp] theorem State.onLaunch_rotation (s : State) (l f) : (s.onLaunch l f).rotation = s.rotation := rfl
@[simp] theorem State.onLaunch_nextLauncher (s : State) (l f) : (s.onLaunch l f).nextLauncher = s.nextLauncher := rfl
@[simp] theorem State.onLaunch_lastTick (s : State) (l f) : (s.onLaunch l f).lastTick = s.lastTick := rfl
@[simp] theorem State.onLaunch_lmbRec (s : State) (l f) : (s.onLaunch l f).lmbRec = s.lmbRec := rfl
@[simp] theorem State.onLaunch_lmbCtl (s : State) (l f) : (s.onLaunch l f).lmbCtl = s.lmbCtl := rfl
@[simp] theorem State.onLaunch_lmbIdx (s : State) (l f) : (s.onLaunch l f).lmbIdx = s.lmbIdx := rfl
@[simp] theorem State.onLaunch_lmbSig (s : State) (l f) : (s.onLaunch l f).lmbSig = s.lmbSig := rfl
@[simp] theorem State.onLaunch_lmbResult (s : State) (l f) : (s.onLaunch l f).lmbResult = s.lmbResult := rfl
@[simp] theorem State.onLaunch_lmbBusy (s : State) (l f) : (s.onLaunch l f).lmbBusy = s.lmbBusy := rfl
@[simp] theorem State.onLaunch_fqBase (s : State) (l f) : (s.onLaunch l f).fqBase = s.fqBase := rfl
@[simp] theorem State.onLaunch_fqCtl (s : State) (l f) : (s.onLaunch l f).fqCtl = s.fqCtl := rfl
@[simp] theorem State.onLaunch_fqWr (s : State) (l f) : (s.onLaunch l f).fqWr = s.fqWr := rfl
@[simp] theorem State.onLaunch_fqRd (s : State) (l f) : (s.onLaunch l f).fqRd = s.fqRd := rfl
@[simp] theorem State.onLaunch_fqDrop (s : State) (l f) : (s.onLaunch l f).fqDrop = s.fqDrop := rfl
@[simp] theorem State.onLaunch_deferred (s : State) (l f) : (s.onLaunch l f).deferred = s.deferred := rfl
@[simp] theorem State.onLaunch_holds (s : State) (l f) : (s.onLaunch l f).holds = s.holds := rfl
@[simp] theorem State.onLaunch_nextHold (s : State) (l f) : (s.onLaunch l f).nextHold = s.nextHold := rfl
@[simp] theorem State.onLaunch_walkQueue (s : State) (l f) : (s.onLaunch l f).walkQueue = s.walkQueue := rfl
@[simp] theorem State.onLaunch_ats (s : State) (l f) : (s.onLaunch l f).ats = s.ats := rfl
@[simp] theorem State.onLaunch_priPages (s : State) (l f) : (s.onLaunch l f).priPages = s.priPages := rfl
@[simp] theorem State.onLaunch_atsInv (s : State) (l f) : (s.onLaunch l f).atsInv = s.atsInv := rfl
@[simp] theorem State.onLaunch_atsDone (s : State) (l f) : (s.onLaunch l f).atsDone = s.atsDone := rfl
@[simp] theorem State.onLaunch_xltCtxBase (s : State) (l f) : (s.onLaunch l f).xltCtxBase = s.xltCtxBase := rfl
@[simp] theorem State.onLaunch_xltInv (s : State) (l f) : (s.onLaunch l f).xltInv = s.xltInv := rfl
@[simp] theorem State.onLaunch_clusterTlb (s : State) (l f) : (s.onLaunch l f).clusterTlb = s.clusterTlb := rfl
@[simp] theorem State.onLaunch_dieTlb (s : State) (l f) : (s.onLaunch l f).dieTlb = s.dieTlb := rfl
@[simp] theorem State.onLaunch_epoch (s : State) (l f) : (s.onLaunch l f).epoch = s.epoch := rfl
@[simp] theorem State.onLaunch_qdone (s : State) (l f) : (s.onLaunch l f).qdone = s.qdone := rfl
@[simp] theorem State.onLaunch_dq (s : State) (l f) : (s.onLaunch l f).dq = s.dq := rfl
@[simp] theorem State.onLaunch_dqOvf (s : State) (l f) : (s.onLaunch l f).dqOvf = s.dqOvf := rfl
@[simp] theorem State.onLaunch_retiredPages (s : State) (l f) : (s.onLaunch l f).retiredPages = s.retiredPages := rfl
@[simp] theorem State.onLaunch_retireCandidates (s : State) (l f) : (s.onLaunch l f).retireCandidates = s.retireCandidates := rfl
@[simp] theorem State.onLaunch_hostcap (s : State) (l f) : (s.onLaunch l f).hostcap = s.hostcap := rfl
@[simp] theorem State.onLaunch_funcMode (s : State) (l f) : (s.onLaunch l f).funcMode = s.funcMode := rfl
@[simp] theorem State.onLaunch_funcReady (s : State) (l f) : (s.onLaunch l f).funcReady = s.funcReady := rfl
@[simp] theorem State.onLaunch_funcReadyL (s : State) (l f) : (s.onLaunch l f).funcReadyL = s.funcReadyL := rfl
@[simp] theorem State.onLaunch_fenceCores (s : State) (l f) : (s.onLaunch l f).fenceCores = s.fenceCores := rfl
@[simp] theorem State.onLaunch_fencePorts (s : State) (l f) : (s.onLaunch l f).fencePorts = s.fencePorts := rfl
@[simp] theorem State.onLaunch_fenceStacks (s : State) (l f) : (s.onLaunch l f).fenceStacks = s.fenceStacks := rfl
@[simp] theorem State.onLaunch_fencePages (s : State) (l f) : (s.onLaunch l f).fencePages = s.fencePages := rfl
@[simp] theorem State.onLaunch_replaceReq (s : State) (l f) : (s.onLaunch l f).replaceReq = s.replaceReq := rfl
@[simp] theorem State.onLaunch_memmapPart (s : State) (l f) : (s.onLaunch l f).memmapPart = s.memmapPart := rfl
@[simp] theorem State.onLaunch_devid (s : State) (l f) : (s.onLaunch l f).devid = s.devid := rfl
@[simp] theorem State.onLaunch_boardCap (s : State) (l f) : (s.onLaunch l f).boardCap = s.boardCap := rfl
@[simp] theorem State.onLaunch_govAt (s : State) (l f) : (s.onLaunch l f).govAt = s.govAt := rfl
@[simp] theorem State.onLaunch_throt (s : State) (l f) : (s.onLaunch l f).throt = s.throt := rfl
@[simp] theorem State.onLaunch_jmax (s : State) (l f) : (s.onLaunch l f).jmax = s.jmax := rfl
@[simp] theorem State.onLaunch_lid (s : State) (l f) : (s.onLaunch l f).lid = s.lid := rfl
@[simp] theorem State.onLaunch_retiredReg (s : State) (l f) : (s.onLaunch l f).retiredReg = s.retiredReg := rfl
@[simp] theorem State.onLaunch_bar2Base (s : State) (l f) : (s.onLaunch l f).bar2Base = s.bar2Base := rfl
@[simp] theorem State.onLaunch_mwOrd (s : State) (l f) : (s.onLaunch l f).mwOrd = s.mwOrd := rfl
@[simp] theorem State.onLaunch_hostData (s : State) (l f) : (s.onLaunch l f).hostData = s.hostData := rfl
@[simp] theorem State.onLaunch_hostPoison (s : State) (l f) : (s.onLaunch l f).hostPoison = s.hostPoison := rfl
@[simp] theorem State.onLaunch_peerData (s : State) (l f) : (s.onLaunch l f).peerData = s.peerData := rfl
@[simp] theorem State.onLaunch_peerPoison (s : State) (l f) : (s.onLaunch l f).peerPoison = s.peerPoison := rfl
@[simp] theorem State.onLaunch_evPending (s : State) (l f) : (s.onLaunch l f).evPending = s.evPending := rfl
@[simp] theorem State.onLaunch_evStore (s : State) (l f) : (s.onLaunch l f).evStore = s.evStore := rfl
@[simp] theorem State.onLaunch_evPairs (s : State) (l f) : (s.onLaunch l f).evPairs = s.evPairs := rfl
@[simp] theorem State.onLaunch_hevBase (s : State) (l f) : (s.onLaunch l f).hevBase = s.hevBase := rfl
@[simp] theorem State.onLaunch_hevCtl (s : State) (l f) : (s.onLaunch l f).hevCtl = s.hevCtl := rfl
@[simp] theorem State.onLaunch_hevWr (s : State) (l f) : (s.onLaunch l f).hevWr = s.hevWr := rfl
@[simp] theorem State.onLaunch_hevRd (s : State) (l f) : (s.onLaunch l f).hevRd = s.hevRd := rfl
@[simp] theorem State.onLaunch_hevDrop (s : State) (l f) : (s.onLaunch l f).hevDrop = s.hevDrop := rfl
@[simp] theorem State.onLaunch_msix (s : State) (l f) : (s.onLaunch l f).msix = s.msix := rfl
@[simp] theorem State.onLaunch_archive (s : State) (l f) : (s.onLaunch l f).archive = s.archive := rfl
@[simp] theorem State.onLaunch_archWr (s : State) (l f) : (s.onLaunch l f).archWr = s.archWr := rfl
@[simp] theorem State.onLaunch_keySlots (s : State) (l f) : (s.onLaunch l f).keySlots = s.keySlots := rfl
@[simp] theorem State.onLaunch_bootStatus (s : State) (l f) : (s.onLaunch l f).bootStatus = s.bootStatus := rfl
@[simp] theorem State.onLaunch_recovery (s : State) (l f) : (s.onLaunch l f).recovery = s.recovery := rfl
@[simp] theorem State.onLaunch_flash (s : State) (l f) : (s.onLaunch l f).flash = s.flash := rfl
@[simp] theorem State.onLaunch_meas (s : State) (l f) : (s.onLaunch l f).meas = s.meas := rfl
@[simp] theorem State.onLaunch_nonce (s : State) (l f) : (s.onLaunch l f).nonce = s.nonce := rfl
@[simp] theorem State.onLaunch_attCmd (s : State) (l f) : (s.onLaunch l f).attCmd = s.attCmd := rfl
@[simp] theorem State.onLaunch_attRunning (s : State) (l f) : (s.onLaunch l f).attRunning = s.attRunning := rfl
@[simp] theorem State.onLaunch_attSig (s : State) (l f) : (s.onLaunch l f).attSig = s.attSig := rfl
@[simp] theorem State.onLaunch_bootCnt (s : State) (l f) : (s.onLaunch l f).bootCnt = s.bootCnt := rfl
@[simp] theorem State.onLaunch_ports (s : State) (l f) : (s.onLaunch l f).ports = s.ports := rfl
@[simp] theorem State.onLaunch_routes (s : State) (l f) : (s.onLaunch l f).routes = s.routes := rfl
@[simp] theorem State.onLaunch_tickets (s : State) (l f) : (s.onLaunch l f).tickets = s.tickets := rfl
@[simp] theorem State.onLaunch_silent (s : State) (l f) : (s.onLaunch l f).silent = s.silent := rfl
@[simp] theorem State.onLaunch_powered (s : State) (l f) : (s.onLaunch l f).powered = s.powered := rfl
@[simp] theorem State.onLaunch_heldInReset (s : State) (l f) : (s.onLaunch l f).heldInReset = s.heldInReset := rfl
@[simp] theorem State.onLaunch_retries (s : State) (l f) : (s.onLaunch l f).retries = s.retries := rfl
@[simp] theorem State.onLaunch_issued (s : State) (l f) : (s.onLaunch l f).issued = s.issued := rfl
@[simp] theorem State.onLaunch_hostOwned (s : State) (l f) : (s.onLaunch l f).hostOwned = s.hostOwned := rfl
@[simp] theorem State.onLaunch_remotePoison (s : State) (l f) : (s.onLaunch l f).remotePoison = s.remotePoison := rfl
@[simp] theorem State.onLaunch_lmbLow (s : State) (l f) : (s.onLaunch l f).lmbLow = s.lmbLow := rfl
@[simp] theorem State.onLaunch_hostCandidates (s : State) (l f) : (s.onLaunch l f).hostCandidates = s.hostCandidates := rfl
@[simp] theorem State.onLaunch_corrected (s : State) (l f) : (s.onLaunch l f).corrected = s.corrected := rfl
@[simp] theorem State.onLaunch_coreErrors (s : State) (l f) : (s.onLaunch l f).coreErrors = s.coreErrors := rfl
@[simp] theorem State.onLaunch_patrolAt (s : State) (l f) : (s.onLaunch l f).patrolAt = s.patrolAt := rfl
@[simp] theorem State.onLaunch_harts (s : State) (l f) : (s.onLaunch l f).harts = s.harts := rfl
@[simp] theorem State.onLaunch_sram (s : State) (l f) : (s.onLaunch l f).sram = s.sram := rfl
@[simp] theorem State.onLaunch_bootLow (s : State) (l f) : (s.onLaunch l f).bootLow = s.bootLow := rfl
@[simp] theorem State.onLaunch_ticking (s : State) (l f) : (s.onLaunch l f).ticking = s.ticking := rfl
@[simp] theorem State.onLaunch_stopAsked (s : State) (l f) : (s.onLaunch l f).stopAsked = s.stopAsked := rfl
@[simp] theorem State.onLaunch_dqLow (s : State) (l f) : (s.onLaunch l f).dqLow = s.dqLow := rfl
@[simp] theorem State.onLaunch_copies (s : State) (l f) : (s.onLaunch l f).copies = s.copies := rfl

/-! ### `State.onWg` -/

@[simp] theorem State.onWg_fire (s : State) (l w f) : (s.onWg l w f).fire = s.fire := rfl
@[simp] theorem State.onWg_ready (s : State) (l w f) : (s.onWg l w f).ready = s.ready := rfl
@[simp] theorem State.onWg_inbox (s : State) (l w f) : (s.onWg l w f).inbox = s.inbox := rfl
@[simp] theorem State.onWg_waiting (s : State) (l w f) : (s.onWg l w f).waiting = s.waiting := rfl
@[simp] theorem State.onWg_stepNo (s : State) (l w f) : (s.onWg l w f).stepNo = s.stepNo := rfl
@[simp] theorem State.onWg_time (s : State) (l w f) : (s.onWg l w f).time = s.time := rfl
@[simp] theorem State.onWg_warmAt (s : State) (l w f) : (s.onWg l w f).warmAt = s.warmAt := rfl
@[simp] theorem State.onWg_mem (s : State) (l w f) : (s.onWg l w f).mem = s.mem := rfl
@[simp] theorem State.onWg_memPoison (s : State) (l w f) : (s.onWg l w f).memPoison = s.memPoison := rfl
@[simp] theorem State.onWg_badBursts (s : State) (l w f) : (s.onWg l w f).badBursts = s.badBursts := rfl
@[simp] theorem State.onWg_access (s : State) (l w f) : (s.onWg l w f).access = s.access := rfl
@[simp] theorem State.onWg_detected (s : State) (l w f) : (s.onWg l w f).detected = s.detected := rfl
@[simp] theorem State.onWg_l2 (s : State) (l w f) : (s.onWg l w f).l2 = s.l2 := rfl
@[simp] theorem State.onWg_l2Lines (s : State) (l w f) : (s.onWg l w f).l2Lines = s.l2Lines := rfl
@[simp] theorem State.onWg_directory (s : State) (l w f) : (s.onWg l w f).directory = s.directory := rfl
@[simp] theorem State.onWg_hostHalves (s : State) (l w f) : (s.onWg l w f).hostHalves = s.hostHalves := rfl
@[simp] theorem State.onWg_hostMem (s : State) (l w f) : (s.onWg l w f).hostMem = s.hostMem := rfl
@[simp] theorem State.onWg_remoteMem (s : State) (l w f) : (s.onWg l w f).remoteMem = s.remoteMem := rfl
@[simp] theorem State.onWg_remoteL2 (s : State) (l w f) : (s.onWg l w f).remoteL2 = s.remoteL2 := rfl
@[simp] theorem State.onWg_cores (s : State) (l w f) : (s.onWg l w f).cores = s.cores := rfl
@[simp] theorem State.onWg_kernels (s : State) (l w f) : (s.onWg l w f).kernels = s.kernels := rfl
@[simp] theorem State.onWg_launches (s : State) (l w f) : (s.onWg l w f).launches = s.launches := rfl
@[simp] theorem State.onWg_queues (s : State) (l w f) : (s.onWg l w f).queues = s.queues := rfl
@[simp] theorem State.onWg_graphs (s : State) (l w f) : (s.onWg l w f).graphs = s.graphs := rfl
@[simp] theorem State.onWg_saved (s : State) (l w f) : (s.onWg l w f).saved = s.saved := rfl
@[simp] theorem State.onWg_rotation (s : State) (l w f) : (s.onWg l w f).rotation = s.rotation := rfl
@[simp] theorem State.onWg_nextLauncher (s : State) (l w f) : (s.onWg l w f).nextLauncher = s.nextLauncher := rfl
@[simp] theorem State.onWg_lastTick (s : State) (l w f) : (s.onWg l w f).lastTick = s.lastTick := rfl
@[simp] theorem State.onWg_lmbRec (s : State) (l w f) : (s.onWg l w f).lmbRec = s.lmbRec := rfl
@[simp] theorem State.onWg_lmbCtl (s : State) (l w f) : (s.onWg l w f).lmbCtl = s.lmbCtl := rfl
@[simp] theorem State.onWg_lmbIdx (s : State) (l w f) : (s.onWg l w f).lmbIdx = s.lmbIdx := rfl
@[simp] theorem State.onWg_lmbSig (s : State) (l w f) : (s.onWg l w f).lmbSig = s.lmbSig := rfl
@[simp] theorem State.onWg_lmbResult (s : State) (l w f) : (s.onWg l w f).lmbResult = s.lmbResult := rfl
@[simp] theorem State.onWg_lmbBusy (s : State) (l w f) : (s.onWg l w f).lmbBusy = s.lmbBusy := rfl
@[simp] theorem State.onWg_fqBase (s : State) (l w f) : (s.onWg l w f).fqBase = s.fqBase := rfl
@[simp] theorem State.onWg_fqCtl (s : State) (l w f) : (s.onWg l w f).fqCtl = s.fqCtl := rfl
@[simp] theorem State.onWg_fqWr (s : State) (l w f) : (s.onWg l w f).fqWr = s.fqWr := rfl
@[simp] theorem State.onWg_fqRd (s : State) (l w f) : (s.onWg l w f).fqRd = s.fqRd := rfl
@[simp] theorem State.onWg_fqDrop (s : State) (l w f) : (s.onWg l w f).fqDrop = s.fqDrop := rfl
@[simp] theorem State.onWg_deferred (s : State) (l w f) : (s.onWg l w f).deferred = s.deferred := rfl
@[simp] theorem State.onWg_holds (s : State) (l w f) : (s.onWg l w f).holds = s.holds := rfl
@[simp] theorem State.onWg_nextHold (s : State) (l w f) : (s.onWg l w f).nextHold = s.nextHold := rfl
@[simp] theorem State.onWg_walkQueue (s : State) (l w f) : (s.onWg l w f).walkQueue = s.walkQueue := rfl
@[simp] theorem State.onWg_ats (s : State) (l w f) : (s.onWg l w f).ats = s.ats := rfl
@[simp] theorem State.onWg_priPages (s : State) (l w f) : (s.onWg l w f).priPages = s.priPages := rfl
@[simp] theorem State.onWg_atsInv (s : State) (l w f) : (s.onWg l w f).atsInv = s.atsInv := rfl
@[simp] theorem State.onWg_atsDone (s : State) (l w f) : (s.onWg l w f).atsDone = s.atsDone := rfl
@[simp] theorem State.onWg_xltCtxBase (s : State) (l w f) : (s.onWg l w f).xltCtxBase = s.xltCtxBase := rfl
@[simp] theorem State.onWg_xltInv (s : State) (l w f) : (s.onWg l w f).xltInv = s.xltInv := rfl
@[simp] theorem State.onWg_clusterTlb (s : State) (l w f) : (s.onWg l w f).clusterTlb = s.clusterTlb := rfl
@[simp] theorem State.onWg_dieTlb (s : State) (l w f) : (s.onWg l w f).dieTlb = s.dieTlb := rfl
@[simp] theorem State.onWg_epoch (s : State) (l w f) : (s.onWg l w f).epoch = s.epoch := rfl
@[simp] theorem State.onWg_qdone (s : State) (l w f) : (s.onWg l w f).qdone = s.qdone := rfl
@[simp] theorem State.onWg_dq (s : State) (l w f) : (s.onWg l w f).dq = s.dq := rfl
@[simp] theorem State.onWg_dqOvf (s : State) (l w f) : (s.onWg l w f).dqOvf = s.dqOvf := rfl
@[simp] theorem State.onWg_retiredPages (s : State) (l w f) : (s.onWg l w f).retiredPages = s.retiredPages := rfl
@[simp] theorem State.onWg_retireCandidates (s : State) (l w f) : (s.onWg l w f).retireCandidates = s.retireCandidates := rfl
@[simp] theorem State.onWg_hostcap (s : State) (l w f) : (s.onWg l w f).hostcap = s.hostcap := rfl
@[simp] theorem State.onWg_funcMode (s : State) (l w f) : (s.onWg l w f).funcMode = s.funcMode := rfl
@[simp] theorem State.onWg_funcReady (s : State) (l w f) : (s.onWg l w f).funcReady = s.funcReady := rfl
@[simp] theorem State.onWg_funcReadyL (s : State) (l w f) : (s.onWg l w f).funcReadyL = s.funcReadyL := rfl
@[simp] theorem State.onWg_fenceCores (s : State) (l w f) : (s.onWg l w f).fenceCores = s.fenceCores := rfl
@[simp] theorem State.onWg_fencePorts (s : State) (l w f) : (s.onWg l w f).fencePorts = s.fencePorts := rfl
@[simp] theorem State.onWg_fenceStacks (s : State) (l w f) : (s.onWg l w f).fenceStacks = s.fenceStacks := rfl
@[simp] theorem State.onWg_fencePages (s : State) (l w f) : (s.onWg l w f).fencePages = s.fencePages := rfl
@[simp] theorem State.onWg_replaceReq (s : State) (l w f) : (s.onWg l w f).replaceReq = s.replaceReq := rfl
@[simp] theorem State.onWg_memmapPart (s : State) (l w f) : (s.onWg l w f).memmapPart = s.memmapPart := rfl
@[simp] theorem State.onWg_devid (s : State) (l w f) : (s.onWg l w f).devid = s.devid := rfl
@[simp] theorem State.onWg_boardCap (s : State) (l w f) : (s.onWg l w f).boardCap = s.boardCap := rfl
@[simp] theorem State.onWg_govAt (s : State) (l w f) : (s.onWg l w f).govAt = s.govAt := rfl
@[simp] theorem State.onWg_throt (s : State) (l w f) : (s.onWg l w f).throt = s.throt := rfl
@[simp] theorem State.onWg_jmax (s : State) (l w f) : (s.onWg l w f).jmax = s.jmax := rfl
@[simp] theorem State.onWg_lid (s : State) (l w f) : (s.onWg l w f).lid = s.lid := rfl
@[simp] theorem State.onWg_retiredReg (s : State) (l w f) : (s.onWg l w f).retiredReg = s.retiredReg := rfl
@[simp] theorem State.onWg_bar2Base (s : State) (l w f) : (s.onWg l w f).bar2Base = s.bar2Base := rfl
@[simp] theorem State.onWg_mwOrd (s : State) (l w f) : (s.onWg l w f).mwOrd = s.mwOrd := rfl
@[simp] theorem State.onWg_hostData (s : State) (l w f) : (s.onWg l w f).hostData = s.hostData := rfl
@[simp] theorem State.onWg_hostPoison (s : State) (l w f) : (s.onWg l w f).hostPoison = s.hostPoison := rfl
@[simp] theorem State.onWg_peerData (s : State) (l w f) : (s.onWg l w f).peerData = s.peerData := rfl
@[simp] theorem State.onWg_peerPoison (s : State) (l w f) : (s.onWg l w f).peerPoison = s.peerPoison := rfl
@[simp] theorem State.onWg_evPending (s : State) (l w f) : (s.onWg l w f).evPending = s.evPending := rfl
@[simp] theorem State.onWg_evStore (s : State) (l w f) : (s.onWg l w f).evStore = s.evStore := rfl
@[simp] theorem State.onWg_evPairs (s : State) (l w f) : (s.onWg l w f).evPairs = s.evPairs := rfl
@[simp] theorem State.onWg_hevBase (s : State) (l w f) : (s.onWg l w f).hevBase = s.hevBase := rfl
@[simp] theorem State.onWg_hevCtl (s : State) (l w f) : (s.onWg l w f).hevCtl = s.hevCtl := rfl
@[simp] theorem State.onWg_hevWr (s : State) (l w f) : (s.onWg l w f).hevWr = s.hevWr := rfl
@[simp] theorem State.onWg_hevRd (s : State) (l w f) : (s.onWg l w f).hevRd = s.hevRd := rfl
@[simp] theorem State.onWg_hevDrop (s : State) (l w f) : (s.onWg l w f).hevDrop = s.hevDrop := rfl
@[simp] theorem State.onWg_msix (s : State) (l w f) : (s.onWg l w f).msix = s.msix := rfl
@[simp] theorem State.onWg_archive (s : State) (l w f) : (s.onWg l w f).archive = s.archive := rfl
@[simp] theorem State.onWg_archWr (s : State) (l w f) : (s.onWg l w f).archWr = s.archWr := rfl
@[simp] theorem State.onWg_keySlots (s : State) (l w f) : (s.onWg l w f).keySlots = s.keySlots := rfl
@[simp] theorem State.onWg_bootStatus (s : State) (l w f) : (s.onWg l w f).bootStatus = s.bootStatus := rfl
@[simp] theorem State.onWg_recovery (s : State) (l w f) : (s.onWg l w f).recovery = s.recovery := rfl
@[simp] theorem State.onWg_flash (s : State) (l w f) : (s.onWg l w f).flash = s.flash := rfl
@[simp] theorem State.onWg_meas (s : State) (l w f) : (s.onWg l w f).meas = s.meas := rfl
@[simp] theorem State.onWg_nonce (s : State) (l w f) : (s.onWg l w f).nonce = s.nonce := rfl
@[simp] theorem State.onWg_attCmd (s : State) (l w f) : (s.onWg l w f).attCmd = s.attCmd := rfl
@[simp] theorem State.onWg_attRunning (s : State) (l w f) : (s.onWg l w f).attRunning = s.attRunning := rfl
@[simp] theorem State.onWg_attSig (s : State) (l w f) : (s.onWg l w f).attSig = s.attSig := rfl
@[simp] theorem State.onWg_bootCnt (s : State) (l w f) : (s.onWg l w f).bootCnt = s.bootCnt := rfl
@[simp] theorem State.onWg_ports (s : State) (l w f) : (s.onWg l w f).ports = s.ports := rfl
@[simp] theorem State.onWg_routes (s : State) (l w f) : (s.onWg l w f).routes = s.routes := rfl
@[simp] theorem State.onWg_tickets (s : State) (l w f) : (s.onWg l w f).tickets = s.tickets := rfl
@[simp] theorem State.onWg_silent (s : State) (l w f) : (s.onWg l w f).silent = s.silent := rfl
@[simp] theorem State.onWg_powered (s : State) (l w f) : (s.onWg l w f).powered = s.powered := rfl
@[simp] theorem State.onWg_heldInReset (s : State) (l w f) : (s.onWg l w f).heldInReset = s.heldInReset := rfl
@[simp] theorem State.onWg_retries (s : State) (l w f) : (s.onWg l w f).retries = s.retries := rfl
@[simp] theorem State.onWg_issued (s : State) (l w f) : (s.onWg l w f).issued = s.issued := rfl
@[simp] theorem State.onWg_hostOwned (s : State) (l w f) : (s.onWg l w f).hostOwned = s.hostOwned := rfl
@[simp] theorem State.onWg_remotePoison (s : State) (l w f) : (s.onWg l w f).remotePoison = s.remotePoison := rfl
@[simp] theorem State.onWg_lmbLow (s : State) (l w f) : (s.onWg l w f).lmbLow = s.lmbLow := rfl
@[simp] theorem State.onWg_hostCandidates (s : State) (l w f) : (s.onWg l w f).hostCandidates = s.hostCandidates := rfl
@[simp] theorem State.onWg_corrected (s : State) (l w f) : (s.onWg l w f).corrected = s.corrected := rfl
@[simp] theorem State.onWg_coreErrors (s : State) (l w f) : (s.onWg l w f).coreErrors = s.coreErrors := rfl
@[simp] theorem State.onWg_patrolAt (s : State) (l w f) : (s.onWg l w f).patrolAt = s.patrolAt := rfl
@[simp] theorem State.onWg_harts (s : State) (l w f) : (s.onWg l w f).harts = s.harts := rfl
@[simp] theorem State.onWg_sram (s : State) (l w f) : (s.onWg l w f).sram = s.sram := rfl
@[simp] theorem State.onWg_bootLow (s : State) (l w f) : (s.onWg l w f).bootLow = s.bootLow := rfl
@[simp] theorem State.onWg_ticking (s : State) (l w f) : (s.onWg l w f).ticking = s.ticking := rfl
@[simp] theorem State.onWg_stopAsked (s : State) (l w f) : (s.onWg l w f).stopAsked = s.stopAsked := rfl
@[simp] theorem State.onWg_dqLow (s : State) (l w f) : (s.onWg l w f).dqLow = s.dqLow := rfl
@[simp] theorem State.onWg_copies (s : State) (l w f) : (s.onWg l w f).copies = s.copies := rfl

/-! ### `State.onQueue` -/

@[simp] theorem State.onQueue_fire (s : State) (q f) : (s.onQueue q f).fire = s.fire := rfl
@[simp] theorem State.onQueue_ready (s : State) (q f) : (s.onQueue q f).ready = s.ready := rfl
@[simp] theorem State.onQueue_inbox (s : State) (q f) : (s.onQueue q f).inbox = s.inbox := rfl
@[simp] theorem State.onQueue_waiting (s : State) (q f) : (s.onQueue q f).waiting = s.waiting := rfl
@[simp] theorem State.onQueue_stepNo (s : State) (q f) : (s.onQueue q f).stepNo = s.stepNo := rfl
@[simp] theorem State.onQueue_time (s : State) (q f) : (s.onQueue q f).time = s.time := rfl
@[simp] theorem State.onQueue_warmAt (s : State) (q f) : (s.onQueue q f).warmAt = s.warmAt := rfl
@[simp] theorem State.onQueue_mem (s : State) (q f) : (s.onQueue q f).mem = s.mem := rfl
@[simp] theorem State.onQueue_memPoison (s : State) (q f) : (s.onQueue q f).memPoison = s.memPoison := rfl
@[simp] theorem State.onQueue_badBursts (s : State) (q f) : (s.onQueue q f).badBursts = s.badBursts := rfl
@[simp] theorem State.onQueue_access (s : State) (q f) : (s.onQueue q f).access = s.access := rfl
@[simp] theorem State.onQueue_detected (s : State) (q f) : (s.onQueue q f).detected = s.detected := rfl
@[simp] theorem State.onQueue_l2 (s : State) (q f) : (s.onQueue q f).l2 = s.l2 := rfl
@[simp] theorem State.onQueue_l2Lines (s : State) (q f) : (s.onQueue q f).l2Lines = s.l2Lines := rfl
@[simp] theorem State.onQueue_directory (s : State) (q f) : (s.onQueue q f).directory = s.directory := rfl
@[simp] theorem State.onQueue_hostHalves (s : State) (q f) : (s.onQueue q f).hostHalves = s.hostHalves := rfl
@[simp] theorem State.onQueue_hostMem (s : State) (q f) : (s.onQueue q f).hostMem = s.hostMem := rfl
@[simp] theorem State.onQueue_remoteMem (s : State) (q f) : (s.onQueue q f).remoteMem = s.remoteMem := rfl
@[simp] theorem State.onQueue_remoteL2 (s : State) (q f) : (s.onQueue q f).remoteL2 = s.remoteL2 := rfl
@[simp] theorem State.onQueue_cores (s : State) (q f) : (s.onQueue q f).cores = s.cores := rfl
@[simp] theorem State.onQueue_kernels (s : State) (q f) : (s.onQueue q f).kernels = s.kernels := rfl
@[simp] theorem State.onQueue_launches (s : State) (q f) : (s.onQueue q f).launches = s.launches := rfl
@[simp] theorem State.onQueue_wgs (s : State) (q f) : (s.onQueue q f).wgs = s.wgs := rfl
@[simp] theorem State.onQueue_graphs (s : State) (q f) : (s.onQueue q f).graphs = s.graphs := rfl
@[simp] theorem State.onQueue_saved (s : State) (q f) : (s.onQueue q f).saved = s.saved := rfl
@[simp] theorem State.onQueue_rotation (s : State) (q f) : (s.onQueue q f).rotation = s.rotation := rfl
@[simp] theorem State.onQueue_nextLauncher (s : State) (q f) : (s.onQueue q f).nextLauncher = s.nextLauncher := rfl
@[simp] theorem State.onQueue_lastTick (s : State) (q f) : (s.onQueue q f).lastTick = s.lastTick := rfl
@[simp] theorem State.onQueue_lmbRec (s : State) (q f) : (s.onQueue q f).lmbRec = s.lmbRec := rfl
@[simp] theorem State.onQueue_lmbCtl (s : State) (q f) : (s.onQueue q f).lmbCtl = s.lmbCtl := rfl
@[simp] theorem State.onQueue_lmbIdx (s : State) (q f) : (s.onQueue q f).lmbIdx = s.lmbIdx := rfl
@[simp] theorem State.onQueue_lmbSig (s : State) (q f) : (s.onQueue q f).lmbSig = s.lmbSig := rfl
@[simp] theorem State.onQueue_lmbResult (s : State) (q f) : (s.onQueue q f).lmbResult = s.lmbResult := rfl
@[simp] theorem State.onQueue_lmbBusy (s : State) (q f) : (s.onQueue q f).lmbBusy = s.lmbBusy := rfl
@[simp] theorem State.onQueue_fqBase (s : State) (q f) : (s.onQueue q f).fqBase = s.fqBase := rfl
@[simp] theorem State.onQueue_fqCtl (s : State) (q f) : (s.onQueue q f).fqCtl = s.fqCtl := rfl
@[simp] theorem State.onQueue_fqWr (s : State) (q f) : (s.onQueue q f).fqWr = s.fqWr := rfl
@[simp] theorem State.onQueue_fqRd (s : State) (q f) : (s.onQueue q f).fqRd = s.fqRd := rfl
@[simp] theorem State.onQueue_fqDrop (s : State) (q f) : (s.onQueue q f).fqDrop = s.fqDrop := rfl
@[simp] theorem State.onQueue_deferred (s : State) (q f) : (s.onQueue q f).deferred = s.deferred := rfl
@[simp] theorem State.onQueue_holds (s : State) (q f) : (s.onQueue q f).holds = s.holds := rfl
@[simp] theorem State.onQueue_nextHold (s : State) (q f) : (s.onQueue q f).nextHold = s.nextHold := rfl
@[simp] theorem State.onQueue_walkQueue (s : State) (q f) : (s.onQueue q f).walkQueue = s.walkQueue := rfl
@[simp] theorem State.onQueue_ats (s : State) (q f) : (s.onQueue q f).ats = s.ats := rfl
@[simp] theorem State.onQueue_priPages (s : State) (q f) : (s.onQueue q f).priPages = s.priPages := rfl
@[simp] theorem State.onQueue_atsInv (s : State) (q f) : (s.onQueue q f).atsInv = s.atsInv := rfl
@[simp] theorem State.onQueue_atsDone (s : State) (q f) : (s.onQueue q f).atsDone = s.atsDone := rfl
@[simp] theorem State.onQueue_xltCtxBase (s : State) (q f) : (s.onQueue q f).xltCtxBase = s.xltCtxBase := rfl
@[simp] theorem State.onQueue_xltInv (s : State) (q f) : (s.onQueue q f).xltInv = s.xltInv := rfl
@[simp] theorem State.onQueue_clusterTlb (s : State) (q f) : (s.onQueue q f).clusterTlb = s.clusterTlb := rfl
@[simp] theorem State.onQueue_dieTlb (s : State) (q f) : (s.onQueue q f).dieTlb = s.dieTlb := rfl
@[simp] theorem State.onQueue_epoch (s : State) (q f) : (s.onQueue q f).epoch = s.epoch := rfl
@[simp] theorem State.onQueue_qdone (s : State) (q f) : (s.onQueue q f).qdone = s.qdone := rfl
@[simp] theorem State.onQueue_dq (s : State) (q f) : (s.onQueue q f).dq = s.dq := rfl
@[simp] theorem State.onQueue_dqOvf (s : State) (q f) : (s.onQueue q f).dqOvf = s.dqOvf := rfl
@[simp] theorem State.onQueue_retiredPages (s : State) (q f) : (s.onQueue q f).retiredPages = s.retiredPages := rfl
@[simp] theorem State.onQueue_retireCandidates (s : State) (q f) : (s.onQueue q f).retireCandidates = s.retireCandidates := rfl
@[simp] theorem State.onQueue_hostcap (s : State) (q f) : (s.onQueue q f).hostcap = s.hostcap := rfl
@[simp] theorem State.onQueue_funcMode (s : State) (q f) : (s.onQueue q f).funcMode = s.funcMode := rfl
@[simp] theorem State.onQueue_funcReady (s : State) (q f) : (s.onQueue q f).funcReady = s.funcReady := rfl
@[simp] theorem State.onQueue_funcReadyL (s : State) (q f) : (s.onQueue q f).funcReadyL = s.funcReadyL := rfl
@[simp] theorem State.onQueue_fenceCores (s : State) (q f) : (s.onQueue q f).fenceCores = s.fenceCores := rfl
@[simp] theorem State.onQueue_fencePorts (s : State) (q f) : (s.onQueue q f).fencePorts = s.fencePorts := rfl
@[simp] theorem State.onQueue_fenceStacks (s : State) (q f) : (s.onQueue q f).fenceStacks = s.fenceStacks := rfl
@[simp] theorem State.onQueue_fencePages (s : State) (q f) : (s.onQueue q f).fencePages = s.fencePages := rfl
@[simp] theorem State.onQueue_replaceReq (s : State) (q f) : (s.onQueue q f).replaceReq = s.replaceReq := rfl
@[simp] theorem State.onQueue_memmapPart (s : State) (q f) : (s.onQueue q f).memmapPart = s.memmapPart := rfl
@[simp] theorem State.onQueue_devid (s : State) (q f) : (s.onQueue q f).devid = s.devid := rfl
@[simp] theorem State.onQueue_boardCap (s : State) (q f) : (s.onQueue q f).boardCap = s.boardCap := rfl
@[simp] theorem State.onQueue_govAt (s : State) (q f) : (s.onQueue q f).govAt = s.govAt := rfl
@[simp] theorem State.onQueue_throt (s : State) (q f) : (s.onQueue q f).throt = s.throt := rfl
@[simp] theorem State.onQueue_jmax (s : State) (q f) : (s.onQueue q f).jmax = s.jmax := rfl
@[simp] theorem State.onQueue_lid (s : State) (q f) : (s.onQueue q f).lid = s.lid := rfl
@[simp] theorem State.onQueue_retiredReg (s : State) (q f) : (s.onQueue q f).retiredReg = s.retiredReg := rfl
@[simp] theorem State.onQueue_bar2Base (s : State) (q f) : (s.onQueue q f).bar2Base = s.bar2Base := rfl
@[simp] theorem State.onQueue_mwOrd (s : State) (q f) : (s.onQueue q f).mwOrd = s.mwOrd := rfl
@[simp] theorem State.onQueue_hostData (s : State) (q f) : (s.onQueue q f).hostData = s.hostData := rfl
@[simp] theorem State.onQueue_hostPoison (s : State) (q f) : (s.onQueue q f).hostPoison = s.hostPoison := rfl
@[simp] theorem State.onQueue_peerData (s : State) (q f) : (s.onQueue q f).peerData = s.peerData := rfl
@[simp] theorem State.onQueue_peerPoison (s : State) (q f) : (s.onQueue q f).peerPoison = s.peerPoison := rfl
@[simp] theorem State.onQueue_evPending (s : State) (q f) : (s.onQueue q f).evPending = s.evPending := rfl
@[simp] theorem State.onQueue_evStore (s : State) (q f) : (s.onQueue q f).evStore = s.evStore := rfl
@[simp] theorem State.onQueue_evPairs (s : State) (q f) : (s.onQueue q f).evPairs = s.evPairs := rfl
@[simp] theorem State.onQueue_hevBase (s : State) (q f) : (s.onQueue q f).hevBase = s.hevBase := rfl
@[simp] theorem State.onQueue_hevCtl (s : State) (q f) : (s.onQueue q f).hevCtl = s.hevCtl := rfl
@[simp] theorem State.onQueue_hevWr (s : State) (q f) : (s.onQueue q f).hevWr = s.hevWr := rfl
@[simp] theorem State.onQueue_hevRd (s : State) (q f) : (s.onQueue q f).hevRd = s.hevRd := rfl
@[simp] theorem State.onQueue_hevDrop (s : State) (q f) : (s.onQueue q f).hevDrop = s.hevDrop := rfl
@[simp] theorem State.onQueue_msix (s : State) (q f) : (s.onQueue q f).msix = s.msix := rfl
@[simp] theorem State.onQueue_archive (s : State) (q f) : (s.onQueue q f).archive = s.archive := rfl
@[simp] theorem State.onQueue_archWr (s : State) (q f) : (s.onQueue q f).archWr = s.archWr := rfl
@[simp] theorem State.onQueue_keySlots (s : State) (q f) : (s.onQueue q f).keySlots = s.keySlots := rfl
@[simp] theorem State.onQueue_bootStatus (s : State) (q f) : (s.onQueue q f).bootStatus = s.bootStatus := rfl
@[simp] theorem State.onQueue_recovery (s : State) (q f) : (s.onQueue q f).recovery = s.recovery := rfl
@[simp] theorem State.onQueue_flash (s : State) (q f) : (s.onQueue q f).flash = s.flash := rfl
@[simp] theorem State.onQueue_meas (s : State) (q f) : (s.onQueue q f).meas = s.meas := rfl
@[simp] theorem State.onQueue_nonce (s : State) (q f) : (s.onQueue q f).nonce = s.nonce := rfl
@[simp] theorem State.onQueue_attCmd (s : State) (q f) : (s.onQueue q f).attCmd = s.attCmd := rfl
@[simp] theorem State.onQueue_attRunning (s : State) (q f) : (s.onQueue q f).attRunning = s.attRunning := rfl
@[simp] theorem State.onQueue_attSig (s : State) (q f) : (s.onQueue q f).attSig = s.attSig := rfl
@[simp] theorem State.onQueue_bootCnt (s : State) (q f) : (s.onQueue q f).bootCnt = s.bootCnt := rfl
@[simp] theorem State.onQueue_ports (s : State) (q f) : (s.onQueue q f).ports = s.ports := rfl
@[simp] theorem State.onQueue_routes (s : State) (q f) : (s.onQueue q f).routes = s.routes := rfl
@[simp] theorem State.onQueue_tickets (s : State) (q f) : (s.onQueue q f).tickets = s.tickets := rfl
@[simp] theorem State.onQueue_silent (s : State) (q f) : (s.onQueue q f).silent = s.silent := rfl
@[simp] theorem State.onQueue_powered (s : State) (q f) : (s.onQueue q f).powered = s.powered := rfl
@[simp] theorem State.onQueue_heldInReset (s : State) (q f) : (s.onQueue q f).heldInReset = s.heldInReset := rfl
@[simp] theorem State.onQueue_retries (s : State) (q f) : (s.onQueue q f).retries = s.retries := rfl
@[simp] theorem State.onQueue_issued (s : State) (q f) : (s.onQueue q f).issued = s.issued := rfl
@[simp] theorem State.onQueue_hostOwned (s : State) (q f) : (s.onQueue q f).hostOwned = s.hostOwned := rfl
@[simp] theorem State.onQueue_remotePoison (s : State) (q f) : (s.onQueue q f).remotePoison = s.remotePoison := rfl
@[simp] theorem State.onQueue_lmbLow (s : State) (q f) : (s.onQueue q f).lmbLow = s.lmbLow := rfl
@[simp] theorem State.onQueue_hostCandidates (s : State) (q f) : (s.onQueue q f).hostCandidates = s.hostCandidates := rfl
@[simp] theorem State.onQueue_corrected (s : State) (q f) : (s.onQueue q f).corrected = s.corrected := rfl
@[simp] theorem State.onQueue_coreErrors (s : State) (q f) : (s.onQueue q f).coreErrors = s.coreErrors := rfl
@[simp] theorem State.onQueue_patrolAt (s : State) (q f) : (s.onQueue q f).patrolAt = s.patrolAt := rfl
@[simp] theorem State.onQueue_harts (s : State) (q f) : (s.onQueue q f).harts = s.harts := rfl
@[simp] theorem State.onQueue_sram (s : State) (q f) : (s.onQueue q f).sram = s.sram := rfl
@[simp] theorem State.onQueue_bootLow (s : State) (q f) : (s.onQueue q f).bootLow = s.bootLow := rfl
@[simp] theorem State.onQueue_ticking (s : State) (q f) : (s.onQueue q f).ticking = s.ticking := rfl
@[simp] theorem State.onQueue_stopAsked (s : State) (q f) : (s.onQueue q f).stopAsked = s.stopAsked := rfl
@[simp] theorem State.onQueue_dqLow (s : State) (q f) : (s.onQueue q f).dqLow = s.dqLow := rfl
@[simp] theorem State.onQueue_copies (s : State) (q f) : (s.onQueue q f).copies = s.copies := rfl

end Sys2Proof.Machine
end

