-- ==== Sys2Proof/Tests/Slice0.lean ====
section
/-! SUPPORT. Tests of the model: words written out from the spec's encodings, an ill-formed term for each check of R101 on slot words, small
results that the rules work out, and for each statement states and operands that meet its hypotheses. -/

namespace Sys2Proof.Tests

open Sys2Proof.Machine Sys2Proof.Claims

set_option Elab.async false

/-! ### Decoding -/

/-- The decoder reads each word as the operation beside it. -/
def readsAll (l : List (Word128 × Instr)) : Bool :=
  l.all (fun p => match decodeWord p.1 with | .ok i => decide (i = p.2) | .error _ => false)

set_option maxRecDepth 20000 in
/-- Words of the integer class, field by field from R75 to R87, and what they stand for. -/
theorem test_decode_integer : readsAll [
    (0x0080101C003002090303000000000000, .add ⟨.s8, 0, .none, .pool 7, .token, .absent, .port 9 0 .a, .stacks 3, 0x0, 0x0⟩),
    (0x0190101C003002090303000000000000, .sub ⟨.n8, 0, .none, .pool 7, .token, .absent, .port 9 0 .a, .stacks 3, 0x0, 0x0⟩),
    (0x0260101C003002090303000000000000, .mul ⟨.s16, 0, .none, .pool 7, .token, .absent, .port 9 0 .a, .stacks 3, 0x0, 0x0⟩),
    (0x0370101C003002090303000000000000, .mulh ⟨.n16, 0, .none, .pool 7, .token, .absent, .port 9 0 .a, .stacks 3, 0x0, 0x0⟩),
    (0x0520101C003002090303000000000000, .div ⟨.s32, 0, .none, .pool 7, .token, .absent, .port 9 0 .a, .stacks 3, 0x0, 0x0⟩),
    (0x0640101C003002090303000000000000, .rem ⟨.n32, 0, .none, .pool 7, .token, .absent, .port 9 0 .a, .stacks 3, 0x0, 0x0⟩),
    (0x0930101C003002090303000000000000, .min ⟨.s64, 0, .none, .pool 7, .token, .absent, .port 9 0 .a, .stacks 3, 0x0, 0x0⟩),
    (0x0A50101C003002090303000000000000, .max ⟨.n64, 0, .none, .pool 7, .token, .absent, .port 9 0 .a, .stacks 3, 0x0, 0x0⟩),
    (0x0450400202DFFE7FFC00000000000000, .mad ⟨.n64, 0, .ifTrue, .token, .const .slot, .pool 1023, .port 127 15 .p, .none, 0x0, 0x0⟩),
    (0x07600003003002090000000000000000, .neg ⟨.s16, 0, .none, .token, .absent, .absent, .port 9 0 .a, .none, 0x0, 0x0⟩),
    (0x083000030030037F0000000000000000, .abs ⟨.s64, 0, .none, .token, .absent, .absent, .stacks 127, .none, 0x0, 0x0⟩),
    (0x0B00000203F002031604280000000000, .and ⟨.b32, 0, .none, .token, .const .param, .absent, .port 3 1 .b, .port 4 2 .c, 0x0, 0x0⟩),
    (0x0C10000203F002031604280000000000, .or ⟨.b64, 0, .none, .token, .const .param, .absent, .port 3 1 .b, .port 4 2 .c, 0x0, 0x0⟩),
    (0x0D00000203F002031604280000000000, .xor ⟨.b32, 0, .none, .token, .const .param, .absent, .port 3 1 .b, .port 4 2 .c, 0x0, 0x0⟩),
    (0x0F10000203F002031604280000000000, .shl ⟨.b64, 0, .none, .token, .const .param, .absent, .port 3 1 .b, .port 4 2 .c, 0x0, 0x0⟩),
    (0x1000000203F002031604280000000000, .shr ⟨.b32, 0, .none, .token, .const .param, .absent, .port 3 1 .b, .port 4 2 .c, 0x0, 0x0⟩),
    (0x1110000203F002031604280000000000, .sar ⟨.b64, 0, .none, .token, .const .param, .absent, .port 3 1 .b, .port 4 2 .c, 0x0, 0x0⟩),
    (0x1200000203F002031604280000000000, .rol ⟨.b32, 0, .none, .token, .const .param, .absent, .port 3 1 .b, .port 4 2 .c, 0x0, 0x0⟩),
    (0x1310000203F002031604280000000000, .ror ⟨.b64, 0, .none, .token, .const .param, .absent, .port 3 1 .b, .port 4 2 .c, 0x0, 0x0⟩),
    (0x0E108003003002039C00000000000000, .not ⟨.b64, 0, .ifFalse, .token, .absent, .absent, .port 3 9 .p, .none, 0x0, 0x0⟩),
    (0x14008003003002039C00000000000000, .clz ⟨.b32, 0, .ifFalse, .token, .absent, .absent, .port 3 9 .p, .none, 0x0, 0x0⟩),
    (0x15108003003002039C00000000000000, .ctz ⟨.b64, 0, .ifFalse, .token, .absent, .absent, .port 3 9 .p, .none, 0x0, 0x0⟩),
    (0x16008003003002039C00000000000000, .popc ⟨.b32, 0, .ifFalse, .token, .absent, .absent, .port 3 9 .p, .none, 0x0, 0x0⟩),
    (0x17108003003002039C00000000000000, .brev ⟨.b64, 0, .ifFalse, .token, .absent, .absent, .port 3 9 .p, .none, 0x0, 0x0⟩),
    (0x18300003003002090000000000003F00, .bfx ⟨.s64, 0, .none, .token, .absent, .absent, .port 9 0 .a, .none, 0x0, 0x3F00⟩),
    (0x1900000100B002090000000000000718, .bfi ⟨.b32, 0, .none, .token, .pool 2, .absent, .port 9 0 .a, .none, 0x0, 0x718⟩),
    (0x1A250002003002090000000000000000, .cmp ⟨.s32, 5, .none, .token, .const .tid, .absent, .port 9 0 .a, .none, 0x0, 0x0⟩),
    (0x1B100001002032090000000000000000, .sel ⟨.b64, 0, .none, .token, .pool 0, .const .iter, .port 9 0 .a, .none, 0x0, 0x0⟩),
    (0x1C200003003002090000000000000020, .sext ⟨.s32, 0, .none, .token, .absent, .absent, .port 9 0 .a, .none, 0x0, 0x20⟩),
    (0x1D500003003002090000000000000001, .zext ⟨.n64, 0, .none, .token, .absent, .absent, .port 9 0 .a, .none, 0x0, 0x1⟩),
    (0x1E50000000000209020A080000000000, .addc ⟨.n64, 0, .none, .token, .token, .token, .port 9 0 .a, .port 10 0 .c, 0x0, 0x0⟩),
    (0x1F400000003002090000000000000000, .subb ⟨.n32, 0, .none, .token, .token, .absent, .port 9 0 .a, .none, 0x0, 0x0⟩),
    (0x20100001027002090000000000000007, .lea ⟨.b64, 0, .none, .token, .pool 9, .absent, .port 9 0 .a, .none, 0x0, 0x7⟩),
    (0x21F00003003002090000000000000000, .mov ⟨.bh2, 0, .none, .token, .absent, .absent, .port 9 0 .a, .none, 0x0, 0x0⟩),
    (0x228000030030020900000000FFFFFF80, .const ⟨.s8, 0, .none, .token, .absent, .absent, .port 9 0 .a, .none, 0x0, 0xFFFFFF80⟩)] = true := by decide

set_option maxRecDepth 20000 in
/-- Words of the float class, field by field from R75 to R87, and what they stand for. -/
theorem test_decode_float : readsAll [
    (0x30A0000100F002090000000000000000, .fadd ⟨.f16, 0, .none, .token, .pool 3, .absent, .port 9 0 .a, .none, 0x0, 0x0⟩),
    (0x31B1000100F002090000000000000000, .fsub ⟨.bf16, 1, .none, .token, .pool 3, .absent, .port 9 0 .a, .none, 0x0, 0x0⟩),
    (0x32C2000100F002090000000000000000, .fmul ⟨.f32, 2, .none, .token, .pool 3, .absent, .port 9 0 .a, .none, 0x0, 0x0⟩),
    (0x36D3000100F002090000000000000000, .fmin ⟨.f64, 3, .none, .token, .pool 3, .absent, .port 9 0 .a, .none, 0x0, 0x0⟩),
    (0x37A8000100F002090000000000000000, .fmax ⟨.f16, 8, .none, .token, .pool 3, .absent, .port 9 0 .a, .none, 0x0, 0x0⟩),
    (0x3DBB000100F002090000000000000000, .fdiv ⟨.bf16, 11, .none, .token, .pool 3, .absent, .port 9 0 .a, .none, 0x0, 0x0⟩),
    (0x33C40000000002090000000000000000, .ffma ⟨.f32, 4, .none, .token, .token, .token, .port 9 0 .a, .none, 0x0, 0x0⟩),
    (0x3CA00003003002090302000000000000, .frnd ⟨.f16, 0, .none, .token, .absent, .absent, .port 9 0 .a, .stacks 2, 0x0, 0x0⟩),
    (0x3EB10003003002090302000000000000, .frcp ⟨.bf16, 1, .none, .token, .absent, .absent, .port 9 0 .a, .stacks 2, 0x0, 0x0⟩),
    (0x3FC20003003002090302000000000000, .fsqrt ⟨.f32, 2, .none, .token, .absent, .absent, .port 9 0 .a, .stacks 2, 0x0, 0x0⟩),
    (0x40D30003003002090302000000000000, .frsq ⟨.f64, 3, .none, .token, .absent, .absent, .port 9 0 .a, .stacks 2, 0x0, 0x0⟩),
    (0x47A40003003002090302000000000000, .ffrexp ⟨.f16, 4, .none, .token, .absent, .absent, .port 9 0 .a, .stacks 2, 0x0, 0x0⟩),
    (0x41C00003003002090000000000000000, .fexp2 ⟨.f32, 0, .none, .token, .absent, .absent, .port 9 0 .a, .none, 0x0, 0x0⟩),
    (0x42C00003003002090000000000000000, .flog2 ⟨.f32, 0, .none, .token, .absent, .absent, .port 9 0 .a, .none, 0x0, 0x0⟩),
    (0x43C00003003002090000000000000000, .fsin ⟨.f32, 0, .none, .token, .absent, .absent, .port 9 0 .a, .none, 0x0, 0x0⟩),
    (0x44C00003003002090000000000000000, .fcos ⟨.f32, 0, .none, .token, .absent, .absent, .port 9 0 .a, .none, 0x0, 0x0⟩),
    (0x34D04003003002090000000000000000, .fneg ⟨.f64, 0, .ifTrue, .token, .absent, .absent, .port 9 0 .a, .none, 0x0, 0x0⟩),
    (0x35D04003003002090000000000000000, .fabs ⟨.f64, 0, .ifTrue, .token, .absent, .absent, .port 9 0 .a, .none, 0x0, 0x0⟩),
    (0x45D04003003002090000000000000000, .fclass ⟨.f64, 0, .ifTrue, .token, .absent, .absent, .port 9 0 .a, .none, 0x0, 0x0⟩),
    (0x38B70000003002090000000000000000, .fcmp ⟨.bf16, 7, .none, .token, .token, .absent, .port 9 0 .a, .none, 0x0, 0x0⟩),
    (0x39A0000300300209000000000000000C, .fcvt ⟨.f16, 0, .none, .token, .absent, .absent, .port 9 0 .a, .none, 0x0, 0xC⟩),
    (0x3A92000300300209000000000000000D, .fcvti ⟨.n8, 2, .none, .token, .absent, .absent, .port 9 0 .a, .none, 0x0, 0xD⟩),
    (0x3BD00003003002090000000000000003, .icvtf ⟨.f64, 0, .none, .token, .absent, .absent, .port 9 0 .a, .none, 0x0, 0x3⟩),
    (0x46C00000003002090000000000000000, .fscale ⟨.f32, 0, .none, .token, .token, .absent, .port 9 0 .a, .none, 0x0, 0x0⟩),
    (0x48A00000003002090000000000000002, .fsign ⟨.f16, 0, .none, .token, .token, .absent, .port 9 0 .a, .none, 0x0, 0x2⟩),
    (0x4900000300300209000000000000000C, .fpmodeImm ⟨.b32, 0, .none, .token, .absent, .absent, .port 9 0 .a, .none, 0x0, 0xC⟩),
    (0x49010003003002090000000000000000, .fpmodeVal ⟨.b32, 1, .none, .token, .absent, .absent, .port 9 0 .a, .none, 0x0, 0x0⟩),
    (0x4AE00000003002090000000000000000, .hadd2 ⟨.h2, 0, .none, .token, .token, .absent, .port 9 0 .a, .none, 0x0, 0x0⟩),
    (0x4BE00000003002090000000000000000, .hmul2 ⟨.h2, 0, .none, .token, .token, .absent, .port 9 0 .a, .none, 0x0, 0x0⟩),
    (0x4CF00000000002090000000000000000, .hfma2 ⟨.bh2, 0, .none, .token, .token, .token, .port 9 0 .a, .none, 0x0, 0x0⟩),
    (0x4DF10000003002090000000000000000, .fdot2 ⟨.bh2, 1, .none, .token, .token, .absent, .port 9 0 .a, .none, 0x0, 0x0⟩),
    (0x4EE10003003002090000000000000000, .ecatch ⟨.h2, 1, .none, .token, .absent, .absent, .port 9 0 .a, .none, 0x0, 0x0⟩)] = true := by decide

set_option maxRecDepth 20000 in
/-- Words of the block class, field by field from R75 to R87, and what they stand for. -/
theorem test_decode_block : readsAll [
    (0x60A00003003002141215044000000100, .bmax ⟨.f16, 0, .none, .token, .absent, .absent, .port 20 1 .a, .port 21 0 .b, 0x4, 0x100⟩),
    (0x61400003003002090000000000000000, .bscale ⟨.n32, 0, .none, .token, .absent, .absent, .port 9 0 .a, .none, 0x0, 0x0⟩),
    (0x62D0000300300209000003C000000000, .bquant ⟨.f64, 0, .none, .token, .absent, .absent, .port 9 0 .a, .none, 0x3C, 0x0⟩),
    (0x63B10003003002090000008000000000, .bdequant ⟨.bf16, 1, .none, .token, .absent, .absent, .port 9 0 .a, .none, 0x8, 0x0⟩),
    (0x6410000300300209000001C000000100, .bpack ⟨.b64, 0, .none, .token, .absent, .absent, .port 9 0 .a, .none, 0x1C, 0x100⟩),
    (0x65100003003002090000014000000000, .bunpack ⟨.b64, 0, .none, .token, .absent, .absent, .port 9 0 .a, .none, 0x14, 0x0⟩),
    (0x66C00000000002090000038000070100, .bdot ⟨.f32, 0, .none, .token, .token, .token, .port 9 0 .a, .none, 0x38, 0x70100⟩),
    (0x67000003003002090209104000000000, .bsfwd ⟨.b32, 0, .none, .token, .absent, .absent, .port 9 0 .a, .port 9 1 .a, 0x4, 0x0⟩)] = true := by decide

set_option maxRecDepth 20000 in
/-- Words of the routing class, field by field from R75 to R87, and what they stand for. -/
theorem test_decode_routing : readsAll [
    (0x7000300300300209000000000000007F, .entry ⟨.b32, 0, .none, .absent, .absent, .absent, .port 9 0 .a, .none, 0x0, 0x7F⟩),
    (0x71000003003002090000000000000005, .lvr ⟨.b32, 0, .none, .token, .absent, .absent, .port 9 0 .a, .none, 0x0, 0x5⟩),
    (0x72000003003000000000000000000006, .lvw ⟨.b32, 0, .none, .token, .absent, .absent, .none, .none, 0x0, 0x6⟩),
    (0x7300000300300209020554008240C140, .fan ⟨.b32, 0, .none, .token, .absent, .absent, .port 9 0 .a, .port 5 5 .b, 0x0, 0x8240C140⟩),
    (0x74000000003002090203300000000000, .steer ⟨.b32, 0, .none, .token, .token, .absent, .port 9 0 .a, .port 3 3 .a, 0x0, 0x0⟩),
    (0x75000000003002090000000000000000, .mergeFirst ⟨.b32, 0, .none, .token, .token, .absent, .port 9 0 .a, .none, 0x0, 0x0⟩),
    (0x75010000003002090000000000000000, .mergeJoin ⟨.b32, 1, .none, .token, .token, .absent, .port 9 0 .a, .none, 0x0, 0x0⟩),
    (0x76000003003000000000000000000000, .sink ⟨.b32, 0, .none, .token, .absent, .absent, .none, .none, 0x0, 0x0⟩),
    (0x7740000100500A09000000000000013F, .lhead ⟨.n32, 0, .none, .token, .pool 1, .pool 2, .port 9 0 .a, .none, 0x0, 0x13F⟩),
    (0x78110001004002090000000000000008, .lsparse ⟨.b64, 1, .none, .token, .pool 1, .token, .port 9 0 .a, .none, 0x0, 0x8⟩),
    (0x79000003003002090000000000000000, .ltail ⟨.b32, 0, .none, .token, .absent, .absent, .port 9 0 .a, .none, 0x0, 0x0⟩),
    (0x7A000000003002090000000000000000, .lexit ⟨.b32, 0, .none, .token, .token, .absent, .port 9 0 .a, .none, 0x0, 0x0⟩),
    (0x7B000003003000000000000000000403, .br ⟨.b32, 0, .none, .token, .absent, .absent, .none, .none, 0x0, 0x403⟩),
    (0x7C00000300300000000000000000007F, .jmp ⟨.b32, 0, .none, .token, .absent, .absent, .none, .none, 0x0, 0x7F⟩),
    (0x7D00000300300000000000000000FF08, .brx ⟨.b32, 0, .none, .token, .absent, .absent, .none, .none, 0x0, 0xFF08⟩),
    (0x7E000003001004000000000000000102, .call ⟨.b32, 0, .none, .token, .absent, .pool 1, .none, .none, 0x0, 0x102⟩),
    (0x7F000003003000000000000000000000, .ret ⟨.b32, 0, .none, .token, .absent, .absent, .none, .none, 0x0, 0x0⟩),
    (0x80000003003000000000000000000000, .exit ⟨.b32, 0, .none, .token, .absent, .absent, .none, .none, 0x0, 0x0⟩),
    (0x81000003003000000000000000000F03, .barSync ⟨.b32, 0, .none, .token, .absent, .absent, .none, .none, 0x0, 0xF03⟩),
    (0x81010003003000000000000000000F03, .barArrive ⟨.b32, 1, .none, .token, .absent, .absent, .none, .none, 0x0, 0xF03⟩),
    (0x81020003003000000000000000000F03, .barWait ⟨.b32, 2, .none, .token, .absent, .absent, .none, .none, 0x0, 0xF03⟩),
    (0x82000003003002090000000000000000, .gate ⟨.b32, 0, .none, .token, .absent, .absent, .port 9 0 .a, .none, 0x0, 0x0⟩),
    (0x83000003003002090000000000000000, .release ⟨.b32, 0, .none, .token, .absent, .absent, .port 9 0 .a, .none, 0x0, 0x0⟩),
    (0x84000003003000000000000000000000, .trap ⟨.b32, 0, .none, .token, .absent, .absent, .none, .none, 0x0, 0x0⟩)] = true := by decide

set_option maxRecDepth 20000 in
/-- Words of the memory class, field by field from R75 to R87, and what they stand for. -/
theorem test_decode_memory : readsAll [
    (0x901000030030020102020D7000000001, .ld ⟨.b64, 0, .none, .token, .absent, .absent, .port 1 0 .a, .port 2 0 .p, 0x17, 0x1⟩),
    (0x91900000003002090000022000000004, .st ⟨.n8, 0, .none, .token, .token, .absent, .port 9 0 .a, .none, 0x22, 0x4⟩),
    (0x92DA00000030020902020F6000000002, .atom ⟨.f64, 10, .none, .token, .token, .absent, .port 9 0 .a, .port 2 0 .p, 0x36, 0x2⟩),
    (0x93000000000002090000008000000003, .cas ⟨.b32, 0, .none, .token, .token, .token, .port 9 0 .a, .none, 0x8, 0x3⟩),
    (0x94100000000002090000006000000001, .cas2 ⟨.b64, 0, .none, .token, .token, .token, .port 9 0 .a, .none, 0x6, 0x1⟩),
    (0x9501000300300209000003A000000000, .fence ⟨.b32, 1, .none, .token, .absent, .absent, .port 9 0 .a, .none, 0x3A, 0x0⟩),
    (0x96000003003002090000000000000000, .sptest ⟨.b32, 0, .none, .token, .absent, .absent, .port 9 0 .a, .none, 0x0, 0x0⟩),
    (0x97000003003002090000000000000002, .spcastTo ⟨.b32, 0, .none, .token, .absent, .absent, .port 9 0 .a, .none, 0x0, 0x2⟩),
    (0x97010003003002090000000000000004, .spcastFrom ⟨.b32, 1, .none, .token, .absent, .absent, .port 9 0 .a, .none, 0x0, 0x4⟩),
    (0x98010003003002090000001000000001, .pref ⟨.b32, 1, .none, .token, .absent, .absent, .port 9 0 .a, .none, 0x1, 0x1⟩),
    (0x99600003003002090000001000001F00, .gth ⟨.s16, 0, .none, .token, .absent, .absent, .port 9 0 .a, .none, 0x1, 0x1F00⟩),
    (0x9A10000000300209000000000000DF00, .sct ⟨.b64, 0, .none, .token, .token, .absent, .port 9 0 .a, .none, 0x0, 0xDF00⟩),
    (0x9B000000000002090000000000002001, .mtld ⟨.b32, 0, .none, .token, .token, .token, .port 9 0 .a, .none, 0x0, 0x2001⟩),
    (0x9C000000000002090000000000000304, .mtst ⟨.b32, 0, .none, .token, .token, .token, .port 9 0 .a, .none, 0x0, 0x304⟩)] = true := by decide

set_option maxRecDepth 20000 in
/-- Words of the gang class, field by field from R75 to R87, and what they stand for. -/
theorem test_decode_gang : readsAll [
    (0xC0C30000003002090000000000010000, .shfl ⟨.f32, 3, .none, .token, .token, .absent, .port 9 0 .a, .none, 0x0, 0x10000⟩),
    (0xC1100000003002090000000000000000, .lpush ⟨.b64, 0, .none, .token, .token, .absent, .port 9 0 .a, .none, 0x0, 0x0⟩),
    (0xC2020003003002090000000000000000, .vote ⟨.b32, 2, .none, .token, .absent, .absent, .port 9 0 .a, .none, 0x0, 0x0⟩),
    (0xC3200003003002090000004000030000, .gscan ⟨.s32, 0, .none, .token, .absent, .absent, .port 9 0 .a, .none, 0x4, 0x30000⟩),
    (0xC4C10003003002090000002000010000, .gred ⟨.f32, 1, .none, .token, .absent, .absent, .port 9 0 .a, .none, 0x2, 0x10000⟩),
    (0xC57000030030020900000000000100FF, .gbcast ⟨.n16, 0, .none, .token, .absent, .absent, .port 9 0 .a, .none, 0x0, 0x100FF⟩),
    (0xC6100003003002090000000000000000, .gmatch ⟨.b64, 0, .none, .token, .absent, .absent, .port 9 0 .a, .none, 0x0, 0x0⟩),
    (0xC7500000003002090000000000000000, .xbegin ⟨.n64, 0, .none, .token, .token, .absent, .port 9 0 .a, .none, 0x0, 0x0⟩),
    (0xC840000101300209000000000000003F, .xround ⟨.n32, 0, .none, .token, .pool 4, .absent, .port 9 0 .a, .none, 0x0, 0x3F⟩),
    (0xC9D00000003002090000001000000000, .xsegred ⟨.f64, 0, .none, .token, .token, .absent, .port 9 0 .a, .none, 0x1, 0x0⟩),
    (0xCA600003003002090000000000000000, .xend ⟨.s16, 0, .none, .token, .absent, .absent, .port 9 0 .a, .none, 0x0, 0x0⟩)] = true := by decide

set_option maxRecDepth 20000 in
/-- Words of the matrix class, field by field from R75 to R87, and what they stand for. -/
theorem test_decode_matrix : readsAll [
    (0xD0C3000300300209000000A0000000FF, .mxop ⟨.f32, 3, .none, .token, .absent, .absent, .port 9 0 .a, .none, 0xA, 0xFF⟩),
    (0xD1D000030030020900000000000000FF, .mxzero ⟨.f64, 0, .none, .token, .absent, .absent, .port 9 0 .a, .none, 0x0, 0xFF⟩),
    (0xD2C00003003002090000000000001F01, .mxld ⟨.f32, 0, .none, .token, .absent, .absent, .port 9 0 .a, .none, 0x0, 0x1F01⟩),
    (0xD3C00003003003010000000000000002, .mxrd ⟨.f32, 0, .none, .token, .absent, .absent, .stacks 1, .none, 0x0, 0x2⟩),
    (0xD4D00003003002090000000000002003, .mxst ⟨.f64, 0, .none, .token, .absent, .absent, .port 9 0 .a, .none, 0x0, 0x2003⟩),
    (0xD5000003003002090000000000000004, .mxrel ⟨.b32, 0, .none, .token, .absent, .absent, .port 9 0 .a, .none, 0x0, 0x4⟩),
    (0xD6000003003002090000000000000000, .mxinfo ⟨.b32, 0, .none, .token, .absent, .absent, .port 9 0 .a, .none, 0x0, 0x0⟩)] = true := by decide

set_option maxRecDepth 20000 in
/-- Words of the copy class, field by field from R75 to R87, and what they stand for. -/
theorem test_decode_copy : readsAll [
    (0xE00100000000020900000030007F0000, .cpy ⟨.b32, 1, .none, .token, .token, .token, .port 9 0 .a, .none, 0x3, 0x7F0000⟩),
    (0xE1000000003002090000001000000F00, .cpyms ⟨.b32, 0, .none, .token, .token, .absent, .port 9 0 .a, .none, 0x1, 0xF00⟩),
    (0xE2010003003002090000000000450700, .cpysm ⟨.b32, 1, .none, .token, .absent, .absent, .port 9 0 .a, .none, 0x0, 0x450700⟩),
    (0xE3000003003002090000000000003A00, .cpyss ⟨.b32, 0, .none, .token, .absent, .absent, .port 9 0 .a, .none, 0x0, 0x3A00⟩),
    (0xE40000000000020900000020000000FF, .cpymc ⟨.b32, 0, .none, .token, .token, .token, .port 9 0 .a, .none, 0x2, 0xFF⟩),
    (0xE59000000030020902022C0000000900, .sget ⟨.n8, 0, .none, .token, .token, .absent, .port 9 0 .a, .port 2 2 .p, 0x0, 0x900⟩),
    (0xE610000100F002090000000000000100, .sput ⟨.b64, 0, .none, .token, .pool 3, .absent, .port 9 0 .a, .none, 0x0, 0x100⟩),
    (0xE7000003003002090000000000000200, .sclose ⟨.b32, 0, .none, .token, .absent, .absent, .port 9 0 .a, .none, 0x0, 0x200⟩),
    (0xE80000030030020900000000006A0000, .chdone ⟨.b32, 0, .none, .token, .absent, .absent, .port 9 0 .a, .none, 0x0, 0x6A0000⟩),
    (0xE90300030030020900000000000000FF, .ewait ⟨.b32, 3, .none, .token, .absent, .absent, .port 9 0 .a, .none, 0x0, 0xFF⟩),
    (0xEA02000300300209000000000000000F, .agcfg ⟨.b32, 2, .none, .token, .absent, .absent, .port 9 0 .a, .none, 0x0, 0xF⟩)] = true := by decide

set_option maxRecDepth 20000 in
/-- Words of the record class, field by field from R75 to R87, and what they stand for. -/
theorem test_decode_record : readsAll [
    (0xF0000003003002090000003000000000, .recalloc ⟨.b32, 0, .none, .token, .absent, .absent, .port 9 0 .a, .none, 0x3, 0x0⟩),
    (0xF1D00000000002090000001000000000, .recw ⟨.f64, 0, .none, .token, .token, .token, .port 9 0 .a, .none, 0x1, 0x0⟩),
    (0xF2700003003002090000000000000000, .recrd ⟨.n16, 0, .none, .token, .absent, .absent, .port 9 0 .a, .none, 0x0, 0x0⟩),
    (0xF3000003003002090000000000000000, .recemit ⟨.b32, 0, .none, .token, .absent, .absent, .port 9 0 .a, .none, 0x0, 0x0⟩),
    (0xF4000003003002090000000000000000, .recinfo ⟨.b32, 0, .none, .token, .absent, .absent, .port 9 0 .a, .none, 0x0, 0x0⟩)] = true := by decide

set_option maxRecDepth 20000 in
/-- Words of the system class, field by field from R75 to R87, and what they stand for. -/
theorem test_decode_system : readsAll [
    (0xF8000003003002090000000000000000, .nop ⟨.b32, 0, .none, .token, .absent, .absent, .port 9 0 .a, .none, 0x0, 0x0⟩),
    (0xF9000003003002090000000000000000, .rdclk ⟨.b32, 0, .none, .token, .absent, .absent, .port 9 0 .a, .none, 0x0, 0x0⟩),
    (0xFA000003003002090000000000000007, .rdctr ⟨.b32, 0, .none, .token, .absent, .absent, .port 9 0 .a, .none, 0x0, 0x7⟩),
    (0xFB000003003002090000000000000005, .sysrd ⟨.b32, 0, .none, .token, .absent, .absent, .port 9 0 .a, .none, 0x0, 0x5⟩),
    (0xFC000003003002090000000000000100, .syswr ⟨.b32, 0, .none, .token, .absent, .absent, .port 9 0 .a, .none, 0x0, 0x100⟩),
    (0xFD00000300300000000000000000FFFF, .brk ⟨.b32, 0, .none, .token, .absent, .absent, .none, .none, 0x0, 0xFFFF⟩),
    (0xFE000003003002090000000000000003, .hint ⟨.b32, 0, .none, .token, .absent, .absent, .port 9 0 .a, .none, 0x0, 0x3⟩),
    (0xFF000003003002090000000000000007, .fltrd ⟨.b32, 0, .none, .token, .absent, .absent, .port 9 0 .a, .none, 0x0, 0x7⟩),
    (0xFF010003003002090000000000000006, .fltrdClr ⟨.b32, 1, .none, .token, .absent, .absent, .port 9 0 .a, .none, 0x0, 0x6⟩)] = true := by decide
/-! ### Words that the checks refuse (R101) -/

/-- A slot word with a token on A and nothing else. -/
def w0 : SlotWord := ⟨.b32, 0, .none, .token, .absent, .absent, .none, .none, 0, 0⟩

/-- A slot word with tokens on A and B. -/
def w2 : SlotWord := { w0 with b := .token }

/-- A slot word with tokens on A, B and C. -/
def w3 : SlotWord := { w2 with c := .token }

/-- Each operation fails the check beside it. -/
def failsAll (l : List (Instr × Nat)) : Bool := l.all (fun p => p.1.check == some p.2)

/-- Types (check 2): a type outside the row's set, a type where none is read, and the sets that depend on an operation. -/
theorem test_wf_types : failsAll [
    (.add { w2 with ty := .b32 }, 2), (.neg { w0 with ty := .n32 }, 2), (.bfi { w2 with ty := .s32 }, 2),
    (.bfx { w0 with ty := .b32 }, 2), (.fexp2 { w0 with ty := .f64 }, 2), (.nop { w0 with ty := .s32 }, 2),
    (.atom { w2 with ty := .b32, mod := 0, xf := 0x06 }, 2), (.atom { w2 with ty := .n32, mod := 12, xf := 0x06 }, 2),
    (.gred { w0 with ty := .b32, xf := 0 }, 2), (.gscan { w0 with ty := .n32, xf := 6 }, 2), (.xend { w0 with ty := .h2 }, 2),
    (.mxop { w0 with ty := .f64, xf := 0x09 }, 2)]
    = true := by decide

/-- MOD (check 3). -/
theorem test_wf_mod : failsAll [
    (.add { w2 with ty := .s32, mod := 1 }, 3), (.shfl { w2 with mod := 4 }, 3), (.cmp { w2 with ty := .b64, mod := 2 }, 3),
    (.cmp { w2 with ty := .s64, mod := 6 }, 3), (.fadd { w2 with ty := .f32, mod := 6 }, 3),
    (.lsparse { w2 with ty := .b32, mod := 1 }, 3), (.gred { w0 with ty := .s32, mod := 1 }, 3),
    (.mxop { w0 with ty := .f32, mod := 2 }, 3)] = true := by decide

/-- Predicates (check 4), and an order-in beside a predicate, which is a class-field rule (check 6). -/
theorem test_wf_predicate : failsAll [
    (.entry { w0 with a := .absent, pm := .ifTrue }, 4), (.br { w0 with pm := .ifFalse }, 4), (.bmax { w0 with ty := .f32, pm := .ifTrue }, 4),
    (.ld { w0 with pm := .ifTrue, xf := 1 }, 6), (.pref { w0 with pm := .ifTrue, xf := 1 }, 6)] = true := by decide

/-- Class flags (check 6): orderings, scopes, widths and reductions. -/
theorem test_wf_flags : failsAll [
    (.add { w2 with ty := .s32, xf := 1 }, 6), (.bquant { w0 with ty := .f32, xf := 0 }, 6), (.bmax { w0 with ty := .f32, xf := 8 }, 6),
    (.ld { w0 with xf := 0x26 }, 6), (.ld { w0 with xf := 0x10 }, 6), (.ld { w0 with xf := 0x0C }, 6), (.st { w2 with xf := 0x16 }, 6),
    (.atom { w2 with ty := .n32, xf := 0 }, 6), (.cas2 { w3 with ty := .b64, xf := 0 }, 6), (.fence { w0 with xf := 0x06 }, 6),
    (.fence { w0 with mod := 1, xf := 0x16 }, 6), (.gth { w0 with xf := 2 }, 6), (.cpy { w3 with xf := 4 }, 6),
    (.gred { w0 with ty := .s32, xf := 12 }, 6), (.gred { w0 with ty := .s32, xf := 1 }, 6), (.gred { w0 with ty := .f32, xf := 6 }, 6),
    (.mxop { w0 with ty := .f32, xf := 0x01 }, 6), (.cas2 { w2 with ty := .b64, mod := 1, xf := 1 }, 6), (.mxop { w0 with ty := .f32, xf := 0x08 }, 6)] = true := by decide

/-- Operands (check 7): one that is missing, one that is not read, a word without a token port, `sget` without its stream token, and
the tail of `cas2`. -/
theorem test_wf_operands : failsAll [
    (.add { w0 with ty := .s32 }, 7), (.neg { w2 with ty := .s32 }, 7), (.neg { w0 with ty := .s32, a := .pool 1 }, 7),
    (.sget { w0 with b := .pool 0 }, 7), (.const { w2 with ty := .s32 }, 7), (.cas2 { w3 with ty := .b64, mod := 1 }, 7),
    (.cas2 { w2 with ty := .b64, mod := 1, a := .pool 1, b := .pool 2 }, 7),
    (.cas2 { w2 with ty := .b64, mod := 1, imm := 1 }, 7)] = true := by decide

/-- Immediates (check 8). -/
theorem test_wf_immediates : failsAll [
    (.add { w2 with ty := .s32, imm := 1 }, 8), (.lea { w2 with ty := .b64, imm := 8 }, 8), (.bfx { w0 with ty := .s32, imm := 0x1F01 }, 8),
    (.sext { w0 with ty := .s32, imm := 33 }, 8), (.zext { w0 with ty := .n32, imm := 0 }, 8),
    (.const { w0 with ty := .s32, b := .pool 1, imm := 1 }, 8), (.fsign { w2 with ty := .f32, imm := 3 }, 8), (.fcvt { w0 with ty := .f32, imm := 12 }, 8),
    (.icvtf { w0 with ty := .f32, imm := 12 }, 8), (.fpmodeImm { w0 with imm := 6 }, 8), (.bdot { w3 with ty := .f32, xf := 8 }, 8),
    (.ld { w0 with imm := 5 }, 8), (.spcastTo w0, 8), (.gth { w0 with imm := 0x2100 }, 8), (.gth { w0 with imm := 0x6000 }, 8),
    (.mtld { w3 with imm := 0x0005 }, 8), (.mxop { w0 with ty := .f32, xf := 0x09, imm := 0x100 }, 8),
    (.cpy { w3 with imm := 0x10000 }, 8), (.cpymc w3, 8), (.chdone { w0 with imm := 0x10000 }, 8), (.rdctr { w0 with imm := 8 }, 8),
    (.sysrd { w0 with imm := 6 }, 8), (.syswr { w0 with imm := 0x101 }, 8), (.hint { w0 with imm := 4 }, 8),
    (.cas2 { w3 with ty := .b64, xf := 0x06, imm := 5 }, 8)] = true := by decide

/-- Destinations (check 9), and those of `fan` in IMM (checks 9 and 11). -/
theorem test_wf_destinations :
    failsAll [(.br { w0 with d0 := .stacks 1 }, 9), (.sink { w0 with d1 := .stacks 1 }, 9),
      (.ltail { w0 with d1 := .port 1 1 .b }, 9)] = true ∧
    fanCheck (.fan { w0 with imm := 0x00010000 }) = some 9 ∧ fanCheck (.fan { w0 with imm := 0x0000A100 }) = some 11 := by
  decide

/-- Bits [35:32], a predicate mode, a specifier and destinations that the tables leave out are refused (checks 4, 5, 7, 9 and 11). -/
theorem test_wf_words :
    decodeWord 0x00200000003002090000000100000000 = .error 5 ∧ decodeWord 0x0020C000003002090000000000000000 = .error 4 ∧
    decodeWord 0x00200004003002090000000000000000 = .error 7 ∧ decodeWord 0x00200000003000010000000000000000 = .error 9 ∧
    decodeWord 0x00200000003002840000000000000000 = .error 11 := by
  refine ⟨rfl, rfl, rfl, rfl, rfl⟩

/-- Arguments of the hardware's steps that name nothing. -/
theorem test_wf_arguments : ([Instr.faultedDrained 320 0, .faultedDrained 0 8192, .admitWorkgroup 0 40, .flip 320, .tokenArrival 320 0,
    .elementIssue 0 128, .loopIssue 0 0 16, .tileRequestService 320 0, .tileRequestService 0 256, .cacheFill 0 0 65536, .l2Store 0 1 2 0, .l2Store 0 0 3 0,
    .gets 8 0 0, .backInvalidationSnoop 0 0 2, .hostHalfRequest 0 2, .patrolScrub (2 ^ 32), .tableWalk 0 4096 0 .read,
    .atsResponse 9 0 0 .noTranslation, .priResponse 0 (2 ^ 56) .success, .quantumExpiry 1024, .notify 1024 0, .firmwareTimer 64,
    .fenceCore 320 0, .fenceCluster 40 0, .fenceStack 8 0, .fencePort 16 0, .functionReady 58, .muwinPortState 0 4 0 0,
    .mwpStatRead 16 .dword, .launcherTick 8, .remoteUnreachable 4096, .muwinPeerAccess (2 ^ 39) (.read 1)].all
    (fun i => !i.wf)) = true := by decide


/-! ### Small states -/

/-- A machine after reset with a thread in the load of core 0, and an instance of slot 0 of element 0 that fires with these tokens. -/
def live (a b c p : Option Val) : State := { State.reset with
  cores := [(0, { Core.reset with threads := [(0, { Thread.free with state := .inload })] })]
  fire := { Firing.none with a := a, b := b, c := c, p := p } }

/-- Data tokens on A, B and C. -/
def live3 (a b c : Dword) : State := live (some (.data a)) (some (.data b)) (some (.data c)) none

/-- The same machine with its core changed. -/
def onCore0 (s : State) (g : Core → Core) : State := { s with cores := [(0, g (s.core 0))] }

/-- The same machine with its thread changed. -/
def onThread0 (s : State) (g : Thread → Thread) : State := onCore0 s (fun c => { c with threads := [(0, g (c.thread 0))] })

/-- The tokens under way in core 0 after an instruction. -/
def sent (i : Instr) (s : State) : List (Nat × Val) :=
  match exec i s with
  | .next t => (t.core 0).flights.map (fun x => (x.elem, x.val))
  | _ => []

/-- The word with destinations at elements 1 and 2. -/
def to12 (w : SlotWord) : SlotWord := { w with d0 := .port 1 0 .a, d1 := .port 2 0 .a }

/-! ### Witnesses of the statements about decoding and stepping -/

theorem witness_EncodingRoundTrip : ∃ i x, i.wf = true ∧ fanCheck i = none ∧ encode i = some x :=
  ⟨.fan ⟨.b32, 0, .ifFalse, .token, .absent, .absent, .port 127 15 .p, .stacks 127, 0, 0x8240C140⟩, _, by decide +kernel, by decide +kernel, rfl⟩

theorem witness_AcceptedWordsAreEncodings : ∃ x i, decodeWord x = .ok i := ⟨0x00200000003002090000000000000000, _, rfl⟩

theorem witness_WordsDecode :
    (∃ x : Word128, (x.field 120 8).toNat = 0x23 ∧ decodeWord x = .error 1) ∧
    (∃ x : Word128, (x.field 120 8).toNat = 0xF7 ∧ decodeWord x = .error 1) :=
  ⟨⟨0x23 <<< 120, by decide +kernel, rfl⟩, ⟨0xF7000000003000000000000000000000, by decide +kernel, rfl⟩⟩

theorem witness_StepRunsDecodedWord :
    (∃ (s : State) (f : Firing) (x : Word128) (i : Instr), s.powered = true ∧ s.heldInReset = false ∧ s.ready = [f] ∧ f.kept = none ∧
      s.wordOf f = some x ∧ decodeWord x = .ok i) ∧
    (∃ (s : State) (f : Firing) (x : Word128), s.ready = [f] ∧ s.wordOf f = some x ∧ decodeWord x = .error 1) ∧
    (∃ (s : State) (f : Firing), s.ready = [f] ∧ s.wordOf f = none) ∧
    (∃ (s : State) (f : Firing) (h : Kept), s.ready = [f] ∧ f.kept = some h ∧ s.wordOf f = some h.word) :=
  let kept : Firing := { fetchFiring with kept := some ⟨0x21000003003002090000000000000000, w0, 0, 0x100, none, 0x100⟩ }
  ⟨⟨State.reset.withFetchWord 128 0x21000003003002090000000000000000, fetchFiring, _, _, rfl, rfl, rfl, rfl, rfl, rfl⟩,
    ⟨State.reset.withFetchWord 128 0xF7000000003000000000000000000000, fetchFiring, _, rfl, rfl, rfl⟩,
    ⟨{ State.reset with ready := [fetchFiring] }, fetchFiring, rfl, rfl⟩, ⟨{ State.reset with ready := [kept] }, kept, _, rfl, rfl, rfl⟩⟩

theorem witness_StepsWithoutFirings :
    (∃ (s : State) (f : Firing) (x : Word128) (i : Instr), s.powered = true ∧ s.heldInReset = false ∧ s.ready = [] ∧
      s.retries = [.firing f] ∧ s.wordOf f = some x ∧ decodeWord x = .ok i) ∧
    (∃ s : State, s.powered = true ∧ s.heldInReset = false ∧ s.ready = [] ∧ s.retries = [] ∧ s.dueTick = some 0) ∧
    (∃ (s : State) (i : Instr) (more : List Input), s.powered = true ∧ s.heldInReset = false ∧ s.ready = [] ∧ s.retries = [] ∧
      s.dueTick = none ∧ s.inbox = .run i :: more) ∧
    (∃ s : State, s.powered = true ∧ s.heldInReset = false ∧ s.ready = [] ∧ s.retries = [] ∧ s.dueTick = none ∧
      s.inbox = [.hart 7 .fence] ∧ s.inputWaits (.hart 7 .fence) = false) ∧
    (∃ s : State, s.powered = true ∧ s.heldInReset = false ∧ s.ready = [] ∧ s.retries = [] ∧ s.dueTick = none ∧ s.inbox = []) ∧
    (∃ (s : State) (x : Input), s.powered = true ∧ s.heldInReset = false ∧ s.ready = [] ∧ s.retries = [] ∧ s.dueTick = none ∧
      s.inbox = [x] ∧ s.inputWaits x = true) ∧
    (∃ s : State, s.powered = false ∧ s.inbox = []) ∧ (∃ s : State, s.heldInReset = true ∧ s.inbox = [.run .coldReset]) ∧
    (∃ s : State, s.powered = false ∧ s.inbox = [.run .warmReset]) :=
  ⟨⟨{ State.reset.withFetchWord 128 0x21000003003002090000000000000000 with ready := [], retries := [.firing fetchFiring] }, fetchFiring,
      _, _, rfl, rfl, rfl, rfl, rfl, rfl⟩,
    ⟨{ State.reset with time := 16, ticking := true, graphs := [⟨1, 0, 10, 0, 64, 0, 0, 0, [], [], 0, 0, true, false, 0, [], []⟩] }, rfl, rfl, rfl, rfl,
      by decide +kernel⟩,
    ⟨{ State.reset with inbox := [.run .warmReset] }, _, _, rfl, rfl, rfl, rfl, rfl, rfl⟩,
    ⟨{ State.reset with inbox := [.hart 7 .fence] }, rfl, rfl, rfl, rfl, rfl, rfl, by decide +kernel⟩,
    ⟨State.reset, rfl, rfl, rfl, rfl, rfl, rfl⟩,
    ⟨{ State.reset with inbox := [.hart 0 (.load 5 (.device 0x1000) 4 true)] }, _, rfl, rfl, rfl, rfl, rfl, rfl, by decide +kernel⟩,
    ⟨{ State.reset with powered := false }, rfl, rfl⟩, ⟨{ State.reset with heldInReset := true, inbox := [.run .coldReset] }, rfl, rfl⟩,
    ⟨{ State.reset with powered := false, inbox := [.run .warmReset] }, rfl, rfl⟩⟩

theorem witness_StepKeepsMemoryCanonical : ∃ s : State, s.memOk ∧ goesOn s :=
  ⟨State.reset.withFetchWord 128 0x21000003003002090000000000000000, by unfold State.memOk; decide +kernel, _, rfl⟩

theorem witness_EqualReadsEqualMemory : Memory.wf [(3, 1), (7, 2)] = true ∧ ∀ a, cellRead [(3, 1), (7, 2)] a = cellRead [(3, 1), (7, 2)] a :=
  ⟨by decide +kernel, fun _ => rfl⟩

theorem witness_DeviceMemoryCoherent : State.reset.fenceStacks = [] ∧ State.reset.badBursts = [] := ⟨rfl, rfl⟩

/-! ### Witnesses of the statements about values -/

theorem witness_TokenDestinations : (live none none none none).fire.mute = false := rfl

theorem witness_OperandsAndPredicates :
    ((live none none none none).ft (live none none none none).fire).dead = false ∧
    (live none none none (some (.data 0))).go (live none none none (some (.data 0))).fire { w0 with pm := .ifFalse } = .fire ∧
    (live none none none (some (.data 1))).go (live none none none (some (.data 1))).fire { w0 with pm := .ifFalse } = .skip ∧
    (live none none none (some (.err .nan))).go (live none none none (some (.err .nan))).fire { w0 with pm := .ifTrue } = .stop .nan := by
  decide +kernel

/-- States for the kinds of tokens: data, pass, Poison and another error on A, and what the predicate makes of an instance. -/
theorem witness_TokenKinds :
    (Instr.add w2 ∈ valueClass w2 ∧ Instr.sptest w2 ∈ valueClass w2) ∧
    (∃ s : State, s.go s.fire { w2 with pm := .ifTrue } = .skip) ∧ (∃ s : State, s.go s.fire { w2 with pm := .ifTrue } = .stop .posInf) ∧
    (∃ s : State, s.go s.fire { w2 with pm := .ifTrue } = .poison) ∧
    (∃ s : State, s.go s.fire w2 = .fire ∧ Val.pass ∈ [s.opA s.fire w2, s.opB s.fire w2, s.opC s.fire w2]) ∧
    (∃ s : State, s.go s.fire w2 = .fire ∧ Val.pass ∉ [s.opA s.fire w2, s.opB s.fire w2, s.opC s.fire w2] ∧
      Val.err .poison ∈ [s.opA s.fire w2, s.opB s.fire w2, s.opC s.fire w2]) ∧
    (∃ s : State, s.go s.fire w2 = .fire ∧ Val.pass ∉ [s.opA s.fire w2, s.opB s.fire w2, s.opC s.fire w2] ∧
      Val.err .poison ∉ [s.opA s.fire w2, s.opB s.fire w2, s.opC s.fire w2] ∧ s.opA s.fire w2 = .data 7 ∧
      s.opB s.fire w2 = .err .nan) :=
  ⟨⟨by simp [valueClass], by simp [valueClass]⟩, ⟨live none none none (some .pass), by decide +kernel⟩, ⟨live none none none (some (.err .posInf)), by decide +kernel⟩,
    ⟨live none none none (some (.err .poison)), by decide +kernel⟩, ⟨live (some .pass) (some (.err .poison)) none none, by decide +kernel⟩,
    ⟨live (some (.err .nan)) (some (.err .poison)) none none, by decide +kernel⟩,
    ⟨live (some (.data 7)) (some (.err .nan)) none none, by decide +kernel⟩⟩

theorem witness_ValueFrame : ∃ s t, s.go s.fire (to12 w2) ≠ .poison ∧
    Val.err .poison ∉ [s.opA s.fire (to12 w2), s.opB s.fire (to12 w2), s.opC s.fire (to12 w2)] ∧ exec (.add (to12 w2)) s = .next t :=
  ⟨live3 1 2 3, _, by decide +kernel, by decide +kernel, rfl⟩

/-- The premise on stream ports is met by a word that names port 2 of a core which lists it as outbound. -/
theorem witness_ValueFrame_port : ∃ s : State, ∃ w : SlotWord, w.d0 = .island (.sp 2) ∧ s.go s.fire w ≠ .poison ∧
    (∀ d ∈ [w.d0, w.d1], ∀ p, d = .island (.sp p) → sendsTo (s.core s.fire.core) p.toNat) :=
  ⟨onCore0 (live3 1 2 3) (fun c => { c with ports := [(2, ⟨.opened, true, none, [], [], none, false⟩)] }),
    { w2 with d0 := .island (.sp 2) }, rfl, by decide +kernel, by
      intro d hd p e
      simp only [List.mem_cons, List.not_mem_nil, or_false] at hd
      rcases hd with rfl | rfl
      · injection e with e
        injection e with e
        subst e
        exact ⟨_, rfl, rfl, by decide⟩
      · simp [w2, w0] at e⟩

/-- The hypotheses of the statements about integer, bit, field, chain and float instructions: data on every operand; a divisor that is zero
and one that is not; the least numbers; counts at and beyond the width. -/
theorem witness_IntegerArithmetic : ∃ s w a b c, acts s w a b c ∧ readInt w.ty b ≠ 0 :=
  ⟨live3 7 0xFFFFFFFFFFFFFFFF 1, { w3 with ty := .s8 }, _, _, _, ⟨rfl, rfl, rfl, rfl⟩, by decide +kernel⟩
theorem witness_BitInstructions :
    (∃ s w a b c, acts s w a b c ∧ w.ty = .b64) ∧ (∃ s w a b c, acts s w a b c ∧ w.ty = .b32) :=
  ⟨⟨live3 1 64 0, { w3 with ty := .b64 }, _, _, _, ⟨rfl, rfl, rfl, rfl⟩, rfl⟩, ⟨live3 1 32 0, w3, _, _, _, ⟨rfl, rfl, rfl, rfl⟩, rfl⟩⟩
theorem witness_FieldsAndChoices :
    (∃ s w a b c, acts s w a b c ∧ w.immBits 5 0 + (w.immBits 13 8 + 1) = w.ty.width) ∧
    (∃ s : State, s.go s.fire w3 = .fire ∧ s.opA s.fire w3 = .pass) ∧ (∃ s : State, s.go s.fire w3 = .fire ∧ s.opA s.fire w3 = .err .poison) ∧
    (∃ s : State, s.go s.fire w3 = .fire ∧ s.opA s.fire w3 = .data 0 ∧ s.opC s.fire w3 = .err .nan) :=
  ⟨⟨live3 1 2 3, { w3 with imm := 0x0F10 }, _, _, _, ⟨rfl, rfl, rfl, rfl⟩, by decide +kernel⟩, ⟨live (some .pass) none none none, by decide +kernel⟩,
    ⟨live (some (.err .poison)) none none none, by decide +kernel⟩, ⟨live (some (.data 0)) none (some (.err .nan)) none, by decide +kernel⟩⟩
theorem witness_Arithmetic64 :
    (∃ s w a b c, acts s w a b c ∧ w.ty = .s64) ∧ (∃ s w a b c, acts s w a b c ∧ w.ty = .n64 ∧ b ≠ 0) :=
  ⟨⟨live3 1 0 0, { w3 with ty := .s64 }, _, _, _, ⟨rfl, rfl, rfl, rfl⟩, rfl⟩,
    ⟨live3 0 0xFFFFFFFFFFFFFFFF 0, { w3 with ty := .n64 }, _, _, _, ⟨rfl, rfl, rfl, rfl⟩, rfl, by decide +kernel⟩⟩
theorem witness_WrapAndPlace : Ty.s8.signed = true ∧ Ty.n64.signed = false := by decide +kernel
theorem witness_IntegerCorners :
    (∃ s w a b c, acts s w a b c ∧ w.ty = .s32 ∧ readInt w.ty a = -2 ^ 31 ∧ readInt w.ty b = -1) ∧
    (∃ s w a b c, acts s w a b c ∧ w.ty = .s64 ∧ a = 0x8000000000000000 ∧ b = 0xFFFFFFFFFFFFFFFF) ∧
    (∃ s w a b c, acts s w a b c ∧ readInt w.ty b = 0) ∧ (∃ s w a b c, acts s w a b c ∧ w.ty.width ≤ b.toNat) ∧
    (∃ s w a b c, acts s w a b c ∧ w.ty = .b64 ∧ 64 ≤ b.toNat) :=
  ⟨⟨live3 0x80000000 0xFFFFFFFF 0, { w3 with ty := .s32 }, _, _, _, ⟨rfl, rfl, rfl, rfl⟩, by decide +kernel⟩,
    ⟨live3 0x8000000000000000 0xFFFFFFFFFFFFFFFF 0, { w3 with ty := .s64 }, _, _, _, ⟨rfl, rfl, rfl, rfl⟩, rfl, rfl, rfl⟩,
    ⟨live3 5 0x100 0, { w3 with ty := .s8 }, _, _, _, ⟨rfl, rfl, rfl, rfl⟩, by decide +kernel⟩,
    ⟨live3 5 32 0, w3, _, _, _, ⟨rfl, rfl, rfl, rfl⟩, by decide +kernel⟩,
    ⟨live3 5 64 0, { w3 with ty := .b64 }, _, _, _, ⟨rfl, rfl, rfl, rfl⟩, by decide +kernel⟩⟩
theorem witness_CarryChain : ∃ s w s' w', acts s w 0xFFFFFFFFFFFFFFFF 1 0 ∧ acts s' w' 2 3 1 ∧ w.ty = .n64 ∧ w'.ty = .n64 ∧
    w.c = .absent ∧ w'.c ≠ .absent :=
  ⟨live3 0xFFFFFFFFFFFFFFFF 1 0, { w2 with ty := .n64 }, live3 2 3 1, { w3 with ty := .n64 }, ⟨rfl, rfl, rfl, rfl⟩,
    ⟨rfl, rfl, rfl, rfl⟩, rfl, rfl, rfl, by decide +kernel⟩
theorem witness_FloatArithmetic : ∃ s w a b c, acts s w a b c ∧ w.ty = .f32 :=
  ⟨live3 0x3FC00000 0x40000000 0, { w3 with ty := .f32 }, _, _, _, ⟨rfl, rfl, rfl, rfl⟩, rfl⟩
theorem witness_FloatSignsAndConversions : ∃ s w a b c, acts s w a b c ∧ w.ty = .f64 :=
  ⟨live3 0x8000000000000000 1 0, { w3 with ty := .f64, imm := 12 }, _, _, _, ⟨rfl, rfl, rfl, rfl⟩, rfl⟩
theorem witness_FpmodeAndEcatch :
    triggers (live3 0 0 0) w0 ∧ (live3 6 0 0).opA (live3 6 0 0).fire w0 = .data 6 ∧
    (∃ s : State, s.go s.fire w0 = .fire ∧ s.opA s.fire w0 = .err .nan) ∧ (∃ s : State, s.go s.fire w0 = .fire ∧ s.opA s.fire w0 = .err .poison) :=
  ⟨⟨by decide +kernel, by decide +kernel⟩, by decide +kernel, ⟨live (some (.err .nan)) none none none, by decide +kernel⟩, ⟨live (some (.err .poison)) none none none, by decide +kernel⟩⟩
theorem witness_ExactValuesRoundTrip : ∃ neg m e, (fmtOf .f16).decode 1 = .fin neg m e := ⟨_, _, _, rfl⟩

/-! ### Results that the rules work out -/

/-- Wrapping, the high half, division by zero and the least number (R46, R47). -/
theorem test_integer_results :
    sent (.add (to12 { w2 with ty := .s8 })) (live3 127 1 0) = [(1, .data 0xFFFFFFFFFFFFFF80), (2, .data 0xFFFFFFFFFFFFFF80)] ∧
    sent (.mulh (to12 { w2 with ty := .n32 })) (live3 0xFFFFFFFF 2 0) = [(1, .data 1), (2, .data 1)] ∧
    sent (.div (to12 { w2 with ty := .n16 })) (live3 5 0x10000 0) = [(1, .data 0xFFFF), (2, .data 0xFFFF)] ∧
    sent (.rem (to12 { w2 with ty := .s16 })) (live3 0xFFF9 2 0) = [(1, .data 0xFFFFFFFFFFFFFFFF), (2, .data 0xFFFFFFFFFFFFFFFF)] ∧
    sent (.abs (to12 { w0 with ty := .s32 })) (live3 0x80000000 0 0) =
      [(1, .data 0xFFFFFFFF80000000), (2, .data 0xFFFFFFFF80000000)] := by decide +kernel

/-- Shifts by the width, rotation by a count beyond it, counts, reversal, fields (R114, R117). -/
theorem test_bit_results :
    sent (.shl (to12 w2)) (live3 1 32 0) = [(1, .data 0), (2, .data 0)] ∧
    sent (.sar (to12 w2)) (live3 0x80000000 40 0) = [(1, .data 0xFFFFFFFF), (2, .data 0xFFFFFFFF)] ∧
    sent (.rol (to12 w2)) (live3 0x80000001 33 0) = [(1, .data 3), (2, .data 3)] ∧
    sent (.clz (to12 w0)) (live3 0xF00000001 0 0) = [(1, .data 31), (2, .data 31)] ∧
    sent (.brev (to12 w0)) (live3 1 0 0) = [(1, .data 0x80000000), (2, .data 0x80000000)] ∧
    sent (.bfx (to12 { w0 with ty := .s32, imm := 0x0304 })) (live3 0x80 0 0) =
      [(1, .data 0xFFFFFFFFFFFFFFF8), (2, .data 0xFFFFFFFFFFFFFFF8)] ∧
    sent (.bfi (to12 { w2 with imm := 0x0304 })) (live3 0xFFFFFFFF 0 0) = [(1, .data 0xFFFFFF0F), (2, .data 0xFFFFFF0F)] := by decide +kernel

/-- Comparison by sign, the carry, a scaled address, and `sel` with an error on the operand that it does not choose (R116, R119 to R121). -/
theorem test_choice_results :
    sent (.cmp (to12 { w2 with ty := .s32, mod := 2 })) (live3 0xFFFFFFFF 1 0) = [(1, .data 1), (2, .data 1)] ∧
    sent (.cmp (to12 { w2 with ty := .n32, mod := 2 })) (live3 0xFFFFFFFF 1 0) = [(1, .data 0), (2, .data 0)] ∧
    sent (.addc (to12 { w2 with ty := .n32 })) (live3 0xFFFFFFFF 1 0) = [(1, .data 0), (2, .data 1)] ∧
    sent (.subb (to12 { w3 with ty := .n32 })) (live3 1 1 1) = [(1, .data 0xFFFFFFFF), (2, .data 1)] ∧
    sent (.lea (to12 { w2 with ty := .b64, imm := 3 })) (live3 16 5 0) = [(1, .data 56), (2, .data 56)] ∧
    sent (.sel (to12 w3)) (live (some (.data 1)) (some (.data 9)) (some (.err .poison)) none) = [(1, .data 9), (2, .data 9)] := by decide +kernel

/-- 1.5 + 2.5, 1.5 · 2, the half nearest to even at a tie, a sign, a class, a conversion of −1 (R150, R152, R156, R157). -/
theorem test_float_results :
    sent (.fadd (to12 { w2 with ty := .f32 })) (live3 0x3FC00000 0x40200000 0) = [(1, .data 0x40800000), (2, .data 0x40800000)] ∧
    sent (.fmul (to12 { w2 with ty := .f32 })) (live3 0x3FC00000 0x40000000 0) = [(1, .data 0x40400000), (2, .data 0x40400000)] ∧
    sent (.frnd (to12 { w0 with ty := .f32 })) (live3 0x40200000 0 0) = [(1, .data 0x40000000), (2, .data 0x40000000)] ∧
    sent (.fneg (to12 { w0 with ty := .f64 })) (live3 0x3FF0000000000000 0 0) =
      [(1, .data 0xBFF0000000000000), (2, .data 0xBFF0000000000000)] ∧
    sent (.fcvti (to12 { w0 with ty := .s32, imm := 12 })) (live3 0xBF800000 0 0) =
      [(1, .data 0xFFFFFFFFFFFFFFFF), (2, .data 0xFFFFFFFFFFFFFFFF)] ∧
    sent (.hadd2 (to12 { w2 with ty := .h2 })) (live3 0x3C004000 0x3C003C00 0) = [(1, .data 0x40004200), (2, .data 0x40004200)] := by
  decide +kernel

/-- A predicate that does not fire and a pass token give pass tokens; Poison goes before another error (R34, R77). -/
theorem test_token_kinds :
    sent (.add (to12 { w2 with pm := .ifTrue })) (live (some (.data 1)) (some (.data 1)) none (some (.data 0))) =
      [(1, .pass), (2, .pass)] ∧
    sent (.add (to12 w2)) (live (some (.err .poison)) (some .pass) none none) = [(1, .pass), (2, .pass)] ∧
    sent (.add (to12 w2)) (live (some (.err .nan)) (some (.err .poison)) none none) = [(1, .err .poison), (2, .err .poison)] := by decide +kernel

/-- `steer` sends its value one way and a pass token the other; `ecatch` gives the status of an error (R128, R162). -/
theorem test_routing_results :
    sent (.steer (to12 w2)) (live3 7 0 0) = [(1, .pass), (2, .data 7)] ∧
    sent (.mergeJoin (to12 { w2 with mod := 1 })) (live3 7 9 0) = [(1, .data 7), (2, .data 7)] ∧
    sent (.ecatch (to12 { w0 with ty := .f32 })) (live (some (.err .posInf)) none none none) = [(1, .data 0x7F800000), (2, .data 2)] := by
  decide +kernel


/-! ### Witnesses of the statements about blocks, routing and control -/

/-- A block of 16 positions in slot 0 of element 0, of which all but `p` have come, with both scales; position `p` fires. -/
def blockAt (p : Nat) : State :=
  onCore0 { live3 1 1 0 with fire := { (live3 1 1 0).fire with tag := ⟨0, BitVec.ofNat 6 p, 0⟩, s0 := some 127 } } (fun c => { c with
    blocks := [⟨0, 0, ⟨0, 0, 0⟩, some 127, some 127,
      ((List.range 16).filter (fun i => i != p)).map (fun i => (i, (.data 1, .data 1))), 15, [], none, none⟩] })

theorem witness_BlockFloatInstructions :
    (∃ s : State, ∃ w, ((s.core 0).block 0 0 (blockTag w s.fire.tag)).fired + 1 < w.blockLen ∧
      blockPos w s.fire.tag = 0 ∧ s.opA s.fire w = .data 5) ∧
    (∃ s : State, ∃ w, w.blockLen ≤ ((s.core 0).block 0 0 (blockTag w s.fire.tag)).fired + 1 ∧ blockPos w s.fire.tag ≠ 0) ∧
    (∃ s : State, ∃ w, s.opA s.fire w = .err .nan ∧ blockPos w s.fire.tag = 0) ∧
    (∃ s : State, ∃ w e x, s.fire.s0 = some e ∧ e.toNat ≠ 255 ∧ s.opA s.fire w = .data x) ∧
    (let s := blockAt 2
     let w : SlotWord := { w0 with xf := 0x38 }
     let s1 := s.blockNote s.fire w (s.opA s.fire w) .pass
     ((s1.core 0).block 0 0 (blockTag w s.fire.tag)).go 0x64 w = true ∧ (s1.blockFired s.fire 0x64 w).ended s.fire = false ∧
       blockPos w s.fire.tag < imageDwords w) ∧
    (let s := blockAt 2
     let w : SlotWord := { w0 with xf := 0x38 }
     let s1 := s.blockNote s.fire w (s.opA s.fire w) .pass
     ((s1.core 0).block 0 0 (blockTag w s.fire.tag)).go 0x65 w = true ∧ (s1.blockFired s.fire 0x65 w).ended s.fire = false) ∧
    (let s := blockAt 15
     let w : SlotWord := { w3 with xf := 0x38, imm := 0x70000 }
     let s1 := s.blockNote s.fire w (s.opA s.fire w) (s.opB s.fire w)
     w.blockLen ≤ blockPos w s.fire.tag + 1 ∧ ((s1.core 0).block 0 0 (blockTag w s.fire.tag)).go 0x66 w = true ∧
       s.opC s.fire w = .data 0 ∧
       (blockTerm 8 8 127 127 (List.replicate 16 (.data 1, .data 1))).isSome = true) :=
  ⟨⟨live3 5 0 0, w0, by decide +kernel⟩, ⟨blockAt 15, w0, by decide +kernel⟩, ⟨live (some (.err .nan)) none none none, w0, by decide +kernel⟩,
    ⟨blockAt 2, w0, 127, 1, by decide +kernel⟩, by decide +kernel, by decide +kernel, by decide +kernel⟩

theorem witness_RoutingInstructions :
    ((live3 1 0 0).ft (live3 1 0 0).fire).dead = false ∧ triggers (live3 1 0 0) w0 ∧ (live3 1 0 0).opB (live3 1 0 0).fire w2 = .data 0 ∧
    w2.a = .token ∧ w2.b = .token ∧
    (∃ s : State, (s.ft s.fire).dead = false ∧ s.fire.a = none ∧ s.fire.b = some .pass ∧ (s.core 0).merges = []) ∧
    (∃ s : State, ∃ m, (s.ft s.fire).dead = false ∧ s.fire.a = some (.data 1) ∧ s.fire.b = none ∧ (s.core 0).merges.head? = some m ∧
      m.elem = 0 ∧ m.slot = 0 ∧ m.tag = s.fire.tag) :=
  ⟨by decide +kernel, ⟨by decide +kernel, by decide +kernel⟩, by decide +kernel, rfl, rfl, ⟨live none (some .pass) none none, by decide +kernel⟩,
    ⟨onCore0 (live (some (.data 1)) none none none) (fun c => { c with merges := [⟨0, 0, ⟨0, 0, 0⟩, true, none⟩] }), _,
      by decide +kernel, by decide +kernel, by decide +kernel, rfl, by decide +kernel, by decide +kernel, by decide +kernel⟩⟩

/-- Words, given by opcode and fields, in nodes of core 0's load. -/
def placed (s : State) (l : List (Nat × Nat × SlotWord)) : State := onCore0 s (fun c => { c with
  planeA := { c.planeA with img := { c.planeA.img with slots := l.map (fun x => (x.1, x.2.2.encode x.2.1)) } } })

/-- A loop of three nodes: its header at element 0, an `lexit` at element 1 and an `ltail` at element 2; two iterations have been issued, and
the `lexit` or the `ltail` of iteration 0 fires next. -/
def loopState (e : Nat) (b : Dword) : State :=
  let s := placed (live (some (.data 9)) (some (.data b)) none none) [
    (0, 0x77, { w2 with ty := .n32, d0 := .port 1 0 .a, d1 := .none }), (16, 0x7A, { w2 with d0 := .stacks 1, d1 := .port 2 0 .a }),
    (32, 0x79, { w0 with d0 := .port 0 0 .b })]
  onCore0 { s with fire := { s.fire with elem := e } } (fun c => { c with
    loops := [⟨0, 0, 0, 0, 0, 0, 2, [], 4, 0, none, [], true, 2, [], [], false, none, false, 0, none, 0⟩] })

/-- The `lexit` of the loop's last iteration fires next; the loop has finished but for it, or not. -/
def lastExit (fin : Bool) : State :=
  let s := loopState 1 0
  onCore0 { s with fire := { s.fire with tag := ⟨0, 1, 0⟩ } } (fun c => { c with
    loops := c.loops.map (fun (i : LoopInst) => { i with finished := fin }) })

theorem witness_LoopHeadersAndEnds :
    (∃ s : State, s.opA s.fire w2 = .data 3 ∧ w2.c = .absent) ∧ (∃ s : State, s.opA s.fire w2 = .pass) ∧ (∃ s : State, s.opA s.fire w2 = .err .poison) ∧
    (∃ s : State, s.opA s.fire w3 = .data 5 ∧ s.opC s.fire w3 = .data 6 ∧ w3.c ≠ .absent) ∧
    (∃ s : State, ∃ i, dstNode (.port 0 0 .b) = some 0 ∧ (s.core 0).loopAt 0 s.fire.tag = some i ∧ i.carried = none) ∧
    (∃ s : State, ∃ i, (s.core 0).load.innermost s.fire.node = some 0 ∧ (s.core 0).loopAt 0 s.fire.tag = some i ∧ w0.b = .absent ∧
      i.finished = false ∧ i.exitOf (loopField i.level s.fire.tag) + 1 ≠ i.n) ∧
    (∃ s : State, ∃ i, (s.core 0).load.innermost s.fire.node = some 0 ∧ (s.core 0).loopAt 0 s.fire.tag = some i ∧
      s.opB s.fire w2 = .data 1 ∧ w2.b ≠ .absent ∧ i.finished = false) ∧
    (∀ fin, ∃ s : State, ∃ i, (s.core 0).load.innermost s.fire.node = some 0 ∧ (s.core 0).loopAt 0 s.fire.tag = some i ∧
      w0.b = .absent ∧ i.finished = fin ∧ i.exitOf (loopField i.level s.fire.tag) + 1 = i.n) :=
  ⟨⟨live3 3 0 0, by decide +kernel⟩, ⟨live (some .pass) none none none, by decide +kernel⟩, ⟨live (some (.err .poison)) none none none, by decide +kernel⟩,
    ⟨live3 5 0 6, by decide +kernel⟩, ⟨loopState 2 0, _, by decide +kernel, rfl, rfl⟩, ⟨loopState 1 0, _, by decide +kernel, rfl, rfl, rfl, by decide +kernel⟩,
    ⟨loopState 1 1, _, by decide +kernel, rfl, by decide +kernel, by decide +kernel, rfl⟩,
    fun fin => match fin with
      | true => ⟨lastExit true, _, by decide +kernel, rfl, rfl, rfl, by decide +kernel⟩
      | false => ⟨lastExit false, _, by decide +kernel, rfl, rfl, rfl, by decide +kernel⟩⟩

/-- A thread of depth d in a kernel whose CALLDEPTH is 16 and whose handler entry is 1. -/
def called (d : Nat) (tok : Val) : State :=
  { onCore0 (onThread0 (live (some tok) none none none) (fun t => { t with depth := BitVec.ofNat 11 d, hdr2 := 0x05 })) (fun c => { c with
      parts := [⟨0, 0, 0, 0, 0, 1, [0], [], 0, 0⟩] }) with
    kernels := [{ Kernel.blank with calldepth := 16, handler := some 1 }] }

/-- A carried loop whose `ltail` of iteration 0 fires next; a condition that is a pass token, zero, or an error. -/
theorem witness_LoopHeadersAndEnds_forms :
    (∃ s : State, s.opA s.fire w3 = .data 5 ∧ s.opC s.fire w3 = .pass) ∧ (∃ s : State, s.opA s.fire w3 = .data 5 ∧ s.opC s.fire w3 = .err .nan) ∧
    (∃ s : State, s.opA s.fire w3 = .err .nan ∧ s.opC s.fire w3 = .data 1) ∧ (∃ s : State, s.opA s.fire w3 = .err .nan ∧ s.opC s.fire w3 = .err .poison) ∧
    (∃ s : State, ∃ i hw, dstNode (.port 0 0 .b) = some 0 ∧ (s.core 0).loopAt 0 s.fire.tag = some i ∧ i.carries? = true ∧
      (s.core 0).load.fields i.node = some hw ∧ i.tOf (loopField i.level s.fire.tag) + 1 < i.t) ∧
    (∀ b ∈ [Val.pass, .data 0], ∃ s : State, ∃ i, (s.core 0).load.innermost s.fire.node = some 0 ∧ (s.core 0).loopAt 0 s.fire.tag = some i ∧
      s.opB s.fire w2 = b ∧ i.finished = false ∧ i.exitOf (loopField i.level s.fire.tag) + 1 ≠ i.n) ∧
    (∃ s : State, ∃ i, (s.core 0).load.innermost s.fire.node = some 0 ∧ (s.core 0).loopAt 0 s.fire.tag = some i ∧ w2.b ≠ .absent ∧
      s.opB s.fire w2 = .err .posInf) :=
  let carried := onCore0 (loopState 2 0) (fun c => { c with loops := c.loops.map (fun (i : LoopInst) => { i with carried := some (.data 0) }) })
  let cond := fun (b : Val) => let s := loopState 1 0; { s with fire := { s.fire with b := some b } }
  ⟨⟨live (some (.data 5)) none (some .pass) none, by decide +kernel⟩, ⟨live (some (.data 5)) none (some (.err .nan)) none, by decide +kernel⟩,
    ⟨live (some (.err .nan)) none (some (.data 1)) none, by decide +kernel⟩,
    ⟨live (some (.err .nan)) none (some (.err .poison)) none, by decide +kernel⟩, ⟨carried, _, _, by decide +kernel, rfl, rfl, rfl, by decide +kernel⟩,
    fun b h => ⟨cond b, by
      simp only [List.mem_cons, List.not_mem_nil, or_false] at h
      rcases h with rfl | rfl <;> exact ⟨_, by decide +kernel, rfl, by decide +kernel, rfl, by decide +kernel⟩⟩,
    ⟨cond (.err .posInf), _, by decide +kernel, rfl, by decide +kernel, by decide +kernel⟩⟩

theorem witness_BlockTerminators :
    (∃ s : State, s.terminates s.fire = true ∧ s.opA s.fire w0 = .data 0 ∧ (s.ft s.fire).depth.toNat = 15 ∧
      (s.kernelAt 0 0).calldepth = 16 ∧ (s.ft s.fire).quiet = true) ∧
    (∃ s : State, s.terminates s.fire = true ∧ s.opA s.fire w0 = .err .nan ∧ (s.ft s.fire).depth.toNat = 16 ∧
      (s.kernelAt 0 0).calldepth = 16) ∧
    (∃ s : State, s.terminates s.fire = true ∧ (s.ft s.fire).depth.toNat = 0) ∧
    (∃ s : State, s.terminates s.fire = true ∧ (s.ft s.fire).quiet = false) :=
  ⟨⟨called 15 (.data 0), by decide +kernel⟩, ⟨called 16 (.err .nan), by decide +kernel⟩, ⟨called 0 .pass, by decide +kernel⟩,
    ⟨onThread0 (called 0 .pass) (fun t => { t with cntCopy := 1 }), by decide +kernel⟩⟩

/-- Thread 0 of core 0 after an instruction. -/
def threadAfter (i : Instr) (s : State) : Thread :=
  match exec i s with
  | .next t => t.thread 0 0
  | _ => Thread.free

/-- A call pushes the return entry and goes to its target; a return pops it (R20, R140). -/
theorem test_call_and_return :
    (let t := threadAfter (.call { w0 with imm := 0x0302 }) (called 8 (.data 0))
     t.next = 2 ∧ t.depth = 9 ∧ t.hdr3 = 3 ∧ t.state = .waiting) ∧
    (let t := threadAfter (.ret w0) (called 1 (.data 0))
     t.next = 5 ∧ t.depth = 0) := by decide +kernel

theorem witness_StagedCommitOrder : ∃ (t : Thread) (x y : Staged), x ∈ t.staged ∧ y ∈ t.staged ∧ y ≠ x ∧ x.lv = 4 ∧ y.lv = 4 ∧
    y.elem = x.elem ∧ y.slot < x.slot ∧ ∀ z ∈ t.staged, z.lv ≠ 5 :=
  ⟨{ Thread.free with staged := [⟨4, 2, 1, 0, 0, ⟨false, 1, false⟩⟩, ⟨4, 2, 0, 9, 9, ⟨false, 2, false⟩⟩] }, ⟨4, 2, 1, 0, 0, ⟨false, 1, false⟩⟩,
    ⟨4, 2, 0, 9, 9, ⟨false, 2, false⟩⟩, by decide +kernel⟩

/-- The last write in the order of elements and slots stands (R16). -/
theorem test_staged_order :
    ({ Thread.free with staged := [⟨4, 2, 1, 0, 0, ⟨false, 1, false⟩⟩, ⟨4, 2, 0, 9, 9, ⟨false, 2, false⟩⟩] } : Thread).commitStaged.live =
      [(4, ⟨false, 1, false⟩)] := by decide +kernel

/-- An access of an earlier load of the thread waits at a memory tile: its instance no longer sends tokens (R186). -/
def earlier (s : State) : State := onCore0 s (fun c => { c with tileReqs := [⟨{ Firing.none with mute := true }, 0, 0, 8, .write 1, false, 0, none⟩] })

theorem witness_Barriers :
    (∃ s : State, s.terminates s.fire = true ∧ s.earlierPending s.fire = true) ∧
    (∃ s : State, s.terminates s.fire = true ∧ s.earlierPending s.fire = false ∧ (s.ft s.fire).arrived.getLsbD 15 = false) ∧
    (∃ s : State, s.terminates s.fire = true ∧ s.earlierPending s.fire = false ∧ (s.ft s.fire).arrived.getLsbD 15 = true) ∧
    (∃ t : Thread, t.state = .parked ∧ t.barrier = some 15) ∧ (∃ t : Thread, t.state ≠ .parked ∨ t.barrier ≠ some 0) :=
  ⟨⟨earlier (live3 0 0 0), by decide +kernel⟩, ⟨live3 0 0 0, by decide +kernel⟩,
    ⟨onThread0 (live3 0 0 0) (fun t => { t with arrived := 0x8000 }), by decide +kernel⟩,
    ⟨{ Thread.free with state := .parked, barrier := some 15 }, by decide +kernel⟩, ⟨Thread.free, by decide +kernel⟩⟩

/-- A launch of one workgroup. -/
def oneLaunch (id : Nat) : Launch where
  id := id
  queue := 0
  index := 0
  era := 0
  recVa := 0
  recCtx := 0
  kernelVa := 0
  param := 0
  privBase := 0
  saveBase := 0
  wgCount := 1
  dimX := 1
  dimY := 1
  dimZ := 1
  cores := 1
  fpmode := 0
  ctx := 0
  preds := []
  nextWg := 0
  aborted := 0
  firstSeq := none
  status := none
  kernel := none
  rejects := []
  running := []
  releasedWgs := []
  stopped := false
  preempt := 0
  signal := 0
  graph := false

/-- A thread of launch 2, which waits for launch 1. -/
def gated : State := { onThread0 (live3 1 0 0) (fun t => { t with launch := 2 }) with
  launches := [oneLaunch 1, { oneLaunch 2 with preds := [1] }] }

theorem witness_GatesAndTraps :
    (∃ s : State, s.opA s.fire w0 ≠ .pass ∧ s.gateOpen s.fire = true ∧ s.go s.fire w0 = .fire ∧ s.opA s.fire w0 = .data 1 ∧
      s.earlierPending s.fire = false ∧ s.owns s.fire = true) ∧
    (∃ s : State, s.opA s.fire w0 ≠ .pass ∧ s.gateOpen s.fire = false) ∧
    (∃ s : State, s.opA s.fire w0 ≠ .pass ∧ s.earlierPending s.fire = true) ∧
    (∃ s : State, s.go s.fire w0 = .fire ∧ s.opA s.fire w0 = .pass) :=
  ⟨⟨live3 1 0 0, by decide +kernel⟩, ⟨gated, by decide +kernel⟩, ⟨earlier (live3 1 0 0), by decide +kernel⟩,
    ⟨live (some .pass) none none none, by decide +kernel⟩⟩

/-! ### Witnesses of the statements about memory -/

/-- A machine whose stacks are ready and whose thread's page 0 is byte 0x1000 of device memory; A is an address, B and C are values. -/
def mapped (a b c : Dword) : State := { onCore0 (live3 a b c) (fun c => { c with utlb := [⟨0, 0, 4096, 0x1000, 0, 0, true, true⟩] }) with
  funcReady := 0x3FF, mem := [(0x1100, 0xAA), (0x1101, 0x55)] }

/-- `trap` in a thread of the load: FAULTED, with the record in its private segment FVALID and cause 0x34 (R24, R148, R364). -/
theorem test_trap :
    (let t := threadAfter (.trap w0) (mapped 7 0 0)
     t.state = .faulted ∧ t.fvalid = true ∧ t.fcause = 0x34) := by decide +kernel

/-- The word of an access to the global space with relaxed order. -/
def gw (t : Ty) : SlotWord := { to12 w3 with ty := t, imm := 1 }

/-- The word of the tail of a `cas2`. -/
def tailWord : SlotWord := { w2 with ty := .b64, mod := 1 }

/-- A word of the global space with a release, of no scope but its thread's workgroup. -/
def relWord (t : Ty) : SlotWord := { gw t with xf := 0x20 }

theorem witness_MemoryInstructions :
    (∃ s : State, ∃ x q, s.go s.fire (gw .b32) = .fire ∧ s.opA s.fire (gw .b32) ≠ .pass ∧
      s.targetOf s.fire (gw .b32) 4 (s.opA s.fire (gw .b32)) = .ok x ∧ s.earlierPending s.fire = false ∧
      (s.locateOf s.fire x.2 true false).2 = .ok q ∧ (s.locateOf s.fire x.2 false true).2 = .ok q ∧
      (s.locateOf s.fire x.2 true true).2 = .ok q ∧
      q = .dev 0x1100 ∧ s.opB s.fire (gw .b32) ≠ .pass ∧ s.opC s.fire (gw .b32) ≠ .pass ∧
      (storeImage .b32 (s.opB s.fire (gw .b32))).isSome = true ∧ (storeImage .b32 (s.opC s.fire (gw .b32))).isSome = true) ∧
    (∃ s : State, ∃ x, s.go s.fire (relWord .b32) = .fire ∧ s.opA s.fire (relWord .b32) ≠ .pass ∧
      s.opB s.fire (relWord .b32) ≠ .pass ∧ (relWord .b32).ordering = .rel ∧
      s.targetOf s.fire (relWord .b32) 4 (s.opA s.fire (relWord .b32)) = .ok x ∧ s.earlierPending s.fire = true) ∧
    (∃ s : State, ∃ x, s.go s.fire (gw .b64) = .fire ∧ s.opA s.fire (gw .b64) = .data 0x100 ∧ (gw .b64).mod ≠ 1 ∧
      s.targetOf s.fire (gw .b64) 16 (s.opA s.fire (gw .b64)) = .ok x ∧ s.opB s.fire (gw .b64) = .data 1 ∧
      s.opC s.fire (gw .b64) = .data 2 ∧ s.operand s.fire (s.casTail s.fire).1.a s.fire.ta = .data 3 ∧
      s.operand s.fire (s.casTail s.fire).1.b s.fire.tb = .data 4 ∧ s.earlierPending s.fire = false ∧
      (s.locateOf s.fire x.2 true true).2 = .ok (.dev 0x1100)) ∧
    (∃ s : State, s.go s.fire tailWord = .fire ∧ s.opA s.fire tailWord ≠ .pass ∧ tailWord.mod = 1) :=
  ⟨⟨mapped 0x100 7 8, (0x100, .va 0x100), .dev 0x1100, by decide +kernel, by decide +kernel, rfl, by decide +kernel, rfl, rfl, rfl, rfl,
      by decide +kernel, by decide +kernel, by decide +kernel, by decide +kernel⟩,
    ⟨earlier (mapped 0x100 7 8), (0x100, .va 0x100), by decide +kernel, by decide +kernel, by decide +kernel, by decide +kernel, rfl,
      by decide +kernel⟩,
    ⟨(let s := placed (mapped 0x100 1 2) [(1, 0x94, tailWord)]
      { s with fire := { s.fire with ta := some (.data 3), tb := some (.data 4) } }), (0x100, .va 0x100), by decide +kernel, by decide +kernel, by decide +kernel, rfl,
      by decide +kernel, by decide +kernel, by decide +kernel, by decide +kernel, by decide +kernel, rfl⟩,
    ⟨mapped 0x100 1 2, by decide +kernel⟩⟩

/-- The record of a fault of slot 0 of element 0, thread 0. -/
def rec0 (s : State) : FaultRec := s.firingRec s.fire 0x34 0 .none 0

theorem witness_ContainedFault :
    (∃ s : State, (s.thread 0 0).aborted = false ∧ (s.thread 0 0).state = .inload ∧
      ((((s.muteHeld 0 0).fireOn (fun f => f.core == 0 && f.thread == 0)).archiveRec (rec0 s)).storeOwn 0 0 (rec0 s)
        (some 0x34)).2 = .written) ∧
    (∃ s : State, (s.thread 0 0).aborted = false ∧ (s.thread 0 0).state = .inload ∧
      ((((s.muteHeld 0 0).fireOn (fun f => f.core == 0 && f.thread == 0)).archiveRec (rec0 s)).storeOwn 0 0 (rec0 s)
        (some 0x34)).2 = .waits) ∧
    (∃ s : State, (s.thread 0 0).state = .faulted ∧ (s.thread 0 0).faultAt = none) ∧
    (∃ s : State, ∃ at_ e sl, (s.thread 0 0).state = .faulted ∧ (s.thread 0 0).faultAt = some (at_, e, sl) ∧ at_ = s.time ∧
      e = (rec0 s).elem.getD 0xFF ∧ sl ≤ (rec0 s).slot) ∧
    (∃ s : State, ∃ e sl, (s.thread 0 0).aborted = false ∧ (s.thread 0 0).state = .faulted ∧
      (s.thread 0 0).faultAt = some (s.time, e, sl) ∧ (rec0 s).elem.getD 0xFF < e ∧
      ((s.archiveRec (rec0 s)).storeOwn 0 0 (rec0 s) (some 0x34)).2 = .written) ∧
    (∃ s : State, (s.kernelAt 0 0).handler = some 1 ∧ (s.thread 0 0).handler = false) ∧
    (∃ s : State, (s.kernelAt 0 0).handler = none) :=
  ⟨⟨mapped 7 0 0, by decide +kernel⟩,
    ⟨{ live3 7 0 0 with funcReady := 0x3FF, mem := [(0, 1), (1, 1), (9, 0x10), (0x1000, 1), (0x1001, 0x20)] }, by decide +kernel⟩,
    ⟨onThread0 (live3 0 0 0) (fun t => { t with state := .faulted }), by decide +kernel⟩,
    ⟨onThread0 (live3 0 0 0) (fun t => { t with state := .faulted, faultAt := some (0, 0, 0) }), 0, 0, 0, by decide +kernel⟩,
    ⟨onThread0 (mapped 7 0 0) (fun t => { t with state := .faulted, faultAt := some (0, 1, 0) }), 1, 0, by decide +kernel⟩,
    ⟨called 0 .pass, by decide +kernel⟩, ⟨live3 0 0 0, by decide +kernel⟩⟩

/-- The same core with one CACHE tile, which holds the dword of device address 0x1100, or not. -/
def caching (holds : Bool) : State := onCore0 (mapped 0x100 7 8) (fun c => { c with
  planeA := { c.planeA with img := { c.planeA.img with roles := List.replicate 31 ⟨.off, 0, 0⟩ ++ [⟨.cache, 0, 0⟩] } }
  l1 := if holds then [⟨0x220, 0x55AA, false⟩] else [] })

/-- A dword of device 5's memory that die 0 has written and cannot write home. -/
def cutOff (s : State) : State := { s with remoteL2 := [(5 * 2 ^ 49 + 7, ⟨1, 0xFF, false⟩)] }

theorem witness_MemoryInstructions_places :
    (∃ s : State, s.lookup s.fire (.dev 0x1100) = .direct) ∧ (∃ s : State, s.lookup s.fire (.dev 0x1100) = .hit 0x55AA false) ∧
    (∃ s : State, s.lookup s.fire (.dev 0x1100) = .miss 0x220 ∧ ∀ m ∈ (s.core 0).misses, m.key ≠ 0x220) ∧
    (∃ s : State, s.locateOf s.fire (.spad 0 8) true true = (s, .ok (.spad 0 8))) ∧
    (∃ s : State, s.releaseBlocked s.fire (relWord .b32).ordering .dom = some 5) ∧
    (∃ s : State, s.releaseBlocked s.fire (relWord .b32).ordering .dom = none) :=
  ⟨⟨mapped 0x100 7 8, by decide +kernel⟩, ⟨caching true, by decide +kernel⟩, ⟨caching false, by decide +kernel⟩,
    ⟨live3 0 0 0, rfl⟩, ⟨cutOff (live3 0 0 0), by decide +kernel⟩, ⟨live3 0 0 0, by decide +kernel⟩⟩

theorem witness_LoadReads : ∃ s : State, ∃ x, quietMemory s ∧ s.go s.fire (gw .b32) = .fire ∧ s.opA s.fire (gw .b32) ≠ .pass ∧
    s.targetOf s.fire (gw .b32) 4 (s.opA s.fire (gw .b32)) = .ok x ∧
    s.locateOf s.fire x.2 true false = ((s.locateOf s.fire x.2 true false).1, .ok (.dev 0x1100)) :=
  ⟨mapped 0x100 7 8, (0x100, .va 0x100), ⟨rfl, rfl, rfl, rfl, rfl⟩, by decide +kernel, by decide +kernel, rfl, rfl⟩

theorem witness_StoreWrites : ∃ s : State, ∃ x, quietMemory s ∧ s.go s.fire (gw .b64) = .fire ∧ s.opA s.fire (gw .b64) ≠ .pass ∧
    s.opB s.fire (gw .b64) ≠ .pass ∧ storeImage .b64 (s.opB s.fire (gw .b64)) = some 7 ∧ s.earlierPending s.fire = false ∧
    s.targetOf s.fire (gw .b64) 8 (s.opA s.fire (gw .b64)) = .ok x ∧
    s.locateOf s.fire x.2 false true = ((s.locateOf s.fire x.2 false true).1, .ok (.dev 0x1FF8)) :=
  ⟨mapped 0xFF8 7 8, (0xFF8, .va 0xFF8), ⟨rfl, rfl, rfl, rfl, rfl⟩, by decide +kernel, by decide +kernel, by decide +kernel, by decide +kernel,
    by decide +kernel, rfl, rfl⟩

theorem witness_AtomicsReadModifyWrite : ∃ s : State, ∃ x, quietMemory s ∧ s.go s.fire (gw .b32) = .fire ∧
    s.opA s.fire (gw .b32) ≠ .pass ∧ s.opB s.fire (gw .b32) ≠ .pass ∧ storeImage .b32 (s.opB s.fire (gw .b32)) = some 0x55AA ∧
    s.opC s.fire (gw .b32) ≠ .pass ∧ storeImage .b32 (s.opC s.fire (gw .b32)) = some 8 ∧ s.earlierPending s.fire = false ∧
    s.targetOf s.fire (gw .b32) 4 (s.opA s.fire (gw .b32)) = .ok x ∧
    s.locateOf s.fire x.2 true true = ((s.locateOf s.fire x.2 true true).1, .ok (.dev 0x1100)) :=
  ⟨mapped 0x100 0x55AA 8, (0x100, .va 0x100), ⟨rfl, rfl, rfl, rfl, rfl⟩, by decide +kernel, by decide +kernel, by decide +kernel, by decide +kernel, by decide +kernel, by decide +kernel,
    by decide +kernel, rfl, rfl⟩

/-- Bytes of device memory after an instruction, as a coherent read finds them. -/
def bytesAfter (i : Instr) (s : State) (as_ : List Nat) : List Byte :=
  match exec i s with
  | .next t => as_.map t.viewByte
  | _ => []

/-- A load reads the bytes that stand in memory, little-endian, and a store puts them there (R189, R190). -/
theorem test_load_and_store :
    sent (.ld (gw .b32)) (mapped 0x100 7 8) = [(1, .data 0x55AA), (2, .data 0)] ∧
    bytesAfter (.st (gw .n16)) (mapped 0x102 0x1234 8) [0x1101, 0x1102, 0x1103, 0x1104] = [0x55, 0x34, 0x12, 0] := by decide +kernel

/-- `atom.add` returns the old value and leaves the sum; `cas` with another expected value writes nothing (R191, R192). -/
theorem test_atomics :
    sent (.atom (gw .n32)) (mapped 0x100 1 0) = [(1, .data 0x55AA), (2, .data 0)] ∧
    bytesAfter (.atom (gw .n32)) (mapped 0x100 0x56 0) [0x1100, 0x1101] = [0x00, 0x56] ∧
    bytesAfter (.cas (gw .b32)) (mapped 0x100 0x55AB 9) [0x1100, 0x1101] = [0xAA, 0x55] := by decide +kernel

/-- An address that is not aligned commits 0x15, and one with bits above 55 commits 0x12 (R179). -/
theorem test_address_faults :
    (threadAfter (.ld (gw .b32)) (mapped 0x102 0 0)).fcause = 0x15 ∧
    (threadAfter (.ld (gw .b32)) (mapped 0x100000000000000 0 0)).fcause = 0x12 := by decide +kernel

theorem witness_AddressFaults :
    (∃ s : State, s.go s.fire (gw .b32) = .fire ∧ s.opA s.fire (gw .b32) = .err .poison ∧ s.opB s.fire (gw .b32) ≠ .pass ∧
      s.fire.kept = none) ∧
    (∃ s : State, s.targetOf s.fire (gw .b32) 4 (s.opA s.fire (gw .b32)) = .error (0x15, some 0x102)) ∧
    (∃ s : State, s.go s.fire (gw .b32) = .fire ∧ s.opA s.fire (gw .b32) = .err .nan ∧ s.opB s.fire (gw .b32) ≠ .pass) ∧
    (∃ s : State, ∃ a, s.opA s.fire (gw .b32) = .data a ∧ (gw .b32).space = .g ∧ a.toNat = 2 ^ 56) ∧
    (∃ s : State, ∃ a, s.opA s.fire (gw .b32) = .data a ∧ a.toNat + 4 ≤ 2 ^ 56 ∧ a.toNat % 4 ≠ 0) ∧
    (∃ s : State, ∃ a, s.opA s.fire (gw .b32) = .data a ∧ a.toNat + 4 = 2 ^ 56 ∧ a.toNat % 4 = 0) ∧
    (∃ s : State, ∃ a, s.opA s.fire (gw .b32) = .data a ∧ ({ gw .b32 with imm := 2 } : SlotWord).space = .p ∧
      (s.kernelAt 0 0).priv = 64 ∧ a.toNat + 4 = 65) ∧
    (∃ s : State, ∃ a, s.opA s.fire (gw .b32) = .data a ∧ (s.kernelAt 0 0).priv = 64 ∧ a.toNat + 4 = 64 ∧ a.toNat % 4 = 0) :=
  let priv := fun (a : Dword) => { called 0 (.data a) with kernels := [{ Kernel.blank with priv := 64 }] }
  ⟨⟨live (some (.err .poison)) (some (.data 1)) none none, by decide +kernel⟩, ⟨mapped 0x102 0 0, rfl⟩,
    ⟨live (some (.err .nan)) (some (.data 1)) none none, by decide +kernel⟩,
    ⟨live3 0x100000000000000 0 0, _, rfl, by decide +kernel, by decide +kernel⟩, ⟨live3 0xFFFFFFFFFFFFFA 0 0, _, rfl, by decide +kernel, by decide +kernel⟩,
    ⟨live3 0xFFFFFFFFFFFFFC 0 0, _, rfl, by decide +kernel, by decide +kernel⟩, ⟨priv 61, _, rfl, by decide +kernel, rfl, by decide +kernel⟩,
    ⟨priv 60, _, rfl, rfl, by decide +kernel, by decide +kernel⟩⟩

/-- Addresses at the ends of the scratchpad windows of a workgroup with a part on core 0 alone, and generic ones in no window, in another
core's scratchpad and in another cluster's. -/
theorem witness_AddressFaults_windows :
    ({ w2 with imm := 3 } : SlotWord).space = .s ∧ ({ w2 with imm := 4 } : SlotWord).space = .c ∧ ({ w2 with imm := 0 } : SlotWord).space = .x ∧
    2 ^ 20 ≤ (0x100000 : Dword).toNat ∧ (0xFFFFF : Dword).toNat < 2 ^ 20 ∧ 2 ^ 23 ≤ (0x800000 : Dword).toNat ∧ (0x7FFFFF : Dword).toNat < 2 ^ 23 ∧
    (∃ s : State, s.fire.core = 0 ∧ (s.kernelAt 0 0).spad = 64 ∧ 0 ∈ ((s.wg? 0 0).map Workgroup.cores).getD [] ∧
      ∀ k, k ≠ 0 → k ∉ ((s.wg? 0 0).map Workgroup.cores).getD []) ∧
    (0x1000000000000000 : Dword).toNat / 2 ^ 60 ∉ [0, 0xC, 0xD, 0xE] ∧ (0xD000800000000000 : Dword).toNat / 2 ^ 47 % 512 = 1 ∧
    (0xE004000000000000 : Dword).toNat / 2 ^ 50 % 64 = 1 :=
  ⟨by decide, by decide, by decide, by decide, by decide, by decide, by decide,
    ⟨{ called 0 (.data 0) with kernels := [{ Kernel.blank with spad := 64 }], wgs := [⟨0, 0, [0], 1, [], false, none, false, false⟩] },
      rfl, by decide +kernel, by decide +kernel, fun k h => by simp [State.wg?, h]⟩,
    by decide, by decide, by decide⟩

theorem witness_FencesAndWindows :
    (∃ s : State, s.opA s.fire w0 ≠ .pass ∧ w0.mod ≠ 1 ∧ s.earlierPending s.fire = false) ∧
    (∃ s : State, s.opA s.fire w0 ≠ .pass ∧ s.earlierPending s.fire = true) ∧ ({ w0 with mod := 1, xf := 0x36 } : SlotWord).mod = 1 ∧
    wideScope ({ w0 with mod := 1, xf := 0x36 } : SlotWord).scope = false ∧
    wideScope ({ w0 with mod := 1, xf := 0x38 } : SlotWord).scope = true ∧
    ({ w0 with imm := 1 } : SlotWord).space = .g ∧ ({ w0 with imm := 2 } : SlotWord).space = .p ∧
    ({ w0 with imm := 3 } : SlotWord).space = .s ∧ ({ w0 with imm := 4 } : SlotWord).space = .c ∧
    (∃ s : State, ∃ a b c, acts s w3 a b c ∧ a.toNat / 2 ^ 60 = 0xC) ∧ quietMemory (live3 0 0 0) :=
  ⟨⟨live3 0 0 0, by decide +kernel, by decide +kernel, by decide +kernel⟩, ⟨earlier (live3 0 0 0), by decide +kernel, by decide +kernel⟩,
    by decide +kernel, by decide +kernel, by decide +kernel, by decide +kernel, by decide +kernel, by decide +kernel, by decide +kernel,
    ⟨live3 0xC000000000000000 0 0, _, _, _, ⟨rfl, rfl, rfl, rfl⟩, by decide +kernel⟩, ⟨rfl, rfl, rfl, rfl, rfl⟩⟩

/-- Window codes and widened addresses (R198, R199). -/
theorem test_windows :
    sent (.sptest (to12 w0)) (live3 0xD000000000000010 0 0) = [(1, .data 2), (2, .data 2)] ∧
    sent (.spcastFrom (to12 { w0 with mod := 1, imm := 2 })) (live3 0x40 0 0) =
      [(1, .data 0xC000000000000040), (2, .data 0xC000000000000040)] := by decide +kernel

/-- A core whose tile 3 has four buffers. -/
def tiled (a b c : Dword) : State := onCore0 (mapped a b c) (fun c => { c with planeA := { c.planeA with img := { c.planeA.img with
  roles := List.replicate 3 ⟨.off, 0, 0⟩ ++ [⟨.buf, 0, 4⟩] ++ List.replicate 28 ⟨.off, 0, 0⟩ } } })

/-- The word of an access to buffer 3 of tile 3. -/
def tw : SlotWord := { to12 w3 with ty := .b64, imm := 0xC301 }

/-- Requests of slot 0 of element 0 at tile 3: one access, or two of instances that issued together. -/
def tileReq (op : TileOp) (two : Bool) : State := onCore0 (placed (tiled 0 0 0) [(0, 0x99, tw)]) (fun c => { c with
  tileReqs := ⟨Firing.none, 3, 16, 8, op, false, 0, none⟩ ::
    (if two then [⟨{ Firing.none with tag := ⟨1, 0, 0⟩ }, 3, 32, 8, op, false, 0, none⟩] else []) })

/-- An earlier load's store has not been made: a fence with `.acq` does not wait for it, and another fence does. -/
theorem witness_FencesAndWindows_acq : ∃ s : State, s.opA s.fire w0 ≠ .pass ∧ ({ w0 with xf := 0x10 } : SlotWord).ordering = .acq ∧
    s.earlierReads s.fire = false ∧ s.earlierPending s.fire = true ∧ s.releaseBlocked s.fire .acq .dom = none ∧
    (cutOff s).releaseBlocked s.fire .ar .dom = some 5 :=
  ⟨earlier (live3 0 0 0), by decide +kernel, by decide +kernel, by decide +kernel, by decide +kernel, by decide +kernel, by decide +kernel⟩

theorem witness_MemoryTiles :
    (∃ s : State, ∃ a, s.go s.fire tw = .fire ∧ s.opA s.fire tw = .data a ∧ a.toNat + 8 = s.tileRoom s.fire tw ∧ a.toNat % 8 = 0 ∧
      s.opB s.fire tw ≠ .pass ∧ (storeImage .b64 (s.opB s.fire tw)).isSome = true) ∧
    (∃ s : State, ∃ a, s.go s.fire tw = .fire ∧ s.opA s.fire tw = .data a ∧ s.tileRoom s.fire tw < a.toNat + 8) ∧
    (∃ s : State, ∃ a, s.go s.fire tw = .fire ∧ s.opA s.fire tw = .data a ∧ a.toNat + 8 ≤ s.tileRoom s.fire tw ∧ a.toNat % 8 ≠ 0) ∧
    (∃ s : State, ∃ x, s.go s.fire tw = .fire ∧ s.opA s.fire tw ≠ .pass ∧ s.opB s.fire tw = .data 8184 ∧ s.opC s.fire tw = .data 8 ∧
      s.formAddress s.fire tw.space 8 8 (s.opA s.fire tw) = .ok x ∧ 8184 + 8 = s.tileRoom s.fire tw ∧ s.countRoom 0 0 .gather = true) ∧
    (∀ op ∈ [TileOp.read .b64, .write 5, .atom 0 .n64 5], ∀ two : Bool, ∃ s : State, ∃ r w, (s.core 0).bankNext 26 = some r ∧
      r.width ≤ 8 ∧ r.acq = false ∧ r.f.kept = none ∧ r.op = op ∧ s.fieldsOf r.f = some w ∧
      (∀ i, i < r.width → (s.core 0).tileMark (32768 * r.tile + r.off + i) = false) ∧
      (let mine := (s.core 0).tileReqs.filter (fun (x : TileReq) => x.tile == r.tile && x.f.together r.f)
       if two = true then ∃ x ∈ mine, x ≠ r ∧ x.got = none else mine = [r])) :=
  ⟨⟨tiled 8184 1 8, _, by decide +kernel, rfl, by decide +kernel⟩, ⟨tiled 8185 1 8, _, by decide +kernel, rfl, by decide +kernel⟩,
    ⟨tiled 1 1 8, _, by decide +kernel, rfl, by decide +kernel⟩, ⟨tiled 0x100 8184 8, (0x100, .va 0x100), by decide +kernel, by decide +kernel, by decide +kernel, by decide +kernel, rfl, by decide +kernel, by decide +kernel⟩,
    fun op h two => ⟨tileReq op two, ⟨Firing.none, 3, 16, 8, op, false, 0, none⟩, tw, by
      simp only [List.mem_cons, List.not_mem_nil, or_false] at h
      rcases h with rfl | rfl | rfl <;> cases two <;> decide +kernel⟩⟩


/-! ### Witnesses of the statements about groups, the island, copies, streams and records -/

/-- A span of one lane, and a gang word at slot 0 of element 0 that thread 0 fires. -/
def ganged (opc : Nat) : State := onCore0 (placed (live3 1 0 0) [(0, opc, w2)]) (fun c => { c with spans := [⟨0, 0, 0, 1, 1, [0]⟩] })

/-- An expansion of one lane that has ended but for its `xend`, at element 4, which fires. -/
def endOfX : State :=
  let s := placed (live3 1 0 0) [
    (0, 0xC7, { w2 with ty := .n32, d0 := .port 1 0 .a, d1 := .port 4 0 .a }),
    (16, 0xC8, { w2 with ty := .n32, d0 := .port 2 0 .a, d1 := .port 2 0 .b }),
    (32, 0xC9, { w2 with ty := .n32, d0 := .port 3 0 .a }), (48, 0x79, { w0 with d0 := .port 1 0 .b }), (64, 0xCA, { w0 with ty := .n32 })]
  onCore0 { s with fire := { s.fire with elem := 4 } } (fun c => { c with
    spans := [⟨0, 0, 0, 1, 1, [0]⟩], xctxs := [⟨5, 0, 0, 0, 1, 1, [0], [1], [], [0], 1, []⟩] })

theorem witness_GangLanes :
    (∃ s : State, s.go s.fire w2 = .fire ∧ s.opA s.fire w2 ≠ .pass ∧ s.opB s.fire w2 ≠ .pass) ∧
    (∃ s : State, s.go s.fire w2 = .fire ∧ s.opA s.fire w2 = .pass) ∧
    (∃ s : State, s.go s.fire { w2 with pm := .ifTrue } = .skip) ∧
    (∃ s : State, s.go s.fire { w2 with pm := .ifTrue } = .stop .negInf) ∧ (∃ s : State, s.go s.fire { w2 with pm := .ifTrue } = .poison) ∧
    (∀ opc ∈ [0xC0, 0xC1, 0xC2, 0xC3, 0xC4, 0xC5, 0xC6, 0xC7], ∃ s : State,
      lastLane s w2 opc (.data 1) (.data 0) ∧ lastLane s w2 opc (.data 1) .pass ∧ s.opB s.fire w2 = .data 0 ∧
      (let g := joined s (.data 1) (.data 0)
       let p := (s.core 0).span g.span
       (g.shfl w2 p).bad = [] ∧ (g.lpush w2 p).bad = [] ∧ (s.core 0).roomForX s.fire.node p = true ∧ p.count = 1 ∧
       g.act 0 = some (.data 1, .data 0) ∧ (s.thread 0 0).state ≠ .faulted)) ∧
    (∃ s : State, ∃ x, lastLane s { w0 with ty := .n32 } 0xCA (.data 1) .pass ∧ (s.core 0).ctxOfEnd 0 s.fire.node = some x ∧
      s.lanesFinished 0 ((s.core 0).span 0) x = true) :=
  ⟨⟨live3 1 2 0, by decide +kernel⟩, ⟨live (some .pass) none none none, by decide +kernel⟩, ⟨live none none none (some (.data 0)), by decide +kernel⟩,
    ⟨live none none none (some (.err .negInf)), by decide +kernel⟩, ⟨live none none none (some (.err .poison)), by decide +kernel⟩,
    fun opc h => ⟨ganged opc, by
      simp only [List.mem_cons, List.not_mem_nil, or_false] at h
      rcases h with rfl | rfl | rfl | rfl | rfl | rfl | rfl | rfl <;> (unfold lastLane; decide +kernel)⟩,
    ⟨endOfX, _, by unfold lastLane; decide +kernel, rfl, by decide +kernel⟩⟩

/-- An `xend` whose `xbegin` has fired and found no context, and one whose `xbegin` has not fired yet. -/
theorem witness_GangLanes_overflow : ∀ full : Bool, ∃ s : State, lastLane s { w0 with ty := .n32 } 0xCA (.data 1) .pass ∧
    (s.core 0).ctxOfEnd 0 s.fire.node = none ∧ (s.core 0).overflowed 0 s.fire.node = full :=
  fun full => ⟨onCore0 endOfX (fun c => { c with xctxs := [], overflows := if full then [(0, 0)] else [] }), by
    cases full <;> unfold lastLane <;> decide +kernel⟩

/-- Two lanes of a span of sixteen: lane 0 holds 5 and names lane 1, lane 1 holds NaN and names lane 0. -/
def twoLanes : Group := ⟨0, 0, 0, 0, 0, [(0, .active (.data 5) (.data 1)), (1, .active (.err .nan) (.data 0))], []⟩

/-- The span of the two lanes. -/
def sixteen : Span := ⟨0, 0, 0, 16, 1, [0, 1]⟩

theorem witness_LaneSums :
    (Ty.n64 ∈ [Ty.s32, .n32, .s64, .n64] ∧ 0 < ([7] : List Dword).length ∧ ([7] : List Dword).length ≤ 512) ∧
    (twoLanes.act 0 = some (.data 5, .data 1) ∧ twoLanes.act 1 = some (.err .nan, .data 0) ∧ twoLanes.act 2 = none ∧
     2 < laneWidth w0 sixteen ∧ laneWidth w0 sixteen ≤ sixteen.g * sixteen.s ∧ w0.mod = 0 ∧ w0.immBits 7 0 = 0 ∧
     ({ w0 with imm := 2 } : SlotWord).immBits 7 0 = 2 ∧ ∀ j, j < 16 → 1 < j → twoLanes.act j = none) := by decide +kernel

/-- The tree and the scan over five lanes (R71, R72). -/
theorem test_lane_sums :
    treeOf (comb 0 .n32 .rne) 9 ([1, 2, 3, 4, 0xFFFFFFFF].map (fun x => some (Val.data x))) = some (.data 9) ∧
    scanOf (comb 0 .n32 .rne) 9 1 ([1, 2, 3, 4, 5].map (fun x => some (Val.data x))) =
      [1, 3, 6, 10, 15].map (fun x => some (Val.data x)) := by decide +kernel

/-- An expansion of lengths 2, 0 and 3: `xbegin` at element 0, `xround` at element 1, `xsegred` at element 2 in its body. -/
def expanded (e : Nat) (a b : Val) : State :=
  let s := placed (live (some a) (some b) none none) [
    (0, 0xC7, { w2 with ty := .n32, d0 := .port 1 0 .a }),
    (16, 0xC8, { w2 with ty := .n32, d0 := .port 2 0 .a, d1 := .port 2 0 .b }),
    (32, 0xC9, { w2 with ty := .n32, d0 := .port 3 0 .a }), (48, 0x79, { w0 with d0 := .port 1 0 .b })]
  onCore0 { s with fire := { s.fire with elem := e } } (fun c => { c with
    xctxs := [⟨5, 0, 0, 0, 16, 5, [0, 0, 0], [2, 0, 3], [], [], 0, []⟩]
    loops := [⟨1, 0, 0, 0, 0, 0, 1, [], 4, 0, none, [], false, 1, [], [], false, none, false, 0, some 5, 0⟩] })

theorem witness_Expansion :
    (∃ s : State, ∃ x, (s.core s.fire.core).ctxOfRound (s.ft s.fire).span s.fire.node = some x ∧ s.opA s.fire w2 = .data 5) ∧
    (∃ s : State, ∃ x, (s.core s.fire.core).ctxOfRound (s.ft s.fire).span s.fire.node = some x ∧ s.opA s.fire w2 = .pass) ∧
    (∃ s : State, ∃ x, (s.core s.fire.core).ctxOfRound (s.ft s.fire).span s.fire.node = some x ∧ s.opA s.fire w2 = .err .nan) ∧
    (∃ s : State, ∃ x, s.go s.fire w2 = .fire ∧ s.opA s.fire w2 ≠ .pass ∧ s.opB s.fire w2 = .data 2 ∧ s.flatOf s.fire = some x) ∧
    (∃ x : XCtx, x.total = prefixOf x.lens x.lens.length ∧ 4 < x.total ∧ 0 < x.total) :=
  ⟨⟨expanded 1 (.data 5) (.data 0), _, rfl, by decide +kernel⟩, ⟨expanded 1 .pass (.data 0), _, rfl, by decide +kernel⟩,
    ⟨expanded 1 (.err .nan) (.data 0), _, rfl, by decide +kernel⟩, ⟨expanded 2 (.data 1) (.data 2), _, by decide +kernel, by decide +kernel, by decide +kernel, rfl⟩,
    ⟨⟨0, 0, 0, 0, 16, 5, [], [2, 0, 3], [], [], 0, []⟩, by decide +kernel⟩⟩

/-- Flat indices 0 and 1 fall to lane 0 and the next three to lane 2 (R217). -/
theorem test_owners : ((List.range 5).map (⟨0, 0, 0, 0, 16, 5, [], [2, 0, 3], [], [], 0, []⟩ : XCtx).ownerOf) = [0, 0, 2, 2, 2] := by decide +kernel

/-- The word of a matrix instruction with handle 1 and the scratchpad as its tile. -/
def mw : SlotWord := { to12 w0 with ty := .f32, imm := 0x2001 }

/-- A core in which a kernel with 2,048 scratchpad bytes runs. -/
def working (a b c : Val) : State := { onCore0 (live (some a) (some b) (some c) none) (fun c => { c with
    parts := [⟨0, 0, 0, 0, 0, 1, [0], [], 0, 0⟩] }) with
  kernels := [{ Kernel.blank with spad := 2048 }], funcReady := 0x3FFFFFFFFFFFFFF }

/-- The same core, of whose workgroup handle 1 is bound to slot 3; its feeds come from ports 2 and 3, whose copies are over. -/
def boundTo (a : Val) : State := onCore0 (working a .pass .pass) (fun c => { c with
  parts := [⟨0, 0, 0, 0, 0, 1, [0], [(1, .b32 3)], 1, 0⟩]
  ports := [(2, ⟨.closed, false, none, [], [], none, true⟩), (3, ⟨.closed, false, none, [], [], none, true⟩)]
  planeA := { c.planeA with img := { c.planeA.img with binds := [.feed 0 (some 2), .feed 1 (some 3)] } } })

/-- After an `mxop` and its acceptance both operand sets stand ready. -/
def setsReady (s : State) : Bool :=
  match exec (.mxop mw) s with
  | .next t =>
    match exec (.matrixAccept 0) t with
    | .next u =>
      match (u.core 0).mxQueue with
      | [m] =>
        match u.feedSet 0 m 0 with
        | some (_, c) => ((u.setCore 0 c).feedSet 0 m 1).isSome
        | none => false
      | _ => false
    | _ => false
  | _ => false

theorem witness_MatrixControlTokens :
    triggers (working (.data 0) .pass .pass) mw ∧
    (∃ s : State, ∃ p, triggers s mw ∧ islandFree s p ∧ p.handles.look mw.handle = some (.b32 3) ∧
      (Handle.b32 3).fits (accWidth mw) = true ∧ setsReady s = true ∧ (s.core 0).accAt (.b32 3) 0 = ⟨false, 0⟩ ∧
      s.opA s.fire mw = .data 1024 ∧ 1024 + accBytes mw = s.tileRoom s.fire mw) ∧
    (∃ s : State, ∃ x, triggers s mw ∧ s.opA s.fire mw = .data x ∧ x.toNat + accBytes mw = s.tileRoom s.fire mw ∧ x.toNat % 8 = 0) ∧
    (∃ s : State, ∃ x, triggers s mw ∧ s.opA s.fire mw = .data x ∧ s.tileRoom s.fire mw < x.toNat + accBytes mw) ∧
    (∃ s : State, ∃ x, triggers s mw ∧ s.opA s.fire mw = .data x ∧ x.toNat + accBytes mw ≤ s.tileRoom s.fire mw ∧ x.toNat % 8 ≠ 0) ∧
    (∃ s : State, triggers s mw ∧ s.opA s.fire mw = .err .poison) :=
  ⟨⟨by decide +kernel, by decide +kernel⟩,
    ⟨boundTo (.data 1024), _, ⟨by decide +kernel, by decide +kernel⟩, ⟨rfl, rfl, rfl, rfl, rfl, rfl, rfl⟩, rfl, by decide +kernel,
      by decide +kernel, by decide +kernel, by decide +kernel, by decide +kernel⟩,
    ⟨working (.data 1024) .pass .pass, _, ⟨by decide +kernel, by decide +kernel⟩, rfl, by decide +kernel, by decide +kernel⟩,
    ⟨working (.data 1032) .pass .pass, _, ⟨by decide +kernel, by decide +kernel⟩, rfl, by decide +kernel⟩,
    ⟨working (.data 4) .pass .pass, _, ⟨by decide +kernel, by decide +kernel⟩, rfl, by decide +kernel, by decide +kernel⟩,
    ⟨working (.err .poison) .pass .pass, ⟨by decide +kernel, by decide +kernel⟩, by decide +kernel⟩⟩

/-- A control token of a kind. -/
def mctl (kind : MxKind) (bad : Nat) : MxCtl := ⟨kind, mw, Firing.none, 0, 0, 0, bad, none, none, none, false, false, .unbound, []⟩

/-- A core whose island has received a control token and queued another, with handles, free slots and a binding hold. -/
def island (h : Table Handle) (free : List Nat) (m : MxCtl) (t0 : Option Nat) : State :=
  { onCore0 (working .pass .pass .pass) (fun c => { c with
      mxSent := [m], mxQueue := [m], accFree := free, mxHold := t0, parts := [⟨0, 0, 0, 0, 0, 1, [0], h, 1, 0⟩] }) with time := 2 ^ 31 }

theorem witness_MatrixIsland :
    (∃ s : State, ∃ m p, (s.core 0).mxSent = [m] ∧ (s.ft m.f).aborted = false ∧ (s.core 0).mxQueue.length < 16 ∧
      (s.core 0).partOf m = some p ∧ handleRule m ((p.handles.look m.w.handle).getD .unbound) = .fault) ∧
    (∃ s : State, ∃ m p, (s.core 0).mxSent = [m] ∧ (s.core 0).partOf m = some p ∧ m.bad = 0x12 ∧
      handleRule m ((p.handles.look m.w.handle).getD .unbound) = .take (.b32 3)) ∧
    (∃ s : State, ∃ m p, (s.core 0).mxSent = [m] ∧ (s.core 0).partOf m = some p ∧ m.bad = 0 ∧ m.kind.counted = false ∧
      handleRule m ((p.handles.look m.w.handle).getD .unbound) = .none) ∧
    (∃ s : State, ∃ m p, (s.core 0).mxSent = [m] ∧ (s.core 0).partOf m = some p ∧ m.bad = 0 ∧ s.countRoom 0 m.f.thread .matrix = true ∧
      handleRule m ((p.handles.look m.w.handle).getD .unbound) = .drop (.b32 3)) ∧
    (∃ s : State, ∃ m p d g, (s.core 0).mxSent = [m] ∧ (s.core 0).partOf m = some p ∧ m.bad = 0 ∧ s.countRoom 0 m.f.thread .matrix = true ∧
      handleRule m ((p.handles.look m.w.handle).getD .unbound) = .binds ∧ (s.core 0).bindHandle p (accWidth m.w) = some (d, g)) ∧
    (∃ s : State, ∃ m, (s.core 0).mxQueue = [m] ∧ (s.mxRun 0 m).isSome = true ∧ m.counted = true) ∧
    (∃ s : State, ∃ m p, (s.core 0).mxSent = [m] ∧ (s.core 0).mxHold = some 0 ∧ (s.core 0).partOf m = some p ∧
      (s.core 0).bindHandle p (accWidth m.w) = none ∧ s.frozen 0 = false ∧ 0 + 2 ^ clamp 10 30 (natBits (s.core 0).ksched.toNat 60 56) ≤ s.time) :=
  ⟨⟨island [] [] (mctl .load 0) none, _, _, rfl, rfl, by decide +kernel, rfl, by decide +kernel⟩,
    ⟨island [(1, .b32 3)] [] (mctl .load 0x12) none, _, _, rfl, rfl, by decide +kernel, by decide +kernel⟩,
    ⟨island [] [] (mctl .info 0) none, _, _, rfl, rfl, by decide +kernel, by decide +kernel, by decide +kernel⟩,
    ⟨island [(1, .b32 3)] [] (mctl .rel 0) none, _, _, rfl, rfl, by decide +kernel, by decide +kernel, by decide +kernel⟩,
    ⟨island [] [4, 5] (mctl .zero 0) none, _, _, _, _, rfl, rfl, by decide +kernel, by decide +kernel, by decide +kernel, rfl⟩,
    ⟨island [] [] { mctl .rel 0 with counted := true } none, _, rfl, by decide +kernel, rfl⟩,
    ⟨island [] [] (mctl .zero 0) (some 0), _, _, rfl, rfl, rfl, by decide +kernel, by decide +kernel, by decide +kernel⟩⟩

/-- The word of a copy or a stream instruction: port 2, and inbound port 3 for `cpyss`; the low bits are a mask for `cpymc`. -/
def cw : SlotWord := { to12 w3 with ty := .b64, imm := 0x3201 }

/-- A core with port 2 open in one direction and inbound port 3. -/
def streams (s : State) (out : Bool) (st : PortState) (buf : List (Byte × Bool)) (q : List Nat) : State :=
  onCore0 s (fun c => { c with ports := [(2, ⟨st, out, none, q, buf, none, false⟩), (3, ⟨.opened, false, none, [], [], none, false⟩)] })

theorem witness_CopyInstructions :
    (∃ s : State, ∃ n d g, s.go s.fire cw = .fire ∧ s.opA s.fire cw ≠ .pass ∧ s.opB s.fire cw ≠ .pass ∧ s.opC s.fire cw ≠ .pass ∧
      copySize (s.opC s.fire cw) = .ok n ∧ s.copyRange s.fire n (s.opA s.fire cw) = .ok d ∧
      s.copyRange s.fire n (s.opB s.fire cw) = .ok g ∧ (s.core 0).copyQueue < 64 ∧ s.countRoom 0 0 (copyClass cw) = true) ∧
    (∃ s : State, ∃ m, s.opC s.fire cw = .data m ∧ m = 0) ∧ (∃ s : State, ∃ m, s.opC s.fire cw = .data m ∧ m.toNat % 8 = 4) ∧
    (∃ s : State, ∃ n g off, s.go s.fire cw = .fire ∧ s.opA s.fire cw = .data off ∧ copySize (s.opC s.fire cw) = .ok n ∧
      s.copyRange s.fire n (s.opB s.fire cw) = .ok g ∧ off.toNat + n = s.spadBytes 0 0 ∧ off.toNat % 8 = 0 ∧
      s.maskBad s.fire (cw.immBits 7 0) = false ∧ s.countRoom 0 0 .copy = true) ∧
    (∃ s : State, ∃ n g, s.go s.fire cw = .fire ∧ (s.core 0).portBound cw.port false = true ∧
      s.streamSize s.fire cw.port (s.opB s.fire cw) = .ok n ∧ s.streamRange s.fire n.1 n.2 (s.opA s.fire cw) = .ok g ∧
      (s.core 0).portRoom cw.port = true) ∧
    (∃ s : State, ∃ n g, s.go s.fire cw = .fire ∧ (s.core 0).portBound cw.port true = true ∧
      s.streamSize s.fire cw.port (s.opB s.fire cw) = .ok n ∧ s.streamRange s.fire n.1 n.2 (s.opA s.fire cw) = .ok g ∧
      (s.core 0).portRoom cw.port = true) ∧
    (∃ s : State, ∃ n, s.opA s.fire cw = .data n ∧ cw.port ≠ cw.immBits 15 12 ∧ (s.core 0).portBound cw.port true = true ∧
      (s.core 0).portBound (cw.immBits 15 12) false = true ∧ n.toNat = 2 ^ 32 - 1 ∧ (s.core 0).portRoom (cw.immBits 15 12) = true) ∧
    (∃ s : State, (s.core 0).portBound cw.port false = false ∧ (s.core 0).portBound cw.port true = false) :=
  ⟨⟨working (.data 0x200) (.data 0x100) (.data 8), _, _, _, by decide +kernel, by decide +kernel, by decide +kernel, by decide +kernel, rfl, rfl, rfl, by decide +kernel, by decide +kernel⟩,
    ⟨live3 0 0 0, _, rfl, rfl⟩, ⟨live3 0 0 12, _, rfl, by decide +kernel⟩,
    ⟨working (.data 2040) (.data 0x100) (.data 8), _, _, _, by decide +kernel, rfl, rfl, rfl, by decide +kernel, by decide +kernel, by decide +kernel, by decide +kernel⟩,
    ⟨streams (working (.data 0x200) (.data 16) .pass) false .opened [] [], _, _, by decide +kernel, by decide +kernel, rfl, rfl, by decide +kernel⟩,
    ⟨streams (working (.data 0x200) (.data 16) .pass) true .closed [] [], _, _, by decide +kernel, by decide +kernel, rfl, rfl, by decide +kernel⟩,
    ⟨streams (live3 0xFFFFFFFF 0 0) true .opened [] [], _, rfl, by decide +kernel, by decide +kernel, by decide +kernel, by decide +kernel, by decide +kernel⟩,
    ⟨live3 0 0 0, by decide +kernel⟩⟩

/-- The word of a stream instruction with port 2. -/
def sw : SlotWord := { to12 w0 with ty := .n16, imm := 0x0200 }

theorem witness_StreamInstructions :
    (∃ s : State, s.go s.fire sw = .fire ∧ s.opA s.fire sw ≠ .pass ∧ (s.core 0).portBound sw.port false = true ∧
      (s.core 0).streamTurn s.fire = true ∧ sw.ty.bytes = ((s.core 0).port 2).buf.length ∧
      ((s.core 0).port 2).buf.all (fun b => !b.2) = true) ∧
    (∃ s : State, s.go s.fire sw = .fire ∧ (s.core 0).portBound sw.port false = true ∧ (s.core 0).streamTurn s.fire = true ∧
      ((s.core 0).port 2).state = .closed ∧ ((s.core 0).port 2).buf = []) ∧
    (∃ s : State, s.go s.fire sw = .fire ∧ (s.core 0).portBound sw.port false = true ∧ (s.core 0).streamTurn s.fire = true ∧
      ((s.core 0).port 2).state = .opened ∧ ((s.core 0).port 2).buf = [] ∧ (s.core 0).portFetched ((s.core 0).port 2) = false) ∧
    (∃ s : State, ∃ v, s.go s.fire sw = .fire ∧ (s.core 0).portBound sw.port true = true ∧ (s.core 0).streamTurn s.fire = true ∧
      sw.b = .absent ∧ storeImage sw.ty (s.opA s.fire sw) = some v ∧
      ((s.core 0).port 2).buf.length + s.portOwed 0 (BitVec.ofNat 4 sw.port) + 2 ≤ 4096) ∧
    (∀ out, ∃ s : State, ((s.core 0).port 2).state = .opened ∧ ((s.core 0).port 2).out = out ∧ ((s.core 0).port 2).buf = []) ∧
    (∃ s : State, (s.core 0).port 2 = ⟨.unbound, false, none, [], [], none, false⟩) ∧
    (∃ s : State, (s.core 0).chanComplete 0 = true) ∧ (∃ s : State, (s.core 0).chanComplete 0 = false) ∧
    (∃ s : State, ((s.ft s.fire).cnt (waitClass sw)).toNat = sw.immBits 7 0) ∧
    (∃ s : State, sw.immBits 7 0 < ((s.ft s.fire).cnt (waitClass sw)).toNat) ∧
    (∃ s : State, ∃ x a, s.opA s.fire sw = .data x ∧ (s.core 0).ags.look 0 = some a ∧ sw.mod.toNat = 0 ∧ x.toNat = 65536) ∧
    (∃ s : State, s.opA s.fire sw = .data 0) :=
  ⟨⟨streams (live3 1 0 0) false .opened [(1, false), (2, false)] [], by decide +kernel⟩, ⟨streams (live3 1 0 0) false .closed [] [], by decide +kernel⟩,
    ⟨onCore0 (streams (live3 1 0 0) false .opened [] [4]) (fun c => { c with transfers := [{ Transfer.blank Firing.none with id := 4, bytes := 8 }] }),
      by decide +kernel⟩,
    ⟨streams (live3 1 0 0) true .opened [] [], _, by decide +kernel, by decide +kernel, by decide +kernel, rfl, rfl, by decide +kernel⟩,
    fun out => ⟨streams (live3 1 0 0) out .opened [] [], rfl, rfl, rfl⟩, ⟨live3 1 0 0, rfl⟩,
    ⟨onCore0 (live3 1 0 0) (fun c => { c with chans := [(0, ⟨2, 2, false⟩)] }), by decide +kernel⟩,
    ⟨onCore0 (live3 1 0 0) (fun c => { c with chans := [(0, ⟨2, 1, false⟩)] }), by decide +kernel⟩, ⟨live3 1 0 0, by decide +kernel⟩,
    ⟨onThread0 (live3 1 0 0) (fun t => { t with cntCopy := 1 }), by decide +kernel⟩,
    ⟨onCore0 (live3 65536 0 0) (fun c => { c with ags := [(0, ⟨3, 1, 1, 8, 8⟩)] }), _, _, rfl, rfl, by decide +kernel, by decide +kernel⟩,
    ⟨live3 0 0 0, rfl⟩⟩

/-- A graph of launch 1 with one node whose records hold 32 bytes, and whose threads may go five deep. -/
def oneGraph (used : List Nat) : Graph where
  launch := 1
  root := 0
  poolWait := 10
  poolBase := 0x200
  poolSize := 64
  control := 0
  seedsVa := 0
  seeds := 0
  nodes := [⟨0, none, 1, 32, 5, 0, 0, 0, 0, [], used, [], 0, 0, 0, 0, 0, 0, 0⟩]
  freeSlabs := []
  live := 0
  runningGroups := 0
  started := true
  stopped := false
  savedAt := 0
  waiters := []
  blank := []

/-- A thread of the graph's first node at a depth, that owns the record of unit 2 and reads the record of unit 0. -/
def graphed (a b c : Dword) (used : List Nat) (depth : BitVec 6) : State :=
  { onThread0 (mapped a b c) (fun t => { t with launch := 1, recDepth := depth, recUnit := some 0, owned := [2] }) with
    graphs := [oneGraph used]
    wgs := [⟨1, 0, [0], 1, [], false, some 0, false, false⟩] }

/-- The word of a record instruction with `.try`. -/
def rw_ : SlotWord := { to12 w3 with ty := .b64, xf := 2 }

theorem witness_RecordInstructions :
    (∃ s : State, ∃ g n, s.go s.fire rw_ = .fire ∧ s.graph? (s.ft s.fire).launch = some g ∧ g.nodes[0]? = some n ∧
      s.opA s.fire rw_ = .data 0 ∧ (s.ft s.fire).recDepth.toNat + 1 = n.maxDepth ∧ rw_.tryForm = true ∧ (g.take 0).isSome = true ∧
      g.waitsBefore 0 s.fire = false) ∧
    (∃ s : State, ∃ g n, s.graph? (s.ft s.fire).launch = some g ∧ g.nodes[0]? = some n ∧ s.opA s.fire rw_ = .data 0 ∧
      n.maxDepth < (s.ft s.fire).recDepth.toNat + 1) ∧
    (∃ s : State, ∃ g n, s.graph? (s.ft s.fire).launch = some g ∧ g.nodes[0]? = some n ∧ s.opA s.fire rw_ = .data 0 ∧
      (s.ft s.fire).recDepth.toNat + 1 ≤ n.maxDepth ∧ g.take 0 = none ∧ (s.ft s.fire).owned ≠ []) ∧
    (∃ s : State, ∃ g n, s.graph? (s.ft s.fire).launch = some g ∧ g.nodes[0]? = some n ∧ s.opA s.fire w3 = .data 0 ∧ w3.tryForm = false ∧
      (s.ft s.fire).recDepth.toNat + 1 ≤ n.maxDepth ∧ g.take 0 = none ∧ (s.ft s.fire).owned = [] ∧
      ((s.wg? 1 0).map Workgroup.reserve).getD false = false) ∧
    (∃ s : State, ∃ h n b, s.fire.kept = none ∧ s.opA s.fire rw_ = .data h ∧ s.ownedRecord s.fire h.toNat = some (n, 0, 2) ∧
      s.opB s.fire rw_ = .data 24 ∧
      recordOffset n.record 8 (s.opB s.fire rw_) = .ok 24 ∧ storeImage .b64 (s.opC s.fire rw_) = some b ∧
      (s.locateOf s.fire (.va ((oneGraph [0, 2]).recordVa 2 24)) false true).2 = .ok (.dev 0x1238)) ∧
    (∃ s : State, s.opA s.fire rw_ = .data 24 ∧ (s.wg? 1 0).bind Workgroup.node = some 0 ∧ (s.ft s.fire).recUnit = some 0 ∧
      recordOffset 32 8 (s.opA s.fire rw_) = .ok 24 ∧
      (s.locateOf s.fire (.va ((oneGraph [0, 2]).recordVa 0 24)) true false).2 = .ok (.dev 0x1218) ∧
      (let r := (s.locateOf s.fire (.va ((oneGraph [0, 2]).recordVa 0 24)) true false).1.readAt .read s.fire (.dev 0x1218) 8
       (r.1.graph? (r.1.groupOf s.fire).1).isSome = true)) ∧
    (∃ s : State, ∃ h b, s.fire.kept = some h ∧ s.go s.fire rw_ = .fire ∧ s.opA s.fire rw_ ≠ .pass ∧ s.opB s.fire rw_ ≠ .pass ∧
      s.opC s.fire rw_ ≠ .pass ∧ storeImage .b64 (s.opC s.fire rw_) = some b) ∧
    (∀ e, ∃ s : State, ∃ h n, s.opA s.fire rw_ = .data h ∧ s.ownedRecord s.fire h.toNat = some (n, 0, 2) ∧ s.owns s.fire = true ∧
      s.earlierPending s.fire = e) ∧
    (∃ s : State, ∃ h, s.opA s.fire rw_ = .data h ∧ s.ownedRecord s.fire h.toNat = none ∧ natBit h.toNat 63 = false ∧
      s.owns s.fire = true) :=
  let kept := fun (s : State) => { s with fire := { s.fire with kept := some ⟨0, w0, 0, 0x218, none, 0⟩ } }
  ⟨⟨graphed 0 0 0 [0] 4, _, _, by decide +kernel, rfl, rfl, by decide +kernel, by decide +kernel, by decide +kernel, by decide +kernel,
      by decide +kernel⟩,
    ⟨graphed 0 0 0 [0] 5, _, _, rfl, rfl, by decide +kernel, by decide +kernel⟩,
    ⟨graphed 0 0 0 [0, 2] 0, _, _, rfl, rfl, by decide +kernel, by decide +kernel, rfl, by decide +kernel⟩,
    ⟨onThread0 (graphed 0 0 0 [0, 2] 0) (fun t => { t with owned := [] }), _, _, rfl, rfl, by decide +kernel, by decide +kernel,
      by decide +kernel, rfl, rfl, rfl⟩,
    ⟨graphed (recordHandle 0 1 2) 24 7 [0, 2] 0, _, _, _, rfl, rfl, rfl, by decide +kernel, rfl, rfl, rfl⟩,
    ⟨graphed 24 0 0 [0, 2] 0, by decide +kernel, by decide +kernel, by decide +kernel, rfl, rfl, by decide +kernel⟩,
    ⟨kept (graphed 0 0 7 [0, 2] 0), _, 7, rfl, by decide +kernel, by decide +kernel, by decide +kernel, by decide +kernel, by decide +kernel⟩,
    fun e => match e with
      | true => ⟨earlier (graphed (recordHandle 0 1 2) 0 0 [0, 2] 0), _, _, rfl, rfl, rfl, by decide +kernel⟩
      | false => ⟨graphed (recordHandle 0 1 2) 0 0 [0, 2] 0, _, _, rfl, rfl, rfl, by decide +kernel⟩,
    ⟨graphed 1 0 0 [0, 2] 0, _, rfl, rfl, by decide +kernel, rfl⟩⟩

theorem witness_SystemInstructions :
    triggers (live3 7 0 0) w0 ∧ ({ w0 with imm := 5 } : SlotWord).immBits 7 0 = 5 ∧ ({ w0 with imm := 7 } : SlotWord).immBits 7 0 ≠ 5 ∧
    ({ w0 with imm := 3 } : SlotWord).immBits 11 0 = 3 ∧ (live3 7 0 0).opA (live3 7 0 0).fire w0 = .data 7 ∧
    (live3 7 0 0).owns (live3 7 0 0).fire = true ∧ (live3 7 0 0).earlierPending (live3 7 0 0).fire = false ∧
    (∃ s : State, triggers s w0 ∧ s.opA s.fire w0 = .data 7 ∧ s.owns s.fire = true ∧ s.earlierPending s.fire = true) ∧
    (∃ s : State, triggers s w0 ∧ s.opA s.fire w0 = .err .poison) ∧ ((live3 7 0 0).ft (live3 7 0 0).fire).fvalid = false ∧
    (live3 7 0 0).fire.kept = none ∧ (live3 7 0 0).fire.mute = false ∧
    (∃ s : State, triggers s w0 ∧ (s.ft s.fire).fvalid = true ∧ s.fire.kept = none ∧
      (s.locateOf s.fire (.va (s.privBase 0 0 + (s.kernelAt 0 0).privRound + 0)) true false).2 = .ok (.dev 0x1000)) :=
  ⟨⟨by decide +kernel, by decide +kernel⟩, by decide +kernel, by decide +kernel, by decide +kernel, by decide +kernel, by decide +kernel,
    by decide +kernel, ⟨earlier (live3 7 0 0), ⟨by decide +kernel, by decide +kernel⟩, by decide +kernel, rfl, by decide +kernel⟩,
    ⟨live (some (.err .poison)) none none none, ⟨by decide +kernel, by decide +kernel⟩, by decide +kernel⟩, by decide +kernel, rfl, rfl,
    ⟨onThread0 (mapped 7 0 0) (fun t => { t with fvalid := true }), ⟨by decide +kernel, by decide +kernel⟩, by decide +kernel, rfl, rfl⟩⟩


/-! ### Witnesses of the statements about the hardware's own steps -/

/-- The firing of slot 0 of element 0 of core 0 by thread 0, as it waits since a cycle for a reason. -/
def waiter (why : WaitWhy) : Parked := ⟨Firing.none, why, 0⟩

/-- A core whose kernel has two entries, of loads 4 and 5; thread 0 waits for entry e. The active plane holds load 4. -/
def rowed (e : BitVec 7) : State :=
  { onCore0 (live3 0 0 0) (fun c => { c with
      threads := [(0, { Thread.free with state := .waiting, next := e })]
      parts := [⟨0, 0, 0, 0, 0, 1, [0], [], 0, 0⟩], rows := [(0, [0, 1])]
      planeA := { c.planeA with load := some (0, 4) } }) with
    kernels := [{ Kernel.blank with entries := [⟨4, 1, 1⟩, ⟨5, 1, 1⟩], loads := List.replicate 6 Load.empty }] }

/-- The first cluster is ready, its cores have validated kernel 0, and launch 1 of that kernel has a workgroup to come. -/
def arbiter : State := { State.reset with
  funcReady := 0x40400, cores := (List.range 8).map (fun k => (k, { Core.reset with validated := [0] }))
  kernels := [Kernel.blank], launches := [{ oneLaunch 1 with kernel := some 0 }] }

/-- Element 1 has a one-input word in slot 0; its ready queue holds n firings, and a token is on its way to it. -/
def arriving (n : Nat) : State := onCore0 (placed State.reset [(16, 0x07, { w0 with ty := .s32 })]) (fun c => { c with
  flights := [⟨1, 0, .a, false, .data 7, ⟨0, 0, 0⟩, 0, 0, 0⟩], rq := List.replicate n { Firing.none with elem := 1 } })

/-- Slot 0 of element 0 has a firing ready, whose result goes to outbound port 2, in which n bytes stand. -/
def issuing (n : Nat) : State := onCore0 (placed { live3 1 0 0 with time := 1 } [(0, 0x07, { w0 with ty := .s32, d0 := .island (.sp 2) })]) (fun c => { c with
  rq := [Firing.none], ports := [(2, ⟨.opened, true, none, [], List.replicate n (0, false), none, true⟩)] })

theorem witness_SchedulerSteps :
    (∀ n ∈ [0, 64], ∃ s : State, ∃ x, (s.core 0).flights[0]? = some x ∧ (s.core 0).firstOfEdge 0 x = true ∧
      ((s.setCore 0 { s.core 0 with flights := (s.core 0).flights.eraseIdx 0 }).tokenArrives 0 x).isSome = decide (n = 0)) ∧
    (∀ n ∈ [0, 4096], ∃ s : State, ∃ f, s.issueEnabled 0 = true ∧ s.pickSlot 0 0 = some 0 ∧
      (bySince (s.readyAt 0 0)).take ((s.core 0).load.lanes 0) = [f] ∧ f.core = 0 ∧ s.creditFor f = decide (n = 0) ∧
      ((s.core 0).placed f).place ≠ none) ∧
    (∃ s : State, ∃ p, (s.core 0).parked[0]? = some p ∧ s.canReturn p = true ∧ p.why = .credit) ∧
    (∃ s : State, ∃ p w, (s.core 0).parked[0]? = some p ∧ s.canReturn p = true ∧ p.why = .closed ∧
      (s.core 0).load.fields p.f.node = some w ∧ s.ended p.f = false) ∧
    (∃ s : State, ∃ p, (s.core 0).parked[0]? = some p ∧ s.canReturn p = true ∧ p.why ≠ .credit ∧ p.why ≠ .closed) ∧
    (∀ seen ∈ [[], [0]], ∃ s : State, (s.core 0).admitting = true ∧ s.frozen 0 = false ∧ (s.core 0).round = seen ∧
      (let all := (s.core 0).inside (s.waitRows 0)
       let left := all.filter (fun (r : WaitRow) => !(s.core 0).round.contains r.row)
       ((s.core 0).top (if left.isEmpty then all else left)).isSome = true) ∧ s.placesUsed 0 < (s.core 0).load.window) ∧
    (∃ s : State, s.launch? 1 = some { oneLaunch 1 with kernel := some 0 } ∧
      s.dispatchable { oneLaunch 1 with kernel := some 0 } = true ∧ s.placeIn { oneLaunch 1 with kernel := some 0 } 0 = some [0] ∧
      ∀ x ∈ s.launches, s.goesFirst x { oneLaunch 1 with kernel := some 0 } = false) ∧
    (∃ s : State, (s.thread 0 0).aborted = true ∧ (s.thread 0 0).state ≠ .free ∧ (s.thread 0 0).quiet = true) ∧
    (∃ s : State, (s.thread 0 0).aborted = false ∧ (s.thread 0 0).state = .faulted ∧ s.drained 0 0 = true ∧ s.recordPending 0 0 = false) ∧
    (∃ s : State, ∃ x w, s.frozen 0 = false ∧ s.nextIssue 0 0 = some x ∧ (s.core 0).load.fields 0 = some w ∧ x.ctx = none ∧
      x.carried = none) ∧
    (∃ s : State, ∃ x, (s.core 0).loops[0]? = some x ∧ s.starved 0 x = true) :=
  ⟨fun n h => ⟨arriving n, _, rfl, by
      simp only [List.mem_cons, List.not_mem_nil, or_false] at h
      rcases h with rfl | rfl <;> decide +kernel⟩,
    fun n h => ⟨issuing n, Firing.none, by
      simp only [List.mem_cons, List.not_mem_nil, or_false] at h
      rcases h with rfl | rfl <;> decide +kernel⟩,
    ⟨onCore0 State.reset (fun c => { c with parked := [waiter .credit] }), _, rfl, by decide +kernel, rfl⟩,
    ⟨onCore0 (placed (live3 0 0 0) [(0, 0xE7, w0)]) (fun c => { c with parked := [waiter .closed] }), _, _, rfl, by decide +kernel, rfl, rfl,
      by decide +kernel⟩,
    ⟨onCore0 State.reset (fun c => { c with parked := [waiter .stack] }), _, rfl, by decide +kernel, by decide +kernel, by decide +kernel⟩,
    fun seen h => ⟨onCore0 (rowed 0) (fun c => { c with round := seen }), by
      simp only [List.mem_cons, List.not_mem_nil, or_false] at h
      rcases h with rfl | rfl <;> decide +kernel⟩, ⟨arbiter, by decide +kernel⟩,
    ⟨onThread0 (live3 0 0 0) (fun t => { t with aborted := true }), by decide +kernel⟩,
    ⟨{ onThread0 (live3 0 0 0) (fun t => { t with state := .faulted }) with fire := { Firing.none with core := 1 } }, by decide +kernel⟩,
    ⟨onCore0 (loopState 0 0) (fun c => { c with
      loops := c.loops.map (fun (i : LoopInst) => { i with t := 0 })
      planeA := { c.planeA with img := { c.planeA.img with budget := 8192 } } }), _, _, by decide +kernel, rfl, rfl, rfl, rfl⟩,
    ⟨onCore0 { loopState 0 0 with time := 2 ^ 31 } (fun c => { c with
      loops := [⟨0, 0, 0, 0, 0, 0, 9, [], 4, 0, none, [], false, 4, [], [], false, none, false, 0, none, 0⟩]
      planeA := { c.planeA with img := { c.planeA.img with budget := 8192 } } }), _, rfl, by decide +kernel⟩⟩

/-- Page tables that map the first gigabyte of context 0 onto itself: the context descriptor at 0, tables at 0x1000 and 0x2000. -/
def tables : List Host.Cell := [(0, 1), (1, 1), (9, 0x10), (0x1000, 1), (0x1001, 0x20), (0x2000, 0x1D)]

/-- A machine with those tables whose stacks and control complex are ready. -/
def paged : State := { State.reset with mem := tables, funcReady := 0x3FF }

theorem witness_ConfigurationPlanes :
    (∃ s : State, s.wanted 0 = some (0, 5) ∧ (s.core 0).decoding = none ∧ s.validatingNow 0 = false ∧
      (s.core 0).shadow.load ≠ some (0, 5) ∧ s.validationWaits 0 = false) ∧
    (∃ s : State, (s.core 0).decoding = some (0, 5) ∧ (s.core 0).cache.contains (0, 5) = true) ∧
    (∃ s : State, (s.core 0).switchTo = none ∧ (s.switchChoice 0).isSome = true ∧ s.validationDue 0 = false) ∧
    (∃ s : State, (s.core 0).switchTo = some (0, 5) ∧ s.occupied 0 = false ∧ (s.core 0).pinned = false ∧
      (s.core 0).shadow.load = some (0, 5) ∧ (s.core 0).shadow.ready = true ∧ (s.core 0).decoding = none ∧ s.validatingNow 0 = false) ∧
    (∃ s : State, (s.core 0).decoding = some (0, 5) ∧ (s.core 0).cache.contains (0, 5) = false ∧ s.configHeld 0 = false ∧
      ((s.accessAs .configFetch 0).imagePages 0 0 1 0x4000).2 = .pages [.dev 0x4000]) ∧
    (∃ s : State, s.launch? 1 = some (oneLaunch 1) ∧ s.validationAt (oneLaunch 1) 0 = some 0 ∧ (s.core 0).decoding = none ∧
      (s.core 0).switchTo = none ∧ s.configHeld 0 = false ∧ s.launches.takeWhile (fun (x : Launch) => x.id != 1) = []) :=
  ⟨⟨rowed 1, by decide +kernel⟩, ⟨onCore0 (rowed 1) (fun c => { c with decoding := some (0, 5), cache := [(0, 5)] }), by decide +kernel⟩,
    ⟨rowed 1, by decide +kernel⟩,
    ⟨onCore0 (rowed 1) (fun c => { c with switchTo := some (0, 5), planeB := ⟨some (0, 5), true, [], Load.empty⟩ }), by decide +kernel⟩,
    ⟨onCore0 paged (fun c => { c with decoding := some (0, 5) }), rfl, rfl, rfl, rfl⟩,
    ⟨{ arbiter with launches := [oneLaunch 1] }, rfl, rfl, rfl, rfl, rfl, rfl⟩⟩

/-- A `chdone` in slot 0 of element 0, and the parked instances of a core. -/
def parkedAt (l : List Parked) : State := onCore0 (placed (live3 0 0 0) [(0, 0xE9, w0)]) (fun c => { c with
  parked := l, chans := [(0, ⟨2, 1, false⟩)] })

/-- A flip to a load that binds port 2 outbound and names it as a destination, which check 11 passes. -/
theorem witness_ConfigurationPlanes_ports : ∃ c : Core, ∃ o w, (c.flip 7).load.opc 0 = some o ∧ (c.flip 7).load.fields 0 = some w ∧
    (c.flip 7).load.islandOk 0 o w = true ∧ (0, Dst.island (.sp 2)) ∈ dstsOf o w ∧
    ∀ out ag g, Bind.port 2 out ag g ∈ (c.flip 7).load.binds → out = true :=
  ⟨{ Core.reset with planeB := ⟨some (0, 5), true, [], { Load.empty with
      slots := [(0, SlotWord.encode 0x01 { w2 with d0 := .island (.sp 2) })], binds := [.port 2 true none none] }⟩ }, _, _, rfl, rfl,
    by decide +kernel, by decide +kernel, by
      intro out ag g h
      change Bind.port 2 out ag g ∈ [Bind.port 2 true none none] at h
      simp only [List.mem_singleton, Bind.port.injEq] at h
      exact h.2.1⟩

theorem witness_EnginesAndWatchdogs :
    (∃ s : State, ∃ x, (s.core 0).copyTurn = some 3 ∧ (s.core 0).transfer? 3 = some x) ∧
    (∃ s : State, ∃ x, (s.core 0).transfer? 3 = some x ∧ (s.core 0).transferDone x = true ∧ x.queue = none ∧ x.counted = true) ∧
    (∃ s : State, ∃ p, (s.core 0).parked[0]? = some p ∧ p.why = .channel ∧ s.canReturn p = false ∧ s.frozen 0 = false ∧
      p.since + 2 ^ clamp 10 30 (natBits (s.core 0).kwdog.toNat 4 0) ≤ s.time) ∧
    (∃ s : State, (s.core 0).idleSince = some 0 ∧ s.pinIdle 0 = true ∧
      0 + 2 ^ clamp 10 30 (natBits (s.core 0).ksched.toNat 44 40) ≤ s.time ∧ (s.core 0).transfers = [] ∧
      lowest (s.core 0).busyPorts = some 2) ∧
    (∀ o ∈ [(0, true, true), (0x1005, false, true), (0x1006, false, false)], ∃ s : State, ∃ p w, (s.core 0).parked[0]? = some p ∧ p.why = .ticket ∧
      s.ticketTurn 0 0 p.since = true ∧ s.ended p.f = false ∧ s.fieldsOf p.f = some w ∧ s.mwOrd.toNat = o.1 ∧ s.ordersFences = o.2.1 ∧
      s.ticketSilent = o.2.2) :=
  ⟨⟨onCore0 State.reset (fun c => { c with transfers := [{ Transfer.blank Firing.none with id := 3, bytes := 8 }] }), _, by decide +kernel, rfl⟩,
    ⟨onCore0 State.reset (fun c => { c with transfers := [{ Transfer.blank Firing.none with id := 3, counted := true }] }), _, rfl,
      by decide +kernel, rfl, rfl⟩,
    ⟨{ parkedAt [waiter .channel] with time := 2 ^ 31 }, _, rfl, by decide +kernel, by decide +kernel, by decide +kernel, by decide +kernel⟩,
    ⟨onCore0 { rowed 1 with time := 2 ^ 31 } (fun c => { c with
      ports := [(2, ⟨.opened, false, none, [], [], none, false⟩)], idleSince := some 0 }), by decide +kernel⟩,
    fun o h => ⟨{ parkedAt [waiter .ticket] with
        mwOrd := BitVec.ofNat _ o.1, routes := [(6, 1)], ports := [(0, { MuwinPort.reset with state := 2 })] }, _, _, rfl, rfl, by
      simp only [List.mem_cons, List.not_mem_nil, or_false] at h
      rcases h with rfl | rfl | rfl <;> exact ⟨by decide +kernel, by decide +kernel, rfl, by decide +kernel, by decide +kernel, by decide +kernel⟩⟩⟩

/-- A machine whose core 0 has a CACHE tile. -/
def cacheTiled : State := onCore0 State.reset (fun c => { c with planeA := { c.planeA with img := { c.planeA.img with
  roles := List.replicate 31 ⟨.off, 0, 0⟩ ++ [⟨.cache, 0, 0⟩] } } })

theorem witness_HierarchySteps :
    quietMemory State.reset ∧ State.reset.dieHolds 3 7 = false ∧ natBit ({ State.reset with hostcap := 0x800 } : State).hostcap.toNat 11 = true ∧
    quietMemory { State.reset with hostcap := 0x800 } ∧
    (∃ s : State, quietMemory s ∧ s.moesi 0 7 = some .m ∧ 7 ∈ lineWords 0 0x80) ∧
    (∃ s : State, quietMemory s ∧ s.moesi 0 7 = some .s ∧ 7 ∈ lineWords 0 0x80) ∧
    (∃ s : State, quietMemory s ∧ (s.core 0).load.tilesOf .cache ≠ [] ∧ (s.core 0).l1.any (fun (x : L1Word) => x.key == 7) = false ∧
      8 * 7 < Config.devBytes ∧ (s.core 0).misses = []) ∧
    (∃ s : State, quietMemory s ∧ s.hostCached = true) ∧
    (∃ s : State, ∃ e, quietMemory s ∧ (s.translate 0 0 0x5000 (kindAccess .read).1 (kindAccess .read).2).2 = .page e) ∧
    (∃ s : State, (∀ m ∈ lineWords (7 / 16) 0xFFFF, ((s.l2.look m).bind L2Word.dirty) = none ∧ s.fenced m = false) ∧
      s.badBursts.contains (7 / 4) = true) :=
  ⟨⟨rfl, rfl, rfl, rfl, rfl⟩, by decide +kernel, by decide +kernel, ⟨rfl, rfl, rfl, rfl, rfl⟩,
    ⟨{ State.reset with l2 := [(7, ⟨[(0, .m)], some 0x55, false⟩)] }, ⟨rfl, rfl, rfl, rfl, rfl⟩, by decide +kernel⟩,
    ⟨{ State.reset with l2 := [(7, ⟨[(0, .s)], none, false⟩)] }, ⟨rfl, rfl, rfl, rfl, rfl⟩, by decide +kernel⟩,
    ⟨cacheTiled, ⟨rfl, rfl, rfl, rfl, rfl⟩, by decide +kernel⟩,
    ⟨{ State.reset with hostcap := 0x400 }, ⟨rfl, rfl, rfl, rfl, rfl⟩, by decide +kernel⟩,
    ⟨paged, _, ⟨rfl, rfl, rfl, rfl, rfl⟩, rfl⟩, ⟨{ State.reset with badBursts := [1] }, by decide +kernel⟩⟩

theorem witness_FaultQueueAndPages :
    (∃ s : State, ∃ d rest, s.deferred = d :: rest ∧ s.fqFull = false) ∧ (∃ s : State, s.xltInv.getLsbD 63 = false) ∧
    (∃ s : State, s.xltInv.getLsbD 63 = true) ∧ (∃ s : State, s.dq.length = 1023) ∧ (∃ s : State, s.dq.length = 1024) ∧
    (∃ s : State, ∃ i d, s.dq.findIdx? (fun (d : DqPage) => d.released) = some i ∧ s.dq[i]? = some d ∧ d.fields.getLsbD 9 = false) ∧
    (∃ v : Dword, v.getLsbD 0 = true) ∧
    (∃ s : State, ∃ r, s.ats.find? (fun (r : AtsReq) => r.die == 2 && r.ctx == 1 && r.page == 0x5000 / 4096) = some r) ∧
    (∃ s : State, ∃ die, (die, 1, 0x5000 / 4096) ∈ s.priPages) ∧ (∃ s : State, ∃ h ∈ s.holds, h.below 4 = true ∧ s.barWaits = false) ∧
    (∃ s : State, s.barWaits = true) ∧ (∀ kc ∈ State.reset.cores, kc.2.misses = []) ∧
    (∃ s : State, (∃ kc ∈ s.cores, kc.2.misses ≠ []) ∧ ∀ kc ∈ s.cores, ∀ m ∈ kc.2.misses, (s.epoch - m.epoch).toNat < 2 ^ 31) :=
  ⟨⟨{ State.reset with deferred := [⟨State.reset.blankRec 0x70 3 .none 0, none⟩], fqCtl := 0x80000006 }, _, _, rfl, by decide +kernel⟩,
    ⟨State.reset, by decide +kernel⟩, ⟨{ State.reset with xltInv := 0x8000000000000000 }, by decide +kernel⟩,
    ⟨{ State.reset with dq := List.replicate 1023 ⟨0, 1, false⟩ }, by decide +kernel⟩,
    ⟨{ State.reset with dq := List.replicate 1024 ⟨0, 1, false⟩ }, by decide +kernel⟩,
    ⟨{ State.reset with dq := [⟨0x1000, 1, false⟩, ⟨0x2000, 2, true⟩] }, _, _, rfl, rfl, by decide +kernel⟩, ⟨1, by decide +kernel⟩,
    ⟨{ State.reset with ats := [⟨2, 1, 5, []⟩] }, _, rfl⟩, ⟨{ State.reset with priPages := [(2, 1, 5)] }, 2, by decide +kernel⟩,
    ⟨{ State.reset with holds := [⟨0, 0, 5, 0, some 3, []⟩] }, _, List.mem_singleton.mpr rfl, by decide +kernel, rfl⟩,
    ⟨{ State.reset with waiting := [.hostBar2Access 0x1000 (.write [1])] }, by decide +kernel⟩, by decide +kernel,
    ⟨onCore0 { mapped 0x100 7 8 with epoch := 3 } (fun c => { c with
      misses := [⟨(mapped 0x100 7 8).fire, gw .b32, 0x220, 0, false, 2⟩] }), by decide +kernel, by decide +kernel⟩⟩

/-- Launch 1 of queue 0, whose control word is given, runs; launch 2 of queue 1 has a higher priority, and no core is ready for it. -/
def rivals (ctl : Dword) (l : Launch) : State := { State.reset with
  queues := [(0, { Queue.reset with qctl := ctl }), (1, { Queue.reset with qctl := 0x05000004 })]
  kernels := [Kernel.blank], launches := [l, { oneLaunch 2 with queue := 1, kernel := some 0 }] }

/-- Launch 1 with one of two workgroups running. -/
def running : Launch := { oneLaunch 1 with wgCount := 2, nextWg := 1, running := [0], saveBase := 0x10000 }

/-- Launch 1 is being pre-empted at a load boundary, and the page of its save area is absent. -/
def saving : State := onCore0 { rivals 0x08000004 { running with preempt := 2, stopped := true } with
    mem := [(0, 1), (1, 1), (9, 0x10), (0x1000, 1), (0x1001, 0x20)], funcReady := 0x407FF } (fun c => { c with
  parts := [⟨1, 0, 0, 0, 0, 1, [0], [], 0, 0⟩] })

/-- A running graph of launch 1 with a live record. -/
def runningGraph (ctl : Dword) : State := { rivals ctl { running with graph := true } with graphs := [{ oneGraph [0] with live := 1 }] }

/-- Queue 0 is ACTIVE with two packets to come, in a ring of host memory, and a hart runs the handler task of its NOTIFY; it may hold the
header of the first, of which byte 1 is the type, and packets that have started. -/
def ringed (header : Option (List Byte)) (started : List Packet) : State := { paged with
  queues := [(0, { Queue.reset with
    qbase := 0x8000000000010000, qctl := 0x4000000084000004, qwr := 2, header := header, started := started })]
  hostMem := [(0x10000, 1)], harts := [{ Hart.reset with task := some (⟨1, 0, 2, 0⟩, ⟨11, 0, 1, 0⟩) }] }

/-- A header: VALID, a type, and 8-byte fields from byte 8 on. -/
def headerOf (type : Nat) (fields : List Nat) : List Byte :=
  ([1, BitVec.ofNat 8 type] ++ List.replicate 6 0 ++ fields.flatMap (bytesLE 8) ++ List.replicate 64 0).take 64

/-- A record of a running graph has waited since cycle 0, and the launchers tick at cycle 16. -/
def ticking : State := { arbiter with
  time := 16, launches := [{ oneLaunch 1 with graph := true, kernel := some 0 }]
  graphs := [{ oneGraph [2] with
    live := 1
    nodes := (oneGraph [2]).nodes.map (fun (n : GNode) => { n with kernel := some 0, queue := [(2, 0, 1)] }) }] }

theorem witness_PreemptionAndGraphs :
    (∃ s : State, s.launch? 1 = some running ∧ s.completing running = false ∧
      s.victims.any (fun (v : Launch) => v.id == 1) = true ∧ s.depthOf running = 2) ∧
    (∃ s : State, s.launch? 1 = some running ∧ s.completing running = false ∧
      s.victims.any (fun (v : Launch) => v.id == 1) = true ∧ s.depthOf running = 1) ∧
    (∀ e ∈ [true, false], ∃ s : State, ∃ l : Launch, s.launch? 1 = some l ∧ l.graph = false ∧ s.completing l = false ∧ l.preempt = 2 ∧
      (s.coresOf 1).all (fun k => s.drainedFor k 1) = true ∧ (s.areasOpen l).2 = e) ∧
    (∃ s : State, ∃ l : Launch, s.launch? 1 = some l ∧ l.graph = false ∧ s.completing l = false ∧ l.preempt = 1 ∧ l.running = [] ∧
      (s.writeNextWg l).2 = true) ∧
    (∃ s : State, s.victims.any (fun (l : Launch) => l.queue == 0 && s.depthOf l == 0) = true) ∧
    (∃ s : State, ∃ l : Launch, s.launch? 1 = some l ∧ l.stopped = true ∧ l.preempt = 0 ∧ s.mayRun l = true ∧
      (let u := s.onQueue l.queue (fun (x : Queue) => { x with halted := false })
       let v := u.dropFenced 1
       u.mayRun l = true ∧ u.keyHeld (doneKey l.queue l.index) = false ∧
       (match v.readAreas l (((v.saved.filter (fun (x : Saved) => x.launch == 1)).zipIdx).filter (fun x => !x.1.partsLeft.isEmpty)) with
        | (x, some areas) => ((x.restoreAll areas).bind (fun t => t.goOn l)).isSome
        | (_, none) => false) = true)) ∧
    (∃ s : State, (s.queue 0).turnSince = some 0 ∧ natBits (s.queue 0).quantum.toNat 31 0 = 1 ∧ s.time = 1700 ∧
      ∃ r ∈ s.rotation, r ≠ 0 ∧ (s.queue r).prio = (s.queue 0).prio) ∧
    (∃ s : State, ∃ bs, s.mailPost 0 2 = none ∧ s.startable 0 2 = some bs ∧ s.launchRoom (launchId 0 (s.queue 0).nextPkt) = true ∧
      (s.hubPlace (s.queue 0).ctx (bytesAt bs 16 8) true false (.packet 0)).2 = .ok (.dev 0x3000)) ∧
    (∃ s : State, (s.lastTick.look 7).getD 0 < s.time / 16 * 16) ∧
    (∃ s : State, ∃ l g n row size k, (s.lastTick.look 0).getD 0 < s.time / 16 * 16 ∧
      (let u : State := { s with lastTick := s.lastTick.put 0 (s.time / 16 * 16) }
       s.stopsNow = false ∧ s.launchOrder 0 = [64] ∧ u.launch? 1 = some l ∧ u.graph? 1 = some g ∧
       g.nodes[0]? = some n ∧ n.eligible (s.time / 16 * 16) g.draining = some (row, size) ∧
       u.groupCore l.id 0 n size = some (k, none))) ∧
    (∃ s : State, ∃ p g, (s.core 0).parked[0]? = some p ∧ s.graph? (s.ft p.f).launch = some g ∧ p.why = .record ∧
      p.since + 2 ^ g.poolWait ≤ s.time ∧ s.recordReady p.f = false) ∧
    (∃ s : State, ∃ l : Launch, ∃ g : Graph, s.launch? 1 = some l ∧ s.graph? 1 = some g ∧ g.over = true ∧ l.status = none ∧
      s.packetOver l = true ∧ s.copies.any (fun y => y.1.launch == 1) = false) ∧
    (∃ s : State, ∃ l : Launch, ∃ g : Graph, s.launch? 1 = some l ∧ s.graph? 1 = some g ∧ s.completing l = false ∧ l.status = none ∧
      g.started = true ∧ l.preempt = 1 ∧ g.runningGroups = 0) ∧
    (∃ s : State, ∃ l : Launch, ∃ g : Graph, s.launch? 1 = some l ∧ s.graph? 1 = some g ∧ s.completing l = false ∧ l.status = none ∧
      g.started = true ∧ l.preempt = 0 ∧ l.stopped = false ∧ s.victims.any (fun (v : Launch) => v.id == 1) = true ∧ s.depthOf l = 1) ∧
    (∃ s : State, ∃ l : Launch, ∃ g : Graph, s.launch? 1 = some l ∧ s.graph? 1 = some g ∧ s.completing l = false ∧ l.status = none ∧
      g.started = true ∧ l.preempt = 0 ∧ l.stopped = false ∧ s.victims.any (fun (v : Launch) => v.id == 1) = true ∧ s.depthOf l = 2) :=
  ⟨⟨rivals 0x08000004 running, by decide +kernel⟩, ⟨rivals 0x04000004 running, by decide +kernel⟩,
    fun e h => by
      simp only [List.mem_cons, List.not_mem_nil, or_false] at h
      rcases h with rfl | rfl
      · exact ⟨rivals 0x08000004 { running with preempt := 2, stopped := true }, _, rfl, by decide +kernel⟩
      · exact ⟨saving, _, rfl, by decide +kernel⟩,
    ⟨rivals 0x08000004 { running with preempt := 1, stopped := true, running := [] }, _, rfl, by decide +kernel⟩,
    ⟨rivals 0x00000004 running, by decide +kernel⟩,
    ⟨{ State.reset with launches := [{ running with stopped := true }] }, _, rfl, rfl, rfl, by decide +kernel, by decide +kernel⟩,
    ⟨{ State.reset with queues := [(0, { Queue.reset with quantum := 1, turnSince := some 0 })], rotation := [0, 5], time := 1700 },
      by decide +kernel⟩,
    ⟨ringed (some (headerOf 2 [0, 0x3000])) [], headerOf 2 [0, 0x3000], rfl, by decide +kernel, by decide +kernel, rfl⟩,
    ⟨{ State.reset with time := 16 }, by decide +kernel⟩,
    ⟨ticking, _, _, _, _, _, 0, by decide +kernel, by decide +kernel, by decide +kernel, rfl, rfl, rfl, rfl, by decide +kernel⟩,
    ⟨{ onCore0 (graphed 0 0 0 [0, 2] 0) (fun c => { c with parked := [waiter .record] }) with
        time := 1024, graphs := [{ oneGraph [0, 2] with waiters := [(0, 0, Firing.none)] }] }, _, _, rfl, rfl, rfl, by decide +kernel, by decide +kernel⟩,
    ⟨{ runningGraph 4 with graphs := [oneGraph []] }, _, _, rfl, rfl, rfl, rfl, by decide +kernel, by decide +kernel⟩,
    ⟨{ rivals 0x04000004 { running with graph := true, preempt := 1 } with graphs := [{ oneGraph [0] with live := 1 }] }, _, _, rfl, rfl,
      by decide +kernel, rfl, rfl, rfl, rfl⟩,
    ⟨runningGraph 0x04000004, _, _, rfl, rfl, by decide +kernel, rfl, rfl, rfl, rfl, by decide +kernel, by decide +kernel⟩,
    ⟨runningGraph 0x08000004, _, _, rfl, rfl, by decide +kernel, rfl, rfl, rfl, rfl, by decide +kernel, by decide +kernel⟩⟩

theorem witness_QueuesAndPackets :
    (∃ s : State, ∃ i : BitVec 64, (s.queue 0).state = 1 ∧ (s.queue 0).qwr.toNat < i.toNat ∧
      i.toNat - (s.queue 0).qrd.toNat = (s.queue 0).size) ∧
    (∃ s : State, ∃ i : BitVec 64, (s.queue 0).state = 1 ∧ (s.queue 0).qwr.toNat < i.toNat ∧
      (s.queue 0).size + 1 = i.toNat - (s.queue 0).qrd.toNat) ∧
    (∃ s : State, (s.queue 0).state = 0) ∧
    (∃ s : State, (s.queue 0).state = 1 ∧ s.assisted 1 = false ∧ natBit s.funcReady.toNat 1 = true ∧ (s.queue 0).header = none ∧
      (s.queue 0).nextPkt < (s.queue 0).qwr.toNat ∧ (s.queue 0).pollAt ≤ s.time ∧
      (s.queue 0).started.any (fun (p : Packet) => !p.retired) = false ∧ s.handled 0 = true ∧ s.keyHeld 0 = false ∧
      natBit (s.queue 0).qbase.toNat 63 = true ∧ bytesAt (s.hubRead (.host ((s.queue 0).packetAddr 0)) 64).2 0 1 % 2 = 1 ∧
      packetError (s.hubRead (.host ((s.queue 0).packetAddr 0)) 64).2 = none) ∧
    (∃ s : State, s.startable 0 0 = some (headerOf 0 [])) ∧
    (∃ s : State, ∃ bs, s.startable 0 3 = some bs ∧ copyCheck (bytesAt bs 16 8) (bytesAt bs 24 8) (bytesAt bs 32 8) = 0 ∧
      (List.range Config.cores).find? (fun c =>
        dieOf c == s.copyDie 0 0 (bytesAt bs 16 8) (bytesAt bs 24 8) && s.coreUp c) = some 0 ∧ (s.core 0).copyQueue < 64) ∧
    (∃ s : State, ∃ bs, s.startable 0 4 = some bs ∧
      (s.hubPlace 0 (bytesAt bs 16 8) true false (.packet 0)).2 = .ok (.dev 0x3000)) ∧
    (∃ s : State, ∃ bs, s.mailPost 0 1 = none ∧ s.startable 0 1 = some bs ∧ s.launchRoom (launchId 0 (s.queue 0).nextPkt) = true ∧
      (s.hubPlace (s.queue 0).ctx (bytesAt bs 16 8) true false (.packet 0)).2 = .ok (.dev 0x3000)) ∧
    (∃ s : State, ∃ bs, s.startable 0 5 = some bs ∧ s.signalsZero 0 0 (barrierSignals bs) = (s, .ok true)) ∧
    (∃ s : State, ∃ p, (s.queue 0).started.find? (fun (p : Packet) => !p.retired || selfDone p.type) = some p ∧ p.retired = false ∧
      s.keyHeld 0 = false ∧ p.bus = true) ∧
    (∃ s : State, ∃ p, (s.queue 0).started.find? (fun (p : Packet) => !p.retired || selfDone p.type) = some p ∧ p.retired = true ∧
      s.keyHeld (doneKey 0 p.index) = false) ∧
    (∃ s : State, ∃ l, s.launch? 1 = some l ∧ s.outcome l = some 3) :=
  ⟨⟨ringed none [], 16, by decide +kernel⟩, ⟨ringed none [], 17, by decide +kernel⟩, ⟨State.reset, by decide +kernel⟩,
    ⟨ringed none [], by decide +kernel⟩, ⟨ringed (some (headerOf 0 [])) [], by decide +kernel⟩,
    ⟨{ ringed (some (headerOf 3 [0, 0x100000000, 0x200000000, 16, 0x1000, 0])) [] with funcReady := 0x407FF }, _, rfl, by decide +kernel⟩,
    ⟨ringed (some (headerOf 4 [0, 0x3000])) [], headerOf 4 [0, 0x3000], by decide +kernel, rfl⟩,
    ⟨ringed (some (headerOf 1 [0, 0x3000])) [], headerOf 1 [0, 0x3000], rfl, by decide +kernel, by decide +kernel, rfl⟩,
    ⟨ringed (some (headerOf 5 [])) [], headerOf 5 [], by decide +kernel, rfl⟩,
    ⟨ringed none [⟨0, 0, 0, 0, 0x10000, true, 0, false, false⟩], _, rfl, rfl, by decide +kernel, rfl⟩,
    ⟨ringed none [⟨0, 0, 0, 0, 0x10000, true, 0, true, false⟩], _, rfl, rfl, by decide +kernel⟩,
    ⟨{ State.reset with launches := [{ oneLaunch 1 with status := some 3 }] }, _, rfl, rfl⟩⟩

theorem witness_EventsFencesAndResets :
    (∃ s : State, ∃ e, s.evPending[0]? = some e ∧ s.evStore = []) ∧
    (∃ s : State, ∃ x e h rest, s.evPending[0]? = some e ∧ s.evStore.find? (fun x => x.pairs e) = some x ∧ s.harts = h :: rest ∧
      h.task = none ∧ natBit s.funcReady.toNat 1 = true ∧ s.evPairs = []) ∧
    (∃ s : State, natBit s.funcReadyL.toNat 15 = false ∧ s.fencePorts.contains 15 = false ∧ (s.mport 15).state = 2) ∧
    (∃ s : State, ∃ v : Dword, v.getLsbD 63 = true ∧ s.lmbBusy = false ∧ natBits v.toNat 17 16 = 2 ∧
      (s.queue (natBits v.toNat 9 0)).state = 1 ∧ s.launches.length = 255) ∧
    (∃ v : Dword, v.getLsbD 63 = true ∧ natBits v.toNat 17 16 = 3) ∧
    (∃ s : State, natBit s.funcReady.toNat 57 = false) :=
  ⟨⟨{ State.reset with evPending := [⟨1, 0, 1, 0⟩] }, _, rfl, rfl⟩,
    ⟨{ State.reset with evPending := [⟨2, 3, 0, 0⟩], evStore := [⟨1, 11, 1, 0⟩], funcReady := 2 }, _, _, _, _, rfl, rfl, rfl, rfl,
      by decide +kernel, rfl⟩,
    ⟨{ State.reset with ports := [(15, { MuwinPort.reset with state := 2 })] }, by decide +kernel⟩,
    ⟨{ ringed none [] with launches := List.replicate 255 (oneLaunch 9) }, 0x8000000000020000, by decide +kernel⟩,
    ⟨0x8000000000030000, by decide +kernel⟩, ⟨State.reset, by decide +kernel⟩⟩

/-- A power with exponent 1 below its modulus is its base. -/
theorem modPow_one (n x : Nat) : modPow (n + 2) x 1 (x + 1) = x := by
  rcases Nat.eq_zero_or_pos x with h | h
  · subst h; simp [modPow]
  · simp only [modPow, Nat.one_ne_zero, if_false, Nat.reduceDiv, Nat.reduceMod, if_true]
    rw [Nat.mod_eq_of_lt (show 1 < x + 1 by omega), Nat.mul_one, Nat.mod_eq_of_lt (by omega)]

/-- The vendor's slot accepts the first owner command under a key of exponent 1. -/
theorem witness_ownerCommand : ∃ (s : State) (cmd : OwnerCmd), signerOk s.keySlots cmd.signer cmd.op = true ∧
    slotAccepts s.keySlots cmd.signer cmd.modulus cmd.exponent cmd.signature (Config.ownerMessage cmd.op) = true := by
  let m := Config.ownerMessage (.program 1 [])
  let x := fromBE (pkcsEncode m)
  refine ⟨{ State.reset with keySlots := [⟨sha512 (Config.keyBytes (x + 1) 1), true, false⟩] },
    { signer := 0, modulus := x + 1, exponent := 1, signature := x, op := .program 1 [] }, rfl, ?_⟩
  have h : rsaVerify (x + 1) 1 x m = true := by
    unfold rsaVerify
    rw [modPow_one 4094 x]
    simp [x]
  simp only [slotAccepts, List.getElem?_cons_zero, Bool.not_false, Bool.and_true, Bool.true_and, beq_self_eq_true]
  exact h

theorem witness_SecurityPowerAndHost :
    (∃ s : State, s.attRunning = true) ∧ State.reset.attRunning = false ∧ natBits State.reset.bootStatus.toNat 63 32 = 0 ∧
    (∃ s : State, ∃ v : Dword, v.getLsbD 63 = true ∧ natBits s.bootStatus.toNat 63 32 ≠ 0) ∧ (∃ v : Dword, v.getLsbD 63 = false) ∧
    (∃ s : State, s.assisted 5 = false ∧ natBit s.funcReady.toNat 1 = true ∧ s.govAt ≤ s.time) ∧
    State.reset.fenceCores.contains 319 = false ∧ (∃ s : State, s.throt.toNat = s.lid.toNat) ∧
    (∃ s : State, s.lid.toNat < s.throt.toNat ∧ s.throt.toNat = 1280) ∧
    (∃ s : State, s.fencePorts.contains 15 = false ∧ natBit (s.mport 15).ctl.toNat 0 = true) ∧
    (∃ s : State, (s.mport 15).state = 2) ∧ (∃ s : State, s.opensAt 0x1000 8 = true) ∧
    (∃ s : State, ∀ o, o = 0x1000 → s.opensAt (s.bar2 o) 8 = true) :=
  ⟨⟨{ State.reset with attRunning := true }, rfl⟩, rfl, by decide +kernel,
    ⟨{ State.reset with bootStatus := 0x100000000 }, 0x8000000000000010, by decide +kernel⟩, ⟨0, by decide⟩,
    ⟨{ State.reset with funcReady := 2 }, by decide +kernel⟩, by decide +kernel, ⟨{ State.reset with lid := 1280 }, by decide +kernel⟩,
    ⟨State.reset, by decide +kernel⟩, ⟨{ State.reset with ports := [(15, { MuwinPort.reset with ctl := 1 })] }, by decide +kernel⟩,
    ⟨{ State.reset with ports := [(15, { MuwinPort.reset with state := 2 })] }, by decide +kernel⟩, ⟨paged, by decide +kernel⟩,
    ⟨paged, by intro o h; subst h; unfold State.bar2; cases Config.bar2Full <;> decide +kernel⟩⟩

end Sys2Proof.Tests
end

section
/-! Placing a number in a type and reading it back (spec 01 R33; 02 R46), and O19, which rests on it. -/

namespace Sys2Proof

theorem Ty.width_pos (t : Ty) : 0 < t.width := by cases t <;> decide

theorem Ty.width_le (t : Ty) : t.width ≤ 64 := by cases t <;> decide

namespace Machine

/-! ### Patterns and numbers (R33, R46) -/

theorem readBits_lt (t : Ty) (x : Dword) : readBits t x < 2 ^ t.width := Nat.mod_lt _ (Nat.two_pow_pos _)

theorem wrap_cast (w : Nat) (x : Int) : (wrap w x : Int) = x % 2 ^ w :=
  Int.toNat_of_nonneg (Int.emod_nonneg _ (by positivity))

theorem wrap_lt (w : Nat) (x : Int) : wrap w x < 2 ^ w := by
  have h : x % (2 ^ w : Int) < 2 ^ w := Int.emod_lt_of_pos _ (by positivity)
  rw [← wrap_cast] at h
  exact_mod_cast h

/-- A pattern and the integer that it denotes are the same modulo 2^w. -/
theorem two_pow_dvd_toSigned_sub (w n : Nat) : (2 ^ w : Int) ∣ toSigned w n - n := by
  unfold toSigned
  split
  · simp
  · exact ⟨-1, by ring⟩

theorem toSigned_range {w n : Nat} (hw : 0 < w) (hn : n < 2 ^ w) :
    -2 ^ (w - 1) ≤ toSigned w n ∧ toSigned w n < 2 ^ (w - 1) := by
  obtain ⟨v, rfl⟩ : ∃ v, w = v + 1 := ⟨w - 1, by omega⟩
  simp only [toSigned, Nat.add_sub_cancel, pow_succ] at hn ⊢
  split
  all_goals zify at *; omega

/-- A payload defines in its low bits the pattern that was placed in it. -/
theorem readBits_place (t : Ty) (n : Nat) : readBits t (place t n) = n % 2 ^ t.width := by
  have hdvd : (2 ^ t.width : Int) ∣ 2 ^ 64 := pow_dvd_pow 2 t.width_le
  unfold readBits place
  split
  · have hmod : toSigned t.width (n % 2 ^ t.width) ≡ n [ZMOD 2 ^ t.width] := by
      have := (Int.modEq_iff_dvd.2 (two_pow_dvd_toSigned_sub t.width (n % 2 ^ t.width))).symm
      exact this.trans (by push_cast; exact Int.mod_modEq _ _)
    zify
    rw [BitVec.toNat_ofInt, Int.toNat_of_nonneg (Int.emod_nonneg _ (by positivity))]
    rw [Nat.cast_pow, Nat.cast_ofNat, Int.emod_emod_of_dvd _ hdvd]
    exact_mod_cast hmod
  · rw [BitVec.toNat_ofNat, Nat.mod_mod_of_dvd _ (by exact_mod_cast hdvd), Nat.mod_mod]

theorem readInt_placeInt (t : Ty) (x : Int) :
    readInt t (placeInt t x) = if t.signed then toSigned t.width (wrap t.width x) else (wrap t.width x : Int) := by
  rw [readInt, placeInt, readBits_place, Nat.mod_eq_of_lt (wrap_lt _ _)]

end Machine
end Sys2Proof

namespace Sys2Proof.Proofs
open Sys2Proof.Machine

/-- Settles O19: the pattern placed is the number modulo 2^w (`readBits_place`), and its reading lies in the range of the type. -/
theorem wrapAndPlace : Obligations.WrapAndPlace := by
  intro t x
  have hlt := wrap_lt t.width x
  have hwrap : (2 ^ t.width : Int) ∣ wrap t.width x - x := by
    rw [wrap_cast]
    exact Int.modEq_iff_dvd.1 (Int.mod_modEq x _).symm
  rw [readInt_placeInt]
  cases hs : t.signed
  · refine ⟨hwrap, by simp, fun _ => ⟨by simp, by simpa using mod_cast hlt⟩, by simp, fun _ => ?_⟩
    have h64 : 2 ^ t.width ≤ 2 ^ 64 := Nat.pow_le_pow_right (by decide) t.width_le
    simp only [placeInt, place, hs, Nat.mod_eq_of_lt hlt]
    exact (Nat.mod_le _ _).trans_lt hlt
  · refine ⟨?_, fun _ => toSigned_range t.width_pos hlt, by simp, fun _ => ?_, by simp⟩
    · simpa using (two_pow_dvd_toSigned_sub t.width (wrap t.width x)).add hwrap
    · simp [placeInt, place, hs, Nat.mod_eq_of_lt hlt]

end Sys2Proof.Proofs
end

section
/-! The bit instructions as operations on words (spec 01 R33; 02 R47; 04 R114), and O16. -/

namespace Sys2Proof.Machine
open Sys2Proof.Claims

/-! ### Value instructions on data operands -/

/-- On data operands a value instruction sends what its function gives (R34). -/
theorem value2_of_acts {s : State} {w : SlotWord} {a b c : Dword} (h : acts s w a b c)
    (g : Dword → Dword → Dword → Val × Val) : s.value2 s.fire w g = s.emit2 s.fire w (g a b c).1 (g a b c).2 := by
  obtain ⟨hgo, ha, hb, hc⟩ := h
  simp [State.value2, hgo, ha, hb, hc, joinKinds, Val.bits]

/-- On data operands a value instruction gives what its function computes, on both destinations. -/
theorem gives_of_value {s : State} {w : SlotWord} {a b c : Dword} {i : Instr} {g : Dword → Dword → Dword → Val} {v : Val}
    (h : acts s w a b c) (he : exec i s = .next (s.value s.fire w g)) (hv : g a b c = v) : gives i s w v := by
  rw [gives, he, State.value, value2_of_acts h, hv]

/-! ### Payloads of the types without sign (R33) -/

theorem readBits_eq (t : Ty) (x : Dword) : readBits t x = (x.setWidth t.width).toNat := (BitVec.toNat_setWidth ..).symm

theorem bitsVal_of_unsigned {t : Ty} (h : t.signed = false) (n : Nat) :
    bitsVal t n = .data ((BitVec.ofNat t.width n).setWidth 64) := by
  rw [bitsVal, place, h]
  congr 1
  apply BitVec.eq_of_toNat_eq
  simp

/-- A count of the bits of a word has room in its payload. -/
theorem bitsVal_count {t : Ty} (h : t.signed = false) {n : Nat} (hn : n ≤ t.width) : bitsVal t n = .data (BitVec.ofNat 64 n) := by
  rw [bitsVal_of_unsigned h, BitVec.setWidth_ofNat_of_le_of_lt t.width_le (hn.trans_lt Nat.lt_two_pow_self)]

theorem intVal_of_unsigned {t : Ty} (h : t.signed = false) (x : Int) :
    intVal t x = .data ((BitVec.ofInt t.width x).setWidth 64) := by
  have := bitsVal_of_unsigned h (wrap t.width x)
  rw [bitsVal] at this
  rw [intVal, placeInt, this]
  congr 2
  apply BitVec.eq_of_toNat_eq
  rw [BitVec.toNat_ofNat, BitVec.toNat_ofInt, Nat.mod_eq_of_lt (wrap_lt _ _), wrap]
  norm_cast

/-! ### The model's operations on patterns, as operations on words -/

variable {w : Nat}

theorem ofNat_two_pow_sub_one_sub (x : BitVec w) : BitVec.ofNat w (2 ^ w - 1 - x.toNat) = ~~~x := by
  apply BitVec.eq_of_toNat_eq
  have := Nat.two_pow_pos w
  rw [BitVec.toNat_ofNat, BitVec.toNat_not, Nat.mod_eq_of_lt (by omega)]

theorem ofNat_and (x y : BitVec w) : BitVec.ofNat w (x.toNat &&& y.toNat) = x &&& y := by
  rw [← BitVec.toNat_and, BitVec.ofNat_toNat, BitVec.setWidth_eq]

theorem ofNat_or (x y : BitVec w) : BitVec.ofNat w (x.toNat ||| y.toNat) = x ||| y := by
  rw [← BitVec.toNat_or, BitVec.ofNat_toNat, BitVec.setWidth_eq]

theorem ofNat_xor (x y : BitVec w) : BitVec.ofNat w (x.toNat ^^^ y.toNat) = x ^^^ y := by
  rw [← BitVec.toNat_xor, BitVec.ofNat_toNat, BitVec.setWidth_eq]

theorem ofNat_shl (x : BitVec w) (k : Nat) :
    BitVec.ofNat w (if w ≤ k then 0 else x.toNat * 2 ^ k) = x <<< k := by
  apply BitVec.eq_of_toNat_eq
  rw [BitVec.toNat_ofNat, BitVec.toNat_shiftLeft, Nat.shiftLeft_eq]
  split
  · rename_i h
    rw [Nat.zero_mod, Nat.mod_eq_zero_of_dvd ((Nat.pow_dvd_pow 2 h).mul_left _)]
  · rfl

theorem ofNat_shr (x : BitVec w) (k : Nat) :
    BitVec.ofNat w (if w ≤ k then 0 else x.toNat / 2 ^ k) = x >>> k := by
  apply BitVec.eq_of_toNat_eq
  rw [BitVec.toNat_ofNat, BitVec.toNat_ushiftRight, Nat.shiftRight_eq_div_pow]
  split
  · rename_i h
    rw [Nat.zero_mod, Nat.div_eq_of_lt (x.isLt.trans_le (Nat.pow_le_pow_right (by decide) h))]
  · exact Nat.mod_eq_of_lt ((Nat.div_le_self _ _).trans_lt x.isLt)

theorem toSigned_toNat (hw : 0 < w) (x : BitVec w) : toSigned w x.toNat = x.toInt := by
  obtain ⟨v, rfl⟩ : ∃ v, w = v + 1 := ⟨w - 1, by omega⟩
  have h : 2 * x.toNat < 2 ^ (v + 1) ↔ x.toNat < 2 ^ v := by rw [pow_succ]; omega
  simp only [BitVec.toInt_eq_toNat_cond, toSigned, Nat.add_sub_cancel, h]
  norm_cast

/-- The quotient of a number by one that is no smaller in magnitude is 0 or −1, whatever that one is. -/
theorem ediv_of_magnitude_le {x m : Int} (hlo : -m ≤ x) (hhi : x < m) : x / m = if x < 0 then -1 else 0 := by
  split
  · exact ((Int.ediv_emod_unique (by omega)).2 ⟨show x + m + m * -1 = x by ring, by omega, by omega⟩).1
  · exact Int.ediv_eq_zero_of_lt (by omega) hhi

/-- A shift by more than the width brings in what a shift by the width does. -/
theorem toInt_shiftRight_min (x : BitVec w) (k : Nat) : x.toInt / 2 ^ min k w = x.toInt >>> k := by
  rw [Int.shiftRight_eq_div_pow, Nat.cast_pow, Nat.cast_ofNat]
  rcases Nat.le_total k w with h | h
  · rw [Nat.min_eq_left h]
  · have hkw : (2 ^ w : Int) ≤ 2 ^ k := pow_le_pow_right₀ (by decide) h
    have hlo := BitVec.le_two_mul_toInt (x := x)
    have hhi := BitVec.two_mul_toInt_lt (x := x)
    rw [Nat.min_eq_right h, ediv_of_magnitude_le (by omega) (by omega), ediv_of_magnitude_le (by omega) (by omega)]

theorem ofInt_shiftArith (hw : 0 < w) (x : BitVec w) (k : Nat) :
    BitVec.ofInt w (shiftArith w x.toNat k) = x.sshiftRight k := by
  rw [shiftArith, toSigned_toNat hw, toInt_shiftRight_min, BitVec.sshiftRight]

theorem ofNat_rotateLeft (x : BitVec w) (k : Nat) :
    BitVec.ofNat w (rotateLeft w x.toNat k) = x.rotateLeft (k % w) := by
  rcases Nat.eq_zero_or_pos w with rfl | hw
  · exact Subsingleton.elim _ _
  have hk := Nat.mod_lt k hw
  have hlow : x.toNat / 2 ^ (w - k % w) < 2 ^ (k % w) := by
    rw [Nat.div_lt_iff_lt_mul (Nat.two_pow_pos _), ← pow_add]
    exact x.isLt.trans_le (Nat.pow_le_pow_right (by decide) (by omega))
  apply BitVec.eq_of_toNat_eq
  rw [BitVec.toNat_ofNat, rotateLeft, Nat.mod_mod, BitVec.toNat_rotateLeft, Nat.mod_mod, ← Nat.shiftLeft_eq,
    Nat.shiftLeft_add_eq_or_of_lt hlow, Nat.or_mod_two_pow, ← Nat.shiftRight_eq_div_pow,
    Nat.mod_eq_of_lt ((Nat.shiftRight_le _ _).trans_lt x.isLt)]

theorem rotateLeft_sub_mod (x : BitVec w) {r : Nat} (hr : r < w) : x.rotateLeft ((w - r) % w) = x.rotateRight r := by
  ext i hi
  rcases Nat.eq_zero_or_pos r with rfl | h0
  · simp [BitVec.getElem_rotateLeft, BitVec.getElem_rotateRight, hi]
  · simp only [BitVec.getElem_rotateLeft, BitVec.getElem_rotateRight, Nat.mod_eq_of_lt hr,
      Nat.mod_eq_of_lt (show w - r < w by omega), Nat.sub_sub_self hr.le]

/-- A sum of powers of two below 2^m has the bits that it names. -/
theorem bitSum_spec (p : Nat → Bool) (m : Nat) :
    (List.range m).foldl (fun r j => r + if p j then 2 ^ j else 0) 0 < 2 ^ m ∧
    ∀ i, ((List.range m).foldl (fun r j => r + if p j then 2 ^ j else 0) 0).testBit i = (decide (i < m) && p i) := by
  induction m with
  | zero => simp
  | succ m ih =>
    obtain ⟨hlt, hbit⟩ := ih
    rw [List.range_succ, List.foldl_append, List.foldl_cons, List.foldl_nil]
    refine ⟨by rw [pow_succ]; split <;> omega, fun i => ?_⟩
    have hsum : ∀ r, r + (if p m then 2 ^ m else 0) = 2 ^ m * (p m).toNat + r := by cases p m <;> simp [Nat.add_comm]
    rw [hsum, Nat.testBit_two_pow_mul_add _ hlt, hbit, Nat.testBit_bool_toNat]
    rcases Nat.lt_trichotomy i m with h | rfl | h
    · simp [h, h.trans (Nat.lt_succ_self m)]
    · simp
    · simp [show ¬ i < m by omega, show ¬ i < m + 1 by omega, show i - m ≠ 0 by omega]

/-- The first bit that a scan of a word finds set, or the width when none is. -/
theorem findIdx_getD_spec (p : Nat → Bool) (m : Nat) :
    let n := ((List.range m).findIdx? p).getD m
    n ≤ m ∧ (∀ i < n, p i = false) ∧ (n < m → p n = true) := by
  cases h : (List.range m).findIdx? p with
  | none =>
    rw [List.findIdx?_eq_none_iff] at h
    exact ⟨le_rfl, fun i hi => by simpa using h i (List.mem_range.2 hi), fun hn => absurd hn (lt_irrefl _)⟩
  | some n =>
    obtain ⟨hn, hp, hbefore⟩ := List.findIdx?_eq_some_iff_getElem.1 h
    simp only [List.length_range] at hn
    simp only [List.getElem_range] at hp hbefore
    exact ⟨hn.le, fun i hi => by simpa using hbefore i hi, fun _ => hp⟩

theorem popCount_toNat (x : BitVec w) : popCount w x.toNat = (List.range w).countP (fun i => x.getLsbD i) := rfl

theorem popCount_le (n : Nat) : popCount w n ≤ w := by
  simpa [popCount] using List.countP_le_length (p := fun i => n.testBit i) (l := List.range w)

theorem leadingZeros_spec (x : BitVec w) :
    leadingZeros w x.toNat ≤ w ∧ (∀ i, w - leadingZeros w x.toNat ≤ i → i < w → x.getLsbD i = false) ∧
      (leadingZeros w x.toNat < w → x.getLsbD (w - 1 - leadingZeros w x.toNat) = true) := by
  obtain ⟨hle, hbefore, hat⟩ := findIdx_getD_spec (fun i => x.toNat.testBit (w - 1 - i)) w
  refine ⟨hle, fun i hlo hhi => ?_, hat⟩
  have := hbefore (w - 1 - i) (by unfold leadingZeros at hlo; omega)
  rwa [show w - 1 - (w - 1 - i) = i by omega] at this

theorem trailingZeros_spec (x : BitVec w) :
    trailingZeros w x.toNat ≤ w ∧ (∀ i < trailingZeros w x.toNat, x.getLsbD i = false) ∧
      (trailingZeros w x.toNat < w → x.getLsbD (trailingZeros w x.toNat) = true) :=
  findIdx_getD_spec (fun i => x.toNat.testBit i) w

theorem getLsbD_reverseBits (x : BitVec w) {i : Nat} (hi : i < w) :
    (BitVec.ofNat w (reverseBits w x.toNat)).getLsbD i = x.getLsbD (w - 1 - i) := by
  rw [BitVec.getLsbD_ofNat, reverseBits, (bitSum_spec (fun j => x.toNat.testBit (w - 1 - j)) w).2]
  simp [hi, BitVec.getLsbD]

/-! ### The bit instructions at a width -/

/-- What R114 and R47 say of the bit instructions on w-bit words x and y, with a count k. -/
def bitMeanings (s : State) (i : SlotWord) (x y : BitVec w) (k : Nat) : Prop :=
  gives (.and i) s i (.data ((x &&& y).setWidth 64)) ∧ gives (.or i) s i (.data ((x ||| y).setWidth 64)) ∧
  gives (.xor i) s i (.data ((x ^^^ y).setWidth 64)) ∧ gives (.not i) s i (.data ((~~~x).setWidth 64)) ∧
  gives (.shl i) s i (.data ((x <<< k).setWidth 64)) ∧ gives (.shr i) s i (.data ((x >>> k).setWidth 64)) ∧
  gives (.sar i) s i (.data ((x.sshiftRight k).setWidth 64)) ∧
  gives (.rol i) s i (.data ((x.rotateLeft (k % w)).setWidth 64)) ∧
  gives (.ror i) s i (.data ((x.rotateRight (k % w)).setWidth 64)) ∧
  (∃ n : Nat, gives (.clz i) s i (.data (BitVec.ofNat 64 n)) ∧ n ≤ w ∧
    (∀ j, w - n ≤ j → j < w → x.getLsbD j = false) ∧ (n < w → x.getLsbD (w - 1 - n) = true)) ∧
  (∃ n : Nat, gives (.ctz i) s i (.data (BitVec.ofNat 64 n)) ∧ n ≤ w ∧ (∀ j, j < n → x.getLsbD j = false) ∧
    (n < w → x.getLsbD n = true)) ∧
  gives (.popc i) s i (.data (BitVec.ofNat 64 ((List.range w).countP (fun j => x.getLsbD j)))) ∧
  (∃ r : BitVec w, gives (.brev i) s i (.data (r.setWidth 64)) ∧ ∀ j, j < w → r.getLsbD j = x.getLsbD (w - 1 - j))

theorem bitMeanings_of_acts {s : State} {i : SlotWord} {a b c : Dword} (h : acts s i a b c) (hu : i.ty.signed = false) :
    bitMeanings s i (a.setWidth i.ty.width) (b.setWidth i.ty.width) b.toNat := by
  have hlead := leadingZeros_spec (a.setWidth i.ty.width)
  have htrail := trailingZeros_spec (a.setWidth i.ty.width)
  refine ⟨gives_of_value h rfl ?_, gives_of_value h rfl ?_, gives_of_value h rfl ?_, gives_of_value h rfl ?_,
    gives_of_value h rfl ?_, gives_of_value h rfl ?_, gives_of_value h rfl ?_, gives_of_value h rfl ?_, gives_of_value h rfl ?_,
    ⟨_, gives_of_value h rfl ?clz, hlead⟩, ⟨_, gives_of_value h rfl ?ctz, htrail⟩, gives_of_value h rfl ?popc,
    ⟨_, gives_of_value h rfl ?_, fun _ hj => getLsbD_reverseBits _ hj⟩⟩
  case clz => rw [readBits_eq, bitsVal_count hu hlead.1]
  case ctz => rw [readBits_eq, bitsVal_count hu htrail.1]
  case popc => rw [readBits_eq, bitsVal_count hu (popCount_le _), popCount_toNat]
  all_goals
    simp only [bitsVal_of_unsigned hu, intVal_of_unsigned hu, readBits_eq, ofNat_and, ofNat_or, ofNat_xor, ofNat_two_pow_sub_one_sub,
      ofNat_shl, ofNat_shr, ofInt_shiftArith i.ty.width_pos, ofNat_rotateLeft, rotateLeft_sub_mod _ (Nat.mod_lt _ i.ty.width_pos)]

end Sys2Proof.Machine

namespace Sys2Proof.Proofs
open Sys2Proof.Machine

/-- Settles O16: at either width the model's arithmetic on patterns is the operation on words (`bitMeanings_of_acts`). -/
theorem bitInstructions : Obligations.BitInstructions := by
  constructor
  · intro s w a b c h ht
    have hm := bitMeanings_of_acts h (by rw [ht]; rfl)
    rw [ht] at hm
    simp only [bitMeanings, Ty.width, BitVec.setWidth_eq] at hm
    exact hm
  · intro s w a b c h ht
    have hm := bitMeanings_of_acts h (by rw [ht]; rfl)
    rw [ht] at hm
    exact hm

end Sys2Proof.Proofs
end

section
/-! Operands, predicates and the kinds of tokens in value instructions (spec 01 R34, R37; 03 R77, R79), and O12 and O13. -/

namespace Sys2Proof.Machine
open Sys2Proof.Claims

/-! ### Operands and predicates (R77, R79) -/

section
variable {s : State} {f : Firing} {w : SlotWord}

theorem ended_of_alive (h : (s.ft f).dead = false) : s.ended f = false := by simp [State.ended, h]

theorem operand_token_of_alive (h : (s.ft f).dead = false) (v : Val) : s.operand f .token (some v) = v := by
  simp [State.operand, ended_of_alive h]

theorem go_of_unpredicated (h : (s.ft f).dead = false) (hm : w.pm = .none) : s.go f w = .fire := by
  simp [State.go, ended_of_alive h, hm]

theorem go_of_data (h : (s.ft f).dead = false) (hm : w.pm ≠ .none) {x : Dword} (hp : f.p = some (.data x)) :
    s.go f w = if (x != 0) = (w.pm == .ifTrue) then .fire else .skip := by
  simp [State.go, ended_of_alive h, hm, hp]

theorem go_of_pass (h : (s.ft f).dead = false) (hm : w.pm ≠ .none) (hp : f.p = some .pass) : s.go f w = .skip := by
  simp [State.go, ended_of_alive h, hm, hp]

theorem go_of_poison (h : (s.ft f).dead = false) (hm : w.pm ≠ .none) (hp : f.p = some (.err .poison)) : s.go f w = .poison := by
  simp [State.go, ended_of_alive h, hm, hp]

theorem go_of_error (h : (s.ft f).dead = false) (hm : w.pm ≠ .none) {k : Sub} (hk : k ≠ .poison) (hp : f.p = some (.err k)) :
    s.go f w = .stop k := by
  cases k
  case poison => exact absurd rfl hk
  all_goals simp [State.go, ended_of_alive h, hm, hp]

end

end Sys2Proof.Machine

namespace Sys2Proof.Proofs
open Sys2Proof.Machine

/-- Settles O12: a thread that goes on is not ended, so that its tokens and its predicate count as they stand. -/
theorem operandsAndPredicates : Obligations.OperandsAndPredicates := by
  refine ⟨fun s f v h => ?_, fun s f w h => ?_⟩
  · exact ⟨operand_token_of_alive h v, fun _ => rfl, rfl, rfl, rfl, rfl, rfl, rfl, rfl⟩
  · have hmode : (PredMode.ifFalse == PredMode.ifTrue) = false := rfl
    refine ⟨go_of_unpredicated h, fun x hp hm => ?_, fun x hp hm => ?_, go_of_pass h, go_of_poison h,
      fun k hk hm => go_of_error h hm hk⟩
    · rw [go_of_data h (by simp [hm]) hp, hm]
      by_cases hx : x = 0 <;> simp [hx]
    · rw [go_of_data h (by simp [hm]) hp, hm]
      by_cases hx : x = 0 <;> simp [hx, hmode]

end Sys2Proof.Proofs

namespace Sys2Proof.Machine
open Sys2Proof.Claims

/-! ### Value instructions (R34) -/

/-- An instruction is a value instruction in a state: it joins the kinds of its operands, and computes data from data. -/
def computes (i : Instr) (s : State) (w : SlotWord) : Prop :=
  ∃ g : Dword → Dword → Dword → Val × Val, exec i s = .next (s.value2 s.fire w g) ∧
    ∀ a b c, ∃ x y, g a b c = (.data x, .data y)

theorem computes_of_mem_valueClass (s : State) (w : SlotWord) : ∀ i ∈ valueClass w, computes i s w := by
  simp only [valueClass, List.cons_append, List.nil_append, List.forall_mem_cons, List.not_mem_nil, false_implies, implies_true,
    and_true]
  and_intros
  all_goals exact ⟨_, rfl, fun _ _ _ => ⟨_, _, rfl⟩⟩

variable {s t : State} {f : Firing} {w : SlotWord} {g : Dword → Dword → Dword → Val × Val}

theorem emitBoth_eq_emit2 (s : State) (f : Firing) (w : SlotWord) (v : Val) : s.emitBoth f w v = s.emit2 f w v v := rfl

theorem value2_of_skip (h : s.go f w = .skip) : s.value2 f w g = s.emit2 f w .pass .pass := by
  simp only [State.value2, h, emitBoth_eq_emit2]

theorem value2_of_stop {k : Sub} (h : s.go f w = .stop k) : s.value2 f w g = s.emit2 f w (.err k) (.err k) := by
  simp only [State.value2, h, emitBoth_eq_emit2]

theorem value2_of_poison (h : s.go f w = .poison) : s.value2 f w g = s.commit f 0x20 .none none 0 := by
  simp only [State.value2, h]

theorem value2_of_kind {v : Val} (h : s.go f w = .fire) (hk : joinKinds [s.opA f w, s.opB f w, s.opC f w] = some v) :
    s.value2 f w g = s.emit2 f w v v := by
  simp only [State.value2, h, hk, emitBoth_eq_emit2]

theorem value2_of_data (h : s.go f w = .fire) (hk : joinKinds [s.opA f w, s.opB f w, s.opC f w] = none) :
    s.value2 f w g = s.emit2 f w (g (s.opA f w).bits (s.opB f w).bits (s.opC f w).bits).1
      (g (s.opA f w).bits (s.opB f w).bits (s.opC f w).bits).2 := by
  simp only [State.value2, h, hk]

/-! ### Kinds of operands (R34) -/

theorem joinKinds_of_pass {vs : List Val} (h : .pass ∈ vs) : joinKinds vs = some .pass := by simp [joinKinds, h]

theorem joinKinds_of_poison {vs : List Val} (hp : .pass ∉ vs) (h : .err .poison ∈ vs) :
    joinKinds vs = some (.err .poison) := by simp [joinKinds, hp, h]

/-- Without a pass token and Poison the first error in the order of the operands decides. -/
theorem joinKinds_of_error {a b c : Val} {k : Sub} (hp : .pass ∉ [a, b, c]) (hq : .err .poison ∉ [a, b, c])
    (h : a = .err k ∨ ((∃ x, a = .data x) ∧ b = .err k) ∨ ((∃ x, a = .data x) ∧ (∃ y, b = .data y) ∧ c = .err k)) :
    joinKinds [a, b, c] = some (.err k) := by
  rw [joinKinds, List.contains_eq_mem, decide_eq_false hp, List.contains_eq_mem, decide_eq_false hq]
  obtain rfl | ⟨⟨x, rfl⟩, rfl⟩ | ⟨⟨x, rfl⟩, ⟨y, rfl⟩, rfl⟩ := h <;> rfl

/-- Without Poison among them, operands that are not all data join to a token that is not Poison. -/
theorem joinKinds_ne_poison {vs : List Val} (hq : .err .poison ∉ vs) {v : Val} (h : joinKinds vs = some v) : v ≠ .err .poison := by
  unfold joinKinds at h
  split at h
  · cases h; exact Val.noConfusion
  · split at h
    · simp_all
    · rintro rfl; exact hq (List.mem_of_find?_eq_some h)

end Sys2Proof.Machine

namespace Sys2Proof.Proofs
open Sys2Proof.Machine

/-- Settles O13: a value instruction is `value2` (`computes_of_mem_valueClass`), which sends what the kinds join to. -/
theorem tokenKinds : Obligations.TokenKinds := by
  intro s w i hi
  obtain ⟨g, he, -⟩ := computes_of_mem_valueClass s w i hi
  simp only [Claims.gives, he]
  refine ⟨fun h => by rw [value2_of_skip h], fun k h => by rw [value2_of_stop h], fun h => by rw [value2_of_poison h],
    fun h hp => ?_, fun h hp hq => ?_, fun k h hp hq hk => ?_⟩
  · rw [value2_of_kind h (joinKinds_of_pass hp)]
  · rw [value2_of_kind h (joinKinds_of_poison hp hq)]
  · rw [value2_of_kind h (joinKinds_of_error hp hq hk)]

end Sys2Proof.Proofs
end

section
/-! The frame of a token and of the value instructions (spec 03 R81 to R83; 04 R126), and O14. -/

namespace Sys2Proof.Machine
open Sys2Proof.Claims

/-! ### The frame of a token (R81, R83) -/

/-- Of a core only tokens have changed: those under way, in feeds, staged, or in the buffers of its ports. -/
def Core.onlyTokens (c d : Core) : Prop :=
  d = { c with flights := d.flights, feeds := d.feeds, ports := d.ports, threads := d.threads } ∧
    (∀ n, d.thread n = { c.thread n with staged := (d.thread n).staged }) ∧
    (∀ n, d.port n = { c.port n with buf := (d.port n).buf })

theorem tokensOnly_refl (s : State) (k : Nat) : tokensOnly s s k := ⟨rfl, fun _ _ => rfl, rfl, fun _ => rfl, fun _ => rfl⟩

theorem tokensOnly_trans {s t u : State} {k : Nat} (h : tokensOnly s t k) (h' : tokensOnly t u k) : tokensOnly s u k := by
  obtain ⟨hs, ho, hc, ht, hp⟩ := h
  obtain ⟨hs', ho', hc', ht', hp'⟩ := h'
  refine ⟨hs'.trans (by rw [hs]), fun j hj => (ho' j hj).trans (ho j hj), hc'.trans (by rw [hc]),
    fun n => (ht' n).trans (by rw [ht n]), fun n => (hp' n).trans (by rw [hp n])⟩

theorem tokensOnly_onCore {s : State} {k : Nat} {g : Core → Core} (h : (s.core k).onlyTokens (g (s.core k))) :
    tokensOnly s (s.onCore k g) k := by
  refine ⟨rfl, fun j hj => State.onCore_core_other s k j g hj, ?_⟩
  rw [State.onCore_core_same]
  exact h

/-- A core lists a port as a bound outbound one when the port reads so. -/
theorem sendsTo_iff (c : Core) (n : Nat) : sendsTo c n ↔ (c.port n).out = true ∧ (c.port n).state ≠ .unbound := by
  unfold sendsTo Core.port
  cases c.ports.look n with
  | none => simp
  | some q => simp

theorem sendsTo_of_tokensOnly {s t : State} {k n : Nat} (h : tokensOnly s t k) (hn : sendsTo (s.core k) n) : sendsTo (t.core k) n := by
  obtain ⟨-, -, -, -, hp⟩ := h
  rw [sendsTo_iff, hp n]
  exact (sendsTo_iff _ _).1 hn

theorem onlyTokens_stage (c : Core) (t : Nat) (x : Staged) :
    c.onlyTokens (c.onThread t (fun th => { th with staged := th.staged ++ [x] })) := by
  refine ⟨rfl, fun n => ?_, fun _ => rfl⟩
  rcases eq_or_ne n t with rfl | h
  · simp
  · rw [Core.onThread_thread_other c t n _ h]

theorem onlyTokens_append {c : Core} {n : Nat} {q : Port} (h : c.ports.look n = some q) (bs : List (Byte × Bool)) :
    c.onlyTokens { c with ports := c.ports.put n { q with buf := q.buf ++ bs } } := by
  refine ⟨rfl, fun _ => rfl, fun m => ?_⟩
  rcases eq_or_ne m n with rfl | hm
  · simp [Core.port, h, Table.look_put_same]
  · simp [Core.port, Table.look_put_other _ _ _ _ hm]

/-- A token that is not Poison leaves everything but tokens as it was; Poison for a port is a fault (R248). -/
theorem tokensOnly_send {s : State} {f : Firing} {n : Nat} {d : Dst} {scale : Bool} {v : Val} {tag : Tag}
    (hd : ∀ p, d = .island (.sp p) → sendsTo (s.core f.core) p.toNat) (hv : v ≠ .err .poison) :
    tokensOnly s (s.send f n d scale v tag) f.core := by
  unfold State.send
  split
  · exact tokensOnly_refl s _
  have flight : ∀ l, (s.core f.core).onlyTokens { s.core f.core with flights := l } := fun _ => ⟨rfl, fun _ => rfl, fun _ => rfl⟩
  split
  case h_1 => exact tokensOnly_refl s _
  case h_2 => exact tokensOnly_onCore (flight _)
  case h_3 lv =>
    have hput : ∀ x, tokensOnly s (if (s.thread f.core tag.slot.toNat).closing then s else
        s.onThread f.core tag.slot.toNat (fun th => { th with staged := th.staged ++ [x] })) f.core := by
      intro x
      split
      · exact tokensOnly_refl s _
      · exact tokensOnly_onCore (onlyTokens_stage _ _ _)
    cases v with
    | pass => exact tokensOnly_refl s _
    | data x => exact hput _
    | err k => exact hput _
  case h_4 p =>
    obtain ⟨q, hq, -, -⟩ := hd p rfl
    have hadd : ∀ bs, tokensOnly s (s.onCore f.core (fun (c : Core) =>
        let q := (c.ports.look p.toNat).getD ⟨.closed, true, none, [], [], none, false⟩
        { c with ports := c.ports.put p.toNat { q with buf := q.buf ++ bs } })) f.core := by
      intro bs
      apply tokensOnly_onCore
      simp only [hq, Option.getD_some]
      exact onlyTokens_append hq bs
    match v, hv with
    | .pass, _ => exact tokensOnly_refl s _
    | .data x, _ => exact hadd _
    | .err .nan, _ => exact hadd _
    | .err .posInf, _ => exact hadd _
    | .err .negInf, _ => exact hadd _
    | .err .poison, hv => exact absurd rfl hv
  case h_5 => exact tokensOnly_onCore ⟨rfl, fun _ => rfl, fun _ => rfl⟩

theorem tokensOnly_emit2 {s : State} {f : Firing} {w : SlotWord} {v0 v1 : Val}
    (hd : ∀ d ∈ [w.d0, w.d1], ∀ p, d = .island (.sp p) → sendsTo (s.core f.core) p.toNat)
    (h0 : v0 ≠ .err .poison) (h1 : v1 ≠ .err .poison) : tokensOnly s (s.emit2 f w v0 v1) f.core := by
  have first : tokensOnly s (s.send f 0 w.d0 false v0 f.tag) f.core := tokensOnly_send (hd w.d0 (by simp)) h0
  exact tokensOnly_trans first (tokensOnly_send (fun p hp => sendsTo_of_tokensOnly first (hd w.d1 (by simp) p hp)) h1)

/-- A predicate that stops a firing with an error has another one than Poison (R77). -/
theorem go_ne_stop_poison (s : State) (f : Firing) (w : SlotWord) : s.go f w ≠ .stop .poison := by
  unfold State.go
  split_ifs
  · exact Go.noConfusion
  · exact Go.noConfusion
  · split
    case h_4 => split <;> exact Go.noConfusion
    case h_3 hne _ => rintro ⟨⟩; exact hne rfl
    all_goals exact Go.noConfusion

end Sys2Proof.Machine

namespace Sys2Proof.Proofs
open Sys2Proof.Machine Sys2Proof.Claims

/-- Settles O14: whatever the predicate and the kinds make of a value instruction, it sends two tokens that are not Poison
(`tokensOnly_emit2`). -/
theorem valueFrame : Obligations.ValueFrame := by
  intro s t w i hi hgo hd hq he
  obtain ⟨g, hg, hdata⟩ := computes_of_mem_valueClass s w i hi
  rw [hg] at he
  injection he with he
  subst he
  cases h : s.go s.fire w with
  | poison => exact absurd h hgo
  | skip => rw [value2_of_skip h]; exact tokensOnly_emit2 hd Val.noConfusion Val.noConfusion
  | stop k =>
    have hk : Val.err k ≠ .err .poison := by rintro ⟨⟩; exact go_ne_stop_poison _ _ _ h
    rw [value2_of_stop h]; exact tokensOnly_emit2 hd hk hk
  | fire =>
    cases hj : joinKinds [s.opA s.fire w, s.opB s.fire w, s.opC s.fire w] with
    | some v =>
      have hv := joinKinds_ne_poison hq hj
      rw [value2_of_kind h hj]; exact tokensOnly_emit2 hd hv hv
    | none =>
      rw [value2_of_data h hj]
      obtain ⟨x, y, hxy⟩ := hdata (s.opA s.fire w).bits (s.opB s.fire w).bits (s.opC s.fire w).bits
      rw [hxy]; exact tokensOnly_emit2 hd Val.noConfusion Val.noConfusion

end Sys2Proof.Proofs
end

section
/-! The return stack and the staged live values of a thread (spec 01 R16, R17, R20; 04 R126), and O30 and O31. -/

namespace Sys2Proof.Machine

/-! ### Bytes of a dword (R7) -/

/-- The bits that `setByte` clears. -/
theorem getLsbD_byteMask (i : Nat) : (0xFF#64).getLsbD i = decide (i < 8) := by
  rcases Nat.lt_or_ge i 8 with h | h
  · have : ∀ i < 8, (0xFF#64).getLsbD i = true := by decide
    simp [this i h, h]
  · have : (0xFF : Nat) < 2 ^ i := (show (0xFF : Nat) < 2 ^ 8 by decide).trans_le (Nat.pow_le_pow_right (by decide) h)
    rw [BitVec.getLsbD_ofNat, Nat.testBit_lt_two_pow this]
    simp [h]

theorem byteOf_setByte_same (d : Dword) {k : Nat} (hk : k < 8) (b : Byte) : byteOf (setByte d k b) k = b := by
  ext i hi
  simp [byteOf, setByte, getLsbD_byteMask, show 8 * k + i < 64 by omega, hi]

theorem byteOf_setByte_other (d : Dword) {j k : Nat} (hj : j < 8) (hjk : j ≠ k) (b : Byte) :
    byteOf (setByte d k b) j = byteOf d j := by
  ext i hi
  have hb : ¬ 8 * j + i < 8 * k → b.getLsbD (8 * j + i - 8 * k) = false := fun h => BitVec.getLsbD_of_ge _ _ (by omega)
  have hm : ¬ 8 * j + i < 8 * k → ¬ 8 * j + i - 8 * k < 8 := by omega
  by_cases h : 8 * j + i < 8 * k
  all_goals
    simp only [byteOf, setByte, BitVec.getElem_extractLsb', BitVec.getLsbD_or, BitVec.getLsbD_and, BitVec.getLsbD_not,
      BitVec.getLsbD_shiftLeft, getLsbD_byteMask, BitVec.getLsbD_setWidth]
    simp [h, hb, hm, show 8 * j + i < 64 by omega]

/-! ### The return stack (R17, R20) -/

theorem rs_setRs_same (t : Thread) {k : Nat} (hk : k < 16) (b : Byte) : (t.setRs k b).rs k = b := by
  unfold Thread.setRs Thread.rs
  split
  · exact byteOf_setByte_same _ ‹_› b
  · exact byteOf_setByte_same _ (by omega) b

theorem rs_setRs_other (t : Thread) {j k : Nat} (hj : j < 16) (hjk : j ≠ k) (b : Byte) : (t.setRs k b).rs j = t.rs j := by
  unfold Thread.setRs Thread.rs
  split <;> split
  · exact byteOf_setByte_other _ ‹_› hjk b
  · rfl
  · rfl
  · exact byteOf_setByte_other _ (by omega) (by omega) b

theorem setRs_frame (t : Thread) (k : Nat) (b : Byte) :
    t.setRs k b = { t with hdr2 := (t.setRs k b).hdr2, hdr3 := (t.setRs k b).hdr3 } := by
  unfold Thread.setRs
  split <;> rfl

/-! ### Staged live values (R16, R126) -/

/-- The order of R126: element, slot, outer and inner iteration. -/
theorem Staged.le_iff (a b : Staged) : a.le b = true ↔
    a.elem < b.elem ∨ (a.elem = b.elem ∧ (a.slot < b.slot ∨ (a.slot = b.slot ∧
      (a.outT < b.outT ∨ (a.outT = b.outT ∧ a.innT ≤ b.innT))))) := by
  simp [Staged.le]

theorem Staged.le_trans {a b c : Staged} (h : a.le b = true) (h' : b.le c = true) : a.le c = true := by
  rw [Staged.le_iff] at *
  omega

theorem Staged.le_of_not_le {a b : Staged} (h : a.le b ≠ true) : b.le a = true := by
  rw [Ne, Staged.le_iff] at h
  rw [Staged.le_iff]
  omega

theorem insertStaged_perm (x : Staged) (l : List Staged) : (insertStaged x l).Perm (x :: l) := by
  induction l with
  | nil => exact .refl _
  | cons y l ih =>
    unfold insertStaged
    split
    · exact (ih.cons y).trans (.swap x y l)
    · exact .refl _

theorem insertStaged_sorted (x : Staged) {l : List Staged} (h : l.Pairwise (fun a b => a.le b = true)) :
    (insertStaged x l).Pairwise (fun a b => a.le b = true) := by
  induction l with
  | nil => exact List.pairwise_singleton _ _
  | cons y l ih =>
    obtain ⟨hy, hl⟩ := List.pairwise_cons.1 h
    unfold insertStaged
    split
    · rename_i hyx
      refine List.pairwise_cons.2 ⟨fun z hz => ?_, ih hl⟩
      rcases List.mem_cons.1 ((insertStaged_perm x l).mem_iff.1 hz) with rfl | hz
      · exact hyx
      · exact hy z hz
    · rename_i hyx
      have hxy := Staged.le_of_not_le hyx
      refine List.pairwise_cons.2 ⟨fun z hz => ?_, h⟩
      rcases List.mem_cons.1 hz with rfl | hz
      · exact hxy
      · exact Staged.le_trans hxy (hy z hz)

/-- The staged writes of a thread in the order in which they commit. -/
def Thread.commitOrder (t : Thread) : List Staged := t.staged.foldl (fun l x => insertStaged x l) []

theorem foldl_insertStaged_perm (xs l : List Staged) : (xs.foldl (fun l x => insertStaged x l) l).Perm (xs ++ l) := by
  induction xs generalizing l with
  | nil => exact .refl _
  | cons x xs ih => exact (ih _).trans (((insertStaged_perm x l).append_left xs).trans List.perm_middle)

theorem foldl_insertStaged_sorted (xs : List Staged) {l : List Staged} (h : l.Pairwise (fun a b => a.le b = true)) :
    (xs.foldl (fun l x => insertStaged x l) l).Pairwise (fun a b => a.le b = true) := by
  induction xs generalizing l with
  | nil => exact h
  | cons x xs ih => exact ih (insertStaged_sorted x h)

theorem mem_commitOrder (t : Thread) (x : Staged) : x ∈ t.commitOrder ↔ x ∈ t.staged :=
  (foldl_insertStaged_perm t.staged []).mem_iff.trans (by rw [List.append_nil])

theorem commitOrder_sorted (t : Thread) : t.commitOrder.Pairwise (fun a b => a.le b = true) :=
  foldl_insertStaged_sorted t.staged .nil

theorem commitStaged_live (t : Thread) : t.commitStaged.live = t.commitOrder.foldl (fun m x => m.put x.lv x.val) t.live := rfl

/-- Writes that keep a live value at what it holds, or go elsewhere, leave it. -/
theorem look_foldl_put {lv : Nat} {v : Option LiveVal} (xs : List Staged) {m : Table LiveVal} (hm : m.look lv = v)
    (h : ∀ x ∈ xs, x.lv = lv → some x.val = v) : (xs.foldl (fun m x => m.put x.lv x.val) m).look lv = v := by
  induction xs generalizing m with
  | nil => exact hm
  | cons x xs ih =>
    refine ih ?_ (fun y hy => h y (List.mem_cons_of_mem x hy))
    rcases eq_or_ne lv x.lv with rfl | hne
    · rw [Table.look_put_same, h x List.mem_cons_self rfl]
    · rw [Table.look_put_other _ _ _ _ hne, hm]

/-- The write that comes last in the commit order, of those to its live value, stands. -/
theorem commitStaged_look_last {t : Thread} {x : Staged} (hx : x ∈ t.staged)
    (hlast : ∀ y ∈ t.staged, y.lv = x.lv → y ≠ x → x.le y ≠ true) : t.commitStaged.live.look x.lv = some x.val := by
  obtain ⟨before, after, hsplit⟩ := List.append_of_mem ((mem_commitOrder t x).2 hx)
  have hsorted := commitOrder_sorted t
  rw [hsplit, List.pairwise_append, List.pairwise_cons] at hsorted
  rw [commitStaged_live, hsplit, List.foldl_append, List.foldl_cons]
  refine look_foldl_put after (Table.look_put_same _ _ _) (fun y hy hlv => ?_)
  have hmem : y ∈ t.staged := (mem_commitOrder t y).1 (by simp [hsplit, hy])
  by_contra hne
  exact hlast y hmem hlv (by rintro rfl; exact hne rfl) (hsorted.2.1.1 y hy)

end Sys2Proof.Machine

namespace Sys2Proof.Proofs
open Sys2Proof.Machine

/-- Settles O30. -/
theorem returnStackRing : Obligations.ReturnStackRing := by
  intro t k j b hk hj
  refine ⟨?_, setRs_frame t k b⟩
  split
  · rename_i h; rw [h, rs_setRs_same t hk]
  · rename_i h; rw [rs_setRs_other t hj h]

/-- Settles O31: insertion keeps the commit order sorted, so that what follows a write in it is the same write or goes elsewhere. -/
theorem stagedCommitOrder : Obligations.StagedCommitOrder := by
  intro t lv
  refine ⟨rfl, fun hnone => ?_, fun x hx hlv hlast => ?_⟩
  · rw [commitStaged_live]
    exact look_foldl_put _ rfl (fun x hx hlv => absurd hlv (hnone x ((mem_commitOrder t x).1 hx)))
  · subst hlv
    refine commitStaged_look_last hx (fun y hy hlv hne => ?_)
    have := hlast y hy hlv hne
    rw [Ne, Staged.le_iff]
    omega

end Sys2Proof.Proofs
end

section
/-! Resident loops (spec 04 R133 to R136), and O28. -/

namespace Sys2Proof.Machine

/-! ### Headers (R133) -/

section
variable {s : State} {w : SlotWord}

theorem badTrip_eq (s : State) (f : Firing) (k : Sub) :
    s.badTrip f k = s.commit f (if k = .poison then 0x20 else 0x33) .none none 0 := rfl

/-- The set bits of what a type reads of a payload. -/
theorem setBits_readBits (t : Ty) (x : Dword) :
    setBits t.width (readBits t x) = (List.range t.width).filter (fun i => x.getLsbD i) := by
  refine List.filter_congr (fun i hi => ?_)
  rw [readBits, Nat.testBit_mod_two_pow, decide_eq_true (List.mem_range.1 hi), Bool.true_and]
  rfl

theorem setBits_and (t : Ty) (x y : Dword) :
    setBits t.width (readBits t x &&& readBits t y) = (List.range t.width).filter (fun i => x.getLsbD i && y.getLsbD i) := by
  refine List.filter_congr (fun i hi => ?_)
  simp only [readBits, Nat.testBit_and, Nat.testBit_mod_two_pow, decide_eq_true (List.mem_range.1 hi), Bool.true_and]
  rfl

theorem setBits_or (t : Ty) (x y : Dword) :
    setBits t.width (readBits t x ||| readBits t y) = (List.range t.width).filter (fun i => x.getLsbD i || y.getLsbD i) := by
  refine List.filter_congr (fun i hi => ?_)
  simp only [readBits, Nat.testBit_or, Nat.testBit_mod_two_pow, decide_eq_true (List.mem_range.1 hi), Bool.true_and]
  rfl

theorem opC_absent (f : Firing) (h : w.c = .absent) : s.opC f w = .data 0 := by rw [State.opC, h]; rfl

/-- `lhead` on each kind of A. -/
theorem execLhead_data {x : Dword} (ha : s.opA s.fire w = .data x) : execLhead w s =
    .next (s.startLoop s.fire w (x.toNat % 2 ^ 32) [] (if w.c = .absent then none else some (s.opC s.fire w)) none) := by
  simp only [execLhead, ha]
  rfl

theorem execLhead_pass (ha : s.opA s.fire w = .pass) : execLhead w s =
    .next (s.startLoop s.fire w 0 [] (if w.c = .absent then none else some (s.opC s.fire w)) none) := by
  simp only [execLhead, ha]

theorem execLhead_err {k : Sub} (ha : s.opA s.fire w = .err k) : execLhead w s = .next (s.badTrip s.fire k) := by
  simp only [execLhead, ha]

theorem execLsparse_pass (h : s.opA s.fire w = .pass ∨ (w.c ≠ .absent ∧ s.opC s.fire w = .pass)) :
    execLsparse w s = .next (s.startLoop s.fire w 0 [] none none) := by
  rcases h with ha | ⟨hc, hp⟩
  · simp only [execLsparse, ha]
  · cases ha : s.opA s.fire w <;> simp only [execLsparse, ha, if_neg hc, hp]

/-- `lsparse` starts a loop over some bits. -/
def State.startSparse (s : State) (w : SlotWord) (items : List Nat) : State := s.startLoop s.fire w items.length items none none

theorem execLsparse_one {x : Dword} (ha : s.opA s.fire w = .data x) (hc : w.c = .absent) : execLsparse w s =
    .next (s.startSparse w ((List.range w.ty.width).filter (fun i => x.getLsbD i))) := by
  simp only [execLsparse, ha, if_pos hc, setBits_readBits]
  rfl

theorem execLsparse_two {x y : Dword} (ha : s.opA s.fire w = .data x) (hc : w.c ≠ .absent) (hd : s.opC s.fire w = .data y) :
    execLsparse w s = .next (s.startSparse w ((List.range w.ty.width).filter (fun i =>
      if w.mod = 0 then x.getLsbD i && y.getLsbD i else x.getLsbD i || y.getLsbD i))) := by
  simp only [execLsparse, ha, if_neg hc, hd]
  split
  · rw [setBits_and]; rfl
  · rw [setBits_or]; rfl

theorem execLsparse_err {k : Sub} (ha : s.opA s.fire w = .err k) (hc : w.c = .absent ∨ ∃ y, s.opC s.fire w = .data y) :
    execLsparse w s = .next (s.badTrip s.fire k) := by
  by_cases h : w.c = .absent
  · simp only [execLsparse, ha, if_pos h]
  · obtain ⟨y, hy⟩ := hc.resolve_left h
    simp only [execLsparse, ha, if_neg h, hy]

theorem execLsparse_errs {k k' : Sub} (ha : s.opA s.fire w = .err k) (hc : w.c ≠ .absent) (hd : s.opC s.fire w = .err k') :
    execLsparse w s = .next (s.badTrip s.fire (if k' = .poison then k' else k)) := by
  simp only [execLsparse, ha, if_neg hc, hd]

theorem execLsparse_dataErr {x : Dword} {k : Sub} (ha : s.opA s.fire w = .data x) (hc : w.c ≠ .absent)
    (hd : s.opC s.fire w = .err k) : execLsparse w s = .next (s.badTrip s.fire k) := by
  simp only [execLsparse, ha, if_neg hc, hd]

/-! ### The ends of an iteration (R134, R135) -/

variable {h : Nat} {i : LoopInst}

/-- The `ltail` of a loop that carries no value. -/
theorem execLtail_plain (hd : dstNode w.d0 = some h) (hi : (s.core s.fire.core).loopAt h s.fire.tag = some i)
    (hc : i.carries? = false) : execLtail w s = .next
      (let i' : LoopInst := { i with tails := insertNat i.tails (i.tOf (loopField i.level s.fire.tag)), since := s.time }
       (s.setCore s.fire.core ((s.core s.fire.core).setLoop i')).loopFinish s.fire.core i') := by
  simp [execLtail, hd, hi, hc]

/-- The `ltail` of a loop that carries a value: the next iteration has it from the header, if it has been issued. -/
theorem execLtail_carried {hw : SlotWord} (hd : dstNode w.d0 = some h) (hi : (s.core s.fire.core).loopAt h s.fire.tag = some i)
    (hc : i.carries? = true) (hf : (s.core s.fire.core).load.fields i.node = some hw) : execLtail w s = .next
      (let t := i.tOf (loopField i.level s.fire.tag)
       let i' : LoopInst := { i with
         tails := insertNat i.tails t, since := s.time, carries := i.carries.put t (s.opA s.fire w) }
       let g := i.firing s.fire.core ((t + 1) % 64)
       let u := s.setCore s.fire.core ((s.core s.fire.core).setLoop i')
       (if t + 1 < i.t then u.send g 1 hw.d1 false (s.opA s.fire w) g.tag else u).loopFinish s.fire.core i') := by
  simp [execLtail, hd, hi, hc, hf]

/-- The token on which the condition of an `lexit` rests: a pass token without B. -/
def State.exitCond (s : State) (w : SlotWord) : Val := if w.b = .absent then .pass else s.opB s.fire w

/-- A loop that notes an `lexit`: it stops when the condition breaks it, and keeps the value of its last iteration. -/
def LoopInst.exited (i : LoopInst) (tag : Tag) (brk : Bool) (left : Option Val) : LoopInst :=
  { i with stop := i.stop || brk, left := left, exits := insertNat i.exits (i.exitOf (loopField i.level tag)) }

theorem execLexit_err {k : Sub} (hn : (s.core s.fire.core).load.innermost s.fire.node = some h)
    (hi : (s.core s.fire.core).loopAt h s.fire.tag = some i) (he : s.exitCond w = .err k) :
    execLexit w s = .next (s.badTrip s.fire k) := by
  unfold State.exitCond at he
  simp only [execLexit, hn, hi, Option.bind_some, he]

/-- An `lexit` whose condition is no error: in the last iteration of a loop that has finished its token leaves, and else it stands
with the loop (log 58). -/
theorem execLexit_of_cond (hn : (s.core s.fire.core).load.innermost s.fire.node = some h)
    (hi : (s.core s.fire.core).loopAt h s.fire.tag = some i) (hc : ∀ k, s.exitCond w ≠ .err k) {brk last : Bool}
    (hbrk : ((s.exitCond w).bits != 0) = brk)
    (hlast : (brk || decide (i.exitOf (loopField i.level s.fire.tag) + 1 = i.n)) = last) :
    execLexit w s = .next (
      if last && i.finished then
        let tag := loopTag i.level i.thread s.fire.tag.out 0
        let u := s.setCore s.fire.core { s.core s.fire.core with
          loops := (s.core s.fire.core).loops.filter (fun (j : LoopInst) => !j.same i) }
        (u.send s.fire 0 w.d0 false (s.opA s.fire w) tag).send s.fire 1 w.d1 false (s.opA s.fire w) tag
      else
        let i' := i.exited s.fire.tag brk (if last then some (s.opA s.fire w) else i.left)
        (s.setCore s.fire.core ((s.core s.fire.core).setLoop i')).loopFinish s.fire.core i') := by
  subst hlast hbrk
  unfold State.exitCond at hc ⊢
  simp only [execLexit, hn, hi, Option.bind_some]
  generalize (if w.b = .absent then Val.pass else s.opB s.fire w) = b at hc ⊢
  cases b with
  | err k => exact absurd rfl (hc k)
  | pass => exact (apply_ite Host.Outcome.next _ _ _).symm
  | data x => exact (apply_ite Host.Outcome.next _ _ _).symm

/-- The condition of an `lexit` that lets its loop go on (R135). -/
theorem exitCond_of_goesOn (hb : w.b = .absent ∨ s.opB s.fire w = .pass ∨ s.opB s.fire w = .data 0) :
    (∀ k, s.exitCond w ≠ .err k) ∧ ((s.exitCond w).bits != 0) = false := by
  unfold State.exitCond
  split
  · exact ⟨fun _ => Val.noConfusion, rfl⟩
  · rename_i ha
    rcases hb.resolve_left ha with hb | hb <;> rw [hb] <;> exact ⟨fun _ => Val.noConfusion, rfl⟩

/-- The condition of an `lexit` that ends its loop (R135). -/
theorem exitCond_of_breaks (ha : w.b ≠ .absent) (hb : (s.opB s.fire w).bits ≠ 0) :
    (∀ k, s.exitCond w ≠ .err k) ∧ ((s.exitCond w).bits != 0) = true := by
  rw [State.exitCond, if_neg ha]
  exact ⟨fun k hk => hb (by rw [hk]; rfl), by simpa using hb⟩

end

end Sys2Proof.Machine

namespace Sys2Proof.Proofs
open Sys2Proof.Machine

/-- Settles O28: the clauses of `lexit` are the two outcomes of `execLexit_of_cond`. -/
theorem loopHeadersAndEnds : Obligations.LoopHeadersAndEnds := by
  intro s w f carried goesOn breaks
  -- What ends the loop, and what only lets it go on, as the model's two tests.
  have hcond : ∀ i : LoopInst, (goesOn ∧ i.exitOf (loopField i.level f.tag) + 1 = i.n) ∨ breaks →
      (∀ k, s.exitCond w ≠ .err k) ∧ ((s.exitCond w).bits != 0) = decide breaks ∧
        (decide breaks || decide (i.exitOf (loopField i.level f.tag) + 1 = i.n)) = true := by
    rintro i (⟨hgo, hl⟩ | hbr)
    · obtain ⟨hne, hz⟩ := exitCond_of_goesOn hgo
      have hnb : ¬ breaks := fun hbr => absurd (hz.symm.trans (exitCond_of_breaks hbr.1 hbr.2).2) Bool.noConfusion
      exact ⟨hne, by rw [hz, decide_eq_false hnb], by simp [hl]⟩
    · obtain ⟨hne, hz⟩ := exitCond_of_breaks hbr.1 hbr.2
      exact ⟨hne, by rw [hz, decide_eq_true hbr], by simp [hbr]⟩
  refine ⟨fun x hx => execLhead_data hx, execLhead_pass, fun k hk => execLhead_err hk,
    fun x hx hc => execLsparse_one hx hc, fun x y hx hy hc => execLsparse_two hx hc hy, execLsparse_pass,
    fun k hk hc => execLsparse_err hk hc, fun k k' hk hc hk' => ?_, fun x k hx hc hk => execLsparse_dataErr hx hc hk,
    fun h i hd hi hc => execLtail_plain hd hi (by rw [LoopInst.carries?, hc]; rfl),
    fun h i hw hd hi hc hf => execLtail_carried hd hi hc hf,
    fun h i k hn hi hb hk => execLexit_err hn hi (by rw [State.exitCond, if_neg hb, hk]), fun h i hn hi hgo hfin hl => ?_,
    fun h i hn hi hfin hlast => ?_, fun h i hn hi hfin hlast => ?_⟩
  · show execLsparse w s = _
    rw [execLsparse_errs hk hc hk', badTrip_eq]
    by_cases h : k' = .poison <;> simp [h, f]
  · obtain ⟨hne, hz⟩ := exitCond_of_goesOn hgo
    show execLexit w s = _
    rw [execLexit_of_cond hn hi hne hz (last := false) (by simpa using hl)]
    simp [LoopInst.exited, f]
  · obtain ⟨hne, hz, hl⟩ := hcond i hlast
    show execLexit w s = _
    rw [execLexit_of_cond hn hi hne hz hl, if_neg (by simp [hfin])]
    rfl
  · obtain ⟨hne, hz, hl⟩ := hcond i hlast
    show execLexit w s = _
    rw [execLexit_of_cond hn hi hne hz hl, if_pos (by simp [hfin])]

end Sys2Proof.Proofs
end

section
/-! Block terminators (spec 04 R139 to R142; 01 R20), and O29. -/

namespace Sys2Proof.Machine

variable {s : State} {w : SlotWord}

/-- Entry d of the ring, below the sixteenth, is the entry of depth d. -/
theorem ring_index {d : Nat} (h : d < 16) : (d + 1 - 1) % 16 = d := by omega

section
variable (ht : s.terminates s.fire = true)
include ht

theorem execBr_data {x : Dword} (ha : s.opA s.fire w = .data x) : execBr w s =
    .next (s.leaveTo s.fire (if x = 0 then w.immBits 14 8 else w.immBits 6 0) id) := by
  by_cases hx : x = 0 <;> simp [execBr, ht, ha, Val.bits, hx]

theorem execBr_err {k : Sub} (ha : s.opA s.fire w = .err k) : execBr w s =
    .next (s.commit s.fire (if k = .poison then 0x20 else 0x33) .none none 0) := by
  cases k <;> simp [execBr, ht, ha]

theorem execJmp_eq : execJmp w s = .next (s.leaveTo s.fire (w.immBits 6 0) id) := by simp [execJmp, ht]

theorem execBrx_data {x : Dword} (ha : s.opA s.fire w = .data x) : execBrx w s = .next
    (if x.toNat ≤ w.immBits 15 8 then
      s.leaveTo s.fire (((s.core s.fire.core).load.branches[w.immBits 7 0 + x.toNat]?).getD 0) id
     else s.commit s.fire 0x33 .none none 0) := by
  by_cases hx : x.toNat ≤ w.immBits 15 8
  · simp [execBrx, ht, ha, hx, Nat.lt_succ_of_le hx]
  · simp [execBrx, ht, ha, hx, show ¬ x.toNat < w.immBits 15 8 + 1 by omega]

theorem execBrx_err {k : Sub} (ha : s.opA s.fire w = .err k) : execBrx w s =
    .next (s.commit s.fire (if k = .poison then 0x20 else 0x33) .none none 0) := by
  cases k <;> simp [execBrx, ht, ha]

/-- `call` within the ring of sixteen entries. -/
theorem execCall_ring {d : Nat} (hd : (s.ft s.fire).depth.toNat = d) (hl : d < (s.kernelAt s.fire.core s.fire.thread).calldepth)
    (h16 : d < 16) : execCall w s = .next (s.leaveTo s.fire (w.immBits 6 0) (fun t =>
      { t.setRs d (BitVec.ofNat 8 (w.immBits 14 8)) with depth := BitVec.ofNat 11 (d + 1) })) := by
  simp only [execCall, ht, if_true, hd, ring_index h16, if_neg (Nat.not_lt.2 (Nat.succ_le_of_lt hl)), if_pos (Nat.succ_le_of_lt h16)]

theorem execCall_deep (hl : (s.kernelAt s.fire.core s.fire.thread).calldepth ≤ (s.ft s.fire).depth.toNat) :
    execCall w s = .next (s.commit s.fire 0x31 .none none 0) := by
  simp only [execCall, ht, if_true, if_pos (Nat.lt_succ_of_le hl)]

theorem execRet_empty (hd : (s.ft s.fire).depth.toNat = 0) : execRet w s = .next (s.commit s.fire 0x30 .none none 0) := by
  simp only [execRet, ht, if_true, if_pos hd]

/-- `ret` within the ring of sixteen entries. -/
theorem execRet_ring {d : Nat} (hd : (s.ft s.fire).depth.toNat = d) (h0 : 0 < d) (h16 : d ≤ 16) : execRet w s = .next
    (s.leaveTo s.fire (((s.ft s.fire).rs (d - 1)).toNat % 128) (fun t => { t with depth := BitVec.ofNat 11 (d - 1) })) := by
  simp only [execRet, ht, if_true, hd, if_neg h0.ne', if_pos h16, Nat.mod_eq_of_lt (show d - 1 < 16 by omega)]

theorem execExit_quiet (hq : (s.ft s.fire).quiet = true) : execExit w s = .next (s.freeThread s.fire.core s.fire.thread) := by
  simp only [execExit, ht, if_true, hq]

theorem execExit_busy (hq : (s.ft s.fire).quiet = false) : execExit w s = .next
    ((s.leave s.fire (fun t => { t with state := .exiting })).barriers (s.ft s.fire).launch (s.ft s.fire).wgid) := by
  simp only [execExit, ht, if_true, hq]
  rfl

end

end Sys2Proof.Machine

namespace Sys2Proof.Proofs
open Sys2Proof.Machine

/-- Settles O29. -/
theorem blockTerminators : Obligations.BlockTerminators := by
  intro s w ht
  exact ⟨fun x hx => execBr_data ht hx, execJmp_eq ht, fun x hx => execBrx_data ht hx,
    fun k hk => ⟨execBr_err ht hk, execBrx_err ht hk⟩, fun hl h16 => execCall_ring ht rfl hl h16, execCall_deep ht,
    execRet_empty (w := w) ht, fun h0 h16 => execRet_ring (w := w) ht rfl h0 h16, execExit_quiet (w := w) ht, execExit_busy (w := w) ht⟩

end Sys2Proof.Proofs
end

section
/-! Addresses before translation (spec 01 R38; 06 R179, R182), and O39. -/

namespace Sys2Proof

theorem Ty.bytes_pos (t : Ty) : 0 < t.bytes := by cases t <;> decide

end Sys2Proof

namespace Sys2Proof.Machine

/-! ### The generic address of an operand (R179) -/

theorem composeAddress_high {space : Space} {core a : Nat} (hs : space = .g ∨ space = .p) (h64 : a < 2 ^ 64) (ha : 2 ^ 56 ≤ a) :
    composeAddress space core a = .error 0x12 := by
  have : natBits a 63 56 ≠ 0 := by unfold natBits; omega
  rcases hs with rfl | rfl <;> simp [composeAddress, this]

theorem composeAddress_global {core a : Nat} (ha : a < 2 ^ 56) : composeAddress .g core a = .ok a := by
  have : natBits a 63 56 = 0 := by unfold natBits; omega
  simp [composeAddress, this]

theorem composeAddress_private {core a : Nat} (ha : a < 2 ^ 56) : composeAddress .p core a = .ok (0xC000000000000000 + a) := by
  have : natBits a 63 56 = 0 := by unfold natBits; omega
  simp [composeAddress, this]

theorem composeAddress_spad_high {core a : Nat} (h64 : a < 2 ^ 64) (ha : 2 ^ 20 ≤ a) : composeAddress .s core a = .error 0x12 := by
  have : natBits a 63 20 ≠ 0 := by unfold natBits; omega
  simp [composeAddress, this]

theorem composeAddress_spad {core a : Nat} (ha : a < 2 ^ 20) :
    composeAddress .s core a = .ok (0xD000000000000000 + core * 2 ^ 47 + a) := by
  have : natBits a 63 20 = 0 := by unfold natBits; omega
  simp [composeAddress, this]

theorem composeAddress_cluster_high {core a : Nat} (h64 : a < 2 ^ 64) (ha : 2 ^ 23 ≤ a) :
    composeAddress .c core a = .error 0x12 := by
  have : natBits a 63 23 ≠ 0 := by unfold natBits; omega
  simp [composeAddress, this]

theorem composeAddress_cluster {core a : Nat} (ha : a < 2 ^ 23) :
    composeAddress .c core a = .ok (0xE000000000000000 + core / 8 * 2 ^ 50 + a) := by
  have : natBits a 63 23 = 0 := by unfold natBits; omega
  simp [composeAddress, this]

/-! ### The windows of the generic address space (R38) -/

section
variable {s : State} {k t n align : Nat}

theorem window_global {g : Nat} (hn : 0 < n) (hg : g + n ≤ 2 ^ 56) :
    s.window k t g n align = if g % align ≠ 0 then .error 0x15 else .ok (.va g) := by
  have htop : natBits g 63 60 = 0 := by unfold natBits; omega
  have hmid : natBits g 59 56 = 0 := by unfold natBits; omega
  have hlow : natBits g 55 0 = g := by unfold natBits; omega
  simp only [State.window, htop, hmid, hlow, ne_eq, not_true_eq_false, false_or, if_neg (Nat.not_lt.2 hg)]

theorem window_private {a : Nat} (ha : a < 2 ^ 56) :
    s.window k t (0xC000000000000000 + a) n align =
      if (s.kernelAt k t).priv < a + n then .error 0x16
      else if (0xC000000000000000 + a) % align ≠ 0 then .error 0x15 else .ok (.va (s.privBase k t + a)) := by
  have htop : natBits (0xC000000000000000 + a) 63 60 = 0xC := by unfold natBits; omega
  have hmid : natBits (0xC000000000000000 + a) 59 56 = 0 := by unfold natBits; omega
  have hlow : natBits (0xC000000000000000 + a) 55 0 = a := by unfold natBits; omega
  simp only [State.window, htop, hmid, hlow, ne_eq, not_true_eq_false, if_false]

theorem window_spad {a : Nat} (hk : k < 512) (ha : a < 2 ^ 20) :
    s.window k t (0xD000000000000000 + k * 2 ^ 47 + a) n align =
      if (s.kernelAt k t).spad < a + n then .error 0x12
      else if (0xD000000000000000 + k * 2 ^ 47 + a) % align ≠ 0 then .error 0x15 else .ok (.spad k a) := by
  have htop : natBits (0xD000000000000000 + k * 2 ^ 47 + a) 63 60 = 0xD := by unfold natBits; omega
  have hmid : natBits (0xD000000000000000 + k * 2 ^ 47 + a) 59 56 = 0 := by unfold natBits; omega
  have hgap : natBits (0xD000000000000000 + k * 2 ^ 47 + a) 46 20 = 0 := by unfold natBits; omega
  have hcore : natBits (0xD000000000000000 + k * 2 ^ 47 + a) 55 47 = k := by unfold natBits; omega
  have hlow : natBits (0xD000000000000000 + k * 2 ^ 47 + a) 19 0 = a := by unfold natBits; omega
  simp only [State.window, htop, hmid, hgap, hcore, hlow, ne_eq, not_true_eq_false, or_self, if_false, State.spadBytes]

/-- The cores that hold a part of the workgroup of a thread. -/
def State.groupCores (s : State) (k t : Nat) : List Nat :=
  ((s.wg? (s.thread k t).launch (s.thread k t).wgid).map Workgroup.cores).getD []

theorem window_cluster {a : Nat} (hk : k < 512) (ha : a < 2 ^ 23) :
    s.window k t (0xE000000000000000 + k / 8 * 2 ^ 50 + a) n align =
      if k / 8 * 8 + a / 2 ^ 20 ∉ s.groupCores k t then .error 0x12
      else if (s.kernelAt k t).spad < a % 2 ^ 20 + n then .error 0x12
      else if (0xE000000000000000 + k / 8 * 2 ^ 50 + a) % align ≠ 0 then .error 0x15
      else .ok (.spad (k / 8 * 8 + a / 2 ^ 20) (a % 2 ^ 20)) := by
  have htop : natBits (0xE000000000000000 + k / 8 * 2 ^ 50 + a) 63 60 = 0xE := by unfold natBits; omega
  have hmid : natBits (0xE000000000000000 + k / 8 * 2 ^ 50 + a) 59 56 = 0 := by unfold natBits; omega
  have hgap : natBits (0xE000000000000000 + k / 8 * 2 ^ 50 + a) 49 23 = 0 := by unfold natBits; omega
  have hcluster : natBits (0xE000000000000000 + k / 8 * 2 ^ 50 + a) 55 50 = k / 8 := by unfold natBits; omega
  have hcore : natBits (0xE000000000000000 + k / 8 * 2 ^ 50 + a) 22 20 = a / 2 ^ 20 := by unfold natBits; omega
  have hlow : natBits (0xE000000000000000 + k / 8 * 2 ^ 50 + a) 19 0 = a % 2 ^ 20 := by unfold natBits; omega
  simp only [State.window, htop, hmid, hgap, hcluster, hcore, hlow, ne_eq, not_true_eq_false, or_self, if_false, State.spadBytes,
    State.groupCores, Bool.not_eq_true', List.contains_eq_mem, decide_eq_false_iff_not]

theorem window_none {g : Nat} (h64 : g < 2 ^ 64) (hg : g / 2 ^ 60 ∉ [0, 0xC, 0xD, 0xE] ∨ g / 2 ^ 56 % 16 ≠ 0) :
    s.window k t g n align = .error 0x12 := by
  have htop : natBits g 63 60 = g / 2 ^ 60 := by unfold natBits; omega
  have hmid : natBits g 59 56 = g / 2 ^ 56 % 16 := by unfold natBits; omega
  have hlt : g / 2 ^ 60 < 16 := by omega
  simp only [State.window, htop, hmid]
  generalize g / 2 ^ 60 = top at hg hlt
  rcases hg with hg | hg
  · -- no window begins with these four bits
    interval_cases top <;> simp at hg ⊢
  · simp only [ne_eq, hg, not_false_eq_true, true_or, if_true]
    split <;> rfl

theorem window_otherCore {g : Nat} (htop : g / 2 ^ 56 = 0xD0) (hgap : g / 2 ^ 20 % 2 ^ 27 = 0) (hk : g / 2 ^ 47 % 512 ≠ k) :
    s.window k t g n align = .error 0x13 := by
  have htop' : natBits g 63 60 = 0xD := by unfold natBits; omega
  have hmid : natBits g 59 56 = 0 := by unfold natBits; omega
  have hgap' : natBits g 46 20 = 0 := by unfold natBits; omega
  have hcore : natBits g 55 47 ≠ k := by unfold natBits; omega
  simp only [State.window, htop', hmid, hgap', ne_eq, not_true_eq_false, or_self, if_false, hcore, not_false_eq_true, if_true]

theorem window_otherCluster {g : Nat} (htop : g / 2 ^ 56 = 0xE0) (hgap : g / 2 ^ 23 % 2 ^ 27 = 0) (hk : g / 2 ^ 50 % 64 ≠ k / 8) :
    s.window k t g n align = .error 0x14 := by
  have htop' : natBits g 63 60 = 0xE := by unfold natBits; omega
  have hmid : natBits g 59 56 = 0 := by unfold natBits; omega
  have hgap' : natBits g 49 23 = 0 := by unfold natBits; omega
  have hcluster : natBits g 55 50 ≠ k / 8 := by unfold natBits; omega
  simp only [State.window, htop', hmid, hgap', ne_eq, not_true_eq_false, or_self, if_false, hcluster, not_false_eq_true, if_true]

end

/-! ### The address of an operand and what stops it (R182) -/

section
variable {s : State} {f : Firing} {space : Space} {n align : Nat} {a : Dword}

theorem formAddress_poison : s.formAddress f space n align (.err .poison) = .error (0x20, none) := rfl

theorem formAddress_error {k : Sub} (hk : k ≠ .poison) : s.formAddress f space n align (.err k) = .error (0x12, none) := by
  cases k
  case poison => exact absurd rfl hk
  all_goals rfl

/-- An operand that forms no address: its record has no VA (log 37). -/
theorem formAddress_of_unformed {c : Nat} (h : composeAddress space f.core a.toNat = .error c) :
    s.formAddress f space n align (.data a) = .error (c, none) := by
  simp only [State.formAddress, Val.bits, h]

/-- What the window checks answer about an address, with that address. -/
def atAddress (g : Nat) (r : Except Nat Target) : Except (Nat × Option Nat) (Nat × Target) :=
  (r.mapError (fun c => (c, some g))).map (fun x => (g, x))

theorem formAddress_of_formed {g : Nat} (h : composeAddress space f.core a.toNat = .ok g) :
    s.formAddress f space n align (.data a) = atAddress g (s.window f.core f.thread g n align) := by
  simp only [State.formAddress, Val.bits, h]
  cases s.window f.core f.thread g n align <;> rfl

end

/-- The start of a window is aligned for every type. -/
theorem add_mod_bytes (t : Ty) {b : Nat} (hb : 2 ^ 20 ∣ b) (a : Nat) : (b + a) % t.bytes = a % t.bytes := by
  have : t.bytes ∣ 2 ^ 20 := by cases t <;> decide
  obtain ⟨c, rfl⟩ := this.trans hb
  rw [Nat.add_comm, Nat.add_mul_mod_self_left]

/-! ### Accesses that stop at their address -/

theorem operation_of_fire {s : State} {f : Firing} {w : SlotWord} {vs : List Val} (h : s.go f w = .fire) (hv : .pass ∉ vs)
    (o : Bool) (g : State → State) : s.operation f w o vs g = g s := by
  have : vs.contains .pass = false := by simpa using hv
  simp only [State.operation, h, this]
  rfl

theorem withPlace_of_error {s : State} {f : Firing} {w : SlotWord} {n c : Nat} {va : Option Nat} {v : Val}
    (h : s.targetOf f w n v = .error (c, va)) (kind : AccessKind) (rd wr : Bool) (g : State → Nat → Place → State) :
    s.withPlace f w n kind rd wr v g = s.commit f c kind va 0 := by
  simp only [State.withPlace, h]

end Sys2Proof.Machine

namespace Sys2Proof.Proofs
open Sys2Proof.Machine

/-- Settles O39: what each space composes, and what each window answers about it. -/
theorem addressFaults : Obligations.AddressFaults := by
  intro s w hgo hA hB f n
  have hn : 0 < n := w.ty.bytes_pos
  have hA' : Val.pass ∉ [s.opA f w] := by simpa using hA.symm
  have hAB : Val.pass ∉ [s.opA f w, s.opB f w] := by simpa using ⟨hA.symm, hB.symm⟩
  refine ⟨fun hk => by rw [State.targetOf, hk], fun c va h => ⟨?_, ?_, ?_⟩, fun h => by rw [h, formAddress_poison],
    fun k hk h => by rw [h, formAddress_error hk], ?_, ?_, ?_, ?_, ?_, ?_⟩
  · show execLd w s = _
    rw [execLd, operation_of_fire hgo hA', withPlace_of_error h]
  · show execSt w s = _
    rw [execSt, operation_of_fire hgo hAB, withPlace_of_error h]
  · show execAtom w s = _
    rw [execAtom, operation_of_fire hgo hAB, withPlace_of_error h]
  · intro a ha hs h56
    rw [ha, formAddress_of_unformed (composeAddress_high hs a.isLt h56)]
  · intro a ha hs h56 hmod
    rw [ha, hs, formAddress_of_formed (composeAddress_global (by omega)), window_global hn h56, if_pos hmod]; rfl
  · intro a ha hs h56 hmod
    rw [ha, hs, formAddress_of_formed (composeAddress_global (by omega)), window_global hn h56, if_neg (by simpa using hmod)]; rfl
  · intro a ha hs h56 hpriv
    rw [ha, hs, formAddress_of_formed (composeAddress_private h56), window_private h56, if_pos hpriv]; rfl
  · intro a ha hs h56 hpriv hmod
    rw [ha, hs, formAddress_of_formed (composeAddress_private h56), window_private h56, if_neg (Nat.not_lt.2 hpriv),
      add_mod_bytes w.ty (by decide), if_neg (by simpa using hmod)]; rfl
  · intro a ha
    refine ⟨fun hs h20 => ?_, fun hs hk h20 => ?_, fun hs h23 => ?_, fun hs hk h23 hold => ?_, fun hs hk h23 hold => ?_,
      fun hs hw => ?_, fun hs ht hg hk => ?_, fun hs ht hg hk => ?_, fun hs h56 hmod => ?_⟩
    · rw [ha, hs, formAddress_of_unformed (composeAddress_spad_high a.isLt h20)]
    · rw [ha, hs, formAddress_of_formed (composeAddress_spad h20), window_spad hk h20, add_mod_bytes w.ty (by omega),
        apply_ite (atAddress _), apply_ite (atAddress _), Nat.mod_eq_of_lt h20]; rfl
    · rw [ha, hs, formAddress_of_unformed (composeAddress_cluster_high a.isLt h23)]
    · rw [ha, hs, formAddress_of_formed (composeAddress_cluster h23), window_cluster hk h23, add_mod_bytes w.ty (by omega),
        if_neg (not_not.2 (show _ ∈ s.groupCores f.core f.thread from hold)), apply_ite (atAddress _), apply_ite (atAddress _)]; rfl
    · rw [ha, hs, formAddress_of_formed (composeAddress_cluster h23), window_cluster hk h23, if_pos (show _ ∉ s.groupCores f.core f.thread from hold)]; rfl
    · rw [ha, hs, formAddress_of_formed rfl, window_none a.isLt hw]; rfl
    · rw [ha, hs, formAddress_of_formed rfl, window_otherCore ht hg hk]; rfl
    · rw [ha, hs, formAddress_of_formed rfl, window_otherCluster ht hg hk]; rfl
    · rw [ha, hs, formAddress_of_formed rfl, window_global hn h56, if_neg (by simpa using hmod)]; rfl

end Sys2Proof.Proofs
end

section
/-! The frame of accesses to memory: whatever the hierarchy, a walk, a fault queue or a hold does, of a core only its CACHE tiles and
its micro-TLB change, and no time passes (spec 10 R293 to R304; 13 R369 to R376). -/

namespace Sys2Proof.Machine

/-- A core but for its CACHE tiles and its micro-TLB is as another. -/
def Core.stands (c d : Core) : Prop := d = { c with l1 := d.l1, utlb := d.utlb }

/-- From one state to the other every core stands but for its CACHE tiles and its micro-TLB, and no time has passed. -/
structure State.stands (s t : State) : Prop where
  time : t.time = s.time
  core : ∀ k, (s.core k).stands (t.core k)

section
variable {s t : State}

theorem Core.stands_refl (c : Core) : c.stands c := rfl

theorem Core.stands_trans {c d e : Core} (h : c.stands d) (h' : d.stands e) : c.stands e := by
  unfold Core.stands at *
  rw [h', h]

theorem State.stands_refl (s : State) : s.stands s := ⟨rfl, fun _ => rfl⟩

/-- A change of anything but the cores and the clock. -/
theorem State.stands.of_eq {u : State} (h : s.stands t) (hu : (u.cores, u.time) = (t.cores, t.time)) : s.stands u := by
  obtain ⟨hc, ht⟩ := Prod.mk.inj hu
  refine ⟨ht.trans h.time, fun k => ?_⟩
  have hk : u.core k = t.core k := by rw [State.core, State.core, hc]
  rw [hk]
  exact h.core k

theorem State.stands.thread (h : s.stands t) (k n : Nat) : t.thread k n = s.thread k n := by
  obtain ⟨-, hc⟩ := h
  rw [State.thread, hc k]
  rfl

theorem foldl_stands {α : Type} {f : State → α → State} {l : List α} (h : s.stands t)
    (hf : ∀ u a, s.stands u → s.stands (f u a)) : s.stands (l.foldl f t) := by
  induction l generalizing t with
  | nil => exact h
  | cons a l ih => exact ih (hf t a h)

/-- A change of the CACHE tiles or the micro-TLB of one core. -/
theorem State.stands.onCore (h : s.stands t) (k : Nat) {g : Core → Core} (hg : ∀ c : Core, c.stands (g c)) : s.stands (t.onCore k g) := by
  obtain ⟨ht, hc⟩ := h
  refine ⟨ht, fun j => ?_⟩
  rcases eq_or_ne j k with rfl | hj
  · rw [State.onCore_core_same]
    exact Core.stands_trans (hc j) (hg _)
  · rw [State.onCore_core_other _ _ _ _ hj]
    exact hc j

theorem Table.look_map {α : Type} (m : Table α) (g : Nat → α → α) (k : Nat) :
    Table.look (m.map (fun kv => (kv.1, g kv.1 kv.2))) k = (m.look k).map (g k) := by
  induction m with
  | nil => rfl
  | cons kv m ih =>
    by_cases h : k = kv.1
    · simp [Table.look, h]
    · simp [Table.look, h, ih]

/-- A change of the CACHE tiles of a die's cores. -/
theorem State.stands.onDie (h : s.stands t) (die : Nat) {g : Core → Core} (hg : ∀ c : Core, c.stands (g c)) : s.stands (t.onDie die g) := by
  obtain ⟨ht, hc⟩ := h
  refine ⟨ht, fun k => Core.stands_trans (hc k) ?_⟩
  have hmap : (fun kc : Nat × Core => if dieOf kc.1 = die then (kc.1, g kc.2) else kc) =
      fun kc => (kc.1, if dieOf kc.1 = die then g kc.2 else kc.2) := by
    funext kc
    split <;> rfl
  rw [State.core, State.core, State.onDie, hmap, Table.look_map t.cores (fun k c => if dieOf k = die then g c else c)]
  cases t.cores.look k with
  | none => rfl
  | some c =>
    show c.stands (if dieOf k = die then g c else c)
    split
    · exact hg c
    · rfl

/-! ### Memory and the die slices (R293 to R304) -/

theorem State.stands.burstSense (h : s.stands t) (b : Nat) : s.stands (t.burstSense b) := by
  unfold State.burstSense
  split <;> exact h.of_eq (by rfl)

theorem State.stands.dramSense (h : s.stands t) (n : Nat) : s.stands (t.dramSense n) :=
  foldl_stands h (fun _ b hu => hu.burstSense b)

theorem State.stands.fenceSense (h : s.stands t) (n : Nat) : s.stands (t.fenceSense n) := by
  unfold State.fenceSense
  dsimp only
  split <;> exact h.of_eq (by rfl)

theorem State.stands.dramPut (h : s.stands t) (n : Nat) (d : Dword) (p : Bool) : s.stands (t.dramPut n d p) := by
  unfold State.dramPut
  split <;> exact h.of_eq (by rfl)

theorem State.stands.dramPrepare (h : s.stands t) (ns : List Nat) : s.stands (t.dramPrepare ns) := by
  refine foldl_stands h (fun u n hu => ?_)
  dsimp only
  split
  · exact hu.of_eq (by rfl)
  · exact hu.burstSense _

theorem State.stands.dropL1 (h : s.stands t) (die key : Nat) : s.stands (t.dropL1 die key) := h.onDie die (fun _ => rfl)

theorem State.stands.forwardL1 (h : s.stands t) (die key : Nat) (d : Dword) (p : Bool) : s.stands (t.forwardL1 die key d p) :=
  h.onDie die (fun _ => rfl)

theorem State.stands.dirRelease (h : s.stands t) (line : Nat) : s.stands (t.dirRelease line) := by
  unfold State.dirRelease
  split <;> exact h.of_eq (by rfl)

theorem State.stands.dropWords (h : s.stands t) (die : Nat) (ns : List Nat) : s.stands (t.dropWords die ns) := by
  refine foldl_stands (h.dramPrepare _) (fun u n hu => ?_)
  have hdrop := hu.dropL1 die n
  split
  · exact hu
  · split
    · exact hu
    · dsimp only
      split
      · split <;> exact (hdrop.dramPut _ _ _).of_eq (by rfl)
      · split <;> exact hdrop.of_eq (by rfl)

theorem State.stands.evict (h : s.stands t) (die line : Nat) (ns : List Nat) : s.stands (t.evict die line ns) := by
  have hdrop := h.dropWords die ns
  unfold State.evict
  dsimp only
  split
  · exact hdrop.dirRelease line
  · exact State.stands.dirRelease (hdrop.of_eq (by rfl)) line

theorem State.stands.recall (h : s.stands t) (line : Nat) : s.stands (t.recall line) := by
  have hall : s.stands (Machine.dies.foldl (fun s d => s.evict d line (lineWords line 0xFFFF)) t) :=
    foldl_stands h (fun _ d hu => hu.evict d line _)
  unfold State.recall
  dsimp only
  generalize Machine.dies.foldl _ t = u at hall ⊢
  exact hall.of_eq (by rfl)

theorem State.stands.dirEnsure (h : s.stands t) (line : Nat) : s.stands (t.dirEnsure line) := by
  unfold State.dirEnsure
  dsimp only
  split
  · exact h
  · split
    · exact h.of_eq (by rfl)
    · split
      · exact h.of_eq (by rfl)
      · split
        · exact h.of_eq (by rfl)
        · exact State.stands.recall (h.of_eq (by rfl)) _

theorem State.stands.remoteSend (h : s.stands t) (die dev n : Nat) : s.stands (t.remoteSend die dev n) := by
  unfold State.remoteSend
  split
  · exact h
  · split
    · exact h
    · dsimp only
      split <;> exact State.stands.dropL1 (h.of_eq (by rfl)) _ _

theorem State.stands.hostGive (h : s.stands t) (half : Nat) : s.stands (t.hostGive half) := by
  unfold State.hostGive
  split
  · exact h
  · exact foldl_stands (h.of_eq (by rfl)) (fun _ _ hu => hu.dropL1 _ _)

theorem State.stands.evictAny (h : s.stands t) (die line : Nat) : s.stands (t.evictAny die line) := by
  unfold State.evictAny
  dsimp only
  split
  · exact h.evict _ _ _
  · split
    · refine foldl_stands (h.of_eq (by rfl)) (fun u x hu => ?_)
      split
      · exact hu.hostGive x
      · exact hu
    · exact foldl_stands (h.of_eq (by rfl)) (fun _ _ hu => hu.remoteSend _ _ _)

theorem State.stands.touchLine (h : s.stands t) (die line : Nat) : s.stands (t.touchLine die line) := by
  unfold State.touchLine
  dsimp only
  split
  · split
    · exact State.stands.evictAny (h.of_eq (by rfl)) _ _
    · exact h.of_eq (by rfl)
  · exact h.of_eq (by rfl)

theorem State.stands.request (h : s.stands t) (die n : Nat) : s.stands (t.request die n) :=
  (State.stands.dirEnsure (t := t.hostYield n) (h.of_eq (by rfl)) _).touchLine _ _

theorem State.stands.getS (h : s.stands t) (die n : Nat) : s.stands (t.getS die n) := by
  unfold State.getS
  split
  · exact h.touchLine _ _
  · split
    · exact h.fenceSense n
    · have hreq := h.request die n
      dsimp only
      split
      · exact (hreq.dramSense n).of_eq (by rfl)
      · exact hreq.of_eq (by rfl)

theorem State.stands.getM (h : s.stands t) (die n : Nat) (whole : Bool) : s.stands (t.getM die n whole) := by
  unfold State.getM
  dsimp only
  have hin : s.stands (if t.moesi die n == some .m || t.moesi die n == some .e then t.touchLine die (n / 16) else t.request die n) := by
    split
    · exact h.touchLine _ _
    · exact h.request _ _
  generalize (if t.moesi die n == some .m || t.moesi die n == some .e then t.touchLine die (n / 16) else t.request die n) = u at hin ⊢
  have hall : s.stands (List.foldl (fun s d => s.dropL1 d n) u (Machine.dies.filter (fun d => d != die && u.dieHolds d n))) :=
    foldl_stands hin (fun _ _ hu => hu.dropL1 _ _)
  split
  · exact (hall.dramSense n).of_eq (by rfl)
  · exact hall.of_eq (by rfl)

theorem State.stands.storeWord (h : s.stands t) (die n off : Nat) (bs : List Byte) : s.stands (t.storeWord die n off bs) := by
  unfold State.storeWord
  split
  · exact h.fenceSense n
  · exact State.stands.forwardL1 ((h.getM die n _).of_eq (by rfl)) _ _ _ _

theorem State.stands.devStore (h : s.stands t) (die pa : Nat) (bs : List Byte) : s.stands (t.devStore die pa bs) :=
  foldl_stands h (fun _ _ hu => hu.storeWord _ _ _ _)

theorem State.stands.remoteFetch (h : s.stands t) (die dev n : Nat) : s.stands (t.remoteFetch die dev n) := by
  have htouch := h.touchLine die (remoteLine dev (8 * n))
  unfold State.remoteFetch
  dsimp only
  split <;> exact htouch.of_eq (by rfl)

theorem State.stands.remoteStore (h : s.stands t) (die dev pa : Nat) (bs : List Byte) : s.stands (t.remoteStore die dev pa bs) :=
  foldl_stands h (fun _ _ hu => State.stands.forwardL1 ((hu.remoteFetch _ _ _).of_eq (by rfl)) _ _ _ _)

theorem State.stands.hostOwn (h : s.stands t) (die ba n : Nat) : s.stands (t.hostOwn die ba n) := by
  unfold State.hostOwn
  split
  · exact h
  · refine foldl_stands h (fun u i hu => ?_)
    dsimp only
    split
    · exact State.stands.touchLine (hu.of_eq (by rfl)) _ _
    · exact State.stands.touchLine ((hu.hostGive _).of_eq (by rfl)) _ _

theorem State.stands.hostPut (h : s.stands t) (ba : Nat) (bs : List Byte) : s.stands (t.hostPut ba bs) := by
  unfold State.hostPut
  split
  · exact (foldl_stands h (fun _ _ hu => hu.hostGive _)).of_eq (by rfl)
  · exact h.of_eq (by rfl)

theorem State.stands.hostWrite (h : s.stands t) (die ba : Nat) (bs : List Byte) : s.stands (t.hostWrite die ba bs) := by
  have hown := h.hostOwn die ba bs.length
  unfold State.hostWrite
  dsimp only
  split
  · exact foldl_stands (hown.of_eq (by rfl)) (fun _ _ hu => hu.forwardL1 _ _ _ _)
  · exact hown.of_eq (by rfl)

theorem State.stands.hubStore (h : s.stands t) (pa : Nat) (bs : List Byte) : s.stands (t.hubStore pa bs) :=
  foldl_stands h (fun _ _ hu => hu.storeWord _ _ _ _)

theorem State.stands.hubFetch (h : s.stands t) (pa n : Nat) : s.stands (t.hubFetch pa n) :=
  foldl_stands h (fun _ _ hu => hu.getS _ _)

/-! ### Reports (R361 to R370, R409 to R414, R422) -/

theorem State.stands.hostRing (h : s.stands t) (kind key : Nat) (p : Dword) (launch : Nat) : s.stands (t.hostRing kind key p launch) := by
  unfold State.hostRing
  dsimp only
  split
  · with_reducible exact (h.hostPut _ _).of_eq (by rfl)
  · exact h.of_eq (by rfl)

theorem State.stands.engineToken (h : s.stands t) (e : Event) : s.stands (t.engineToken e) := by
  unfold State.engineToken
  dsimp only
  split
  · exact h.of_eq (by rfl)
  · split <;> exact h.of_eq (by rfl)

theorem State.stands.raiseEvent (h : s.stands t) (kind key : Nat) (p : Dword) (launch : Nat) :
    s.stands (t.raiseEvent kind key p launch) := by
  unfold State.raiseEvent
  dsimp only
  split
  · exact h.hostRing _ _ _ _
  · split
    · exact (h.engineToken _).hostRing _ _ _ _
    · split
      · exact h.hostRing _ _ _ _
      · exact h.engineToken _

theorem State.stands.archiveRec (h : s.stands t) (r : FaultRec) : s.stands (t.archiveRec r) := h.of_eq (by rfl)

theorem State.stands.hubStoreBeside (h : s.stands t) (pa : Nat) (bs : List Byte) : s.stands (t.hubStoreBeside pa bs) :=
  (State.stands.hubStore (t := { t with access := (.write, 0) }) (h.of_eq (by rfl)) pa bs).of_eq (by rfl)

theorem State.stands.onLaunch (h : s.stands t) (l : Nat) (g : Launch → Launch) : s.stands (t.onLaunch l g) := h.of_eq (by rfl)

theorem State.stands.fqWrite (h : s.stands t) (r : FaultRec) (hold : Option Nat) : s.stands (t.fqWrite r hold) := by
  have hput : ∀ b pa bs, s.stands (if natBit t.fqBase.toNat 63 = b then t.hostPut pa bs else t.hubStoreBeside pa bs) := by
    intro b pa bs
    split
    · exact h.hostPut pa bs
    · exact h.hubStoreBeside pa bs
  unfold State.fqWrite
  refine State.stands.raiseEvent ?_ _ _ _ _
  have hrec := hput true (natBits t.fqBase.toNat 51 12 * 4096 + 64 * (t.fqWr.toNat % t.fqEntries))
    ({ r with seq := some t.fqWr.toNat } : FaultRec).bytes
  dsimp only
  generalize (if natBit t.fqBase.toNat 63 = true then _ else _ : State) = u at hrec ⊢
  split
  · exact State.stands.onLaunch (hrec.of_eq (by rfl)) _ _
  · exact hrec.of_eq (by rfl)

theorem State.stands.fqPost (h : s.stands t) (r : FaultRec) (hold : Option Nat) : s.stands (t.fqPost r hold) := by
  unfold State.fqPost
  split
  · split <;> exact h.of_eq (by rfl)
  · exact h.fqWrite r hold

theorem State.stands.settle (h : s.stands t) : s.stands t.settle := by
  refine foldl_stands (h.of_eq (by rfl)) (fun u e hu => State.stands.fqPost ?_ _ _)
  unfold State.candidate
  split <;> exact hu.of_eq (by rfl)

/-! ### Translation and holds (R371 to R377) -/

theorem State.stands.walkLevels (fuel : Nat) (h : s.stands t) (ctx va lvl hi base : Nat) :
    s.stands (State.walkLevels fuel t ctx va lvl hi base).1 := by
  induction fuel generalizing t lvl hi base with
  | zero => exact h
  | succ fuel ih =>
    have hread : ∀ pa n, s.stands ((t.accessAs .walk t.access.2).hubFetch pa n).settle := fun pa n =>
      (State.stands.hubFetch (t := t.accessAs .walk t.access.2) (h.of_eq (by rfl)) pa n).settle
    unfold State.walkLevels
    dsimp only
    split
    · exact hread _ _
    · split
      · exact hread _ _
      · split
        · exact hread _ _
        · split
          · exact hread _ _
          · exact ih (hread _ _) _ _ _

theorem State.stands.walk (h : s.stands t) (ctx va : Nat) : s.stands (t.walk ctx va).1 := by
  have hread : ∀ pa n, s.stands ((t.accessAs .walk t.access.2).hubFetch pa n).settle := fun pa n =>
    (State.stands.hubFetch (t := t.accessAs .walk t.access.2) (h.of_eq (by rfl)) pa n).settle
  unfold State.walk
  dsimp only
  split
  · exact hread _ _
  · split
    · exact hread _ _
    · split
      · exact hread _ _
      · split
        · exact hread _ _
        · exact State.stands.walkLevels 4 (hread _ _) _ _ _ _ _

theorem State.stands.fillMicro (h : s.stands t) (k : Nat) (e : TlbEntry) : s.stands (t.fillMicro k e) := h.onCore k (fun _ => rfl)

theorem State.stands.translate (h : s.stands t) (core ctx va : Nat) (rd wr : Bool) : s.stands (t.translate core ctx va rd wr).1 := by
  have hwalk := h.walk ctx va
  unfold State.translate
  dsimp only
  split
  · exact State.stands.onCore h core (g := fun c => { c with utlb := _ }) (fun _ => rfl)
  · split
    · exact State.stands.fillMicro (h.of_eq (by rfl)) core _
    · split
      · exact State.stands.fillMicro (h.of_eq (by rfl)) core _
      · split
        case h_1 hw =>
          rw [hw] at hwalk
          split
          · exact State.stands.fillMicro (hwalk.of_eq (by rfl)) core _
          · exact hwalk
        case h_2 hw => rw [hw] at hwalk; exact hwalk
        case h_3 hw => rw [hw] at hwalk; exact hwalk

theorem State.stands.hold (h : s.stands t) (die ctx va : Nat) (i : HeldItem) (r : FaultRec) : s.stands (t.hold die ctx va i r) := by
  unfold State.hold
  dsimp only
  split
  · exact h.of_eq (by rfl)
  · split
    · exact h.of_eq (by rfl)
    · exact State.stands.fqPost (h.of_eq (by rfl)) _ _

theorem State.stands.atsWait (h : s.stands t) (die ctx va : Nat) (i : HeldItem) : s.stands (t.atsWait die ctx va i) := by
  unfold State.atsWait
  dsimp only
  split <;> exact h.of_eq (by rfl)

end

end Sys2Proof.Machine
end

section
/-! Taking a contained fault (spec 01 R23, R24; 13 R364 to R366), and O34. -/

namespace Sys2Proof.Machine

/-! ### The record of a thread (R24, R364) -/

/-- The store of a record changes of the cores' threads nothing but FVALID and FCAUSE, and these when it is written. -/
theorem storeRecord_cases (s : State) (core ctx va : Nat) (bytes : List Byte) (thread : Option (Nat × Byte)) :
    ∃ u, s.stands u ∧
      ((s.storeRecord core ctx va bytes thread).2 = .written →
        (s.storeRecord core ctx va bytes thread).1 = u.setFvalid core thread) ∧
      ((s.storeRecord core ctx va bytes thread).2 ≠ .written → (s.storeRecord core ctx va bytes thread).1 = u) := by
  have htr := s.stands_refl.translate core ctx va false true
  unfold State.storeRecord
  split
  case h_1 v e hx =>
    rw [hx] at htr
    refine ⟨_, ?_, fun _ => rfl, fun h => absurd rfl h⟩
    split
    · exact htr.devStore _ _ _
    · exact htr.hostWrite _ _ _
    · exact htr.remoteStore _ _ _ _
    · exact htr
  case h_2 v detail hx =>
    rw [hx] at htr
    exact ⟨_, htr.hold _ _ _ _ _, nofun, fun _ => rfl⟩
  case h_3 v hx =>
    rw [hx] at htr
    exact ⟨_, htr.atsWait _ _ _ _, nofun, fun _ => rfl⟩
  case h_4 v d pa hx =>
    rw [hx] at htr
    exact ⟨_, htr, nofun, fun _ => rfl⟩

theorem thread_setFvalid {s : State} {k t : Nat} (hlive : (s.thread k t).state ≠ .free) (c : Byte) :
    (s.setFvalid k (some (t, c))).thread k t = { s.thread k t with fvalid := true, fcause := c } := by
  simp only [State.thread, Core.thread, State.setFvalid, State.onCore_core_same] at hlive ⊢
  cases hl : (s.core k).threads.look t with
  | none => exact absurd (by rw [hl]; rfl) hlive
  | some th => simp [Table.look_put_same]

@[simp] theorem setFvalid_time (s : State) (k : Nat) (x : Option (Nat × Byte)) : (s.setFvalid k x).time = s.time := by
  unfold State.setFvalid
  split <;> rfl

theorem storeOwn_cases (s : State) (k t : Nat) (r : FaultRec) (c : Byte) :
    ∃ u, s.stands u ∧
      ((s.storeOwn k t r (some c)).2 = .written → (s.storeOwn k t r (some c)).1 = u.setFvalid k (some (t, c))) ∧
      ((s.storeOwn k t r (some c)).2 ≠ .written → (s.storeOwn k t r (some c)).1 = u) :=
  storeRecord_cases s k (s.ctxAt k t) (s.privBase k t + (s.kernelAt k t).privRound) r.bytes (some (t, c))

theorem storeOwn_thread_of_written {s : State} {k t : Nat} {r : FaultRec} {c : Byte} (hlive : (s.thread k t).state ≠ .free)
    (h : (s.storeOwn k t r (some c)).2 = .written) :
    (s.storeOwn k t r (some c)).1.thread k t = { s.thread k t with fvalid := true, fcause := c } := by
  obtain ⟨u, hu, hw, -⟩ := storeOwn_cases s k t r c
  rw [← hu.thread] at hlive ⊢
  rw [hw h, thread_setFvalid hlive c]

theorem storeOwn_thread_of_waits {s : State} {k t : Nat} {r : FaultRec} {c : Byte} (h : (s.storeOwn k t r (some c)).2 = .waits) :
    (s.storeOwn k t r (some c)).1.thread k t = s.thread k t := by
  obtain ⟨u, hu, -, hn⟩ := storeOwn_cases s k t r c
  rw [hn (h ▸ nofun), hu.thread]

theorem storeOwn_time (s : State) (k t : Nat) (r : FaultRec) (c : Byte) : (s.storeOwn k t r (some c)).1.time = s.time := by
  obtain ⟨u, hu, hw, hn⟩ := storeOwn_cases s k t r c
  by_cases h : (s.storeOwn k t r (some c)).2 = .written
  · rw [hw h, setFvalid_time, hu.time]
  · rw [hn h, hu.time]

/-! ### What else a contained fault does, of which no thread sees anything (R24, R366) -/

theorem muteHeld_thread (s : State) (k t j n : Nat) : (s.muteHeld k t).thread j n = s.thread j n := by
  unfold State.muteHeld State.thread State.core
  dsimp only
  rcases eq_or_ne j k with rfl | hj
  · rw [← State.core, State.onCore_core_same]
    rfl
  · rw [← State.core, State.onCore_core_other _ _ _ _ hj]
    rfl

theorem reportAbort_frame (s : State) (r : FaultRec) (launch wgid : Nat) :
    (s.reportAbort r launch wgid).cores = s.cores ∧ (s.reportAbort r launch wgid).time = s.time := by
  unfold State.reportAbort
  dsimp only
  split
  · exact ⟨rfl, rfl⟩
  · split
    · exact ⟨rfl, rfl⟩
    · split <;> exact ⟨rfl, rfl⟩

theorem reportAbort_thread (s : State) (r : FaultRec) (launch wgid k t : Nat) :
    (s.reportAbort r launch wgid).thread k t = s.thread k t := by
  rw [State.thread, State.core, (reportAbort_frame s r launch wgid).1]
  rfl

/-- The report of a fault with which its workgroup ends leaves the threads. -/
theorem thread_ite_reportAbort (s : State) (p : Bool) (r : FaultRec) (launch wgid k t : Nat) :
    (if p then s.reportAbort r launch wgid else s).thread k t = s.thread k t := by
  split
  · exact reportAbort_thread s r launch wgid k t
  · rfl

/-! ### A contained fault -/

/-- What has happened once the record of a thread in its load is on its way: the held accesses are mute, the firings that had issued
take effect, and the record stands in the archive (R24). -/
def State.faultTaken (s : State) (k t : Nat) (r : FaultRec) : State :=
  ((s.muteHeld k t).fireOn (fun f => f.core == k && f.thread == t)).archiveRec r

theorem faultTaken_thread (s : State) (k t : Nat) (r : FaultRec) : (s.faultTaken k t r).thread k t = s.thread k t :=
  muteHeld_thread s k t k t

theorem contain_thread_of_inload {s : State} {k t : Nat} {r : FaultRec} (ha : (s.thread k t).aborted = false)
    (hst : (s.thread k t).state = .inload)
    (hx : ((s.faultTaken k t r).storeOwn k t r (some (BitVec.ofNat 8 r.cause))).2 = .written ∨
      ((s.faultTaken k t r).storeOwn k t r (some (BitVec.ofNat 8 r.cause))).2 = .waits) :
    (s.contain k t r).thread k t =
      { ((s.faultTaken k t r).storeOwn k t r (some (BitVec.ofNat 8 r.cause))).1.thread k t with
        state := .faulted, staged := [], closing := false, faultAt := some (s.time, r.elem.getD 0xFF, r.slot) } := by
  have htime := storeOwn_time (s.faultTaken k t r) k t r (BitVec.ofNat 8 r.cause)
  unfold State.faultTaken at *
  generalize hy : State.storeOwn _ k t r _ = x at hx htime ⊢
  have hrefused : ∀ u : State, u.recordRefused k t x.2 = u := by
    intro u
    rcases hx with h | h <;> rw [h] <;> rfl
  unfold State.contain
  simp only [ha, hst, hy, hrefused]
  simp only [show (ThreadState.inload == ThreadState.free) = false from rfl, Bool.or_false, Bool.false_eq_true, if_false,
    show ¬ (ThreadState.inload = ThreadState.faulted) from nofun]
  rw [State.onThread_thread_same, thread_ite_reportAbort, State.onThread_thread_same]
  rfl

theorem contain_of_faulted {s : State} {k t : Nat} {r : FaultRec} (ha : (s.thread k t).aborted = false)
    (hst : (s.thread k t).state = .faulted) : s.contain k t r = s.laterFault k t r := by
  simp [State.contain, ha, hst]

theorem contain_of_aborted {s : State} {k t : Nat} {r : FaultRec} (ha : (s.thread k t).aborted = true) : s.contain k t r = s := by
  simp [State.contain, ha]

/-- A fault that is not the first of its cycle's order changes nothing (R24). -/
theorem contain_of_faulted_of_laterFault {s : State} {k t : Nat} {r : FaultRec} (hst : (s.thread k t).state = .faulted)
    (h : s.laterFault k t r = s) : s.contain k t r = s := by
  cases ha : (s.thread k t).aborted with
  | true => exact contain_of_aborted ha
  | false => rw [contain_of_faulted ha hst, h]

theorem laterFault_thread_of_first {s : State} {k t e sl : Nat} {r : FaultRec} (hst : (s.thread k t).state = .faulted)
    (hat : (s.thread k t).faultAt = some (s.time, e, sl)) (hrank : r.elem.getD 0xFF < e ∨ (r.elem.getD 0xFF = e ∧ r.slot < sl))
    (hx : ((s.archiveRec r).storeOwn k t r (some (BitVec.ofNat 8 r.cause))).2 = .written) :
    (s.laterFault k t r).thread k t =
      { s.thread k t with fvalid := true, fcause := BitVec.ofNat 8 r.cause, faultAt := some (s.time, r.elem.getD 0xFF, r.slot) } := by
  have hthread : (s.archiveRec r).thread k t = s.thread k t := rfl
  have hlive : ((s.archiveRec r).thread k t).state ≠ .free := by
    rw [hthread, hst]
    decide
  unfold State.laterFault
  simp only [hat, hrank, and_self, if_true]
  rw [State.onThread_thread_same, thread_ite_reportAbort, storeOwn_thread_of_written hlive hx, hthread]

theorem laterFault_of_later {s : State} {k t at_ e sl : Nat} {r : FaultRec} (hat : (s.thread k t).faultAt = some (at_, e, sl))
    (h : at_ ≠ s.time ∨ e < r.elem.getD 0xFF ∨ (e = r.elem.getD 0xFF ∧ sl ≤ r.slot)) : s.laterFault k t r = s := by
  unfold State.laterFault
  simp only [hat]
  rw [if_neg (by omega)]

theorem laterFault_of_none {s : State} {k t : Nat} {r : FaultRec} (hat : (s.thread k t).faultAt = none) : s.laterFault k t r = s := by
  simp [State.laterFault, hat]

/-! ### The way on (R23, R365) -/

theorem divert_of_handler {s : State} {k t h : Nat} (hh : (s.kernelAt k t).handler = some h) (hth : (s.thread k t).handler = false) :
    s.divert k t = s.onThread k t (fun t => { t with
      state := .waiting, next := BitVec.ofNat 7 h, handler := true, since := s.time, barrier := none }) := by
  simp [State.divert, hh, hth]

theorem divert_of_none {s : State} {k t : Nat} (h : (s.kernelAt k t).handler = none ∨ (s.thread k t).handler = true) :
    s.divert k t = s.abortWg (s.thread k t).launch (s.thread k t).wgid := by
  unfold State.divert
  rcases h with h | h
  · simp [h]
  · cases hk : (s.kernelAt k t).handler <;> simp [h]

end Sys2Proof.Machine

namespace Sys2Proof.Proofs
open Sys2Proof.Machine Sys2Proof.Claims

/-- Settles O34: a fault's record, whatever memory its store goes through, leaves the cores but for their caches (`State.stands`), so that
FVALID and FCAUSE are all that it sets of the thread; the rest is `State.contain`, `State.laterFault` and `State.divert` by case. -/
theorem containedFault : Obligations.ContainedFault := by
  intro s k t r th faulted stored
  refine ⟨fun ha hst => ?_, fun hst hat => ?_, fun at_ e sl hst hat hle => ?_, fun e sl ha hst hat hrank hx => ?_,
    fun h => divert_of_handler, divert_of_none⟩
  · have hlive : ((s.faultTaken k t r).thread k t).state ≠ .free := by
      rw [faultTaken_thread, show (s.thread k t).state = _ from hst]
      decide
    refine ⟨fun hx => ?_, fun hx => ?_⟩
    · rw [contain_thread_of_inload ha hst (.inl hx), storeOwn_thread_of_written (s := s.faultTaken k t r) hlive hx, faultTaken_thread]
    · rw [contain_thread_of_inload ha hst (.inr hx), storeOwn_thread_of_waits (s := s.faultTaken k t r) hx, faultTaken_thread]
  · exact contain_of_faulted_of_laterFault hst (laterFault_of_none hat)
  · exact contain_of_faulted_of_laterFault hst (laterFault_of_later hat hle)
  · rw [contain_of_faulted ha hst]
    exact laterFault_thread_of_first hst hat hrank hx

end Sys2Proof.Proofs
end

section
/-! The scheduler's own steps (spec 11 R305 to R330), and O51. -/

namespace Sys2Proof.Machine

section
variable {s : State} {k : Nat}

theorem Table.put_put {α : Type} (m : Table α) (n : Nat) (a b : α) : (m.put n a).put n b = m.put n b := by
  induction m with
  | nil => simp [Table.put]
  | cons kv m ih =>
    rcases lt_trichotomy n kv.1 with h | h | h
    · simp [Table.put, h]
    · simp [Table.put, h]
    · simp [Table.put, show ¬ n < kv.1 by omega, show n ≠ kv.1 by omega, ih]

/-! ### Issue (R306, R330) -/

theorem issueOne_of_credit {f : Firing} (h : s.creditFor f = true) : s.issueOne f =
    { s.setCore f.core { s.core f.core with rq := (s.core f.core).rq.erase f } with
      issued := s.issued ++ [s.stamp ((s.core f.core).withScales f)] } := by
  simp [State.issueOne, h]

theorem issueOne_of_parked {f : Firing} (h : s.creditFor f = false) (hp : ((s.core f.core).placed f).place ≠ none) : s.issueOne f =
    s.setCore f.core { s.core f.core with
      rq := (s.core f.core).rq.erase f, parked := (s.core f.core).parked ++ [⟨(s.core f.core).placed f, .credit, s.time⟩] } := by
  simp [State.issueOne, h, hp]

/-- The firings that a slot issues, oldest first (R306). -/
def State.goAt (s : State) (k n : Nat) : List Firing := (bySince (s.readyAt k n)).take ((s.core k).load.lanes n)

/-- What a step of an element counts (R263). -/
def State.countIssued (s : State) (k n : Nat) : State :=
  if n = 0 then s else s.onCore k (fun (c : Core) => (c.bumpStat 0 1).bumpStat 1 n)

theorem execElementIssue_eq {e i : Nat} (hon : s.issueEnabled k = true) (hi : s.pickSlot k e = some i) : execElementIssue k e s =
    .next (((s.goAt k (16 * e + i)).foldl State.issueOne s).countIssued k
      (((s.goAt k (16 * e + i)).foldl State.issueOne s).issued.length - s.issued.length)) := by
  simp only [execElementIssue, hon, hi]
  rfl

theorem execElementIssue_credit {e i : Nat} {f : Firing} (hon : s.issueEnabled k = true) (hi : s.pickSlot k e = some i)
    (hgo : s.goAt k (16 * e + i) = [f]) (hk : f.core = k) (hc : s.creditFor f = true) : execElementIssue k e s = .next
      { s.setCore k (({ s.core k with rq := (s.core k).rq.erase f } : Core).bumpStat 0 1 |>.bumpStat 1 1) with
        issued := s.issued ++ [s.stamp ((s.core k).withScales f)] } := by
  subst hk
  rw [execElementIssue_eq hon hi, hgo, List.foldl_cons, List.foldl_nil, issueOne_of_credit hc]
  simp [State.countIssued, State.onCore, State.setCore, State.core, Table.put_put, Table.look_put_same]

theorem execElementIssue_parked {e i : Nat} {f : Firing} (hon : s.issueEnabled k = true) (hi : s.pickSlot k e = some i)
    (hgo : s.goAt k (16 * e + i) = [f]) (hk : f.core = k) (hc : s.creditFor f = false) (hp : ((s.core k).placed f).place ≠ none) :
    execElementIssue k e s = .next (s.setCore k { s.core k with
      rq := (s.core k).rq.erase f, parked := (s.core k).parked ++ [⟨(s.core k).placed f, .credit, s.time⟩] }) := by
  subst hk
  rw [execElementIssue_eq hon hi, hgo, List.foldl_cons, List.foldl_nil, issueOne_of_parked hc hp]
  simp [State.countIssued, State.setCore]

/-! ### Arrival and return (R307, R330) -/

theorem execTokenArrival_first {i : Nat} {x : Flight} (hx : (s.core k).flights[i]? = some x) (hf : (s.core k).firstOfEdge i x = true) :
    execTokenArrival k i s =
      .next (((s.setCore k { s.core k with flights := (s.core k).flights.eraseIdx i }).tokenArrives k x).getD s) := by
  simp only [execTokenArrival, hx, hf, if_true]

section
variable {i : Nat} {p : Parked} (hp : (s.core k).parked[i]? = some p) (hr : s.canReturn p = true)
include hp hr

theorem execCreditReturn_credit (hw : p.why = .credit) : execCreditReturn k i s = .next
    (s.setCore k { s.core k with parked := (s.core k).parked.eraseIdx i, rq := (s.core k).rq ++ [p.f] }) := by
  simp [execCreditReturn, hp, hr, hw]

theorem execCreditReturn_closed {w : SlotWord} (hw : p.why = .closed) (hf : (s.core k).load.fields p.f.node = some w)
    (he : s.ended p.f = false) : execCreditReturn k i s = .next
      ((s.setCore k { s.core k with parked := (s.core k).parked.eraseIdx i }).emit2 p.f w .order .order) := by
  have hload : ({ s.core k with parked := (s.core k).parked.eraseIdx i } : Core).load = (s.core k).load := rfl
  simp only [execCreditReturn, hp, hr, hw, hload, hf, he]
  rfl

theorem execCreditReturn_other (hc : p.why ≠ .credit) (hd : p.why ≠ .closed) : execCreditReturn k i s = .next
    { s.setCore k { s.core k with parked := (s.core k).parked.eraseIdx i } with ready := s.ready ++ [p.f] } := by
  simp only [execCreditReturn, hp, hr, Bool.not_true, Bool.false_eq_true, if_false]
  split
  case h_1 hw => exact absurd hw hc
  case h_2 hw _ => exact absurd hw hd
  case h_3 => rfl

end

/-! ### Snapshots and admission (R316, R327) -/

/-- The rows of a core's active load that have had no snapshot in this round (R316). -/
def State.rowsLeft (s : State) (k : Nat) : List WaitRow :=
  ((s.core k).inside (s.waitRows k)).filter (fun (r : WaitRow) => !(s.core k).round.contains r.row)

/-- The rows among which a snapshot chooses: those left, or all when none is. -/
def State.roundRows (s : State) (k : Nat) : List WaitRow :=
  if (s.rowsLeft k).isEmpty then (s.core k).inside (s.waitRows k) else s.rowsLeft k

theorem execGangSnapshot_top {r : WaitRow} (ha : (s.core k).admitting = true) (hf : s.frozen k = false)
    (hw : s.placesUsed k < (s.core k).load.window) (hr : (s.core k).top (s.roundRows k) = some r) : execGangSnapshot k s =
    .next ((s.setCore k { (s.core k).countAged (s.roundRows k) with
      round := r.row :: (if (s.rowsLeft k).isEmpty then [] else (s.core k).round) }).snapshot k r) := by
  unfold State.roundRows State.rowsLeft at *
  simp only [execGangSnapshot, ha, hf, hr, Nat.not_le.2 hw]
  rfl

theorem execAdmitWorkgroup_admits {id cl : Nat} {l : Launch} {cores : List Nat} (hl : s.launch? id = some l)
    (hd : s.dispatchable l = true) (hcl : cl < 40) (hp : s.placeIn l cl = some cores) (hlow : ∀ j < cl, s.placeIn l j = none)
    (hfirst : ∀ x ∈ s.launches, s.goesFirst x l = true → s.dispatchable x = true → s.placeIn x cl = none) :
    execAdmitWorkgroup id cl s = .next (s.admitNext l cores) := by
  have hbetter : s.launches.any (fun x => s.goesFirst x l && s.dispatchable x && (s.placeIn x cl).isSome) = false := by
    rw [List.any_eq_false]
    intro x hx
    simp only [Bool.and_eq_true]
    rintro ⟨⟨hg, hx'⟩, hsome⟩
    rw [hfirst x hx hg hx'] at hsome
    exact nomatch hsome
  have hlower : (List.range cl).any (fun j => (s.placeIn l j).isSome) = false := by
    rw [List.any_eq_false]
    intro j hj
    simp [hlow j (List.mem_range.1 hj)]
  simp [execAdmitWorkgroup, hl, hd, hbetter, hlower, hp, hcl]

/-! ### Drained threads (R365, R367) -/

theorem execFaultedDrained_aborted {t : Nat} (ha : (s.thread k t).aborted = true) (hst : (s.thread k t).state ≠ .free)
    (hq : (s.thread k t).quiet = true) : execFaultedDrained k t s = .next (s.freeThread k t) := by
  simp [execFaultedDrained, State.canDrain, ha, hst, hq]

theorem execFaultedDrained_faulted {t : Nat} (ha : (s.thread k t).aborted = false) (hst : (s.thread k t).state = .faulted)
    (hd : s.drained k t = true) (hr : s.recordPending k t = false) :
    execFaultedDrained k t s = .next ((s.divert k t).purge k t) := by
  simp [execFaultedDrained, State.canDrain, ha, hst, hd, hr]

/-! ### Iterations (R133) -/

theorem beginRound_of_none (c : Core) {x : LoopInst} (h : x.ctx = none) : c.beginRound x = c := by
  simp [Core.beginRound, h]

theorem iterTokens_of_none (c : Core) {x : LoopInst} (h : x.ctx = none) :
    c.iterTokens x = (.data (BitVec.ofNat 64 ((x.items[x.t]?).getD x.t)), none) := by
  simp [Core.iterTokens, h]

/-- A choice between the elements of a list one after the other is one of them. -/
theorem foldl_choice_mem {α : Type} {p : α → α → Prop} [∀ a b, Decidable (p a b)] (a : α) (l : List α) :
    l.foldl (fun a b => if p a b then b else a) a ∈ a :: l := by
  induction l generalizing a with
  | nil => exact List.mem_cons_self
  | cons b l ih =>
    rw [List.foldl_cons]
    split
    · exact List.mem_cons_of_mem a (ih b)
    · rcases List.mem_cons.1 (ih a) with h | h
      · exact List.mem_cons.2 (.inl h)
      · exact List.mem_cons_of_mem a (List.mem_cons_of_mem b h)

theorem nextIssue_node {h : Nat} {x : LoopInst} (hx : s.nextIssue k h = some x) : x.node = h := by
  unfold State.nextIssue at hx
  dsimp only at hx
  split at hx
  · exact nomatch hx
  · rename_i i l hl
    have hmem := foldl_choice_mem (p := fun (a b : LoopInst) => b.thread < a.thread ∨ (b.thread = a.thread ∧ b.outT < a.outT)) i l
    rw [Option.some.inj hx, ← hl, List.mem_filter, Bool.and_eq_true] at hmem
    exact eq_of_beq hmem.2.1

theorem issueIter_of_plain {x : LoopInst} {w : SlotWord} (hw : (s.core k).load.fields x.node = some w) (hc : x.ctx = none)
    (hv : x.carried = none) : s.issueIter k x =
      (s.setCore k ((s.core k).setLoop { x with t := x.t + 1 })).send (x.firing k (x.t % 64)) 0 w.d0 false
        (.data (BitVec.ofNat 64 ((x.items[x.t]?).getD x.t))) (loopTag x.level x.thread x.out (x.t % 64)) := by
  simp [State.issueIter, hw, iterTokens_of_none _ hc, beginRound_of_none _ hc, LoopInst.carries?, hv, LoopInst.firing]

theorem issueLoop_succ {h n : Nat} {x : LoopInst} (hx : s.nextIssue k h = some x) :
    s.issueLoop k h (n + 1) = (s.issueIter k x).issueLoop k h n := by
  rw [State.issueLoop, hx]

theorem execLoopIssue_eq {e i : Nat} (h : s.frozen k = false) : execLoopIssue k e i s = .next (s.issueLoop k (16 * e + i) 8) := by
  simp [execLoopIssue, h]

end

end Sys2Proof.Machine

namespace Sys2Proof.Proofs
open Sys2Proof.Machine

/-- Settles O51: each step by what enables it; the iteration that a header issues is that header's, whichever it chooses
(`nextIssue_node`). -/
theorem schedulerSteps : Obligations.SchedulerSteps := by
  intro s k c
  refine ⟨fun i x hx hf => ?_, fun e i hon hi => ⟨execElementIssue_eq hon hi, fun f hgo hk hc => execElementIssue_credit hon hi hgo hk hc,
      fun f hgo hk hc hp => execElementIssue_parked hon hi hgo hk hc hp⟩,
    fun i p hp hr => ⟨execCreditReturn_credit hp hr, fun w => execCreditReturn_closed hp hr, execCreditReturn_other hp hr⟩,
    fun r => execGangSnapshot_top, fun id l cl cores => execAdmitWorkgroup_admits, fun t => execFaultedDrained_aborted,
    fun t => execFaultedDrained_faulted, fun e i => execLoopIssue_eq, fun e i x w hf hx hw hc hv => ?_, fun i x hx hst => ?_⟩
  · refine ⟨fun t ht => ?_, fun ht => ?_⟩
    · exact (execTokenArrival_first hx hf).trans (by rw [ht]; rfl)
    · exact (execTokenArrival_first hx hf).trans (by rw [ht]; rfl)
  · show execLoopIssue k e i s = _
    rw [execLoopIssue_eq hf, issueLoop_succ hx, issueIter_of_plain (nextIssue_node hx ▸ hw) hc hv]
  · show execTagStarve k i s = _
    simp only [execTagStarve, show (s.core k).loops[i]? = some x from hx, hst, if_true]

end Sys2Proof.Proofs
end

section
/-! The integer arithmetic as exact results modulo 2^w (spec 02 R45 to R47; 04 R114, R115), and O15, O18 and O20. -/

namespace Sys2Proof.Machine
open Sys2Proof.Claims

/-! ### Placing modulo 2^w (R45, R46) -/

/-- What is placed depends on the number modulo 2^w alone. -/
theorem placeInt_congr {t : Ty} {x y : Int} (h : x ≡ y [ZMOD 2 ^ t.width]) : placeInt t x = placeInt t y := by
  rw [placeInt, placeInt, wrap, wrap, h.eq]

theorem intVal_congr {t : Ty} {x y : Int} (h : x ≡ y [ZMOD 2 ^ t.width]) : intVal t x = intVal t y := by
  rw [intVal, intVal, placeInt_congr h]

theorem bitsVal_mod (t : Ty) (n : Nat) : bitsVal t (n % 2 ^ t.width) = bitsVal t n := by
  rw [bitsVal, bitsVal, place, place, Nat.mod_mod]

theorem bitsVal_zero (t : Ty) : bitsVal t 0 = .data 0 := by cases t <;> rfl

theorem intVal_eq_bitsVal {t : Ty} {x : Int} {n : Nat} (h : x ≡ n [ZMOD 2 ^ t.width]) : intVal t x = bitsVal t n := by
  have hn : wrap t.width n = n % 2 ^ t.width := by zify; rw [wrap_cast]
  rw [intVal_congr h, intVal, placeInt, hn, ← bitsVal, bitsVal_mod]

theorem intVal_neg_one (t : Ty) : intVal t (-1) = bitsVal t (2 ^ t.width - 1) := by
  apply intVal_eq_bitsVal
  rw [Int.modEq_iff_dvd, Nat.cast_sub (Nat.one_le_two_pow)]
  simp

theorem intVal_zero (t : Ty) : intVal t 0 = .data 0 := (intVal_eq_bitsVal (n := 0) rfl).trans (bitsVal_zero t)

/-- −MIN is MIN modulo 2^w. -/
theorem neg_min_modEq (t : Ty) : - -(2 : Int) ^ (t.width - 1) ≡ -2 ^ (t.width - 1) [ZMOD 2 ^ t.width] := by
  rw [Int.modEq_iff_dvd, ← mul_pow_sub_one t.width_pos.ne' (2 : Int)]
  exact ⟨-1, by ring⟩

/-- A payload's integer is its pattern modulo 2^w. -/
theorem readInt_modEq (t : Ty) (x : Dword) : readInt t x ≡ readBits t x [ZMOD 2 ^ t.width] := by
  unfold readInt
  split
  · exact (Int.modEq_iff_dvd.2 (two_pow_dvd_toSigned_sub t.width (readBits t x))).symm
  · rfl

theorem readInt_placeInt_modEq (t : Ty) (x : Int) : readInt t (placeInt t x) ≡ x [ZMOD 2 ^ t.width] :=
  (Int.modEq_iff_dvd.2 (Proofs.wrapAndPlace t x).1).symm

/-! ### Types of 64 bits -/

section
variable {t : Ty} (h : t.width = 64)
include h

theorem intVal_of_width64 (x : Int) : intVal t x = .data (BitVec.ofInt 64 x) := by
  have hn : ∀ n, place t n = BitVec.ofNat 64 n := fun n => BitVec.eq_of_toNat_eq <| by
    simpa [readBits, h, Nat.mod_eq_of_lt (place t n).isLt] using readBits_place t n
  rw [intVal, placeInt, hn, h]
  congr 1
  apply BitVec.eq_of_toNat_eq
  rw [BitVec.toNat_ofNat, BitVec.toNat_ofInt, Nat.mod_eq_of_lt (wrap_lt _ _), wrap]
  norm_cast

theorem ofInt_readInt (x : Dword) : BitVec.ofInt 64 (readInt t x) = x := by
  have hx := (readInt_modEq t x).eq
  rw [readBits, h, Nat.mod_eq_of_lt x.isLt] at hx
  apply BitVec.eq_of_toNat_eq
  zify
  rw [BitVec.toNat_ofInt, Int.toNat_of_nonneg (Int.emod_nonneg _ (by decide))]
  exact hx.trans (Int.emod_eq_of_lt (by positivity) (mod_cast x.isLt))

end

theorem readInt_n64 (x : Dword) : readInt .n64 x = x.toNat := congrArg Nat.cast (Nat.mod_eq_of_lt x.isLt)

theorem readInt_s64 (x : Dword) : readInt .s64 x = x.toInt := by
  rw [← toSigned_toNat (by decide) x]
  exact congrArg (toSigned 64) (Nat.mod_eq_of_lt x.isLt)

theorem ofInt_tdiv_toNat (x y : Dword) : BitVec.ofInt 64 ((x.toNat : Int).tdiv y.toNat) = x / y := by
  rw [← Int.ofNat_tdiv, BitVec.ofInt_natCast, ← BitVec.toNat_udiv, BitVec.ofNat_toNat, BitVec.setWidth_eq]

theorem ofInt_tmod_toNat (x y : Dword) : BitVec.ofInt 64 ((x.toNat : Int).tmod y.toNat) = x % y := by
  rw [← Int.ofNat_tmod, BitVec.ofInt_natCast, ← BitVec.toNat_umod, BitVec.ofNat_toNat, BitVec.setWidth_eq]

theorem ofInt_min_toInt (x y : Dword) : BitVec.ofInt 64 (min x.toInt y.toInt) = if x.slt y then x else y := by
  rcases lt_or_ge x.toInt y.toInt with h | h
  · rw [min_eq_left h.le, BitVec.ofInt_toInt, if_pos (BitVec.slt_iff_toInt_lt.2 h)]
  · rw [min_eq_right h, BitVec.ofInt_toInt, if_neg (by rw [BitVec.slt_iff_toInt_lt]; omega)]

/-! ### Quotient and remainder (R47) -/

theorem quotient_of_ne_zero {x y : Int} (h : y ≠ 0) : quotient x y = x.tdiv y := if_neg h

theorem remainder_of_ne_zero {x y : Int} (h : y ≠ 0) : remainder x y = x.tmod y := by
  rw [remainder, if_neg h, Int.tmod_def, mul_comm]

theorem abs_tmod_lt (x : Int) {y : Int} (h : y ≠ 0) : |x.tmod y| < |y| := by
  rw [Int.abs_eq_natAbs, Int.abs_eq_natAbs, Int.natAbs_tmod]
  exact_mod_cast Nat.mod_lt _ (Int.natAbs_pos.2 h)

theorem abs_tdiv_mul_le (x y : Int) : |x.tdiv y * y| ≤ |x| := by
  rw [Int.abs_eq_natAbs, Int.abs_eq_natAbs, Int.natAbs_mul, Int.natAbs_tdiv]
  exact_mod_cast Nat.div_mul_le_self _ _

/-- A truncated division's remainder has the dividend's sign, or is zero. -/
theorem tmod_mul_self_nonneg (x y : Int) : 0 ≤ x.tmod y * x := by
  rcases le_total 0 x with h | h
  · exact mul_nonneg (Int.tmod_nonneg y h) h
  · obtain ⟨z, rfl⟩ : ∃ z, x = -z := ⟨-x, (neg_neg x).symm⟩
    rw [Int.neg_tmod, neg_mul_neg]
    exact mul_nonneg (Int.tmod_nonneg y (by omega)) (by omega)

/-! ### Shifts by the width or more, rotations and counts of zero (R47) -/

theorem getLsbD_setWidth_of_lt {n i : Nat} (x : Dword) (hi : i < n) : (x.setWidth n).getLsbD i = x.getLsbD i := by
  simp [hi]

/-- A right shift by the width or more leaves copies of the sign bit alone. -/
theorem shiftArith_of_width_le {w k : Nat} (hw : 0 < w) (x : BitVec w) (hk : w ≤ k) :
    shiftArith w x.toNat k = if x.getLsbD (w - 1) then -1 else 0 := by
  have hlo := BitVec.le_two_mul_toInt (x := x)
  have hhi := BitVec.two_mul_toInt_lt (x := x)
  rw [shiftArith, toSigned_toNat hw, Nat.min_eq_right hk, ediv_of_magnitude_le (by omega) (by omega),
    ← BitVec.msb_eq_getLsbD_last, BitVec.msb_eq_toInt]
  simp only [decide_eq_true_eq]

theorem bitsVal_rotateLeft (t : Ty) (x : Dword) (k : Nat) :
    bitsVal t (rotateLeft t.width (readBits t x) k) = bitsVal t ((x.setWidth t.width).rotateLeft (k % t.width)).toNat := by
  rw [← bitsVal_mod, readBits_eq, ← BitVec.toNat_ofNat, ofNat_rotateLeft]

theorem bitsVal_rotateRight (t : Ty) (x : Dword) (k : Nat) :
    bitsVal t (rotateLeft t.width (readBits t x) (t.width - k % t.width)) =
      bitsVal t ((x.setWidth t.width).rotateRight (k % t.width)).toNat := by
  rw [bitsVal_rotateLeft, rotateLeft_sub_mod _ (Nat.mod_lt _ t.width_pos)]

/-- A rotation left by k takes bit i to bit i + k mod w. -/
theorem getLsbD_rotateLeft_add {w i : Nat} (x : BitVec w) (k : Nat) (hi : i < w) :
    (x.rotateLeft (k % w)).getLsbD ((i + k) % w) = x.getLsbD i := by
  have hk := Nat.mod_lt k (Nat.zero_lt_of_lt hi)
  rw [BitVec.getLsbD_rotateLeft, Nat.mod_mod, Nat.add_mod_eq_ite, Nat.mod_eq_of_lt hi]
  split
  · simp [show i + k % w - w < k % w by omega, show w - k % w + (i + k % w - w) = i by omega]
  · simp [show i + k % w < w by omega]

/-- A rotation right by k brings bit i + k mod w to bit i. -/
theorem getLsbD_rotateRight_mod {w i : Nat} (x : BitVec w) (k : Nat) (hi : i < w) :
    (x.rotateRight (k % w)).getLsbD i = x.getLsbD ((i + k) % w) := by
  have hk := Nat.mod_lt k (Nat.zero_lt_of_lt hi)
  rw [BitVec.getLsbD_rotateRight, Nat.mod_mod, Nat.add_mod_eq_ite, Nat.mod_eq_of_lt hi]
  split
  · simp [show ¬ i < w - k % w by omega, hi, show i - (w - k % w) = i + k % w - w by omega]
  · simp [show i < w - k % w by omega, Nat.add_comm]

theorem leadingZeros_zero (w : Nat) : leadingZeros w 0 = w := by
  obtain ⟨hle, -, hat⟩ := leadingZeros_spec (0 : BitVec w)
  exact hle.eq_of_not_lt fun h => by simpa using hat h

theorem trailingZeros_zero (w : Nat) : trailingZeros w 0 = w := by
  obtain ⟨hle, -, hat⟩ := trailingZeros_spec (0 : BitVec w)
  exact hle.eq_of_not_lt fun h => by simpa using hat h

end Sys2Proof.Machine

namespace Sys2Proof.Proofs
open Sys2Proof.Machine

/-- Settles O15: each instruction's function is the exact result; `div` and `rem` by a non-zero divisor are `tdiv` and `tmod`. -/
theorem integerArithmetic : Obligations.IntegerArithmetic := by
  intro s w a b c h
  refine ⟨gives_of_value h rfl rfl, gives_of_value h rfl rfl, gives_of_value h rfl rfl, gives_of_value h rfl rfl,
    gives_of_value h rfl rfl, fun hb => gives_of_value h rfl ?_, fun hb => gives_of_value h rfl ?_, gives_of_value h rfl rfl,
    gives_of_value h rfl ?_, gives_of_value h rfl rfl, gives_of_value h rfl rfl⟩
  · rw [quotient_of_ne_zero hb]
  · rw [remainder_of_ne_zero hb]
  · rw [Int.natCast_natAbs]

/-- Settles O18: a 64-bit type places the exact result of O15 as the word that it is modulo 2⁶⁴ (`intVal_of_width64`), and a
payload's integer is the payload there (`ofInt_readInt`). -/
theorem arithmetic64 : Obligations.Arithmetic64 := by
  intro s w a b c h ht
  have h64 : w.ty.width = 64 := by obtain ht | ht := ht <;> rw [ht] <;> rfl
  obtain ⟨hadd, hsub, hmul, hmulh, hmad, hdiv, hrem, hneg, -, hmin, -⟩ := integerArithmetic s w a b c h
  simp only [intVal_of_width64 h64, sub_eq_add_neg, BitVec.ofInt_add, BitVec.ofInt_mul, BitVec.ofInt_neg, ofInt_readInt h64] at *
  refine ⟨hadd, hsub, hmul, hmad, hneg, fun hn hb => ?_, fun hn => ?_, fun hs => ?_⟩
  · have hb' : readInt w.ty b ≠ 0 := by simpa [hn, readInt_n64, BitVec.toNat_eq] using hb
    have hdiv := hdiv hb'
    have hrem := hrem hb'
    rw [hn, readInt_n64, readInt_n64] at hdiv hrem
    exact ⟨ofInt_tdiv_toNat a b ▸ hdiv, ofInt_tmod_toNat a b ▸ hrem⟩
  · rw [hn, readInt_n64, readInt_n64] at hmulh
    exact_mod_cast hmulh
  · rw [hs, readInt_s64, readInt_s64, ofInt_min_toInt] at hmin
    exact hmin

end Sys2Proof.Proofs

namespace Sys2Proof.Machine
open Sys2Proof.Claims

/-! ### The rows of R47 -/

section
variable {s : State} {w : SlotWord} {a b c : Dword} (h : acts s w a b c)
include h

theorem divRem_by_zero (hb : readInt w.ty b = 0) :
    gives (.div w) s w (if w.ty.signed then intVal w.ty (-1) else bitsVal w.ty (2 ^ w.ty.width - 1)) ∧
      gives (.rem w) s w (intVal w.ty (readInt w.ty a)) := by
  refine ⟨gives_of_value h rfl ?_, gives_of_value h rfl ?_⟩
  · rw [hb, quotient, if_pos rfl, intVal_neg_one, ite_self]
  · rw [hb, remainder, if_pos rfl]

theorem divRem_min_by_neg_one (ha : readInt w.ty a = -2 ^ (w.ty.width - 1)) (hb : readInt w.ty b = -1) :
    gives (.div w) s w (intVal w.ty (readInt w.ty a)) ∧ gives (.rem w) s w (.data 0) := by
  obtain ⟨-, -, -, -, -, hdiv, hrem, -⟩ := Proofs.integerArithmetic s w a b c h
  have hne : readInt w.ty b ≠ 0 := by omega
  have hquot : intVal w.ty ((readInt w.ty a).tdiv (readInt w.ty b)) = intVal w.ty (readInt w.ty a) := by
    rw [hb, Int.tdiv_neg, Int.tdiv_one, ha, intVal_congr (neg_min_modEq w.ty)]
  have hrest : intVal w.ty ((readInt w.ty a).tmod (readInt w.ty b)) = .data 0 := by
    rw [hb, Int.tmod_neg, Int.tmod_one, intVal_zero]
  exact ⟨hquot ▸ hdiv hne, hrest ▸ hrem hne⟩

theorem divRem_truncates (hb : readInt w.ty b ≠ 0) : ∃ q r : Int, gives (.div w) s w (intVal w.ty q) ∧
    gives (.rem w) s w (intVal w.ty r) ∧ r = readInt w.ty a - q * readInt w.ty b ∧ |r| < |readInt w.ty b| ∧
    |q * readInt w.ty b| ≤ |readInt w.ty a| ∧ 0 ≤ r * readInt w.ty a := by
  obtain ⟨-, -, -, -, -, hdiv, hrem, -⟩ := Proofs.integerArithmetic s w a b c h
  exact ⟨_, _, hdiv hb, hrem hb, by rw [Int.tmod_def, mul_comm], abs_tmod_lt _ hb, abs_tdiv_mul_le _ _,
    tmod_mul_self_nonneg _ _⟩

theorem negAbs_min (ha : readInt w.ty a = -2 ^ (w.ty.width - 1)) :
    gives (.neg w) s w (intVal w.ty (readInt w.ty a)) ∧ gives (.abs w) s w (intVal w.ty (readInt w.ty a)) := by
  obtain ⟨-, -, -, -, -, -, -, hneg, habs, -⟩ := Proofs.integerArithmetic s w a b c h
  have hwrap : intVal w.ty (-readInt w.ty a) = intVal w.ty (readInt w.ty a) := by
    rw [ha, intVal_congr (neg_min_modEq w.ty)]
  have hle : readInt w.ty a ≤ 0 := ha ▸ neg_nonpos.2 (by positivity)
  rw [abs_of_nonpos hle, hwrap] at habs
  exact ⟨hwrap ▸ hneg, habs⟩

theorem shifts_of_width_le (hk : w.ty.width ≤ b.toNat) : gives (.shl w) s w (.data 0) ∧ gives (.shr w) s w (.data 0) ∧
    gives (.sar w) s w (bitsVal w.ty (if a.getLsbD (w.ty.width - 1) then 2 ^ w.ty.width - 1 else 0)) := by
  refine ⟨gives_of_value h rfl ?_, gives_of_value h rfl ?_, gives_of_value h rfl ?_⟩
  · rw [if_pos hk, bitsVal_zero]
  · rw [if_pos hk, bitsVal_zero]
  · rw [readBits_eq, shiftArith_of_width_le w.ty.width_pos _ hk, apply_ite (intVal w.ty), intVal_neg_one, intVal_zero,
      apply_ite (bitsVal w.ty), bitsVal_zero, getLsbD_setWidth_of_lt _ (Nat.sub_lt w.ty.width_pos one_pos)]

theorem rotates_by_mod : ∃ l r : Nat, gives (.rol w) s w (bitsVal w.ty l) ∧ gives (.ror w) s w (bitsVal w.ty r) ∧
    ∀ i, i < w.ty.width → l.testBit ((i + b.toNat) % w.ty.width) = a.getLsbD i ∧
      r.testBit i = a.getLsbD ((i + b.toNat) % w.ty.width) := by
  refine ⟨_, _, gives_of_value h rfl (bitsVal_rotateLeft ..), gives_of_value h rfl (bitsVal_rotateRight ..),
    fun i hi => ⟨?_, ?_⟩⟩
  · exact (getLsbD_rotateLeft_add _ _ hi).trans (getLsbD_setWidth_of_lt a hi)
  · exact (getLsbD_rotateRight_mod _ _ hi).trans (getLsbD_setWidth_of_lt a (Nat.mod_lt _ w.ty.width_pos))

theorem counts_of_zero (ha : readBits w.ty a = 0) :
    gives (.clz w) s w (bitsVal w.ty w.ty.width) ∧ gives (.ctz w) s w (bitsVal w.ty w.ty.width) := by
  refine ⟨gives_of_value h rfl ?_, gives_of_value h rfl ?_⟩
  · rw [ha, leadingZeros_zero]
  · rw [ha, trailingZeros_zero]

end

end Sys2Proof.Machine

namespace Sys2Proof.Proofs
open Sys2Proof.Machine

/-- Settles O20, row by row of R47. -/
theorem integerCorners : Obligations.IntegerCorners := by
  intro s w a b c h
  obtain ⟨-, -, -, hmulh, -⟩ := integerArithmetic s w a b c h
  exact ⟨divRem_by_zero h, fun _ => divRem_min_by_neg_one h, fun hb _ => divRem_truncates h hb, fun _ => negAbs_min h, hmulh,
    shifts_of_width_le h, rotates_by_mod h, counts_of_zero h⟩

end Sys2Proof.Proofs
end

section
/-! The arithmetic float instructions, and the round trip of finite patterns (spec 02 R48 to R55; 05 R150, R151, R158, R159),
and O22 and O25. -/

namespace Sys2Proof.Machine

/-! ### Formats and the fields of a pattern (R48, R49) -/

/-- The fields of a type's format fill its width. -/
theorem fmtOf_fields : ∀ t ∈ [Ty.f16, Ty.bf16, Ty.f32, Ty.f64],
    0 < (fmtOf t).ebits ∧ (fmtOf t).ebits + (fmtOf t).mbits + 1 = t.width := by decide

/-- Exponent field of a pattern. -/
def Fmt.expField (f : Fmt) (n : Nat) : Nat := n / 2 ^ f.mbits % 2 ^ f.ebits

/-- Mantissa field of a pattern. -/
def Fmt.fracField (f : Fmt) (n : Nat) : Nat := n % 2 ^ f.mbits

theorem Fmt.fracField_lt (f : Fmt) (n : Nat) : f.fracField n < 2 ^ f.mbits := Nat.mod_lt _ (Nat.two_pow_pos _)

/-- A pattern is its sign, its exponent field and its mantissa field. -/
theorem withSign_fields {f : Fmt} {n : Nat} (hn : n < 2 ^ (f.ebits + f.mbits + 1)) :
    f.withSign (n.testBit (f.ebits + f.mbits)) (f.expField n * 2 ^ f.mbits + f.fracField n) = n := by
  have hlow : f.expField n * 2 ^ f.mbits + f.fracField n = n % 2 ^ (f.ebits + f.mbits) := by
    rw [Nat.add_comm f.ebits, pow_add, Nat.mod_mul, Fmt.expField, Fmt.fracField]
    ring
  have hsum := Nat.div_add_mod n (2 ^ (f.ebits + f.mbits))
  have htop : n / 2 ^ (f.ebits + f.mbits) < 2 := Nat.div_lt_of_lt_mul (by rwa [← pow_succ])
  rw [hlow, Fmt.withSign, Fmt.signBit, Nat.testBit_eq_decide_div_mod_eq, Nat.mod_eq_of_lt htop]
  obtain h0 | h1 := Nat.le_one_iff_eq_zero_or_eq_one.1 (Nat.lt_succ_iff.1 htop)
  · simpa [h0] using hsum
  · simpa [h1] using hsum

theorem decode_eq_of_fields (f : Fmt) (n : Nat) : f.decode n =
    if f.expField n = 2 ^ f.ebits - 1 then
      (if f.fracField n = 0 then .inf (n.testBit (f.ebits + f.mbits))
       else .nan (n.testBit (f.ebits + f.mbits)) (f.fracField n % 2 ^ (f.mbits - 1)) (f.mbits - 1))
    else if f.expField n = 0 then .fin (n.testBit (f.ebits + f.mbits)) (f.fracField n) f.tiny
    else .fin (n.testBit (f.ebits + f.mbits)) (2 ^ f.mbits + f.fracField n) (f.tiny + f.expField n - 1) := rfl

/-- A pattern that decodes to a finite value is subnormal or zero, or normal. -/
theorem decode_fin_cases {f : Fmt} {n m : Nat} {neg : Bool} {e : Int} (h : f.decode n = .fin neg m e) :
    neg = n.testBit (f.ebits + f.mbits) ∧ ((f.expField n = 0 ∧ m = f.fracField n ∧ e = f.tiny) ∨
      (0 < f.expField n ∧ f.expField n < 2 ^ f.ebits - 1 ∧ m = 2 ^ f.mbits + f.fracField n ∧
        e = f.tiny + f.expField n - 1)) := by
  have hexp : f.expField n < 2 ^ f.ebits := Nat.mod_lt _ (Nat.two_pow_pos _)
  rw [decode_eq_of_fields] at h
  split at h
  · split at h <;> exact nomatch h
  · split at h
    · cases h
      exact ⟨rfl, .inl ⟨‹_›, rfl, rfl⟩⟩
    · cases h
      exact ⟨rfl, .inr ⟨by omega, by omega, rfl, rfl⟩⟩

/-! ### Delivery of what a format holds (R55) -/

/-- A number of n bits or fewer lies below 2^n. -/
theorem bitLength_le {m n : Nat} (h : m < 2 ^ n) : bitLength m ≤ n := by
  unfold bitLength
  split
  · exact Nat.zero_le n
  · exact (Nat.log2_lt ‹_›).2 h

theorem bitLength_of_leading {n t : Nat} (h : t < 2 ^ n) : bitLength (2 ^ n + t) = n + 1 := by
  have hne : 2 ^ n + t ≠ 0 := by have := Nat.two_pow_pos n; omega
  have hlog : (2 ^ n + t).log2 = n := (Nat.log2_eq_iff hne).2 ⟨by omega, by rw [pow_succ]; omega⟩
  rw [bitLength, if_neg hne, hlog]

section
variable {f : Fmt} (rm : Rm) (neg : Bool)

/-- A non-zero magnitude whose last place in the format is its own exponent is delivered as it is. -/
theorem round_exact {m : Nat} {e : Int} (hm : m ≠ 0) (he : max (e + bitLength m - 1 - f.mbits) f.tiny = e)
    (hlt : (e - f.tiny).toNat * 2 ^ f.mbits + m < f.inf) :
    f.round ⟨rm, false, false⟩ neg m e false = f.withSign neg ((e - f.tiny).toNat * 2 ^ f.mbits + m) := by
  have hmant : m * 2 ^ (e - e).toNat = m := by simp
  simp only [Fmt.round, hm, false_and, if_false, he, le_refl, if_true, hmant, if_neg hlt.not_ge, Bool.false_eq_true]

theorem round_subnormal (hf : 0 < f.ebits) {t : Nat} (ht : t < 2 ^ f.mbits) :
    f.round ⟨rm, false, false⟩ neg t f.tiny false = f.withSign neg t := by
  by_cases h0 : t = 0
  · simp [Fmt.round, h0]
  · have hlen := bitLength_le ht
    have hinf : 2 ^ f.mbits ≤ f.inf := Nat.le_mul_of_pos_left _ (Nat.sub_pos_of_lt (Nat.one_lt_two_pow hf.ne'))
    rw [round_exact rm neg h0 (by omega) (by simpa using ht.trans_le hinf)]
    simp

theorem round_normal {E t : Nat} (hE : 0 < E) (hmax : E < 2 ^ f.ebits - 1) (ht : t < 2 ^ f.mbits) :
    f.round ⟨rm, false, false⟩ neg (2 ^ f.mbits + t) (f.tiny + E - 1) false = f.withSign neg (E * 2 ^ f.mbits + t) := by
  have hmag : (f.tiny + E - 1 - f.tiny).toNat * 2 ^ f.mbits + (2 ^ f.mbits + t) = E * 2 ^ f.mbits + t := by
    obtain ⟨k, rfl⟩ : ∃ k, E = k + 1 := ⟨E - 1, by omega⟩
    rw [show (f.tiny + (k + 1 : Nat) - 1 - f.tiny).toNat = k by omega]
    ring
  have hinf : E * 2 ^ f.mbits + t < f.inf := calc
    E * 2 ^ f.mbits + t < (E + 1) * 2 ^ f.mbits := by rw [add_one_mul]; omega
    _ ≤ f.inf := Nat.mul_le_mul_right _ hmax
  rw [round_exact rm neg (by have := Nat.two_pow_pos f.mbits; omega) (by rw [bitLength_of_leading ht]; omega) (by rwa [hmag]), hmag]

end

/-- The value of a finite pattern is delivered as that pattern, under every rounding. -/
theorem deliver_decode_fin {f : Fmt} {n m : Nat} {neg : Bool} {e : Int} (rm : Rm) (hf : 0 < f.ebits)
    (hn : n < 2 ^ (f.ebits + f.mbits + 1)) (h : f.decode n = .fin neg m e) :
    f.deliver ⟨rm, false, false⟩ (f.decode n).res = n := by
  rw [h]
  show f.round ⟨rm, false, false⟩ neg m e false = n
  obtain ⟨rfl, ⟨hzero, rfl, rfl⟩ | ⟨hpos, hmax, rfl, rfl⟩⟩ := decode_fin_cases h
  · have := withSign_fields hn
    rwa [hzero, Nat.zero_mul, Nat.zero_add, ← round_subnormal rm _ hf (f.fracField_lt n)] at this
  · rw [round_normal rm _ hpos hmax (f.fracField_lt n), withSign_fields hn]

end Sys2Proof.Machine

namespace Sys2Proof.Proofs
open Sys2Proof.Machine

/-- Settles O25: a finite pattern's value has its last place in the format (`deliver_decode_fin`), in each format of R48. -/
theorem exactValuesRoundTrip : Obligations.ExactValuesRoundTrip := by
  intro t rm n ht hn ⟨neg, m, e, h⟩
  obtain ⟨hpos, hwidth⟩ := fmtOf_fields t ht
  exact deliver_decode_fin rm hpos (hwidth ▸ hn) h

/-- Settles O22: each instruction is a value instruction whose function is the one exact operation, delivered once. -/
theorem floatArithmetic : Obligations.FloatArithmetic := by
  refine ⟨fun s w a b c h => ?_, fun s w a b c h => ?_⟩
  · and_intros
    all_goals exact gives_of_value h rfl rfl
  · exact ⟨gives_of_value h rfl rfl, gives_of_value h rfl rfl, gives_of_value h rfl rfl, gives_of_value h rfl rfl⟩

end Sys2Proof.Proofs
end

section
/-! Reductions, scans and exchanges over lanes (spec 02 R71, R72; 07 R209 to R215), and O43. -/

namespace Sys2Proof.Machine

/-! ### Sums in trees and scans (R71, R72) -/

/-- An entry of a reduction holds data that denotes a number modulo 2^w. -/
def carries (t : Ty) (v : Option Val) (n : Int) : Prop := ∃ y, v = some (.data y) ∧ readInt t y ≡ n [ZMOD 2 ^ t.width]

theorem carries_readInt (t : Ty) (x : Dword) : carries t (some (.data x)) (readInt t x) := ⟨x, rfl, rfl⟩

/-- The sum of two entries carries the sum of what they carry. -/
theorem comb_add_carries {t : Ty} (ht : t.isFloat = false) (c : FCtx) {x y : Option Val} {m n : Int} (hx : carries t x m)
    (hy : carries t y n) : carries t (comb 0 t c x y) (m + n) := by
  obtain ⟨a, rfl, ha⟩ := hx
  obtain ⟨b, rfl, hb⟩ := hy
  refine ⟨placeInt t (readInt t a + readInt t b), ?_, (readInt_placeInt_modEq t _).trans (ha.add hb)⟩
  simp [comb, joinKinds, ht, reduceInt, intVal, Val.bits]

section
variable {t : Ty} {f : Option Val → Option Val → Option Val}
  (hf : ∀ {x y : Option Val} {m n : Int}, carries t x m → carries t y n → carries t (f x y) (m + n))

theorem pairUp_of_short {l : List (Option Val)} (h : ∀ x y l', l = x :: y :: l' → False) : pairUp f l = l := pairUp.eq_2 f l h

theorem treeOf_of_two_or_more (fuel : Nat) (x y : Option Val) (l : List (Option Val)) :
    treeOf f (fuel + 1) (x :: y :: l) = treeOf f fuel (pairUp f (x :: y :: l)) := by
  rw [treeOf] <;> simp

/-- A level of the scan keeps the number of lanes. -/
theorem scanLevel_length {d : Nat} {v : List (Option Val)} (h : d ≤ v.length) :
    (v.take d ++ List.zipWith f v (v.drop d)).length = v.length := by
  simp
  omega

theorem scanOf_length (fuel d : Nat) (v : List (Option Val)) : (scanOf f fuel d v).length = v.length := by
  induction fuel generalizing d v with
  | zero => rfl
  | succ fuel ih =>
    rw [scanOf]
    split
    · rfl
    · rw [ih, scanLevel_length (by omega)]

theorem pairUp_length (l : List (Option Val)) : (pairUp f l).length = (l.length + 1) / 2 := by
  induction l using pairUp.induct with
  | case1 x y l ih => simp only [pairUp, List.length_cons, ih]; omega
  | case2 l hshort =>
    rw [pairUp_of_short hshort]
    match l with
    | [] => rfl
    | [x] => simp
    | x :: y :: l => exact absurd rfl (hshort x y l)

include hf

/-- A level of the tree keeps the sum. -/
theorem pairUp_carries {v : List (Option Val)} {ns : List Int} (h : List.Forall₂ (carries t) v ns) :
    ∃ ms : List Int, List.Forall₂ (carries t) (pairUp f v) ms ∧ ms.sum = ns.sum := by
  induction v using pairUp.induct generalizing ns with
  | case1 x y l ih =>
    obtain _ | ⟨hx, hrest⟩ := h
    obtain _ | ⟨hy, hl⟩ := hrest
    obtain ⟨ms, hms, hsum⟩ := ih hl
    exact ⟨_ :: ms, .cons (hf hx hy) hms, by simp [hsum, add_assoc]⟩
  | case2 l hshort =>
    refine ⟨ns, ?_, rfl⟩
    rwa [pairUp_of_short hshort]

/-- The tree over no more lanes than its levels hold carries their sum. -/
theorem treeOf_carries (fuel : Nat) {v : List (Option Val)} {ns : List Int} (h : List.Forall₂ (carries t) v ns)
    (hpos : 0 < v.length) (hlen : v.length ≤ 2 ^ fuel) : carries t (treeOf f fuel v) ns.sum := by
  induction fuel generalizing v ns with
  | zero =>
    obtain _ | ⟨hx, hrest⟩ := h
    · exact absurd hpos (lt_irrefl _)
    obtain _ | ⟨hy, hl⟩ := hrest
    · simpa [treeOf] using hx
    · simp at hlen
  | succ fuel ih =>
    obtain ⟨ms, hms, hsum⟩ := pairUp_carries hf h
    match v, h with
    | [], _ => exact absurd hpos (lt_irrefl _)
    | [x], .cons hx .nil => simpa [treeOf] using hx
    | x :: y :: l, _ =>
      rw [pow_succ] at hlen
      rw [treeOf_of_two_or_more, ← hsum]
      exact ih hms (by rw [pairUp_length]; simp) (by rw [pairUp_length]; omega)

/-- Each entry carries the sum of the d lanes up to its own; S i is the sum of the lanes before lane i. -/
def carriesWindows (t : Ty) (S : Nat → Int) (d : Nat) (v : List (Option Val)) : Prop :=
  ∀ i x, v[i]? = some x → carries t x (S (i + 1) - S (i + 1 - d))

omit hf in
theorem carriesWindows_whole {S : Nat → Int} {d e : Nat} {v : List (Option Val)} (h : carriesWindows t S d v)
    (hd : v.length ≤ d) (he : v.length ≤ e) : carriesWindows t S e v := by
  intro i x hx
  have hi := (List.getElem?_eq_some_iff.1 hx).1
  have := h i x hx
  rwa [show i + 1 - d = 0 by omega, ← show i + 1 - e = 0 by omega] at this

/-- A level of the scan doubles the windows. -/
theorem scanLevel_carriesWindows {S : Nat → Int} {d : Nat} {v : List (Option Val)} (h : carriesWindows t S d v)
    (hd : d < v.length) : carriesWindows t S (2 * d) (v.take d ++ List.zipWith f v (v.drop d)) := by
  intro i x hx
  have htake : (v.take d).length = d := by simp [hd.le]
  rcases lt_or_ge i d with hi | hi
  · rw [List.getElem?_append_left (by omega), List.getElem?_take_of_lt hi] at hx
    have := h i x hx
    rwa [show i + 1 - d = 0 by omega, ← show i + 1 - 2 * d = 0 by omega] at this
  · obtain ⟨k, rfl⟩ := Nat.exists_eq_add_of_le hi
    rw [List.getElem?_append_right (by omega), htake, Nat.add_sub_cancel_left, List.getElem?_zipWith_eq_some] at hx
    obtain ⟨a, b, ha, hb, rfl⟩ := hx
    rw [List.getElem?_drop] at hb
    have := hf (h k a ha) (h (d + k) b hb)
    rwa [show d + k + 1 - d = k + 1 by omega, sub_add_sub_cancel', show k + 1 - d = d + k + 1 - 2 * d by omega] at this

/-- The scan over no more lanes than its levels hold gives each lane the sum of all lanes up to it. -/
theorem scanOf_carriesWindows (S : Nat → Int) (fuel : Nat) {d : Nat} {v : List (Option Val)} (h : carriesWindows t S d v)
    (hlen : v.length ≤ d * 2 ^ fuel) : carriesWindows t S v.length (scanOf f fuel d v) := by
  induction fuel generalizing d v with
  | zero => exact carriesWindows_whole (v := v) h (by simpa using hlen) le_rfl
  | succ fuel ih =>
    rw [scanOf]
    split
    · exact carriesWindows_whole h ‹_› le_rfl
    · have hv : (v.take d ++ List.zipWith f v (v.drop d)).length = v.length := scanLevel_length (by omega)
      have hroom : v.length ≤ 2 * d * 2 ^ fuel := by rwa [mul_comm 2 d, mul_assoc, ← pow_succ']
      exact hv ▸ ih (scanLevel_carriesWindows hf h (by omega)) (hv.trans_le hroom)

end

/-! ### Integer sums -/

/-- The sum of the integers that lanes hold. -/
def laneSum (t : Ty) (xs : List Dword) : Int := (xs.map (readInt t)).sum

theorem foldl_add_readInt (t : Ty) (xs : List Dword) : xs.foldl (fun (n : Int) x => n + readInt t x) 0 = laneSum t xs := by
  rw [laneSum, List.sum_eq_foldl, List.foldl_map]

theorem laneSum_take_succ {t : Ty} {xs : List Dword} {i : Nat} {x : Dword} (h : xs[i]? = some x) :
    laneSum t (xs.take (i + 1)) - laneSum t (xs.take i) = readInt t x := by
  simp [laneSum, List.take_add_one, h]

/-- Data entries of lanes. -/
def laneData (xs : List Dword) : List (Option Val) := xs.map (fun x => some (.data x))

section
variable {t : Ty} (ht : t.isFloat = false) (c : FCtx) {xs : List Dword} (hlen : xs.length ≤ 512)
include ht hlen

theorem treeOf_laneData (hpos : 0 < xs.length) : carries t (treeOf (comb 0 t c) 9 (laneData xs)) (laneSum t xs) := by
  refine treeOf_carries (comb_add_carries ht c) 9 ?_ (by simpa [laneData] using hpos) (by simpa [laneData] using hlen)
  rw [laneData, List.forall₂_map_left_iff, List.forall₂_map_right_iff, List.forall₂_same]
  exact fun x _ => carries_readInt t x

theorem scanOf_laneData {i : Nat} (hi : i < xs.length) :
    ∃ x, (scanOf (comb 0 t c) 9 1 (laneData xs))[i]? = some x ∧ carries t x (laneSum t (xs.take (i + 1))) := by
  have hwin : carriesWindows t (fun j => laneSum t (xs.take j)) 1 (laneData xs) := by
    intro j x hx
    obtain ⟨y, hy, rfl⟩ := Option.map_eq_some_iff.1 (List.getElem?_map ▸ hx)
    rw [Nat.add_sub_cancel, laneSum_take_succ hy]
    exact carries_readInt t y
  have hscan := scanOf_carriesWindows (comb_add_carries ht c) _ 9 hwin (by simpa [laneData] using hlen)
  have hget : i < (scanOf (comb 0 t c) 9 1 (laneData xs)).length := by simpa [scanOf_length, laneData] using hi
  refine ⟨_, List.getElem?_eq_getElem hget, ?_⟩
  have hfull : i + 1 - (laneData xs).length = 0 := by simp [laneData]; omega
  simpa [hfull, laneSum] using hscan i _ (List.getElem?_eq_getElem hget)

end

/-! ### Lookups and last members -/

/-- Faults kept by lane hold none of a lane that gives none. -/
theorem lookup_filterMap_eq_none {n j : Nat} {fault : Nat → Option (Nat × Nat)} (hlane : ∀ i b, fault i = some b → b.1 = i)
    (hj : fault j = none) : ((List.range n).filterMap fault).lookup j = none := by
  rw [List.lookup_eq_none_iff]
  intro b hb
  obtain ⟨i, -, hi⟩ := List.mem_filterMap.1 hb
  rw [bne_iff_ne]
  rintro rfl
  rw [hlane i b hi, hi] at hj
  exact nomatch hj

theorem getLast?_filter_range {n j : Nat} {p : Nat → Bool} (hj : j < n) (hp : p j = true)
    (hlast : ∀ i, j < i → i < n → p i = false) : ((List.range n).filter p).getLast? = some j := by
  obtain ⟨k, rfl⟩ := Nat.exists_eq_add_of_lt hj
  have hrest : ((List.range k).map (fun i => j + 1 + i)).filter p = [] := by
    rw [List.filter_eq_nil_iff]
    intro i hi
    obtain ⟨l, hl, rfl⟩ := List.mem_map.1 hi
    rw [List.mem_range] at hl
    simp [hlast (j + 1 + l) (by omega) (by omega)]
  rw [show j + k + 1 = j + 1 + k by omega, List.range_add, List.filter_append, hrest, List.range_succ, List.filter_append]
  simp [hp]

section
variable {g : Group} {w : SlotWord} {p : Span} {i : Nat} {a b : Val}

/-- One token on both destinations. -/
def bothTokens (v : Val) : Val × Val := (v, v)

/-! ### `shfl` and `lpush` (R209, R210) -/

/-- What is wrong with a lane's B token (R209, R210), where the lanes that `c` names may not be named. -/
def Group.laneFault (g : Group) (c : Nat → Prop) [DecidablePred c] (i : Nat) : Option (Nat × Nat) :=
  match g.act i with
  | none => none
  | some (_, b) => match laneOperand b with
    | .error e => some (i, e)
    | .ok j => if c j then some (i, 0x61) else none

theorem shfl_bad (g : Group) (w : SlotWord) (p : Span) : (g.shfl w p).bad =
    (List.range (p.g * p.s)).filterMap (g.laneFault (fun j => (w.mod == 0) = true ∧ laneWidth w p ≤ j)) := rfl

theorem lpush_bad (g : Group) (w : SlotWord) (p : Span) : (g.lpush w p).bad =
    (List.range (p.g * p.s)).filterMap (g.laneFault (fun j => laneWidth w p ≤ j)) := rfl

section
variable {c : Nat → Prop} [DecidablePred c]

theorem laneFault_lane {e : Nat × Nat} (h : g.laneFault c i = some e) : e.1 = i := by
  unfold Group.laneFault at h
  split at h
  · exact nomatch h
  · split at h
    · cases h; rfl
    · split at h
      · cases h; rfl
      · exact nomatch h

/-- A lane whose B token names a lane that it may name has no fault. -/
theorem lookup_laneFault {n : Nat} {y : Dword} (hi : g.act i = some (a, .data y)) (hc : ¬ c y.toNat) :
    ((List.range n).filterMap (g.laneFault c)).lookup i = none :=
  lookup_filterMap_eq_none (fun _ _ => laneFault_lane) (by simp [Group.laneFault, hi, laneOperand, Val.bits, hc])

end

/-- The lane whose A token a lane receives that names position j of its width (R209): its own where j is no lane or takes no
part. -/
def Group.shflSource (g : Group) (w : SlotWord) (p : Span) (i : Nat) (j : Int) : Nat :=
  let named := i - i % laneWidth w p + j.toNat
  if 0 ≤ j ∧ j < laneWidth w p ∧ ((g.act named).isSome && ((g.shfl w p).bad.lookup named).isNone) then named else i

theorem shflSource_of_good {j : Nat} (hj : j < laneWidth w p) (hact : (g.act (i - i % laneWidth w p + j)).isSome)
    (hbad : (g.shfl w p).bad.lookup (i - i % laneWidth w p + j) = none) :
    g.shflSource w p i j = i - i % laneWidth w p + j := by
  simp [Group.shflSource, hj, hact, hbad]

theorem shflSource_of_inactive {j : Nat} (hact : g.act (i - i % laneWidth w p + j) = none) : g.shflSource w p i j = i := by
  simp [Group.shflSource, hact]

theorem shfl_idx_res {j : Dword} (hi : g.act i = some (a, .data j)) (hm : w.mod = 0) {x y : Val}
    (hsrc : g.act (g.shflSource w p i j.toNat) = some (x, y)) : (g.shfl w p).res i = bothTokens x := by
  have hmod : w.mod.toNat = 0 := by rw [hm]; rfl
  have hres : (g.shfl w p).res i = bothTokens (((g.act (g.shflSource w p i j.toNat)).map (fun v => v.1)).getD .pass) := by
    rw [Group.shfl]
    dsimp only
    rw [hi, hmod]
    rfl
  rw [hres, hsrc]
  rfl

theorem shfl_idx_of_active {j y : Dword} {x : Val} (hi : g.act i = some (a, .data j)) (hm : w.mod = 0)
    (hj : j.toNat < laneWidth w p) (hact : g.act (i - i % laneWidth w p + j.toNat) = some (x, .data y))
    (hy : y.toNat < laneWidth w p) : (g.shfl w p).res i = bothTokens x := by
  have hgood : (g.shfl w p).bad.lookup (i - i % laneWidth w p + j.toNat) = none := by
    rw [shfl_bad, lookup_laneFault hact (by omega)]
  exact shfl_idx_res hi hm (by rwa [shflSource_of_good hj (by rw [hact]; rfl) hgood])

theorem shfl_idx_of_inactive {j : Dword} (hi : g.act i = some (a, .data j)) (hm : w.mod = 0)
    (hact : g.act (i - i % laneWidth w p + j.toNat) = none) : (g.shfl w p).res i = bothTokens a :=
  shfl_idx_res hi hm <| by rwa [shflSource_of_inactive hact]

/-- The lanes that push to a lane. -/
def Group.sendsToLane (g : Group) (w : SlotWord) (p : Span) (i j : Nat) : Bool :=
  j - j % laneWidth w p == i - i % laneWidth w p && ((g.lpush w p).bad.lookup j).isNone &&
    ((g.act j).map (fun v => v.2.bits.toNat)) == some (i % laneWidth w p)

theorem lpush_res_of_last {j : Nat} (h : ((List.range (p.g * p.s)).filter (g.sendsToLane w p i)).getLast? = some j) :
    ((g.lpush w p).res i).1 = ((g.act j).map (fun v => v.1)).getD .pass := by
  show (match ((List.range (p.g * p.s)).filter (g.sendsToLane w p i)).getLast? with
    | some j => ((g.act j).map (fun v : Val × Val => v.1)).getD Val.pass
    | none => Val.pass) = _
  rw [h]

/-- Of the lanes of its width that name a lane, the highest one's A token is pushed to it. -/
theorem lpush_of_last {j : Nat} {x : Val} {y : Dword} (hpos : 0 < laneWidth w p) (hj : j < p.g * p.s)
    (hbase : j - j % laneWidth w p = i - i % laneWidth w p) (hact : g.act j = some (x, .data y))
    (hy : y.toNat = i % laneWidth w p)
    (hlast : ∀ j' x' y', j < j' → j' < p.g * p.s → j' - j' % laneWidth w p = i - i % laneWidth w p →
      g.act j' = some (x', y') → y'.bits.toNat ≠ i % laneWidth w p) : ((g.lpush w p).res i).1 = x := by
  have hlt := Nat.mod_lt i hpos
  have hgood : (g.lpush w p).bad.lookup j = none := by rw [lpush_bad, lookup_laneFault hact (by omega)]
  rw [lpush_res_of_last (getLast?_filter_range hj ?_ ?_), hact]
  · rfl
  · simp [Group.sendsToLane, hgood, hbase, hact, hy, Val.bits]
  · intro k hk hkn
    rw [Bool.eq_false_iff]
    intro h
    simp only [Group.sendsToLane, Bool.and_eq_true, beq_iff_eq, Option.map_eq_some_iff] at h
    obtain ⟨⟨hbase', -⟩, ⟨x', y'⟩, hact', hy'⟩ := h
    exact hlast k x' y' hk hkn hbase' hact' hy'

/-! ### Masks, votes and matches (R211, R212) -/

theorem zipIdx_laneSegment (wd i : Nat) :
    (laneSegment wd i).zipIdx = (List.range wd).map (fun l => (i - i % wd + l, l)) := by
  apply List.ext_getElem
  · simp [laneSegment]
  · simp [laneSegment]

/-- The mask of the positions of a width that a test picks. -/
def laneMask (wd : Nat) (test : Nat → Bool) : Dword :=
  BitVec.ofNat 64 ((List.range wd).foldl (fun m l => m + if test l then 2 ^ l else 0) 0)

theorem getLsbD_laneMask {wd l : Nat} {test : Nat → Bool} (hl : l < 64) :
    (laneMask wd test).getLsbD l = (decide (l < wd) && test l) := by
  rw [laneMask, BitVec.getLsbD_ofNat, (bitSum_spec test wd).2]
  simp [hl]

/-- A lane's A token is data. -/
def Group.holdsData (g : Group) (j : Nat) : Bool := match g.act j with | some (.data _, _) => true | _ => false

/-- A lane's A token is a true condition. -/
def Group.holdsTrue (g : Group) (j : Nat) : Bool := match g.act j with | some (.data x, _) => x != 0 | _ => false

/-- The data conditions of a lane's width, each with its position. -/
def Group.conditions (g : Group) (wd i : Nat) : List (Nat × Bool) :=
  (laneSegment wd i).zipIdx.filterMap (fun jl =>
    match g.act jl.1 with
    | some (.data x, _) => some (jl.2, x != 0)
    | _ => none)

theorem holdsTrue_of_no_data {j : Nat} (h : g.holdsData j = false) : g.holdsTrue j = false := by
  rcases hact : g.act j with _ | ⟨v, y⟩
  · simp [Group.holdsTrue, hact]
  · cases v <;> simp_all [Group.holdsTrue, Group.holdsData]

theorem conditions_eq (g : Group) (wd i : Nat) : g.conditions wd i =
    (List.range wd).filterMap (fun l =>
      if g.holdsData (i - i % wd + l) then some (l, g.holdsTrue (i - i % wd + l)) else none) := by
  rw [Group.conditions, zipIdx_laneSegment, List.filterMap_map]
  congr 1
  funext l
  rcases hact : g.act (i - i % wd + l) with _ | ⟨v, y⟩
  · simp [Group.holdsData, hact]
  · cases v <;> simp [Group.holdsData, Group.holdsTrue, hact]

theorem conditions_any (g : Group) (wd i : Nat) :
    (g.conditions wd i).any (fun c => c.2) = (laneSegment wd i).any g.holdsTrue := by
  rw [conditions_eq, List.any_filterMap, laneSegment, List.any_map]
  congr 1
  funext l
  cases h : g.holdsData (i - i % wd + l)
  · simp [holdsTrue_of_no_data h]
  · simp

theorem conditions_all (g : Group) (wd i : Nat) :
    (g.conditions wd i).all (fun c => c.2) = (laneSegment wd i).all (fun j => !g.holdsData j || g.holdsTrue j) := by
  rw [conditions_eq, List.all_filterMap, laneSegment, List.all_map]
  congr 1
  funext l
  cases h : g.holdsData (i - i % wd + l) <;> simp [h]

theorem conditions_mask (g : Group) (wd i : Nat) :
    BitVec.ofNat 64 ((g.conditions wd i).foldl (fun m c => if c.2 then m + 2 ^ c.1 else m) 0) =
      laneMask wd (fun l => g.holdsTrue (i - i % wd + l)) := by
  rw [conditions_eq, List.foldl_filterMap, laneMask]
  congr 2
  funext m l
  cases h : g.holdsData (i - i % wd + l)
  · simp [holdsTrue_of_no_data h]
  · cases g.holdsTrue (i - i % wd + l) <;> simp

section
variable {x : Dword} (hi : g.act i = some (.data x, b))
include hi

theorem vote_res_of_data : (g.vote w p).res i =
    bothTokens (.data (match w.mod.toNat with
      | 0 => flag ((g.conditions (laneWidth w p) i).any (fun c => c.2))
      | 1 => flag ((g.conditions (laneWidth w p) i).all (fun c => c.2))
      | _ => BitVec.ofNat 64 ((g.conditions (laneWidth w p) i).foldl (fun m c => if c.2 then m + 2 ^ c.1 else m) 0))) := by
  unfold Group.vote
  dsimp only
  rw [hi]
  rfl

theorem vote_any (hm : w.mod = 0) : (g.vote w p).res i =
    bothTokens (.data (flag ((laneSegment (laneWidth w p) i).any g.holdsTrue))) := by
  rw [vote_res_of_data hi, hm, ← conditions_any]
  rfl

theorem vote_all (hm : w.mod = 1) : (g.vote w p).res i =
    bothTokens (.data (flag ((laneSegment (laneWidth w p) i).all (fun j => !g.holdsData j || g.holdsTrue j)))) := by
  rw [vote_res_of_data hi, hm, ← conditions_all]
  rfl

theorem vote_mask (hm : 2 ≤ w.mod.toNat) : (g.vote w p).res i =
    bothTokens (.data (laneMask (laneWidth w p) (fun l => g.holdsTrue (i - i % laneWidth w p + l)))) := by
  obtain ⟨k, hk⟩ := Nat.exists_eq_add_of_le' hm
  rw [vote_res_of_data hi, hk, ← conditions_mask]
  rfl

end

theorem vote_of_error {k : Sub} (hi : g.act i = some (.err k, b)) : (g.vote w p).res i = bothTokens (.err k) := by
  simp [Group.vote, hi, bothTokens]

theorem gbcast_of_active {x y : Val} (h : g.act (i - i % laneWidth w p + w.immBits 7 0) = some (x, y)) :
    (g.gbcast w p).res i = bothTokens x := by simp [Group.gbcast, h, bothTokens]

theorem gbcast_of_inactive (h : g.act (i - i % laneWidth w p + w.immBits 7 0) = none) :
    (g.gbcast w p).res i = bothTokens .pass := by simp [Group.gbcast, h, bothTokens]

/-- A lane's A token equals a token (R212). -/
def Group.matchesLane (g : Group) (t : Ty) (v : Val) (j : Nat) : Bool :=
  match g.act j with
  | some (x, _) => sameToken t v x
  | none => false

/-- The mask of `gmatch` after one lane more. -/
def Group.addMatch (g : Group) (t : Ty) (v : Val) (m : Nat) (jl : Nat × Nat) : Nat :=
  match g.act jl.1 with
  | some (x, _) => if sameToken t v x then m + 2 ^ jl.2 else m
  | none => m

theorem addMatch_eq (g : Group) (t : Ty) (v : Val) (m j l : Nat) :
    g.addMatch t v m (j, l) = m + if g.matchesLane t v j then 2 ^ l else 0 := by
  rcases hact : g.act j with _ | ⟨x, y⟩
  · simp [Group.addMatch, Group.matchesLane, hact]
  · by_cases h : sameToken t v x <;> simp [Group.addMatch, Group.matchesLane, hact, h]

theorem gmatch_res (hi : g.act i = some (a, b)) : (g.gmatch w p).res i =
    bothTokens (.data (laneMask (laneWidth w p) (fun l => g.matchesLane w.ty a (i - i % laneWidth w p + l)))) := by
  have hown : ((g.act i).map (fun v => v.1)).getD .pass = a := by rw [hi]; rfl
  have hres : (g.gmatch w p).res i = bothTokens (.data (BitVec.ofNat 64
      ((laneSegment (laneWidth w p) i).zipIdx.foldl (g.addMatch w.ty (((g.act i).map (fun v => v.1)).getD .pass)) 0))) := rfl
  rw [hres, hown, zipIdx_laneSegment, List.foldl_map]
  simp only [addMatch_eq, laneMask]

end

end Sys2Proof.Machine

namespace Sys2Proof.Proofs
open Sys2Proof.Machine

/-- Settles O43: the tree and the scan on entries that carry integers (`treeOf_laneData`, `scanOf_laneData`), and what each
exchange gives a lane that is active. -/
theorem laneSums : Obligations.LaneSums := by
  refine ⟨fun t c xs ht hpos hlen => ?_, fun g w p i a b hi => ?_⟩
  · have hfloat : t.isFloat = false := by revert t; decide
    simp only [foldl_add_readInt]
    refine ⟨?_, by rw [scanOf_length, List.length_map], fun i hlt => ?_⟩
    · obtain ⟨y, hy, hsum⟩ := treeOf_laneData hfloat c hlen hpos
      exact ⟨y, hy, hsum.symm.dvd⟩
    · obtain ⟨x, hx, y, rfl, hsum⟩ := scanOf_laneData hfloat c hlen hlt
      exact ⟨y, hx, hsum.symm.dvd⟩
  · exact ⟨fun j hm hb hj => ⟨fun x y => shfl_idx_of_active (hb ▸ hi) hm hj, shfl_idx_of_inactive (hb ▸ hi) hm⟩,
      fun j x y => lpush_of_last,
      fun x ha => ⟨vote_any (ha ▸ hi), vote_all (ha ▸ hi),
        fun hm => ⟨_, vote_mask (ha ▸ hi) hm, fun l => getLsbD_laneMask⟩⟩,
      fun k ha => vote_of_error (ha ▸ hi), fun x y => gbcast_of_active, gbcast_of_inactive,
      ⟨_, gmatch_res hi, fun l => getLsbD_laneMask⟩⟩

end Sys2Proof.Proofs
end

section
/-! The word of an instruction: the fields of a word and the word of its fields give each other back (spec 03 R75 to R88, R101), and
O1, O2 and O3. -/

namespace Sys2Proof

/-! ### Fields of a word that the decoder accepts (R75 to R82) -/

theorem Ty.code_ofCode (n : Nat) : (Ty.ofCode n).code = n % 16 := by
  have h : ∀ k : Fin 16, ((Ty.all[k.val]?).getD .b32).code = k.val := by decide
  exact h ⟨n % 16, Nat.mod_lt n (by omega)⟩

theorem Ty.encode_ofCode (t : BitVec 4) : BitVec.ofNat 4 (Ty.ofCode t.toNat).code = t := by
  rw [Ty.code_ofCode, Nat.mod_eq_of_lt t.isLt, BitVec.ofNat_toNat, BitVec.setWidth_eq]

theorem PredMode.encode_of_decode {x : BitVec 2} {p : PredMode} (h : PredMode.decode x = some p) : p.encode = x := by
  revert x
  cases p <;> decide

theorem PortId.encode_decode (x : BitVec 2) : (PortId.decode x).encode = x := by
  revert x
  decide

theorem ThreadConst.code_of_all {n : Nat} {c : ThreadConst} (h : ThreadConst.all[n]? = some c) : c.code = n := by
  have hall : ∀ k : Fin 16, ∀ c, ThreadConst.all[k.val]? = some c → c.code = k.val := by
    intro k c
    revert k
    cases c <;> decide
  obtain ⟨hn, -⟩ := List.getElem?_eq_some_iff.1 h
  exact hall ⟨n, hn⟩ c h

theorem eq_three_of_ne {k : BitVec 2} (h0 : k.toNat ≠ 0) (h1 : k.toNat ≠ 1) (h2 : k.toNat ≠ 2) : k = 3 := by
  revert k
  decide

theorem Src.encode_of_decode {x : BitVec 12} {s : Src} (h : Src.decode x = some s) : s.encode = x := by
  have hx : x.extractLsb' 10 2 ++ x.extractLsb' 0 10 = x := BitVec.extractLsb'_append_extractLsb'
  unfold Src.decode at h
  dsimp only at h
  split at h
  case h_1 hk =>
    obtain ⟨hv, ⟨⟩⟩ := Option.ite_none_right_eq_some.1 h
    rw [hv, BitVec.eq_of_toNat_eq (y := 0) hk] at hx
    exact hx
  case h_2 hk =>
    cases h
    rw [BitVec.eq_of_toNat_eq (y := 1) hk] at hx
    exact hx
  case h_3 hk =>
    obtain ⟨c, hc, rfl⟩ := Option.map_eq_some_iff.1 h
    rw [BitVec.eq_of_toNat_eq (y := 2) hk] at hx
    rw [Src.encode, ThreadConst.code_of_all hc, BitVec.ofNat_toNat, BitVec.setWidth_eq, hx]
  case h_4 h0 h1 h2 =>
    obtain ⟨hv, ⟨⟩⟩ := Option.ite_none_right_eq_some.1 h
    rw [hv, eq_three_of_ne h0 h1 h2] at hx
    exact hx

theorem Src.encode_raw {x : BitVec 12} (h : (Src.decode x).isNone = false) : (Src.raw x).encode = x := by
  obtain ⟨s, hs⟩ := Option.isSome_iff_exists.1 (Option.isNone_eq_false_iff.1 h)
  rw [Src.raw, hs]
  exact Src.encode_of_decode hs

theorem IslandPort.encode_of_decode {x : BitVec 7} {p : IslandPort} (h : IslandPort.decode x = some p) : p.encode = x := by
  have hx : x.extractLsb' 4 3 ++ x.extractLsb' 0 4 = x := BitVec.extractLsb'_append_extractLsb'
  unfold IslandPort.decode at h
  split at h
  next hk =>
    cases h
    rw [hk] at hx
    exact hx
  next =>
    split at h <;> cases h
    all_goals
      next hn => exact (BitVec.eq_of_toNat_eq hn).symm

/-- The parts of a destination (R81). -/
theorem dst_parts (x : BitVec 16) : x.extractLsb' 15 1 ++ x.extractLsb' 13 2 ++ x.extractLsb' 6 7 ++ x.extractLsb' 0 6 = x := by
  simp only [BitVec.extractLsb'_append_extractLsb'_eq_extractLsb', BitVec.extractLsb'_eq_self]

/-- The parts of a destination at a slot port (R81). -/
theorem dst_parts_port (x : BitVec 16) :
    x.extractLsb' 15 1 ++ x.extractLsb' 13 2 ++ x.extractLsb' 6 7 ++ x.extractLsb' 2 4 ++ x.extractLsb' 0 2 = x := by
  simp only [BitVec.extractLsb'_append_extractLsb'_eq_extractLsb', BitVec.extractLsb'_eq_self]

theorem Dst.encode_of_decode {x : BitVec 16} {d : Dst} (h : Dst.decode x = .ok d) : d.encode = x := by
  unfold Dst.decode at h
  dsimp only at h
  split at h
  next =>
    split at h <;> cases h
    next hx => exact hx.symm
  next hvalid =>
    have hv : x.extractLsb' 15 1 = 1 := by
      generalize x.extractLsb' 15 1 = v at hvalid
      revert v
      decide
    have hx := dst_parts x
    split at h
    case h_1 hk =>
      cases h
      have hx := dst_parts_port x
      rw [hv, BitVec.eq_of_toNat_eq (y := 0) hk] at hx
      rw [Dst.encode, PortId.encode_decode, hx]
    case h_2 hk =>
      split at h
      next hlow =>
        split at h <;> cases h
        next q hq =>
          rw [hv, BitVec.eq_of_toNat_eq (y := 1) hk, hlow, ← IslandPort.encode_of_decode hq] at hx
          exact hx
      next => cases h
    case h_3 hk =>
      split at h <;> cases h
      next hlow =>
        rw [hv, BitVec.eq_of_toNat_eq (y := 2) hk, hlow] at hx
        exact hx
    case h_4 => cases h

/-! ### Words that the decoder accepts (R75) -/

/-- A word is its fields, one after the other (R75). -/
theorem word_eq_fields (x : Word128) :
    x.field 120 8 ++ x.field 116 4 ++ x.field 112 4 ++ x.field 110 2 ++ x.field 98 12 ++ x.field 86 12 ++ x.field 74 12 ++
      x.field 58 16 ++ x.field 42 16 ++ x.field 36 6 ++ x.field 32 4 ++ x.field 0 32 = x := by
  simp only [Word128.field, BitVec.extractLsb'_append_extractLsb'_eq_extractLsb', BitVec.extractLsb'_eq_self]

theorem dst_ok_of_fieldCheck {x : Word128} (h : x.fieldCheck = none) :
    (∃ d, Dst.decode (x.field 58 16) = .ok d) ∧ ∃ d, Dst.decode (x.field 42 16) = .ok d := by
  simp only [Word128.fieldCheck] at h
  split_ifs at h with hp hz hs hm hi
  constructor
  · rcases hd : Dst.decode (x.field 58 16) with (_ | _) | d
    · simp [hd] at hm
    · simp [hd] at hi
    · exact ⟨d, rfl⟩
  · rcases hd : Dst.decode (x.field 42 16) with (_ | _) | d
    · simp [hd] at hm
    · simp [hd] at hi
    · exact ⟨d, rfl⟩

/-- What the check of a word's own fields asks beside the destinations: PM, bits [35:32] and the operand specifiers (R77, R75, R79). -/
theorem fields_ok_of_fieldCheck {x : Word128} (h : x.fieldCheck = none) :
    (∃ p, PredMode.decode (x.field 110 2) = some p) ∧ x.field 32 4 = 0 ∧ (Src.decode (x.field 98 12)).isNone = false ∧
      (Src.decode (x.field 86 12)).isNone = false ∧ (Src.decode (x.field 74 12)).isNone = false := by
  simp only [Word128.fieldCheck] at h
  split_ifs at h with hp hz hs hm hi
  simp only [Bool.or_eq_true, not_or, Bool.not_eq_true] at hp hs
  obtain ⟨⟨ha, hb⟩, hc⟩ := hs
  exact ⟨Option.isSome_iff_exists.1 (Option.isNone_eq_false_iff.1 hp), not_not.1 hz, ha, hb, hc⟩

/-- The word of the fields of a word that fails no check of their form. -/
theorem encode_fields {x : Word128} (h : x.fieldCheck = none) : x.fields.encode (x.field 120 8).toNat = x := by
  obtain ⟨⟨p, hp⟩, hz, ha, hb, hc⟩ := fields_ok_of_fieldCheck h
  obtain ⟨⟨d, hd⟩, e, he⟩ := dst_ok_of_fieldCheck h
  calc x.fields.encode (x.field 120 8).toNat
    _ = x.field 120 8 ++ x.field 116 4 ++ x.field 112 4 ++ x.field 110 2 ++ x.field 98 12 ++ x.field 86 12 ++ x.field 74 12 ++
          x.field 58 16 ++ x.field 42 16 ++ x.field 36 6 ++ x.field 32 4 ++ x.field 0 32 := by
      simp only [SlotWord.encode, Word128.fields, BitVec.ofNat_toNat, BitVec.setWidth_eq, Ty.encode_ofCode, hp, hd, he, hz,
        Option.getD_some, Except.toOption, PredMode.encode_of_decode hp, Src.encode_raw ha, Src.encode_raw hb, Src.encode_raw hc,
        Dst.encode_of_decode hd, Dst.encode_of_decode he]
    _ = x := word_eq_fields x

/-! ### Opcodes (R87, R88) -/

/-- The opcode of an instruction gives it back; a MOD that the row admits picks the row of an opcode that has several. -/
theorem ofOpcode_of_spec {i : Instr} {r : OpSpec} {w : SlotWord} (hs : i.spec = some (r, w)) (hm : r.mod w = true) :
    Instr.ofOpcode (BitVec.ofNat 8 r.opc) w = some i := by
  cases i with
  | fpmodeImm | mergeFirst | spcastTo | fltrd => cases hs; exact Laws.Encoding.of_mod0 hm
  | fpmodeVal | mergeJoin | spcastFrom | fltrdClr => cases hs; exact Laws.Encoding.of_mod1 hm
  | barSync => cases hs; exact Laws.Encoding.of_bar0 hm
  | barArrive => cases hs; exact Laws.Encoding.of_bar1 hm
  | barWait => cases hs; exact Laws.Encoding.of_bar2 hm
  | _ => cases hs <;> rfl

/-- An instruction with a word has no arguments beside it. -/
theorem argsOk_of_spec {i : Instr} {p : OpSpec × SlotWord} (h : i.spec = some p) : i.argsOk = true := by
  cases i with
  | _ => cases h <;> rfl

/-- The row of an instruction that an opcode gives has that opcode. -/
theorem spec_of_ofOpcode {o : BitVec 8} {w : SlotWord} {i : Instr} (h : Instr.ofOpcode o w = some i) :
    ∃ r, i.spec = some (r, w) ∧ r.opc = o.toNat := by
  unfold Instr.ofOpcode at h
  repeat' split at h
  all_goals cases h
  all_goals exact ⟨_, rfl, Eq.symm ‹_›⟩

/-- The opcodes of R88 stand in ten ranges. -/
theorem opc_assigned {i : Instr} {r : OpSpec} {w : SlotWord} (h : i.spec = some (r, w)) :
    ∃ g ∈ [(0x00, 0x22), (0x30, 0x4E), (0x60, 0x67), (0x70, 0x84), (0x90, 0x9C), (0xC0, 0xCA), (0xD0, 0xD6), (0xE0, 0xEA),
     (0xF0, 0xF4), (0xF8, 0xFF)], g.1 ≤ r.opc ∧ r.opc ≤ g.2 := by
  cases i with
  | _ => cases h <;> decide

/-! ### The decoder (R75, R101) -/

theorem firstCheck_eq_none {a b : Option Nat} : firstCheck a b = none ↔ a = none ∧ b = none := by
  cases a <;> cases b <;> simp [firstCheck]

/-- What the decoder asks of a word that it accepts. -/
theorem decodeWord_eq_ok {x : Word128} {i : Instr} (h : decodeWord x = .ok i) :
    Instr.ofOpcode (x.field 120 8) x.fields = some i ∧ x.fieldCheck = none ∧ i.check = none ∧ fanCheck i = none := by
  unfold decodeWord at h
  split at h
  next => cases h
  next ho =>
    split at h
    next => cases h
    next hc =>
      obtain rfl := Except.ok.inj h
      simp only [firstCheck_eq_none] at hc
      obtain ⟨⟨hfield, hcheck⟩, hfan⟩ := hc
      exact ⟨ho, hfield, hcheck, hfan⟩

theorem decodeWord_of_unassigned {x : Word128} (h : ∀ w, Instr.ofOpcode (x.field 120 8) w = none) : decodeWord x = .error 1 := by
  unfold decodeWord
  rw [h]

end Sys2Proof

namespace Sys2Proof.Proofs

/-- Settles O1: an instruction without a word has nothing to decode, and one with a word is what its opcode and MOD pick
(`ofOpcode_of_spec`) for the fields that the word gives back. -/
theorem encodingRoundTrip : Obligations.EncodingRoundTrip := by
  intro i
  cases hs : i.spec with
  | none => exact Laws.Encoding.of_none hs
  | some p => exact Laws.Encoding.of_spec hs (ofOpcode_of_spec hs)

/-- Settles O2: a word whose fields all have their form is the word of those fields (`encode_fields`). -/
theorem acceptedWordsAreEncodings : Obligations.AcceptedWordsAreEncodings := by
  intro x i h
  obtain ⟨ho, hfield, hcheck, hfan⟩ := decodeWord_eq_ok h
  obtain ⟨r, hs, hr⟩ := spec_of_ofOpcode ho
  refine ⟨?_, ?_, hfan⟩
  · rw [encode, hs, Option.map_some, hr, encode_fields hfield]
  · rw [Instr.wf, hcheck, argsOk_of_spec hs]
    rfl

/-- Settles O3: the words evaluate, and an opcode that some row has stands in a range of the map (`opc_assigned`). -/
theorem wordsDecode : Obligations.WordsDecode := by
  refine ⟨⟨rfl, rfl, rfl, rfl, rfl, rfl, rfl, rfl, rfl⟩, fun x hx => decodeWord_of_unassigned fun w => ?_⟩
  by_contra hsome
  obtain ⟨i, hi⟩ := Option.ne_none_iff_exists'.1 hsome
  obtain ⟨r, hs, hr⟩ := spec_of_ofOpcode hi
  obtain ⟨g, hg, hin⟩ := opc_assigned hs
  exact hx g hg (hr ▸ hin)

end Sys2Proof.Proofs
end

section
/-! Where a token goes (spec 03 R81, R83; 04 R126, R139; 08 R248), and O11. -/

namespace Sys2Proof.Machine

/-- The live value that a token bound for the stacks stages, with its kind bit (R16, R126). -/
def Val.staged? : Val → Option LiveVal
  | .pass => none
  | .data x => some ⟨false, x, false⟩
  | .err k => some ⟨true, BitVec.ofNat 64 k.code, false⟩

section
variable {s : State} {f : Firing} {n : Nat} {v : Val} {tag : Tag} (hf : f.mute = false)
include hf

theorem send_none : s.send f n .none false v tag = s := by
  simp [State.send, hf]

theorem send_port (e : BitVec 7) (sl : BitVec 4) (q : PortId) (scale : Bool) :
    s.send f n (.port e sl q) scale v tag = s.onCore f.core (fun (c : Core) => { c with
      flights := c.flights ++ [⟨e.toNat, sl.toNat, q, scale, v, tag, f.elem, f.slot, n⟩] }) := by
  simp [State.send, hf]

theorem send_stacks_pass (lv : BitVec 7) : s.send f n (.stacks lv) false .pass tag = s := by
  simp [State.send, hf]

/-- Once the terminator of a thread has committed, no token stages anything (R139). -/
theorem send_stacks_closing (lv : BitVec 7) (hc : (s.thread f.core tag.slot.toNat).closing = true) :
    s.send f n (.stacks lv) false v tag = s := by
  cases v <;> simp [State.send, hf, hc]

theorem send_port_pass (p : BitVec 4) : s.send f n (.island (.sp p)) false .pass tag = s := by
  simp [State.send, hf]

theorem send_stacks {y : LiveVal} (lv : BitVec 7) (hc : (s.thread f.core tag.slot.toNat).closing = false) (hv : v.staged? = some y) :
    ((s.send f n (.stacks lv) false v tag).thread f.core tag.slot.toNat).staged =
      (s.thread f.core tag.slot.toNat).staged ++ [⟨lv.toNat, f.elem, f.slot, ((s.core f.core).iterations f.node tag).1,
        ((s.core f.core).iterations f.node tag).2, y⟩] := by
  cases v with
  | pass => exact nomatch hv
  | data x =>
    cases hv
    simp [State.send, hf, hc]
  | err k =>
    cases hv
    cases k <;> simp [State.send, hf, hc, Sub.code]

/-- Data sent to an outbound port appends its eight bytes (R248). -/
theorem send_port_data (p : BitVec 4) (x : Dword) :
    (((s.send f n (.island (.sp p)) false (.data x) tag).core f.core).port p.toNat).buf =
      (((s.core f.core).ports.look p.toNat).elim [] Port.buf) ++ (bytesLE 8 x.toNat).map (fun b => (b, false)) := by
  simp only [State.send, hf, Bool.false_eq_true, if_false, State.onCore_core_same, Core.port, Table.look_put_same, Option.getD_some]
  cases (s.core f.core).ports.look p.toNat <;> rfl

end

end Sys2Proof.Machine

namespace Sys2Proof.Proofs
open Sys2Proof.Machine

/-- Settles O11: each kind of destination by its own rule. -/
theorem tokenDestinations : Obligations.TokenDestinations := by
  intro s f n v tag hf
  refine ⟨send_none hf, send_port hf, send_stacks_closing hf, ?_, ?_, ?_, ?_, ?_⟩
  · rintro lv x hc rfl
    exact send_stacks hf lv hc rfl
  · rintro lv k hc rfl
    exact send_stacks hf lv hc rfl
  · rintro lv rfl
    exact send_stacks_pass hf lv
  · rintro p x rfl
    exact send_port_data hf p x
  · rintro p rfl
    exact send_port_pass hf p

end Sys2Proof.Proofs
end

section
/-! Configuration planes (spec 03 R82, R100; 08 R243; 11 R308 to R315), and O52. -/

namespace Sys2Proof.Machine
open Sys2Proof.Claims

/-! ### Decoding, switches and validation (R100, R309, R310, R314, R315) -/

section
variable {s : State} {k : Nat} {x : Nat × Nat}

theorem execDecodeStart_wanted (hx : s.wanted k = some x) (hd : (s.core k).decoding = none) (hv : s.validatingNow k = false)
    (hs : (s.core k).shadow.load ≠ some x) (hw : (s.core k).switchTo ≠ none ∨ s.validationWaits k = false) :
    execDecodeStart k s = .next (s.setCore k { ((s.core k).setShadow Plane.empty) with decoding := some x }) := by
  have hgo : ¬ ((s.core k).switchTo = none ∧ s.validationWaits k = true) := by
    rintro ⟨hnone, hwait⟩
    exact hw.elim (absurd hnone) (fun h => Bool.noConfusion (h.symm.trans hwait))
  simp [execDecodeStart, hx, hd, hv, hs, hgo]

theorem execDecodeReady_cached (hx : (s.core k).decoding = some x) (hc : (s.core k).cache.contains x = true) :
    execDecodeReady k s = .next (s.setCore k
      { ((s.core k).setShadow ⟨some x, true, [], ((s.kernel x.1).loads[x.2]?).getD Load.empty⟩) with
        decoding := none, cache := (s.core k).cache.erase x ++ [x] }) := by
  simp only [execDecodeReady, hx, hc, Bool.not_true, Bool.false_eq_true, if_false]

theorem execSwitchBegin_chosen {r : WaitRow} (hs : (s.core k).switchTo = none) (hr : s.switchChoice k = some r)
    (hv : s.validationDue k = false) : execSwitchBegin k s = .next (s.setCore k
      { (s.core k).countAged ((s.core k).outside (s.waitRows k)) with switchTo := some (r.kernel, r.load) }) := by
  simp only [execSwitchBegin, hs, hv, hr, Bool.false_eq_true, if_false]

theorem execFlip_ready (hx : (s.core k).switchTo = some x) (ho : s.occupied k = false) (hp : (s.core k).pinned = false)
    (hl : (s.core k).shadow.load = some x) (hr : (s.core k).shadow.ready = true) (hd : (s.core k).decoding = none)
    (hv : s.validatingNow k = false) : execFlip k s = .next (s.setCore k ((s.core k).flip s.time)) := by
  simp [execFlip, hx, ho, hp, hl, hr, hd, hv]

theorem execConfigCacheFill_pages {s' : State} {places : List Place} (hx : (s.core k).decoding = some x)
    (hc : (s.core k).cache.contains x = false) (hh : s.configHeld k = false)
    (hpages :
      let e := ((s.kernel x.1).extents[x.2]?).getD (0, 0)
      let va := (s.kernel x.1).va + e.1
      let base := va / 4096 * 4096
      (s.accessAs .configFetch 0).imagePages k (s.kernel x.1).ctx ((va - base + e.2 + 4095) / 4096) base = (s', .pages places)) :
    execConfigCacheFill k s = .next
      (let e := ((s.kernel x.1).extents[x.2]?).getD (0, 0)
       let va := (s.kernel x.1).va + e.1
       let t := s'.readImage k places (va - va / 4096 * 4096) e.2
       t.setCore k (t.cacheLoad (t.core k) x)).settle := by
  dsimp only at hpages
  simp only [execConfigCacheFill, hx, hc, hh, hpages, Bool.false_eq_true, or_self, if_false]

theorem execValidateKernel_turn {id va : Nat} {l : Launch} (hl : s.launch? id = some l) (hva : s.validationAt l k = some va)
    (hd : (s.core k).decoding = none) (hs : (s.core k).switchTo = none ∨ (s.core k).validating = some id)
    (hh : s.configHeld k = false)
    (hfirst : ∀ y ∈ s.launches.takeWhile (fun (y : Launch) => y.id != id), s.validationAt y k = none) :
    execValidateKernel k id s = .next (s.validateAt k l va).settle := by
  have hearlier : (s.launches.takeWhile (fun (y : Launch) => y.id != id)).any (fun y => (s.validationAt y k).isSome) = false := by
    rw [List.any_eq_false]
    intro y hy
    simp [hfirst y hy]
  have hswitch : ¬ ((s.core k).switchTo.isSome = true ∧ (s.core k).validating ≠ some id) := by
    rintro ⟨hsome, hne⟩
    rcases hs with h | h
    · simp [h] at hsome
    · exact hne h
  simp only [execValidateKernel, hl, hva, hd, hh, hearlier, hswitch, Option.isSome_none, Bool.false_eq_true, or_self, if_false]

end

/-! ### The ports of a load that has become active (R82, R243) -/

/-- What a binding of a load makes of the ports of its core (R243). -/
def bindPort (t : Table Port) (b : Bind) : Table Port :=
  match b with
  | .port n out ag _ => t.put n ⟨.closed, out, ag, [], [], none, false⟩
  | _ => t

theorem bindLoad_ports (c : Core) (l : Load) : (c.bindLoad l).ports = l.binds.foldl bindPort [] :=
  (List.foldl_hom Core.ports (fun _ b => by cases b <;> rfl)).symm

theorem bindLoad_load (c : Core) (l : Load) : (c.bindLoad l).load = c.load := by
  refine List.foldlRecOn (motive := fun (d : Core) => d.load = c.load) _ _ rfl (fun d hd b _ => ?_)
  cases b <;> exact hd

/-- After a flip a core has the ports that its new active load binds, and no others. -/
theorem flip_ports (c : Core) (now : Nat) : (c.flip now).ports = (c.flip now).load.binds.foldl bindPort [] := by
  set d : Core := { c with activeB := !c.activeB, switchTo := none, activeSince := now, idleSince := none, round := [] }
  have hports : (c.flip now).ports = (d.bindLoad d.load).ports := rfl
  have hload : (c.flip now).load = (d.bindLoad d.load).load := rfl
  rw [hports, hload, bindLoad_load, bindLoad_ports]

/-- A table of ports lists one as bound and outbound, as `sendsTo` asks of a core's table. -/
def boundOut (n : Nat) (t : Table Port) : Prop := ∃ q, t.look n = some q ∧ q.out = true ∧ q.state ≠ .unbound

theorem sendsTo_iff_boundOut {c : Core} {n : Nat} : sendsTo c n ↔ boundOut n c.ports := Iff.rfl

section
variable {n : Nat} {t : Table Port}

theorem boundOut_put (ag : Option Nat) : boundOut n (t.put n ⟨.closed, true, ag, [], [], none, false⟩) :=
  ⟨_, Table.look_put_same t n _, rfl, by simp⟩

theorem boundOut_bindPort {b : Bind} (ht : boundOut n t) (hb : ∀ out ag g, b = .port n out ag g → out = true) :
    boundOut n (bindPort t b) := by
  cases b with
  | port m out ag g =>
    rcases eq_or_ne n m with rfl | hne
    · obtain rfl := hb out ag g rfl
      exact boundOut_put ag
    · obtain ⟨q, hq, hout⟩ := ht
      exact ⟨q, (Table.look_put_other t m n _ hne).trans hq, hout⟩
  | _ => exact ht

/-- A port that some binding binds, and every one that does as outbound, is a bound outbound port in the end. -/
theorem boundOut_foldl_bindPort {bs : List Bind} {ag : Option Nat} {g : Option (Nat × Nat)} (hmem : Bind.port n true ag g ∈ bs)
    (hout : ∀ out ag g, Bind.port n out ag g ∈ bs → out = true) : boundOut n (bs.foldl bindPort t) := by
  obtain ⟨before, after, rfl⟩ := List.append_of_mem hmem
  rw [List.foldl_append, List.foldl_cons]
  refine List.foldlRecOn after _ (boundOut_put ag) (fun t ht b hb => boundOut_bindPort ht ?_)
  rintro out ag g rfl
  exact hout out ag g (List.mem_append_right _ (List.mem_cons_of_mem _ hb))

end

theorem mem_binds_of_portBind {l : Load} {n : Nat} (h : (l.portBind n).isSome = true) : ∃ out ag g, Bind.port n out ag g ∈ l.binds := by
  obtain ⟨y, hy⟩ := Option.isSome_iff_exists.1 h
  obtain ⟨b, hb, hsome⟩ := List.exists_of_findSome?_eq_some hy
  cases b with
  | port m out ag g =>
    obtain ⟨rfl, -⟩ := Option.ite_none_right_eq_some.1 hsome
    exact ⟨out, ag, g, hb⟩
  | _ => exact nomatch hsome

/-- Check 11 finds a binding for every stream port that a slot names as a destination (R82). -/
theorem portBind_of_islandOk {l : Load} {n o d : Nat} {w : SlotWord} {p : BitVec 4} (h : l.islandOk n o w = true)
    (hd : (d, Dst.island (.sp p)) ∈ dstsOf o w) : (l.portBind p.toNat).isSome = true := by
  simp only [Load.islandOk, Bool.and_eq_true] at h
  obtain ⟨⟨hall, -⟩, -⟩ := h
  have hp := List.all_eq_true.1 hall _ hd
  dsimp only at hp
  split at hp
  next hy => rw [hy]; rfl
  next => exact nomatch hp

theorem sendsTo_of_flip {c : Core} {now n o d : Nat} {w : SlotWord} {p : BitVec 4} (h : (c.flip now).load.islandOk n o w = true)
    (hd : (d, Dst.island (.sp p)) ∈ dstsOf o w)
    (hout : ∀ out ag g, Bind.port p.toNat out ag g ∈ (c.flip now).load.binds → out = true) : sendsTo (c.flip now) p.toNat := by
  obtain ⟨out, ag, g, hmem⟩ := mem_binds_of_portBind (portBind_of_islandOk h hd)
  obtain rfl := hout out ag g hmem
  rw [sendsTo_iff_boundOut, flip_ports]
  exact boundOut_foldl_bindPort hmem hout

end Sys2Proof.Machine

namespace Sys2Proof.Proofs
open Sys2Proof.Machine

/-- Settles O52: each step by what enables it; a destination that check 11 has passed has a binding, and the flip makes the ports of the
bindings (`flip_ports`). -/
theorem configurationPlanes : Obligations.ConfigurationPlanes := by
  intro s k c
  exact ⟨fun x => execDecodeStart_wanted, fun x => execDecodeReady_cached, fun r => execSwitchBegin_chosen, fun x => execFlip_ready,
    fun x s' places => execConfigCacheFill_pages, fun id l va => execValidateKernel_turn,
    fun n o w d p _ _ hok hd hout => sendsTo_of_flip hok hd hout⟩

end Sys2Proof.Proofs
end

section
/-! Fields, comparison, choice, extension, addresses, constants and the carry chain (spec 04 R112, R116 to R122), and O17 and O21. -/

namespace Sys2Proof.Machine
open Sys2Proof.Claims

/-! ### The field of `bfi` (R117) -/

/-- The field's place holds the low bits of b, between the bits of a below and above it. -/
theorem fieldInto_eq (a b pos width : Nat) :
    fieldInto a b pos width = 2 ^ pos * (2 ^ width * (a / 2 ^ pos / 2 ^ width) + b % 2 ^ width) + a % 2 ^ pos := by
  have hpos := Nat.div_add_mod a (2 ^ pos)
  have hwidth := Nat.div_add_mod (a / 2 ^ pos) (2 ^ width)
  have hrest : a - a / 2 ^ pos % 2 ^ width * 2 ^ pos = 2 ^ pos * (2 ^ width * (a / 2 ^ pos / 2 ^ width)) + a % 2 ^ pos := by
    refine Nat.sub_eq_of_eq_add ?_
    calc a = 2 ^ pos * (2 ^ width * (a / 2 ^ pos / 2 ^ width) + a / 2 ^ pos % 2 ^ width) + a % 2 ^ pos := by rw [hwidth, hpos]
      _ = _ := by ring
  rw [fieldInto, hrest]
  ring

theorem testBit_fieldInto (a b pos width i : Nat) : (fieldInto a b pos width).testBit i =
    if pos ≤ i ∧ i < pos + width then b.testBit (i - pos) else a.testBit i := by
  rw [fieldInto_eq, Nat.testBit_two_pow_mul_add _ (Nat.mod_lt _ (Nat.two_pow_pos _)),
    Nat.testBit_two_pow_mul_add _ (Nat.mod_lt _ (Nat.two_pow_pos _))]
  rcases Nat.lt_or_ge i pos with hlow | hpos
  · simp [hlow, Nat.not_le.2 hlow, Nat.testBit_mod_two_pow]
  rcases Nat.lt_or_ge i (pos + width) with hin | hhigh
  · simp [hpos, hin, Nat.not_lt.2 hpos, Nat.testBit_mod_two_pow, show i - pos < width by omega]
  · simp [Nat.not_lt.2 hpos, Nat.not_lt.2 hhigh, show ¬ i - pos < width by omega, Nat.testBit_div_two_pow,
      show i - pos - width + (pos + width) = i by omega, Nat.div_div_eq_div_mul, ← pow_add]

theorem fieldInto_lt {a n pos width : Nat} (b : Nat) (ha : a < 2 ^ n) (hfit : pos + width ≤ n) : fieldInto a b pos width < 2 ^ n := by
  refine Nat.lt_pow_two_of_testBit _ fun i hi => ?_
  rw [testBit_fieldInto, if_neg (by omega)]
  exact Nat.testBit_lt_two_pow (ha.trans_le (Nat.pow_le_pow_right (by decide) hi))

theorem testBit_readBits {t : Ty} {i : Nat} (hi : i < t.width) (x : Dword) : (readBits t x).testBit i = x.getLsbD i := by
  simp [readBits, Nat.testBit_mod_two_pow, hi, BitVec.getLsbD]

section
variable {s : State} {w : SlotWord} {a b c : Dword}

/-- A field that fits replaces the bits of A at its place by the low bits of B. -/
theorem bfi_of_acts (h : acts s w a b c) (hfit : fieldPos w + fieldWidth w ≤ w.ty.width) :
    ∃ r : Nat, gives (.bfi w) s w (bitsVal w.ty r) ∧ r < 2 ^ w.ty.width ∧ ∀ i, i < w.ty.width → r.testBit i =
      if fieldPos w ≤ i ∧ i < fieldPos w + fieldWidth w then b.getLsbD (i - fieldPos w) else a.getLsbD i := by
  refine ⟨_, gives_of_value h rfl rfl, fieldInto_lt _ (readBits_lt _ _) hfit, fun i hi => ?_⟩
  rw [testBit_fieldInto, testBit_readBits hi, testBit_readBits (show i - fieldPos w < w.ty.width by omega)]

/-! ### Triggers and constants (R112, R122) -/

theorem triggers_of_acts (h : acts s w a b c) : triggers s w := by
  obtain ⟨hgo, ha, -, -⟩ := h
  exact ⟨hgo, by simp [ha]⟩

theorem triggered_of_triggers (h : triggers s w) (g : State → State) : s.triggered s.fire w g = g s := by
  obtain ⟨hgo, ha⟩ := h
  simp only [State.triggered, hgo, if_neg ha]

theorem const_of_triggers (h : triggers s w) : gives (.const w) s w
    (bitsVal w.ty (readBits w.ty (if w.b = .absent then w.immSigned else (s.opB s.fire w).bits))) :=
  congrArg Host.Outcome.next (triggered_of_triggers h _)

theorem const_of_acts (h : acts s w a b c) :
    gives (.const w) s w (bitsVal w.ty (readBits w.ty (if w.b = .absent then w.immSigned else b))) := by
  have hconst := const_of_triggers (triggers_of_acts h)
  obtain ⟨-, -, hb, -⟩ := h
  rwa [hb] at hconst

/-! ### `sel` (R119) -/

section
variable (hgo : s.go s.fire w = .fire)
include hgo

theorem sel_of_pass (ha : s.opA s.fire w = .pass) : gives (.sel w) s w .pass := by
  simp only [gives, exec, execSel, hgo, ha, emitBoth_eq_emit2]

theorem sel_of_error {k : Sub} (ha : s.opA s.fire w = .err k) : gives (.sel w) s w (.err k) := by
  simp only [gives, exec, execSel, hgo, ha, emitBoth_eq_emit2]

theorem sel_of_data (ha : s.opA s.fire w = .data a) :
    gives (.sel w) s w (if readBits w.ty a ≠ 0 then s.opB s.fire w else s.opC s.fire w) := by
  simp only [gives, exec, execSel, hgo, ha, emitBoth_eq_emit2]

end

theorem sel_of_acts (h : acts s w a b c) : gives (.sel w) s w (if readBits w.ty a ≠ 0 then .data b else .data c) := by
  obtain ⟨hgo, ha, hb, hc⟩ := h
  simpa only [hb, hc] using sel_of_data hgo ha

end

end Sys2Proof.Machine

namespace Sys2Proof.Proofs
open Sys2Proof.Machine

/-- Settles O17: on data operands each instruction is its function's value; `sel` looks at the kind of its condition alone. -/
theorem fieldsAndChoices : Obligations.FieldsAndChoices := by
  refine ⟨fun s w a b c h => ?_, fun s w hgo => ⟨sel_of_pass hgo, fun k => sel_of_error hgo, fun a => sel_of_data hgo⟩⟩
  exact ⟨gives_of_value h rfl rfl, bfi_of_acts h, gives_of_value h rfl rfl, sel_of_acts h, gives_of_value h rfl rfl,
    gives_of_value h rfl rfl, gives_of_value h rfl rfl, gives_of_value h rfl rfl, const_of_acts h⟩

end Sys2Proof.Proofs

namespace Sys2Proof.Machine
open Sys2Proof.Claims

/-! ### Carry and borrow (R120) -/

/-- The carry or borrow that operand C brings in. -/
def chainIn (w : SlotWord) (c : Dword) : Nat := if w.c = .absent then 0 else c.toNat % 2

theorem chainIn_of_absent {w : SlotWord} (h : w.c = .absent) (c : Dword) : chainIn w c = 0 := if_pos h

theorem chainIn_of_flag {w : SlotWord} (h : w.c ≠ .absent) (p : Bool) : chainIn w (flag p) = (flag p).toNat := by
  rw [chainIn, if_neg h]
  cases p <;> rfl

theorem chainIn_le_one (w : SlotWord) (c : Dword) : chainIn w c ≤ 1 := by
  unfold chainIn
  split <;> omega

theorem flag_toNat_le_one (p : Bool) : (flag p).toNat ≤ 1 := by cases p <;> decide

theorem flag_decide_toNat (p : Prop) [Decidable p] : (flag (decide p)).toNat = if p then 1 else 0 := by
  by_cases h : p <;> simp [flag, h]

theorem readBits_n64 (x : Dword) : readBits .n64 x = x.toNat := Nat.mod_eq_of_lt x.isLt

theorem bitsVal_n64 (n : Nat) : bitsVal .n64 n = .data (BitVec.ofNat 64 n) :=
  (bitsVal_of_unsigned rfl n).trans (congrArg Val.data (BitVec.setWidth_eq _))

/-- A sum modulo 2^64 and its carry are the exact sum. -/
theorem sum_carryOut {a b : Dword} {k : Nat} (hk : k ≤ 1) :
    (BitVec.ofNat 64 (a.toNat + b.toNat + k)).toNat + 2 ^ 64 * (flag (carryOut 64 a.toNat b.toNat k)).toNat = a.toNat + b.toNat + k := by
  rw [BitVec.toNat_ofNat, carryOut, flag_decide_toNat]
  split <;> omega

/-- A difference modulo 2^64 and its borrow are the exact difference. -/
theorem difference_borrowOut {a b : Dword} {k : Nat} (hk : k ≤ 1) :
    (BitVec.ofInt 64 ((a.toNat : Int) - b.toNat - k)).toNat + (b.toNat + k) =
      a.toNat + 2 ^ 64 * (flag (borrowOut a.toNat b.toNat k)).toNat := by
  rw [BitVec.toNat_ofInt, borrowOut, flag_decide_toNat]
  split <;> omega

section
variable {s : State} {w : SlotWord} {a b c : Dword} (h : acts s w a b c) (hn : w.ty = .n64)
include h hn

theorem addc_n64 : gives2 (.addc w) s w (.data (BitVec.ofNat 64 (a.toNat + b.toNat + chainIn w c)))
    (.data (flag (carryOut 64 a.toNat b.toNat (chainIn w c)))) := by
  refine congrArg Host.Outcome.next ((value2_of_acts h _).trans ?_)
  simp only [hn, bitsVal_n64, readBits_n64, chainIn, Ty.width]

theorem subb_n64 : gives2 (.subb w) s w (.data (BitVec.ofInt 64 ((a.toNat : Int) - b.toNat - chainIn w c)))
    (.data (flag (borrowOut a.toNat b.toNat (chainIn w c)))) := by
  refine congrArg Host.Outcome.next ((value2_of_acts h _).trans ?_)
  simp only [hn, intVal_of_width64 (t := .n64) rfl, readBits_n64, chainIn]

end

end Sys2Proof.Machine

namespace Sys2Proof.Proofs
open Sys2Proof.Machine

/-- Settles O21: each half's word and carry, or borrow, are its exact sum or difference, and the high half takes in the low half's. -/
theorem carryChain : Obligations.CarryChain := by
  intro s s' w w' alo ahi blo bhi c hn hn' hc hc' h
  have hin := chainIn_of_absent hc c
  refine ⟨⟨_, _, addc_n64 h hn, fun h' => ⟨_, _, addc_n64 h' hn', ?_⟩⟩, ⟨_, _, subb_n64 h hn, fun h' => ⟨_, _, subb_n64 h' hn', ?_⟩⟩⟩
  · rw [chainIn_of_flag hc', hin]
    have hlow := sum_carryOut (a := alo) (b := blo) (Nat.zero_le 1)
    have hhigh := sum_carryOut (a := ahi) (b := bhi) (flag_toNat_le_one (carryOut 64 alo.toNat blo.toNat 0))
    omega
  · rw [chainIn_of_flag hc', hin]
    have hlow := difference_borrowOut (a := alo) (b := blo) (Nat.zero_le 1)
    have hhigh := difference_borrowOut (a := ahi) (b := bhi) (flag_toNat_le_one (borrowOut alo.toNat blo.toNat 0))
    omega

end Sys2Proof.Proofs
end

section
/-! Routing instructions (spec 04 R124 to R131), and O27. -/

namespace Sys2Proof.Machine
open Sys2Proof.Claims

section
variable {s : State} {w : SlotWord}

theorem entry_of_alive (h : (s.ft s.fire).dead = false) : gives (.entry w) s w (.data 0) := by
  have hentry : exec (.entry w) s = .next (s.emitBoth s.fire w (if s.ended s.fire then .pass else .data 0)) := rfl
  rw [gives, hentry, ended_of_alive h]
  rfl

theorem lvr_of_triggers (h : triggers s w) :
    gives (.lvr w) s w (((s.ft s.fire).live.look (w.immBits 6 0)).getD ⟨false, 0, false⟩).val :=
  congrArg Host.Outcome.next (triggered_of_triggers h _)

theorem lvw_of_triggers (h : triggers s w) : exec (.lvw w) s = .next
    ((s.send s.fire 0 (.stacks (BitVec.ofNat 7 (w.immBits 6 0))) false (s.opA s.fire w) s.fire.tag).emit2 s.fire w
      (s.opA s.fire w) (s.opA s.fire w)) :=
  congrArg Host.Outcome.next (triggered_of_triggers h _)

theorem fan_of_fire (h : s.go s.fire w = .fire) : exec (.fan w) s = .next (s.emitFan s.fire w (s.opA s.fire w)) := by
  simp only [exec, execFan, h]

theorem steer_of_data {c : Dword} (hb : s.opB s.fire w = .data c) :
    gives2 (.steer w) s w (if c = 0 then .pass else s.opA s.fire w) (if c = 0 then s.opA s.fire w else .pass) := by
  simp only [gives2, exec, execSteer, hb]
  by_cases hc : c = 0
  · subst hc; rfl
  · rw [if_neg hc, if_neg hc, if_pos (bne_iff_ne.2 hc)]

/-! ### `merge.first` (R129) -/

/-- The entry of a `merge.first` whose first token has come stands for a firing's slot and tag. -/
def Firing.merging (f : Firing) (m : MergeState) : Bool := m.elem == f.elem && m.slot == f.slot && m.tag == f.tag

/-- The first token of a `merge.first` is noted as forwarded or as a pass token. -/
def State.noteMerge (s : State) (f : Firing) (forwarded : Bool) : State :=
  s.onCore f.core (fun (c : Core) => { c with merges := c.merges ++ [⟨f.elem, f.slot, f.tag, forwarded, f.place⟩] })

/-- A `merge.first` whose second token has come keeps no entry. -/
def State.endMerge (s : State) (f : Firing) : State :=
  s.onCore f.core (fun (c : Core) => { c with merges := c.merges.filter (fun m => !f.merging m) })

/-- The firing brings one of the two tokens of a `merge.first`. -/
def State.bringsOne (s : State) (w : SlotWord) (v : Val) : Prop :=
  (s.mergeSide s.fire w.a s.fire.a = some v ∧ s.mergeSide s.fire w.b s.fire.b = none) ∨
    (s.mergeSide s.fire w.a s.fire.a = none ∧ s.mergeSide s.fire w.b s.fire.b = some v)

theorem mergeSide_none (f : Firing) : s.mergeSide f .token none = none := rfl

theorem mergeSide_of_alive {f : Firing} (h : (s.ft f).dead = false) (v : Val) : s.mergeSide f .token (some v) = some v :=
  congrArg some (operand_token_of_alive h v)

theorem bringsOne_of_alive {v : Val} (h : (s.ft s.fire).dead = false) (ha : w.a = .token) (hb : w.b = .token)
    (hv : (s.fire.a = some v ∧ s.fire.b = none) ∨ (s.fire.a = none ∧ s.fire.b = some v)) : s.bringsOne w v := by
  rw [State.bringsOne, ha, hb]
  obtain ⟨hfa, hfb⟩ | ⟨hfa, hfb⟩ := hv
  · rw [hfa, hfb]; exact .inl ⟨mergeSide_of_alive h v, mergeSide_none _⟩
  · rw [hfa, hfb]; exact .inr ⟨mergeSide_none _, mergeSide_of_alive h v⟩

/-- The first of the two tokens is forwarded unless it is a pass token. -/
theorem mergeFirst_of_first {v : Val} (h : s.bringsOne w v) (hm : (s.core s.fire.core).merges.find? s.fire.merging = none) :
    exec (.mergeFirst w) s = .next
      (if v = .pass then s.noteMerge s.fire false else (s.noteMerge s.fire true).emit2 s.fire w v v) := by
  have hnoted : exec (.mergeFirst w) s = .next (if v = .pass then s.noteMerge s.fire (v != .pass)
      else (s.noteMerge s.fire (v != .pass)).emit2 s.fire w v v) := by
    unfold Firing.merging at hm
    obtain ⟨ha, hb⟩ | ⟨ha, hb⟩ := h
    all_goals
      simp only [exec, execMergeFirst, ha, hb, hm]
      rfl
  rw [hnoted]
  by_cases hv : v = .pass
  · rw [if_pos hv, if_pos hv, hv]; rfl
  · rw [if_neg hv, if_neg hv, bne_iff_ne.2 hv]

/-- The second is forwarded when the first was a pass token, and absorbed otherwise. -/
theorem mergeFirst_of_second {v : Val} {m : MergeState} (h : s.bringsOne w v)
    (hm : (s.core s.fire.core).merges.find? s.fire.merging = some m) :
    exec (.mergeFirst w) s = .next (if m.forwarded then s.endMerge s.fire else (s.endMerge s.fire).emit2 s.fire w v v) := by
  unfold Firing.merging at hm
  obtain ⟨ha, hb⟩ | ⟨ha, hb⟩ := h
  all_goals
    simp only [exec, execMergeFirst, ha, hb, hm]
    rfl

end

end Sys2Proof.Machine

namespace Sys2Proof.Proofs
open Sys2Proof.Machine

/-- Settles O27: each instruction by its own lemma; `merge.first` by whether its entry stands already. -/
theorem routingInstructions : Obligations.RoutingInstructions := by
  intro s w halive
  refine ⟨entry_of_alive halive, lvr_of_triggers, lvw_of_triggers, fan_of_fire, fun c => steer_of_data, rfl, rfl,
    fun v ha hb hv => ?_⟩
  have hone := bringsOne_of_alive halive ha hb hv
  exact ⟨mergeFirst_of_first hone, fun m => mergeFirst_of_second hone⟩

end Sys2Proof.Proofs
end

section
/-! Dependent launch, traps and breakpoints (spec 04 R145, R146, R148; 08 R262), and O33. -/

namespace Sys2Proof.Machine
open Sys2Proof.Claims

section
variable {s : State} {w : SlotWord}

theorem gate_of_pass (h : s.opA s.fire w = .pass) : gives (.gate w) s w .pass := by
  simp only [gives, exec, execGate, h, if_true, emitBoth_eq_emit2]

theorem gate_of_open (h : s.opA s.fire w ≠ .pass) (ho : s.gateOpen s.fire = true) : gives (.gate w) s w (s.opA s.fire w) := by
  simp only [gives, exec, execGate, if_neg h, ho, if_true, emitBoth_eq_emit2]

theorem gate_of_closed (h : s.opA s.fire w ≠ .pass) (ho : s.gateOpen s.fire = false) :
    exec (.gate w) s = .next (s.park s.fire .predecessors) := by
  simp [exec, execGate, h, ho]

theorem release_of_pass (h : s.opA s.fire w = .pass) : gives (.release w) s w .pass := by
  simp only [gives, exec, execRelease, h, if_true, emitBoth_eq_emit2]

theorem release_of_pending (h : s.opA s.fire w ≠ .pass) (hp : s.earlierPending s.fire = true) :
    exec (.release w) s = .next (s.parkRelease s.fire 0 (.va 0)) := by
  simp only [exec, execRelease, if_neg h, hp, if_true]

/-- The mark on a thread leaves the launch and the workgroup whose release it may complete. -/
theorem release_of_performed (h : s.opA s.fire w ≠ .pass) (hp : s.earlierPending s.fire = false) (ho : s.owns s.fire = true) :
    exec (.release w) s = .next
      (((s.onThread s.fire.core s.fire.thread (fun t => { t with released := true })).wgReleases (s.ft s.fire).launch
        (s.ft s.fire).wgid).emit2 s.fire w (s.opA s.fire w) (s.opA s.fire w)) := by
  simp [exec, execRelease, h, hp, ho, State.ft, emitBoth_eq_emit2]

section
variable (hgo : s.go s.fire w = .fire)
include hgo

theorem trap_of_pass (h : s.opA s.fire w = .pass) : exec (.trap w) s = .next s := by
  simp only [exec, execTrap, hgo, h, if_true]

theorem trap_of_data {x : Dword} (h : s.opA s.fire w = .data x) :
    exec (.trap w) s = .next (s.commit s.fire 0x34 .none (some x.toNat) 0) := by
  simp [exec, execTrap, hgo, h, Val.payload]

theorem brk_of_pass (h : s.opA s.fire w = .pass) : exec (.brk w) s = .next s := by
  simp only [exec, execBrk, hgo, h, if_true]

end

theorem brk_of_triggers (h : triggers s w) : exec (.brk w) s = .next (s.commit s.fire 0x35 .none (some (w.immBits 15 0)) 0) := by
  obtain ⟨hgo, ha⟩ := h
  simp only [exec, execBrk, hgo, if_neg ha]

end

end Sys2Proof.Machine

namespace Sys2Proof.Proofs
open Sys2Proof.Machine

/-- Settles O33, each instruction by the token and the wait that it meets. -/
theorem gatesAndTraps : Obligations.GatesAndTraps := by
  intro s w
  exact ⟨gate_of_open, gate_of_closed, release_of_pending, release_of_performed, fun h => ⟨gate_of_pass h, release_of_pass h⟩,
    fun x hgo => trap_of_data hgo, brk_of_triggers, fun hgo h => ⟨trap_of_pass hgo h, brk_of_pass hgo h⟩⟩

end Sys2Proof.Proofs
end

section
/-! Barriers (spec 04 R143, R144; 06 R186), and O32. -/

namespace Sys2Proof.Machine

/-! ### A thread at a barrier (R143) -/

/-- The bit of one barrier among the sixteen. -/
theorem barrierBit_eq (b : Nat) : BitVec.ofNat 16 (2 ^ b) = BitVec.twoPow 16 b :=
  BitVec.eq_of_toNat_eq (by rw [BitVec.toNat_ofNat, BitVec.toNat_twoPow])

theorem arrive_of_first {t : Thread} {b : Nat} (h : t.arrived.getLsbD b = false) :
    t.arrive b = { t with arrived := t.arrived ||| .twoPow 16 b } := by
  rw [Thread.arrive, h, barrierBit_eq]; rfl

theorem arrive_of_arrived {t : Thread} {b : Nat} (h : t.arrived.getLsbD b = true) :
    t.arrive b = { t with arrivedAgain := t.arrivedAgain ||| .twoPow 16 b } := by
  rw [Thread.arrive, h, barrierBit_eq]; rfl

/-- The arrivals that a phase counted are cleared, and those for the next one take their place. -/
theorem phaseEnds_masks (t : Thread) (b now : Nat) :
    (t.phaseEnds b now).arrived = (t.arrived &&& ~~~.twoPow 16 b) ||| (t.arrivedAgain &&& .twoPow 16 b) ∧
      (t.phaseEnds b now).arrivedAgain = t.arrivedAgain &&& ~~~.twoPow 16 b := by
  rw [Thread.phaseEnds, barrierBit_eq]
  dsimp only
  split <;> exact ⟨rfl, rfl⟩

section
variable (t : Thread) {j : Nat} (b now : Nat) (hj : j < 16)
include hj

theorem arrive_arrived : (t.arrive b).arrived.getLsbD j = (t.arrived.getLsbD j || decide (j = b)) := by
  cases hb : t.arrived.getLsbD b
  · simp [arrive_of_first hb, hj]
  · rw [arrive_of_arrived hb]
    by_cases hjb : j = b <;> simp [hjb, hb]

theorem arrive_arrivedAgain :
    (t.arrive b).arrivedAgain.getLsbD j = (t.arrivedAgain.getLsbD j || (decide (j = b) && t.arrived.getLsbD b)) := by
  cases hb : t.arrived.getLsbD b
  · simp [arrive_of_first hb]
  · simp [arrive_of_arrived hb, hj]

theorem phaseEnds_arrived : (t.phaseEnds b now).arrived.getLsbD j =
    if j = b then t.arrivedAgain.getLsbD b else t.arrived.getLsbD j := by
  rw [(phaseEnds_masks t b now).1]
  by_cases hjb : j = b
  · subst hjb; simp [hj]
  · simp [hj, hjb]

theorem phaseEnds_arrivedAgain :
    (t.phaseEnds b now).arrivedAgain.getLsbD j = (t.arrivedAgain.getLsbD j && decide (j ≠ b)) := by
  rw [(phaseEnds_masks t b now).2]
  simp [hj]

end

theorem phaseEnds_of_parked {t : Thread} {b : Nat} (now : Nat) (hs : t.state = .parked) (hb : t.barrier = some b) :
    (t.phaseEnds b now).state = .waiting ∧ (t.phaseEnds b now).barrier = none ∧ (t.phaseEnds b now).next = t.next := by
  simp [Thread.phaseEnds, hs, hb]

theorem phaseEnds_state_of_other {t : Thread} {b : Nat} (now : Nat) (h : t.state ≠ .parked ∨ t.barrier ≠ some b) :
    (t.phaseEnds b now).state = t.state := by
  simp [Thread.phaseEnds, not_and_or.2 h]

/-! ### What a `bar` does to its thread and its workgroup (R143, R144, R186) -/

section
variable {s : State} {f : Firing} {arrives : Bool} {g : Thread → Thread}

/-- An arrival waits for the accesses of earlier loads. -/
theorem atBarrier_of_pending (h : s.earlierPending f = true) : s.atBarrier f true g = s.park f .release := by
  simp [State.atBarrier, h]

theorem atBarrier_of_performed (h : s.earlierPending f = false) :
    s.atBarrier f arrives g = (s.leave f g).barriers (s.ft f).launch (s.ft f).wgid := by
  simp [State.atBarrier, h]

/-- A `bar.wait` arrives nowhere and waits for no access. -/
theorem atBarrier_of_wait : s.atBarrier f false g = (s.leave f g).barriers (s.ft f).launch (s.ft f).wgid := rfl

end

section
variable {s : State} (w : SlotWord) (h : s.terminates s.fire = true)
include h

theorem execBarSync_eq : exec (.barSync w) s = .next
    (s.atBarrier s.fire true (fun t => (t.arrive (w.immBits 11 8)).parkAt (w.immBits 11 8) (w.immBits 6 0))) := if_pos h

/-- A thread that arrives for the next phase stays until its own completes. -/
theorem execBarArrive_eq : exec (.barArrive w) s = .next (s.atBarrier s.fire true
    (if (s.ft s.fire).arrived.getLsbD (w.immBits 11 8)
     then fun t => (t.arrive (w.immBits 11 8)).parkAt (w.immBits 11 8) (w.immBits 6 0)
     else fun t => (t.arrive (w.immBits 11 8)).passAt (w.immBits 6 0) s.time)) := by
  refine (if_pos h).trans ?_
  split <;> rfl

theorem execBarWait_eq : exec (.barWait w) s = .next (s.atBarrier s.fire false
    (if (s.ft s.fire).arrived.getLsbD (w.immBits 11 8)
     then fun t => t.parkAt (w.immBits 11 8) (w.immBits 6 0)
     else fun t => t.passAt (w.immBits 6 0) s.time)) := by
  refine (if_pos h).trans ?_
  split <;> rfl

end

end Sys2Proof.Machine

namespace Sys2Proof.Proofs
open Sys2Proof.Machine

/-- Settles O32: an arrival parks or leaves by `atBarrier`, and each bit of the two masks is one barrier's (`barrierBit_eq`). -/
theorem barriers : Obligations.Barriers := by
  refine ⟨fun s w ht => ?_, fun t b j now _ hj => ?_⟩
  · rw [execBarSync_eq w ht, execBarArrive_eq w ht, execBarWait_eq w ht]
    refine ⟨fun hp => ?_, fun hp => ⟨?_, fun ha => ?_, fun ha => ?_⟩, fun ha => ?_, fun ha => ?_⟩
    · rw [atBarrier_of_pending hp, atBarrier_of_pending hp]
      exact ⟨rfl, rfl⟩
    · rw [atBarrier_of_performed hp]
    · rw [atBarrier_of_performed hp, ha]; rfl
    · rw [atBarrier_of_performed hp, ha]; rfl
    · rw [atBarrier_of_wait, ha]; rfl
    · rw [atBarrier_of_wait, ha]; rfl
  · exact ⟨arrive_arrived t b hj, arrive_arrivedAgain t b hj, phaseEnds_arrived t b now hj, phaseEnds_arrivedAgain t b now hj,
      phaseEnds_of_parked now, phaseEnds_state_of_other now⟩

end Sys2Proof.Proofs
end

section
/-! Float signs, comparisons and conversions (spec 05 R152, R154 to R157), the float mode and the catching of errors (R160 to R162), and
O23 and O24. -/

namespace Sys2Proof.Machine
open Sys2Proof.Claims

section
variable {s : State} {w : SlotWord}

/-- On data operands a value instruction gives what its function computes, a value to each destination. -/
theorem gives2_of_value2 {a b c : Dword} {i : Instr} {g : Dword → Dword → Dword → Val × Val} {v0 v1 : Val}
    (h : acts s w a b c) (he : exec i s = .next (s.value2 s.fire w g)) (hv : g a b c = (v0, v1)) : gives2 i s w v0 v1 := by
  rw [gives2, he, value2_of_acts h, hv]

/-! ### `fpmode` (R160, R161) -/

theorem fpmodeImm_of_triggers (h : triggers s w) : exec (.fpmodeImm w) s = .next (s.setFpmode w (BitVec.ofNat 8 (w.immBits 3 0))) :=
  congrArg Host.Outcome.next (triggered_of_triggers h _)

section
variable (hgo : s.go s.fire w = .fire)
include hgo

theorem fpmodeVal_of_data {x : Dword} (ha : s.opA s.fire w = .data x) :
    exec (.fpmodeVal w) s = .next (s.setFpmode w (fpmodeFrom (s.ft s.fire).fpmode x)) := by
  simp only [exec, execFpmodeVal, triggered_of_triggers ⟨hgo, by simp [ha]⟩, ha]

theorem fpmodeVal_of_error {k : Sub} (ha : s.opA s.fire w = .err k) : gives (.fpmodeVal w) s w (.err k) := by
  simp only [gives, exec, execFpmodeVal, triggered_of_triggers ⟨hgo, by simp [ha]⟩, ha, emitBoth_eq_emit2]

/-! ### `ecatch` (R162) -/

theorem ecatch_of_data {x : Dword} (ha : s.opA s.fire w = .data x) : gives2 (.ecatch w) s w (.data x) (.data 0) := by
  simp only [gives2, exec, execEcatch, hgo, ha]

/-- The status of an error is its code plus one; only Poison has an image that MOD chooses. -/
theorem ecatch_of_error {k : Sub} (ha : s.opA s.fire w = .err k) : gives2 (.ecatch w) s w
    (bitsVal w.ty (if k = .poison ∧ w.mod = 1 then 0 else spread w.ty ((fmtOf w.ty).image k)))
    (.data (BitVec.ofNat 64 (k.code + 1))) := by
  simp only [gives2, exec, execEcatch, hgo, ha]
  cases k <;> rfl

end

end

end Sys2Proof.Machine

namespace Sys2Proof.Proofs
open Sys2Proof.Machine

/-- Settles O23: each instruction is a value instruction whose function is the one stated; `ffrexp` computes a value for each
destination. -/
theorem floatSignsAndConversions : Obligations.FloatSignsAndConversions := by
  intro s w a b c h
  exact ⟨gives_of_value h rfl rfl, gives_of_value h rfl rfl, gives_of_value h rfl rfl, gives_of_value h rfl rfl,
    gives_of_value h rfl rfl, gives_of_value h rfl rfl, gives_of_value h rfl rfl, gives_of_value h rfl rfl, gives2_of_value2 h rfl rfl⟩

/-- Settles O24, by the kind of the token on A. -/
theorem fpmodeAndEcatch : Obligations.FpmodeAndEcatch := by
  intro s w
  refine ⟨fpmodeImm_of_triggers, fun x hgo => fpmodeVal_of_data hgo, fun k hgo => fpmodeVal_of_error hgo,
    fun x hgo => ecatch_of_data hgo, fun k hgo ha hk => ?_, fun hgo ha => ?_⟩
  · simpa only [hk, false_and, if_false] using ecatch_of_error hgo ha
  · have hpoison := ecatch_of_error hgo ha
    simp only [true_and] at hpoison
    exact hpoison

end Sys2Proof.Proofs
end

section
/-! The block floating-point instructions (spec 05 R166 to R176), and O26. -/

namespace Sys2Proof.Machine

/-- The entry of the block that an instance's position lies in (R166). -/
def State.blockOf (s : State) (f : Firing) (w : SlotWord) : BlockState := (s.core f.core).block f.elem f.slot (blockTag w f.tag)

/-- A scale to both scale destinations (R165). -/
def State.sendScales (s : State) (f : Firing) (w : SlotWord) (e : Nat) : State := (s.sendScale f w 0 w.d0 e).sendScale f w 1 w.d1 e

/-- The number that a data element denotes under a scale, rounded into the type of the instruction (R60, R172). -/
def State.dequantised (s : State) (w : SlotWord) (e : Nat) (x : Dword) : Val :=
  .data (place w.ty ((fmtOf w.ty).deliver (s.fctx w)
    (mantValue w.mantWidth e (BitVec.ofInt 64 (toSigned w.mantWidth (elemField w.mantWidth x))))))

/-- The image of a block whose elements an entry holds (R173). -/
def BlockState.image (b : BlockState) (w : SlotWord) : Nat := blockImage w.mantWidth w.blockLen ((b.s0.getD 0).toNat) b.vals

/-- The exponent and the elements of a block whose image an entry holds (R174). -/
def BlockState.unpacked (b : BlockState) (w : SlotWord) : Nat × (Nat → Val) :=
  blockUnpack w.mantWidth w.blockLen ((List.range (imageDwords w)).map (fun i => ((b.vals.look i).getD (.pass, .pass)).1))

/-- What the two blocks that an entry holds contribute to a sum (R175): none is Poison. -/
def BlockState.product (b : BlockState) (w : SlotWord) : Option Nat :=
  blockTerm w.mantWidth (w.immBits 18 16 + 1) (b.s0.getD 0).toNat (b.s1.getD 0).toNat ((List.range w.blockLen).map (fun i =>
    (readElem w.mantWidth (b.s0.getD 0).toNat ((b.vals.look i).getD (.pass, .pass)).1,
      readElem (w.immBits 18 16 + 1) (b.s1.getD 0).toNat ((b.vals.look i).getD (.pass, .pass)).2)))

section
variable {s : State} {w : SlotWord}

/-! ### Scales (R168, R169) -/

theorem bmax_of_more (h : (s.blockOf s.fire w).fired + 1 < w.blockLen) : exec (.bmax w) s = .next (s.onCore s.fire.core (fun c =>
    c.setBlock { s.blockOf s.fire w with
      vals := (s.blockOf s.fire w).vals.put (blockPos w s.fire.tag) (s.opA s.fire w, .pass)
      fired := (s.blockOf s.fire w).fired + 1 })) :=
  if_neg h.not_ge

theorem bmax_of_last (h : w.blockLen ≤ (s.blockOf s.fire w).fired + 1) : exec (.bmax w) s = .next
    ((s.onCore s.fire.core (fun c => c.freeBlock s.fire.elem s.fire.slot (blockTag w s.fire.tag))).sendScales s.fire w
      (chosenScale w.ty (((s.blockOf s.fire w).vals.put (blockPos w s.fire.tag) (s.opA s.fire w, .pass)).map (fun v => v.2.1)))) :=
  if_pos h

theorem bscale_elsewhere (h : blockPos w s.fire.tag ≠ 0) : exec (.bscale w) s = .next s := if_neg h

theorem bscale_of_data {v : Dword} (h : blockPos w s.fire.tag = 0) (ha : s.opA s.fire w = .data v) :
    exec (.bscale w) s = .next (s.sendScales s.fire w (min (readBits .n32 v) 254)) := by
  simp only [exec, execBscale, State.sendScales, if_pos h, ha]

theorem bscale_of_error {k : Sub} (h : blockPos w s.fire.tag = 0) (ha : s.opA s.fire w = .err k) :
    exec (.bscale w) s = .next (s.sendScales s.fire w 255) := by
  simp only [exec, execBscale, State.sendScales, if_pos h, ha]

/-! ### Elements that meet their scale (R166, R170, R172) -/

section
variable {e : Byte} {x : Dword} (hs : s.fire.s0 = some e) (ha : s.opA s.fire w = .data x)
include hs ha

theorem withScale_of_data (opc : Nat) (g : Nat → Val → Val) : s.withScale opc w g =
    (s.emit2 s.fire w (g e.toNat (.data x)) (g e.toNat (.data x))).blockFired s.fire opc w := by
  simp only [State.withScale, ha, hs, emitBoth_eq_emit2]

variable (he : e.toNat ≠ 255)
include he

theorem bquant_of_data : exec (.bquant w) s = .next ((s.emit2 s.fire w (quantise w.ty w.mantWidth e.toNat x)
    (quantise w.ty w.mantWidth e.toNat x)).blockFired s.fire 0x62 w) := by
  simp only [exec, execBquant, withScale_of_data hs ha, if_neg he]

theorem bdequant_of_data : exec (.bdequant w) s = .next
    ((s.emit2 s.fire w (s.dequantised w e.toNat x) (s.dequantised w e.toNat x)).blockFired s.fire 0x63 w) := by
  simp only [exec, execBdequant, withScale_of_data hs ha, readElem, if_neg he, State.dequantised]

end

/-! ### Whole blocks (R173 to R175) -/

section
variable {s1 : State}

theorem bpack_of_whole (h1 : s.blockNote s.fire w (s.opA s.fire w) .pass = s1) (hgo : (s1.blockOf s.fire w).go 0x64 w = true)
    (hend : (s1.blockFired s.fire 0x64 w).ended s.fire = false) (hp : blockPos w s.fire.tag < imageDwords w) :
    exec (.bpack w) s = .next ((s1.blockFired s.fire 0x64 w).emit2 s.fire w
      (.data (BitVec.ofNat 64 ((s1.blockOf s.fire w).image w / 2 ^ (64 * blockPos w s.fire.tag))))
      (.data (BitVec.ofNat 64 (min 8 (1 + w.blockLen * w.mantWidth / 8 - 8 * blockPos w s.fire.tag))))) := by
  subst h1
  exact (if_pos hgo).trans (if_neg (by simp [hend, hp]))

/-- Every position sends its element, and position 0 the exponent also. -/
theorem bunpack_of_whole
    (h1 : (if blockPos w s.fire.tag < imageDwords w then s.blockNote s.fire w (s.opA s.fire w) .pass else s) = s1)
    (hgo : (s1.blockOf s.fire w).go 0x65 w = true) (hend : (s1.blockFired s.fire 0x65 w).ended s.fire = false) :
    exec (.bunpack w) s = .next
      (let r := (s1.blockOf s.fire w).unpacked w
       let t := (s1.blockFired s.fire 0x65 w).send s.fire 0 w.d0 false (r.2 (blockPos w s.fire.tag)) s.fire.tag
       if blockPos w s.fire.tag = 0 then t.sendScale s.fire w 1 w.d1 r.1 else t) := by
  subst h1
  refine (if_pos hgo).trans ?_
  simp only [hend, Bool.false_eq_true, if_false, apply_ite Host.Outcome.next]
  rfl

theorem bdot_of_more (h : blockPos w s.fire.tag + 1 < w.blockLen) : exec (.bdot w) s = .next
    (((s.blockNote s.fire w (s.opA s.fire w) (s.opB s.fire w)).emit2 s.fire w (s.opC s.fire w) (s.opC s.fire w)).blockFired
      s.fire 0x66 w) :=
  if_pos h

theorem bdot_of_whole (h1 : s.blockNote s.fire w (s.opA s.fire w) (s.opB s.fire w) = s1)
    (hlast : w.blockLen ≤ blockPos w s.fire.tag + 1) (hgo : (s1.blockOf s.fire w).go 0x66 w = true) {x : Dword} {v : Nat}
    (hc : s.opC s.fire w = .data x) (hv : (s1.blockOf s.fire w).product w = some v) :
    exec (.bdot w) s = .next ((s1.blockFired s.fire 0x66 w).emit2 s.fire w (.data (place .f32 (addF32 (readBits .f32 x) v)))
      (.data (place .f32 (addF32 (readBits .f32 x) v)))) := by
  subst h1
  refine (if_neg hlast.not_gt).trans ((if_pos hgo).trans ?_)
  rw [BlockState.product, State.blockOf] at hv
  simp only [hc, hv, emitBoth_eq_emit2]

end

end

end Sys2Proof.Machine

namespace Sys2Proof.Proofs
open Sys2Proof.Machine

/-- Settles O26: scales by the position, elements by the scale and the block that have come. -/
theorem blockFloatInstructions : Obligations.BlockFloatInstructions := by
  refine ⟨fun s w => ⟨bmax_of_more, bmax_of_last, bscale_elsewhere, fun v => bscale_of_data, fun k => bscale_of_error⟩,
    fun s w e x => ?_⟩
  exact ⟨fun hs he ha => bquant_of_data hs ha he, fun hs he ha => bdequant_of_data hs ha he, bpack_of_whole rfl, bunpack_of_whole rfl,
    bdot_of_more, fun v hlast hgo => bdot_of_whole rfl hlast hgo, rfl⟩

end Sys2Proof.Proofs
end

section
/-! The frame of an access (spec 06 R179 to R194; 10 R287 to R304): neither the launches, graphs and workgroups of the machine
nor, of a core, anything but its CACHE tiles and its micro-TLB change, so that operands read as before. -/

namespace Sys2Proof.Machine

/-- The launches, the running graphs and the workgroups. -/
def State.work (s : State) : List Launch × List Graph × List Workgroup := (s.launches, s.graphs, s.wgs)

theorem foldl_work {α : Type} {f : State → α → State} (hf : ∀ u a, (f u a).work = u.work) (l : List α) (s : State) :
    (l.foldl f s).work = s.work := by
  induction l generalizing s with
  | nil => rfl
  | cons a l ih => exact (ih (f s a)).trans (hf s a)

/-- A change of other fields. -/
theorem work_of_eq {s t u : State} (h : t.work = s.work) (hu : (u.launches, u.graphs, u.wgs) = (t.launches, t.graphs, t.wgs)) :
    u.work = s.work := hu.trans h

theorem ite_work {p : Prop} [Decidable p] {s t u : State} (ht : t.work = s.work) (hu : u.work = s.work) :
    (if p then t else u).work = s.work := by
  split
  · exact ht
  · exact hu

section
variable (s : State)

/-! ### Memory and the die slices -/

theorem burstSense_work (b : Nat) : (s.burstSense b).work = s.work := ite_work rfl rfl

theorem dramSense_work (n : Nat) : (s.dramSense n).work = s.work := foldl_work burstSense_work _ s

theorem fenceSense_work (n : Nat) : (s.fenceSense n).work = s.work := ite_work rfl rfl

theorem dramPut_work (n : Nat) (d : Dword) (p : Bool) : (s.dramPut n d p).work = s.work := ite_work rfl rfl

theorem dramPrepare_work (ns : List Nat) : (s.dramPrepare ns).work = s.work :=
  foldl_work (fun u n => by
    dsimp only
    split
    · rfl
    · exact burstSense_work u _) _ s

theorem dirRelease_work (line : Nat) : (s.dirRelease line).work = s.work := ite_work rfl rfl

theorem dropWords_work (die : Nat) (ns : List Nat) : (s.dropWords die ns).work = s.work := by
  refine (foldl_work (fun u n => ?_) _ _).trans (dramPrepare_work s _)
  split
  · rfl
  · split
    · rfl
    · dsimp only
      split
      · split <;> exact dramPut_work _ _ _ _
      · split <;> rfl

theorem evict_work (die line : Nat) (ns : List Nat) : (s.evict die line ns).work = s.work :=
  (dirRelease_work _ line).trans (ite_work (dropWords_work s die ns) (dropWords_work s die ns))

theorem recall_work (line : Nat) : (s.recall line).work = s.work := by
  have hall := foldl_work (f := fun s d => s.evict d line (lineWords line 0xFFFF)) (fun u d => evict_work u d line _) dies s
  unfold State.recall
  generalize dies.foldl _ s = u at hall ⊢
  exact hall

theorem dirEnsure_work (line : Nat) : (s.dirEnsure line).work = s.work := by
  unfold State.dirEnsure
  dsimp only
  split
  · rfl
  · split
    · rfl
    · split
      · rfl
      · split
        · rfl
        · exact recall_work _ _

theorem remoteSend_work (die dev n : Nat) : (s.remoteSend die dev n).work = s.work := by
  unfold State.remoteSend
  split
  · rfl
  · exact ite_work rfl (ite_work (s := s) (t := s.remoteHome dev n _) rfl rfl)

theorem hostGive_work (half : Nat) : (s.hostGive half).work = s.work := by
  unfold State.hostGive
  split
  · rfl
  · exact (foldl_work (f := fun s i => s.dropL1 _ (hostL1Key (8 * half + i))) (fun _ _ => rfl) _ _).trans (by rfl)

theorem evictAny_work (die line : Nat) : (s.evictAny die line).work = s.work := by
  unfold State.evictAny
  dsimp only
  split
  · exact evict_work s _ _ _
  · split
    · refine (foldl_work (fun u h => ?_) _ _).trans (by rfl)
      split
      · exact hostGive_work u h
      · rfl
    · exact (foldl_work (fun u i => remoteSend_work u _ _ _) _ _).trans (by rfl)

theorem touchLine_work (die line : Nat) : (s.touchLine die line).work = s.work := by
  unfold State.touchLine
  dsimp only
  split
  · split
    · exact (evictAny_work _ _ _).trans (by rfl)
    · rfl
  · rfl

theorem request_work (die n : Nat) : (s.request die n).work = s.work :=
  (touchLine_work _ _ _).trans (dirEnsure_work (s.hostYield n) _)

theorem getS_work (die n : Nat) : (s.getS die n).work = s.work := by
  unfold State.getS
  refine ite_work (touchLine_work s _ _) (ite_work (fenceSense_work s n) ?_)
  dsimp only
  split
  · exact work_of_eq ((dramSense_work (s.request die n) n).trans (request_work s die n)) (by rfl)
  · exact work_of_eq (request_work s die n) (by rfl)

theorem getM_work (die n : Nat) (whole : Bool) : (s.getM die n whole).work = s.work := by
  have hin : (if s.moesi die n == some .m || s.moesi die n == some .e then s.touchLine die (n / 16) else s.request die n).work =
      s.work := ite_work (touchLine_work s _ _) (request_work s _ _)
  have hall := fun u : State => foldl_work (f := fun s d => s.dropL1 d n) (fun _ _ => rfl)
    (dies.filter (fun d => d != die && u.dieHolds d n)) u
  exact ite_work ((dramSense_work _ n).trans ((hall _).trans hin)) ((hall _).trans hin)

theorem storeWord_work (die n off : Nat) (bs : List Byte) : (s.storeWord die n off bs).work = s.work :=
  ite_work (fenceSense_work s n) (getM_work s die n _)

theorem hubStore_work (pa : Nat) (bs : List Byte) : (s.hubStore pa bs).work = s.work :=
  foldl_work (fun u _ => storeWord_work u _ _ _ _) _ s

theorem hubFetch_work (pa n : Nat) : (s.hubFetch pa n).work = s.work := foldl_work (fun u _ => getS_work u _ _) _ s

theorem hostPut_work (ba : Nat) (bs : List Byte) : (s.hostPut ba bs).work = s.work := by
  unfold State.hostPut
  split
  · exact work_of_eq (foldl_work (fun u _ => hostGive_work u _) _ s) (by rfl)
  · rfl

/-! ### Reports -/

theorem hostRing_work (kind key : Nat) (p : Dword) (launch : Nat) : (s.hostRing kind key p launch).work = s.work := by
  unfold State.hostRing
  dsimp only
  split
  · with_reducible exact work_of_eq (hostPut_work s _ _) (by rfl)
  · rfl

theorem engineToken_work (e : Event) : (s.engineToken e).work = s.work := ite_work rfl (ite_work rfl rfl)

theorem raiseEvent_work (kind key : Nat) (p : Dword) (launch : Nat) : (s.raiseEvent kind key p launch).work = s.work :=
  ite_work (hostRing_work s _ _ _ _) (ite_work ((hostRing_work _ _ _ _ _).trans (engineToken_work s _))
    (ite_work (hostRing_work s _ _ _ _) (engineToken_work s _)))

theorem hubStoreBeside_work (pa : Nat) (bs : List Byte) : (s.hubStoreBeside pa bs).work = s.work :=
  work_of_eq (hubStore_work { s with access := (.write, 0) } pa bs) (by rfl)

section
variable {r : FaultRec} (hr : r.cls = 3) (hold : Option Nat)
include hr

/-- A record of class 3 belongs to no launch (R364). -/
theorem fqWrite_work : (s.fqWrite r hold).work = s.work := by
  have hput : ∀ b pa bs, (if natBit s.fqBase.toNat 63 = b then s.hostPut pa bs else s.hubStoreBeside pa bs).work = s.work :=
    fun b pa bs => ite_work (hostPut_work s pa bs) (hubStoreBeside_work s pa bs)
  unfold State.fqWrite
  refine (raiseEvent_work _ _ _ _ _).trans ?_
  have hrec := hput true (natBits s.fqBase.toNat 51 12 * 4096 + 64 * (s.fqWr.toNat % s.fqEntries))
    ({ r with seq := some s.fqWr.toNat } : FaultRec).bytes
  dsimp only
  generalize (if natBit s.fqBase.toNat 63 = true then _ else _ : State) = u at hrec ⊢
  rw [if_neg (by simp [hr])]
  exact work_of_eq hrec (by rfl)

theorem fqPost_work : (s.fqPost r hold).work = s.work := by
  unfold State.fqPost
  rw [if_pos hr]
  split
  · exact work_of_eq (s := s) rfl (by rfl)
  · exact fqWrite_work s hr hold

end

theorem settle_work : s.settle.work = s.work := by
  refine foldl_work (fun u e => (fqPost_work _ ?_ _).trans ?_) s.detected { s with detected := [] }
  · rfl
  · exact ite_work rfl rfl

/-! ### Translation -/

/-- A read of a table by the hub die (R375). -/
theorem tableRead_work (pa n : Nat) : ((s.accessAs .walk s.access.2).hubFetch pa n).settle.work = s.work :=
  (settle_work _).trans (hubFetch_work (s.accessAs .walk s.access.2) pa n)

theorem walkLevels_work (fuel : Nat) (ctx va lvl hi base : Nat) : (State.walkLevels fuel s ctx va lvl hi base).1.work = s.work := by
  induction fuel generalizing s lvl hi base with
  | zero => rfl
  | succ fuel ih =>
    unfold State.walkLevels
    dsimp only
    split
    · exact tableRead_work s _ _
    · split
      · exact tableRead_work s _ _
      · split
        · exact tableRead_work s _ _
        · split
          · exact tableRead_work s _ _
          · exact (ih _ _ _ _).trans (tableRead_work s _ _)

theorem walk_work (ctx va : Nat) : (s.walk ctx va).1.work = s.work := by
  unfold State.walk
  dsimp only
  split
  · exact tableRead_work s _ _
  · split
    · exact tableRead_work s _ _
    · split
      · exact tableRead_work s _ _
      · split
        · exact tableRead_work s _ _
        · exact (walkLevels_work _ 4 _ _ _ _ _).trans (tableRead_work s _ _)

theorem translate_work (core ctx va : Nat) (rd wr : Bool) : (s.translate core ctx va rd wr).1.work = s.work := by
  have hwalk := walk_work s ctx va
  unfold State.translate
  dsimp only
  split
  · rfl
  · split
    · rfl
    · split
      · rfl
      · split
        case h_1 hw =>
          rw [hw] at hwalk
          split <;> exact hwalk
        case h_2 hw => rw [hw] at hwalk; exact hwalk
        case h_3 hw => rw [hw] at hwalk; exact hwalk

theorem locateCtx_work (k ctx : Nat) (x : Target) (rd wr : Bool) : (s.locateCtx k ctx x rd wr).1.work = s.work := by
  unfold State.locateCtx
  split
  · rfl
  · rename_i a
    have htr := translate_work s k ctx a rd wr
    split <;> rename_i hx <;> rw [hx] at htr
    · split
      · split <;> exact htr
      · split <;> exact htr
      · exact htr
    all_goals exact htr

theorem locateOf_work (f : Firing) (x : Target) (rd wr : Bool) : (s.locateOf f x rd wr).1.work = s.work := by
  unfold State.locateOf
  split
  · exact locateCtx_work (s.accessAs _ _) _ _ _ _ _
  · exact locateCtx_work (s.accessAs _ _) _ _ _ _ _

end

/-! ### The cores -/

section
variable {s t : State}

theorem State.stands.accessAs (h : s.stands t) (kind : AccessKind) (launch : Nat) : s.stands (t.accessAs kind launch) := h.of_eq (by rfl)

theorem State.stands.locateCtx (h : s.stands t) (k ctx : Nat) (x : Target) (rd wr : Bool) :
    s.stands (t.locateCtx k ctx x rd wr).1 := by
  unfold State.locateCtx
  split
  · exact h
  · rename_i a
    have htr := h.translate k ctx a rd wr
    split <;> rename_i hx <;> rw [hx] at htr
    · split
      · split <;> exact htr
      · split <;> exact htr
      · exact htr
    all_goals exact htr

theorem State.stands.locate (h : s.stands t) (k n : Nat) (x : Target) (rd wr : Bool) : s.stands (t.locate k n x rd wr).1 :=
  (h.accessAs _ _).locateCtx _ _ _ _ _

theorem State.stands.locateOf (h : s.stands t) (f : Firing) (x : Target) (rd wr : Bool) : s.stands (t.locateOf f x rd wr).1 := by
  unfold State.locateOf
  split
  · exact (h.accessAs _ _).locateCtx _ _ _ _ _
  · exact h.locate _ _ _ _ _

theorem State.stands.devFetch (h : s.stands t) (die pa n : Nat) : s.stands (t.devFetch die pa n) :=
  foldl_stands h (fun _ _ hu => hu.getS _ _)

theorem State.stands.devOwn (h : s.stands t) (die : Nat) (ns : List Nat) : s.stands (t.devOwn die ns) := by
  refine foldl_stands h (fun u n hu => ?_)
  split
  · exact hu.fenceSense n
  · exact hu.getM _ _ _

theorem State.stands.remoteWriteBack (h : s.stands t) (die : Nat) : s.stands (t.remoteWriteBack die) := by
  refine foldl_stands h (fun u kw hu => ?_)
  dsimp only
  split
  · exact hu.of_eq (by rfl)
  · exact hu

theorem State.stands.remoteInvalidate (h : s.stands t) (die : Nat) : s.stands (t.remoteInvalidate die) := by
  unfold State.remoteInvalidate
  exact State.stands.onDie ((h.remoteWriteBack die).of_eq (by rfl)) die (fun _ => rfl)

theorem State.stands.releaseActs (h : s.stands t) (f : Firing) (o : Ordering3) (c : Scope) : s.stands (t.releaseActs f o c) := by
  unfold State.releaseActs
  split
  · exact h.remoteWriteBack _
  · exact h

theorem State.stands.acquireActs (h : s.stands t) (f : Firing) (o : Ordering3) (c : Scope) : s.stands (t.acquireActs f o c) := by
  unfold State.acquireActs
  split
  · exact h.remoteInvalidate _
  · exact h

theorem State.stands.readAt (h : s.stands t) (kind : AccessKind) (f : Firing) (q : Place) (n : Nat) :
    s.stands (t.readAt kind f q n).1 := by
  unfold State.readAt State.readPlace
  cases q
  · exact ((h.accessAs _ _).devFetch _ _ _).settle
  · exact h.hostOwn _ _ _
  · exact foldl_stands h (fun _ _ hu => hu.remoteFetch _ _ _)
  · exact h

section
variable {q : Place} (hq : ∀ k off, q ≠ .spad k off)
include hq

theorem State.stands.writeAt (h : s.stands t) (kind : AccessKind) (f : Firing) (bs : List Byte) : s.stands (t.writeAt kind f q bs) := by
  unfold State.writeAt State.writePlace
  cases q
  case spad k off => exact absurd rfl (hq k off)
  · exact ((h.accessAs _ _).devStore _ _ _).settle
  · exact h.hostWrite _ _ _
  · exact h.remoteStore _ _ _ _

theorem State.stands.ownPlace (h : s.stands t) (f : Firing) (n : Nat) : s.stands (t.ownPlace f q n) := by
  unfold State.ownPlace
  split
  · exact ((h.accessAs _ _).devOwn _ _).settle
  · exact h

theorem State.stands.rmwAt (h : s.stands t) (f : Firing) (n : Nat) (g : Nat → Option Nat) : s.stands (t.rmwAt f q n g).1 := by
  unfold State.rmwAt
  split
  case h_1 dev a =>
    have hsent : s.stands ((dwordsOf a n).foldl (fun s i => s.remoteSend (dieOf f.core) dev i) t) :=
      foldl_stands h (fun _ _ hu => hu.remoteSend _ _ _)
    dsimp only
    split
    · exact hsent
    · split
      · exact hsent.of_eq (by rfl)
      · exact hsent
  · have hread := (h.ownPlace hq f n).readAt .rmw f q n
    split <;> rename_i hx <;> rw [hx] at hread
    · exact hread
    · split
      · exact hread.writeAt hq _ _ _
      · exact hread

end

/-! ### What a firing reads of its core and its launch -/

theorem State.stands.load (h : s.stands t) (k : Nat) : (t.core k).load = (s.core k).load := by
  rw [(h.core k : t.core k = _)]
  rfl

theorem State.stands.spanOf (h : s.stands t) (k n : Nat) : (t.core k).spanOf n = (s.core k).spanOf n := by
  rw [(h.core k : t.core k = _)]
  rfl

theorem State.stands.casTail (h : s.stands t) (f : Firing) : t.casTail f = s.casTail f := by
  simp only [State.casTail, h.load]

section
variable (hw : t.work = s.work)
include hw

theorem graph?_of_work (id : Nat) : t.graph? id = s.graph? id := congrArg (fun x => x.2.1.find? (fun (g : Graph) => g.launch == id)) hw

theorem launch?_of_work (id : Nat) : t.launch? id = s.launch? id := congrArg (fun x => x.1.find? (fun (l : Launch) => l.id == id)) hw

theorem wg?_of_work (launch wgid : Nat) : t.wg? launch wgid = s.wg? launch wgid :=
  congrArg (fun x => x.2.2.find? (fun (g : Workgroup) => g.launch == launch && g.wgid == wgid)) hw

theorem dims_of_work (th : Thread) : t.dims th = s.dims th := by
  simp only [State.dims, graph?_of_work hw, launch?_of_work hw]

theorem paramOf_of_work (th : Thread) : t.paramOf th = s.paramOf th := by
  simp only [State.paramOf, graph?_of_work hw, launch?_of_work hw, wg?_of_work hw]

variable (h : s.stands t)
include h

theorem constVal_of_stands (f : Firing) (c : ThreadConst) : t.constVal f c = s.constVal f c := by
  have hft : t.ft f = s.ft f := h.thread f.core f.thread
  unfold State.constVal
  simp only [hft, h.spanOf, dims_of_work hw, paramOf_of_work hw, graph?_of_work hw, wg?_of_work hw]

/-- An operand is the same before and after. -/
theorem operand_of_stands (f : Firing) (x : Src) (tok : Option Val) : t.operand f x tok = s.operand f x tok := by
  have hft : t.ft f = s.ft f := h.thread f.core f.thread
  have hended : t.ended f = s.ended f := by rw [State.ended, hft]; rfl
  cases x with
  | token => simp only [State.operand, hended]
  | pool i => simp only [State.operand, Core.poolEntry, h.load]
  | absent => rfl
  | const c => simp only [State.operand, constVal_of_stands hw h]

end

end

end Sys2Proof.Machine
end

section
/-! Loads, stores and atomics at their place (spec 06 R186 to R194), and O35. -/

namespace Sys2Proof.Machine

/-! ### The place of an access, and the release before it (R179, R186) -/

section
variable {s s' : State} {f : Firing} {w : SlotWord} {n g : Nat} {x : Target} {q : Place} {v : Val} {kind : AccessKind} {rd wr : Bool}
  {k : State → Nat → Place → State}

theorem operand_of_located {r : Except Stop Place} (hl : s.locateOf f x rd wr = (s', r)) (y : Src) (tok : Option Val) :
    s'.operand f y tok = s.operand f y tok := by
  have hw := locateOf_work s f x rd wr
  have hs := s.stands_refl.locateOf f x rd wr
  rw [hl] at hw hs
  exact operand_of_stands hw hs f y tok

/-- An access is a release. -/
def releases (w : SlotWord) : Prop := w.ordering = .rel ∨ w.ordering = .ar

/-- Nothing of an earlier load stands before an access: it is no release, or those accesses have performed (R186). -/
def State.unhindered (s : State) (f : Firing) (w : SlotWord) : Prop := ¬ releases w ∨ s.earlierPending f = false

theorem withPlace_of_read (ht : s.targetOf f w n v = .ok (g, x)) (hl : s.locateOf f x rd false = (s', .ok q)) :
    s.withPlace f w n kind rd false v k = k s' g q := by
  simp only [State.withPlace, ht, hl, Bool.false_and, Bool.false_eq_true, if_false]

theorem withPlace_of_write (ht : s.targetOf f w n v = .ok (g, x)) (hr : s.unhindered f w) (hl : s.locateOf f x rd true = (s', .ok q)) :
    s.withPlace f w n kind rd true v k = k s' g q := by
  have hgo : (true && (w.ordering == .rel || w.ordering == .ar) && s.earlierPending f) = false := by
    rcases hr with h | h
    · rw [releases, not_or] at h
      simp [h]
    · simp [h]
  simp only [State.withPlace, ht, hl, hgo, Bool.false_eq_true, if_false]

theorem withPlace_of_pending (ht : s.targetOf f w n v = .ok (g, x)) (hr : releases w) (hp : s.earlierPending f = true) :
    s.withPlace f w n kind rd true v k = s.parkRelease f g x := by
  have hwait : (w.ordering == .rel || w.ordering == .ar) = true := by simpa [releases] using hr
  simp only [State.withPlace, ht, hwait, hp, Bool.and_self, if_true]

end

section
variable {s : State} {f : Firing} {o : Ordering3} {c : Scope} {kind : AccessKind} {va : Option Nat} {g : State → State}

theorem releasing_of_clear (h : s.releaseBlocked f o c = none) : s.releasing f o c kind va g = g (s.releaseActs f o c) := by
  simp only [State.releasing, h]

theorem releasing_of_silent {dev : Nat} (h : s.releaseBlocked f o c = some dev) :
    s.releasing f o c kind va g = s.commit f 0x71 kind va dev := by
  simp only [State.releasing, h]

end

section
variable {s s' : State} {w : SlotWord} {g : Nat} {x : Target} {q : Place} (hgo : s.go s.fire w = .fire) (hA : s.opA s.fire w ≠ .pass)
include hgo hA

/-! ### `ld` (R189, R293, R294) -/

section
variable (ht : s.targetOf s.fire w w.ty.bytes (s.opA s.fire w) = .ok (g, x)) (hl : s.locateOf s.fire x true false = (s', .ok q))
include ht hl

theorem ld_of_spad {k off : Nat} (hq : q = .spad k off) :
    exec (.ld w) s = .next (s'.spadSend s.fire k off w.ty.bytes (.read w.ty) (acquires w)).settle := by
  show execLd w s = _
  rw [execLd, operation_of_fire hgo (by simpa using hA.symm), withPlace_of_read ht hl, hq]

variable (hq : ∀ k off, q ≠ .spad k off)
include hq

theorem ld_of_direct (hd : s'.lookup s.fire q = .direct) : exec (.ld w) s = .next
    ((s'.readAt .read s.fire q w.ty.bytes).1.deliver s.fire w (s'.readAt .read s.fire q w.ty.bytes).2.1
      (s'.readAt .read s.fire q w.ty.bytes).2.2).settle := by
  show execLd w s = _
  rw [execLd, operation_of_fire hgo (by simpa using hA.symm), withPlace_of_read ht hl]
  cases q
  case spad k off => exact absurd rfl (hq k off)
  all_goals simp only [hd]

theorem ld_of_hit {d : Dword} {p : Bool} (hd : s'.lookup s.fire q = .hit d p) : exec (.ld w) s = .next
    (s'.deliver s.fire w (d.toNat / 2 ^ (8 * q.offset) % 2 ^ (8 * w.ty.bytes)) p).settle := by
  show execLd w s = _
  rw [execLd, operation_of_fire hgo (by simpa using hA.symm), withPlace_of_read ht hl]
  cases q
  case spad k off => exact absurd rfl (hq k off)
  all_goals simp only [hd]

theorem ld_of_miss {key : Nat} (hd : s'.lookup s.fire q = .miss key) : exec (.ld w) s = .next
    (s'.onCore s.fire.core (fun c => { c with misses := c.misses ++ [⟨s.fire, w, key, q.offset, false, s'.epoch⟩] })).settle := by
  show execLd w s = _
  rw [execLd, operation_of_fire hgo (by simpa using hA.symm), withPlace_of_read ht hl]
  cases q
  case spad k off => exact absurd rfl (hq k off)
  all_goals simp only [hd]

end

/-! ### `st` (R190), and a release that waits (R186) -/

section
variable (ht : s.targetOf s.fire w w.ty.bytes (s.opA s.fire w) = .ok (g, x)) (hB : s.opB s.fire w ≠ .pass)
include ht hB

theorem st_of_pending (hr : releases w) (hp : s.earlierPending s.fire = true) :
    exec (.st w) s = .next (s.parkRelease s.fire g x).settle := by
  show execSt w s = _
  rw [execSt, operation_of_fire hgo (by simpa using ⟨hA.symm, hB.symm⟩), withPlace_of_pending ht hr hp]

theorem atom_of_pending (hr : releases w) (hp : s.earlierPending s.fire = true) :
    exec (.atom w) s = .next (s.parkRelease s.fire g x).settle := by
  show execAtom w s = _
  rw [execAtom, operation_of_fire hgo (by simpa using ⟨hA.symm, hB.symm⟩), withPlace_of_pending ht hr hp]

variable {b : Nat} (hb : storeImage w.ty (s.opB s.fire w) = some b)
  (hr : s.unhindered s.fire w)
include hb hr

section
variable (hl : s.locateOf s.fire x false true = (s', .ok q))
include hl

theorem st_of_silent {dev : Nat} (hd : s'.releaseBlocked s.fire w.ordering w.scope = some dev) :
    exec (.st w) s = .next (s'.commit s.fire 0x71 .write (some g) dev).settle := by
  show execSt w s = _
  rw [execSt, operation_of_fire hgo (by simpa using ⟨hA.symm, hB.symm⟩), withPlace_of_write ht hr hl, State.opB, operand_of_located hl, ← State.opB, hb]
  exact congrArg (fun t : State => Host.Outcome.next t.settle) (releasing_of_silent hd)

variable (hc : s'.releaseBlocked s.fire w.ordering w.scope = none)
include hc

theorem st_of_spad {k off : Nat} (hq : q = .spad k off) : exec (.st w) s = .next
    ((s'.releaseActs s.fire w.ordering w.scope).spadSend s.fire k off w.ty.bytes (.write b) false).settle := by
  show execSt w s = _
  rw [execSt, operation_of_fire hgo (by simpa using ⟨hA.symm, hB.symm⟩), withPlace_of_write ht hr hl, State.opB, operand_of_located hl, ← State.opB, hb, hq]
  exact congrArg (fun t : State => Host.Outcome.next t.settle) (releasing_of_clear hc)

theorem st_of_place (hq : ∀ k off, q ≠ .spad k off) : exec (.st w) s = .next
    (((s'.releaseActs s.fire w.ordering w.scope).writeAt .write s.fire q (bytesLE w.ty.bytes b)).emit2 s.fire w .order .order).settle := by
  show execSt w s = _
  rw [execSt, operation_of_fire hgo (by simpa using ⟨hA.symm, hB.symm⟩), withPlace_of_write ht hr hl, State.opB, operand_of_located hl, ← State.opB, hb]
  refine congrArg (fun t : State => Host.Outcome.next t.settle) ((releasing_of_clear hc).trans ?_)
  cases q
  case spad k off => exact absurd rfl (hq k off)
  all_goals rfl

end

end

end

/-! ### Atomics at their place (R191 to R194) -/

section
variable {s : State} {f : Firing} {w : SlotWord} {n ga : Nat} {q : Place} {op : TileOp} {h : Nat → Option Nat}
  {give : State → Option Nat → State}

theorem atomicAt_of_spad {k off : Nat} (hq : q = .spad k off) (hc : s.releaseBlocked f w.ordering w.scope = none) :
    s.atomicAt f w n ga q op h give = (s.releaseActs f w.ordering w.scope).spadSend f k off n op (acquires w) := by
  subst hq
  rw [State.atomicAt]
  exact releasing_of_clear hc

/-- Elsewhere than at a tile, an atomic acts between the actions of its release and of its acquire, at its place's scope. -/
theorem atomicAt_of_place (hq : ∀ k off, q ≠ .spad k off) (hh : ∀ a, q = .host a → s.hostPath (8 * n) = .done)
    (hc : s.releaseBlocked f w.ordering (atomicScope q w.scope) = none) : s.atomicAt f w n ga q op h give =
      give (((s.releaseActs f w.ordering (atomicScope q w.scope)).rmwAt f q n h).1.acquireActs f w.ordering (atomicScope q w.scope))
        ((s.releaseActs f w.ordering (atomicScope q w.scope)).rmwAt f q n h).2 := by
  cases q
  case spad k off => exact absurd rfl (hq k off)
  case host a =>
    simp only [State.atomicAt, hh a rfl]
    exact releasing_of_clear hc
  all_goals
    simp only [State.atomicAt]
    exact releasing_of_clear hc

end

theorem flag_decide (p : Prop) [Decidable p] : flag (decide p) = if p then 1 else 0 := by by_cases h : p <;> simp [flag, h]

theorem storeImage_b64 (x : Dword) : storeImage .b64 (.data x) = some x.toNat := congrArg some (Nat.mod_eq_of_lt x.isLt)

section
variable {s s' : State} {w : SlotWord} {g : Nat} {x : Target} {q : Place} (hgo : s.go s.fire w = .fire)
  (hA : s.opA s.fire w ≠ .pass) (hr : s.unhindered s.fire w) (hl : s.locateOf s.fire x true true = (s', .ok q))
include hgo hA hr hl

section
variable (hB : s.opB s.fire w ≠ .pass) (ht : s.targetOf s.fire w w.ty.bytes (s.opA s.fire w) = .ok (g, x))
include hB ht

theorem atom_of_place {b : Nat} (hb : storeImage w.ty (s.opB s.fire w) = some b) :
    exec (.atom w) s = .next (s'.atomicAt s.fire w w.ty.bytes g q (.atom w.mod.toNat w.ty b)
      (fun old => some (atomNew w.mod.toNat w.ty old b)) (fun s₁ old => s₁.emit2 s.fire w (oldVal w.ty old) .order)).settle := by
  show execAtom w s = _
  rw [execAtom, operation_of_fire hgo (by simpa using ⟨hA.symm, hB.symm⟩), withPlace_of_write ht hr hl, State.opB,
    operand_of_located hl, ← State.opB, hb]

theorem cas_of_place (hC : s.opC s.fire w ≠ .pass) {e v : Nat} (he : storeImage w.ty (s.opB s.fire w) = some e)
    (hv : storeImage w.ty (s.opC s.fire w) = some v) :
    exec (.cas w) s = .next (s'.atomicAt s.fire w w.ty.bytes g q (.cas w.ty e v) (fun old => if old = e then some v else none)
      (fun s₁ old => s₁.emit2 s.fire w (oldVal w.ty old) .order)).settle := by
  show execCas w s = _
  rw [execCas, operation_of_fire hgo (by simpa using ⟨hA.symm, hB.symm, hC.symm⟩), withPlace_of_write ht hr hl, State.opB, State.opC,
    operand_of_located hl, operand_of_located hl, ← State.opB, ← State.opC, he, hv]

end

theorem cas2_of_place (hm : w.mod ≠ 1) (ht : s.targetOf s.fire w 16 (s.opA s.fire w) = .ok (g, x)) {el eh vl vh : Dword}
    (hel : s.opB s.fire w = .data el) (heh : s.opC s.fire w = .data eh)
    (hvl : s.operand s.fire (s.casTail s.fire).1.a s.fire.ta = .data vl)
    (hvh : s.operand s.fire (s.casTail s.fire).1.b s.fire.tb = .data vh) {e v : Nat} (he : e = el.toNat + 2 ^ 64 * eh.toNat)
    (hv : v = vl.toNat + 2 ^ 64 * vh.toNat) :
    exec (.cas2 w) s = .next (s'.atomicAt s.fire w 16 g q (.cas2 e v) (fun old => if old = e then some v else none) (fun s₁ old =>
      s₁.emitFour s.fire w (cas2Vals old e).1 .order (cas2Vals old e).2.1 (cas2Vals old e).2.2)).settle := by
  show execCas2 w s = _
  have hpass : [s.opA s.fire w, .data el, .data eh, .data vl, .data vh].contains .pass = false := by simpa using hA.symm
  rw [execCas2, if_neg hm, hgo]
  dsimp only
  rw [hel, heh, hvl, hvh, hpass, withPlace_of_write ht hr hl, State.opB, State.opC, operand_of_located hl, operand_of_located hl,
    ← State.opB, ← State.opC, hel, heh]
  subst he hv
  simp only [storeImage_b64]
  rfl

end

end Sys2Proof.Machine

namespace Sys2Proof.Proofs
open Sys2Proof.Machine

/-- Settles O35: each instruction reaches its place by `withPlace`, where its operands still read as before (`operand_of_located`), and an
atomic acts there by `atomicAt`. -/
theorem memoryInstructions : Obligations.MemoryInstructions := by
  intro s s' w g x q hgo hA f n release scope clear
  refine ⟨fun ht => ⟨fun hl => ⟨fun k off => ld_of_spad hgo hA ht hl, fun hq => ⟨ld_of_direct hgo hA ht hl hq,
    fun d p => ld_of_hit hgo hA ht hl hq, fun key hd => ⟨_, rfl, rfl, rfl, rfl, rfl, ld_of_miss hgo hA ht hl hq hd⟩⟩⟩,
    fun hr hp hB => ⟨st_of_pending hgo hA ht hB hr hp, atom_of_pending hgo hA ht hB hr hp⟩, fun hr => ⟨?_, ?_, ?_⟩⟩, ?_, ?_⟩
  · intro b hB hb hl
    exact ⟨fun dev => st_of_silent hgo hA ht hB hb hr hl, fun hc k off => st_of_spad hgo hA ht hB hb hr hl hc,
      st_of_place hgo hA ht hB hb hr hl⟩
  · intro b hB hb hl
    rw [atom_of_place hgo hA hr hl hB ht hb]
    refine ⟨fun k off hq hc => ?_, fun hq hh hc => ?_⟩
    · rw [atomicAt_of_spad hq hc]
    · rw [atomicAt_of_place hq hh hc]
  · intro e v hB hC he hv hl
    rw [cas_of_place hgo hA hr hl hB ht hC he hv]
    refine ⟨fun k off hq hc => ?_, fun hq hh hc => ?_⟩
    · rw [atomicAt_of_spad hq hc]
    · rw [atomicAt_of_place hq hh hc]
  · intro hm
    exact if_pos hm
  · intro el eh vl vh hm ht hr hel heh hvl hvh hl e v
    rw [cas2_of_place hgo hA hr hl hm ht hel heh hvl hvh rfl rfl]
    refine ⟨fun k off hq hc => ?_, fun hq hh hc => ?_⟩
    · rw [atomicAt_of_spad hq hc]
    · have hs : s.stands s' := by
        have := s.stands_refl.locateOf f x true true
        rwa [hl] at this
      rw [atomicAt_of_place hq hh hc, State.emitFour,
        (((hs.releaseActs f w.ordering _).rmwAt hq f 16 _).acquireActs f w.ordering _).casTail]
      generalize State.rmwAt _ f q 16 _ = r
      obtain ⟨u, _ | old⟩ := r
      · rfl
      · simp only [cas2Vals, flag_decide]
        rfl

end Sys2Proof.Proofs
end

section
/-! The coherent view of device memory (spec 10 R293 to R304; 09 R281): while no stack is fenced and no burst is bad, whatever the die
slices and the home directory do, every dword reads as before, and a store changes its own bytes alone. -/

namespace Sys2Proof.Machine

/-! ### Dwords of a memory -/

theorem readLE_congr {f g : Nat → Byte} {n : Nat} : ∀ {a : Nat}, (∀ i, i < n → f (a + i) = g (a + i)) → readLE f a n = readLE g a n := by
  induction n with
  | zero => intro a _; rfl
  | succ n ih =>
    intro a h
    have h0 : f a = g a := h 0 (by omega)
    rw [readLE, readLE, h0, ih fun i hi => by rw [Nat.add_assoc, Nat.add_comm 1 i]; exact h (i + 1) (by omega)]

theorem readLE_eq_fromLE {f : Nat → Byte} (bs : List Byte) : ∀ {a : Nat}, (∀ i, i < bs.length → f (a + i) = (bs[i]?).getD 0) →
    readLE f a bs.length = fromLE bs := by
  induction bs with
  | nil => intro a _; rfl
  | cons b bs ih =>
    intro a h
    have h0 : f a = b := h 0 (by simp)
    rw [List.length_cons, readLE, fromLE, h0, ih fun i hi => by
      rw [Nat.add_assoc, Nat.add_comm 1 i]; exact h (i + 1) (by simpa using hi)]

theorem cellDword_cellWrites_same (m : List Host.Cell) (n : Nat) (d : Dword) :
    cellDword (cellWrites m (8 * n) (bytesLE 8 d.toNat)) n = d := by
  have h := readLE_eq_fromLE (bytesLE 8 d.toNat) (cellRead_cellWrites_same (bytesLE 8 d.toNat) m (8 * n))
  rw [bytesLE_length, fromLE_bytesLE] at h
  rw [cellDword, h]
  exact BitVec.eq_of_toNat_eq (by simpa using d.isLt)

theorem cellDword_cellWrites_other (m : List Host.Cell) {k n : Nat} (h : k ≠ n) (d : Dword) :
    cellDword (cellWrites m (8 * n) (bytesLE 8 d.toNat)) k = cellDword m k :=
  congrArg (BitVec.ofNat 64) (readLE_congr fun i hi => cellRead_cellWrites_other _ _ _ _ (by rw [bytesLE_length]; omega))

/-- A dword reads as its dirty copy, and as memory without one (R297). -/
theorem viewDword_eq (s : State) (n : Nat) : s.viewDword n = ((s.l2.look n).bind L2Word.dirty).getD (cellDword s.mem n) := by
  rw [State.viewDword]
  rcases s.l2.look n with _ | ⟨hs, _ | d, p⟩ <;> rfl

/-- A dword with some bytes from byte `off` on replaced. -/
def withBytes (d : Dword) (off : Nat) (bs : List Byte) : Dword := (bs.zipIdx off).foldl (fun d bi => setByte d bi.2 bi.1) d

theorem byteOf_withBytes (bs : List Byte) {j : Nat} (hj : j < 8) : ∀ {d : Dword} {off : Nat}, off + bs.length ≤ 8 →
    byteOf (withBytes d off bs) j = if off ≤ j ∧ j < off + bs.length then (bs[j - off]?).getD 0 else byteOf d j := by
  induction bs with
  | nil => intro d off _; simp [withBytes, Nat.not_lt.2]
  | cons b bs ih =>
    intro d off hlen
    rw [List.length_cons] at hlen ⊢
    have hcons : withBytes d off (b :: bs) = withBytes (setByte d off b) (off + 1) bs := rfl
    rw [hcons, ih (by omega)]
    rcases lt_trichotomy j off with hlt | rfl | hgt
    · rw [if_neg (by omega), if_neg (by omega), byteOf_setByte_other d hj (by omega)]
    · rw [if_neg (by omega), if_pos (by omega), byteOf_setByte_same d hj]
      simp
    · obtain ⟨i, rfl⟩ := Nat.exists_eq_add_of_lt hgt
      rw [byteOf_setByte_other d hj (by omega), show off + i + 1 - (off + 1) = i by omega, show off + i + 1 - off = i + 1 by omega,
        List.getElem?_cons_succ]
      exact if_congr (by omega) rfl rfl

theorem bytesLE_getElem? (n : Nat) : ∀ {v i : Nat}, i < n → (bytesLE n v)[i]? = some (BitVec.ofNat 8 (v / 256 ^ i)) := by
  induction n with
  | zero => intro v i h; omega
  | succ n ih =>
    intro v i h
    cases i with
    | zero => simp [bytesLE]
    | succ i => rw [bytesLE, List.getElem?_cons_succ, ih (by omega), Nat.div_div_eq_div_mul, Nat.pow_succ']

theorem Table.mem_of_look {α : Type} {t : Table α} {n : Nat} {a : α} (h : t.look n = some a) : (n, a) ∈ t := by
  induction t with
  | nil => cases h
  | cons kv t ih =>
    obtain ⟨k, v⟩ := kv
    rw [Table.look] at h
    split at h
    · rename_i hk
      cases h
      rw [hk]
      exact .head _
    · exact .tail _ (ih h)

/-! ### The view -/

/-- No stack is fenced and no burst is bad, each dword of device memory reads as `view` has it, and host memory holds `host`; when the
memory is `sound`, no dword of device memory is poisoned either, and no error waits for its report (R183, R469). -/
structure State.shows (s : State) (sound : Prop) (view : Nat → Dword) (host : List Host.Cell) : Prop where
  fence : s.fenceStacks = []
  bursts : s.badBursts = []
  view : ∀ n, s.viewDword n = view n
  host : s.hostMem = host
  clean : sound → s.detected = [] ∧ s.memPoison = [] ∧ ∀ n w, s.l2.look n = some w → w.poison = false

section
variable {t : State} {sound : Prop} {view : Nat → Dword} {host : List Host.Cell} (h : t.shows sound view host)
include h

/-- A change of anything but these. -/
theorem State.shows.of_eq {u : State} (hu : (u.fenceStacks, u.badBursts, u.detected, u.memPoison, u.l2, u.mem, u.hostMem) =
    (t.fenceStacks, t.badBursts, t.detected, t.memPoison, t.l2, t.mem, t.hostMem)) : u.shows sound view host := by
  simp only [Prod.mk.injEq] at hu
  obtain ⟨hf, hb, hd, hp, hl, hm, hh⟩ := hu
  exact ⟨hf.trans h.fence, hb.trans h.bursts, fun n => by rw [← h.view n, viewDword_eq, viewDword_eq, hl, hm], hh.trans h.host,
    by rw [hd, hp, hl]; exact h.clean⟩

theorem foldl_shows {α : Type} {f : State → α → State} {l : List α}
    (hf : ∀ u a, u.shows sound view host → (f u a).shows sound view host) : (l.foldl f t).shows sound view host := by
  induction l generalizing t with
  | nil => exact h
  | cons a l ih => exact ih (hf t a h)

theorem State.shows.fenced (n : Nat) : t.fenced n = false := by rw [State.fenced, h.fence]; rfl

theorem State.shows.viewPoison (hs : sound) (n : Nat) : t.viewPoison n = false := by
  obtain ⟨-, hp, hl⟩ := h.clean hs
  rw [State.viewPoison, h.fenced, hp]
  cases hn : t.l2.look n with
  | none => rfl
  | some w => exact hl n w hn

theorem State.shows.devPoisoned (hs : sound) (pa n : Nat) : t.devPoisoned pa n = false := by
  simp [State.devPoisoned, h.viewPoison hs]

theorem State.shows.settle (hs : sound) : t.settle = t := by
  obtain ⟨hd, -, -⟩ := h.clean hs
  rw [State.settle, hd]
  exact congrArg (fun d => { t with detected := d }) hd.symm

/-- The slices' word of a dword is replaced by one that reads `d`. -/
theorem State.shows.putWord (n : Nat) {w : L2Word} {d : Dword} (hd : w.dirty.getD (cellDword t.mem n) = d)
    (hp : sound → w.poison = false) :
    ({ t with l2 := t.l2.put n w } : State).shows sound (Function.update view n d) host := by
  refine ⟨h.fence, h.bursts, fun k => ?_, h.host, fun hs => ?_⟩
  · rcases eq_or_ne k n with rfl | hk
    · simp [viewDword_eq, Table.look_put_same, hd]
    · rw [Function.update_of_ne hk, ← h.view k, viewDword_eq, viewDword_eq, Table.look_put_other _ _ _ _ hk]
  · obtain ⟨hdet, hm, hl⟩ := h.clean hs
    refine ⟨hdet, hm, fun k v hv => ?_⟩
    rcases eq_or_ne k n with rfl | hk
    · rw [Table.look_put_same] at hv
      cases hv
      exact hp hs
    · rw [Table.look_put_other _ _ _ _ hk] at hv
      exact hl k v hv

/-- The slices' word of a dword is replaced by one that reads as before. -/
theorem State.shows.keepWord (n : Nat) {w : L2Word} (hd : w.dirty.getD (cellDword t.mem n) = view n) (hp : sound → w.poison = false) :
    ({ t with l2 := t.l2.put n w } : State).shows sound view host := by
  have hput := h.putWord n hd hp
  rwa [Function.update_eq_self] at hput

/-- No die holds a dword any longer that memory holds too. -/
theorem State.shows.delWord (n : Nat) (hd : cellDword t.mem n = view n) :
    ({ t with l2 := t.l2.del n } : State).shows sound view host := by
  refine ⟨h.fence, h.bursts, fun k => ?_, h.host, fun hs => ?_⟩
  · rcases eq_or_ne k n with rfl | hk
    · simp [viewDword_eq, Table.look_del_same, hd]
    · rw [← h.view k, viewDword_eq, viewDword_eq, Table.look_del_other _ _ _ hk]
  · obtain ⟨hdet, hm, hl⟩ := h.clean hs
    refine ⟨hdet, hm, fun k v hv => ?_⟩
    rcases eq_or_ne k n with rfl | hk
    · rw [Table.look_del_same] at hv
      cases hv
    · rw [Table.look_del_other _ _ _ hk] at hv
      exact hl k v hv

/-! ### HBM (R302 to R304) -/

theorem State.shows.burstSense (b : Nat) : t.burstSense b = t := by
  rw [State.burstSense, h.bursts]
  rfl

theorem State.shows.dramSense (n : Nat) : t.dramSense n = t := by
  simp only [State.dramSense, List.foldl_cons, List.foldl_nil, h.burstSense]

theorem State.shows.dramPrepare (ns : List Nat) : (t.dramPrepare ns).shows sound view host := by
  refine foldl_shows h (fun u n hu => ?_)
  dsimp only
  split
  · exact hu.of_eq (by simp only [hu.bursts]; rfl)
  · rwa [hu.burstSense]

/-- The dword goes to memory as it reads. -/
theorem State.shows.dramPut (n : Nat) {p : Bool} (hp : sound → p = false) :
    (t.dramPut n (t.viewDword n) p).shows sound view host ∧ cellDword (t.dramPut n (t.viewDword n) p).mem n = view n := by
  have hput : t.dramPut n (t.viewDword n) p =
      { t with
        mem := cellWrites t.mem (8 * n) (bytesLE 8 (view n).toNat)
        memPoison := if p then insertNat t.memPoison n else removeNat t.memPoison n } := by
    rw [State.dramPut, h.fenced, h.view]; rfl
  rw [hput]
  refine ⟨⟨h.fence, h.bursts, fun k => ?_, h.host, fun hs => ?_⟩, cellDword_cellWrites_same _ _ _⟩
  · rw [← h.view k, viewDword_eq, viewDword_eq]
    dsimp only
    rcases eq_or_ne k n with rfl | hk
    · rw [cellDword_cellWrites_same, ← h.view k, viewDword_eq]
      cases (t.l2.look k).bind L2Word.dirty <;> rfl
    · rw [cellDword_cellWrites_other _ hk]
  · obtain ⟨hdet, hm, hl⟩ := h.clean hs
    exact ⟨hdet, by rw [hp hs, hm]; rfl, hl⟩

/-! ### The die slices (R295 to R301) -/

theorem State.shows.dropL1 (die key : Nat) : (t.dropL1 die key).shows sound view host := h.of_eq (by rfl)

theorem State.shows.forwardL1 (die key : Nat) (d : Dword) (p : Bool) : (t.forwardL1 die key d p).shows sound view host :=
  h.of_eq (by rfl)

theorem State.shows.dirRelease (line : Nat) : (t.dirRelease line).shows sound view host := by
  unfold State.dirRelease
  split
  · exact h
  · exact h.of_eq (by rfl)

theorem State.shows.dropWords (die : Nat) (ns : List Nat) : (t.dropWords die ns).shows sound view host := by
  refine foldl_shows (h.dramPrepare _) (fun u n hu => ?_)
  have hdrop := hu.dropL1 die n
  split
  · exact hu
  · rename_i w hw
    have hpoison : sound → w.poison = false := fun hs => (hu.clean hs).2.2 n w hw
    split
    · exact hu
    · dsimp only
      split
      · -- an M or O copy is written back
        obtain ⟨hput, hmem⟩ := hdrop.dramPut n hpoison
        split
        · exact hput.delWord n hmem
        · exact hput.keepWord n hmem hpoison
      · have hread : w.dirty.getD (cellDword (u.dropL1 die n).mem n) = view n := by
          rw [← hu.view n, viewDword_eq, hw]; rfl
        split
        · rename_i hgone
          obtain ⟨-, hd⟩ := Bool.and_eq_true_iff.1 hgone
          exact hdrop.delWord n (by simpa [Option.isNone_iff_eq_none.1 hd] using hread)
        · exact hdrop.keepWord n hread hpoison

theorem State.shows.evict (die line : Nat) (ns : List Nat) : (t.evict die line ns).shows sound view host := by
  have hdrop := h.dropWords die ns
  unfold State.evict
  dsimp only
  split
  · exact hdrop.dirRelease line
  · exact State.shows.dirRelease (hdrop.of_eq (by rfl)) line

theorem State.shows.recall (line : Nat) : (t.recall line).shows sound view host := by
  have hall : (Machine.dies.foldl (fun s d => s.evict d line (lineWords line 0xFFFF)) t).shows sound view host :=
    foldl_shows h (fun _ d hu => hu.evict d line _)
  unfold State.recall
  dsimp only
  generalize Machine.dies.foldl _ t = u at hall ⊢
  exact hall.of_eq (by rfl)

theorem State.shows.dirEnsure (line : Nat) : (t.dirEnsure line).shows sound view host := by
  unfold State.dirEnsure
  dsimp only
  split
  · exact h
  · split
    · exact h.of_eq (by rfl)
    · split
      · exact h.of_eq (by rfl)
      · split
        · exact h.of_eq (by rfl)
        · exact State.shows.recall (h.of_eq (by rfl)) _

theorem State.shows.remoteSend (die dev n : Nat) : (t.remoteSend die dev n).shows sound view host := by
  unfold State.remoteSend
  split
  · exact h
  · split
    · exact h
    · dsimp only
      split <;> exact State.shows.dropL1 (h.of_eq (by rfl)) _ _

theorem State.shows.hostGive (half : Nat) : (t.hostGive half).shows sound view host := by
  unfold State.hostGive
  split
  · exact h
  · exact foldl_shows (h.of_eq (by rfl)) (fun _ _ hu => hu.dropL1 _ _)

theorem State.shows.evictAny (die line : Nat) : (t.evictAny die line).shows sound view host := by
  unfold State.evictAny
  dsimp only
  split
  · exact h.evict _ _ _
  · split
    · refine foldl_shows (h.of_eq (by rfl)) (fun u x hu => ?_)
      split
      · exact hu.hostGive x
      · exact hu
    · exact foldl_shows (h.of_eq (by rfl)) (fun _ _ hu => hu.remoteSend _ _ _)

theorem State.shows.touchLine (die line : Nat) : (t.touchLine die line).shows sound view host := by
  unfold State.touchLine
  dsimp only
  split
  · split
    · exact State.shows.evictAny (h.of_eq (by rfl)) _ _
    · exact h.of_eq (by rfl)
  · exact h.of_eq (by rfl)

theorem State.shows.request (die n : Nat) : (t.request die n).shows sound view host :=
  (State.shows.dirEnsure (t := t.hostYield n) (h.of_eq (by rfl)) _).touchLine _ _

/-- A coherent read of a dword (R297). -/
theorem State.shows.getS (die n : Nat) : (t.getS die n).shows sound view host := by
  unfold State.getS
  simp only [h.fenced, Bool.false_and, Bool.false_eq_true, if_false]
  split
  · exact h.touchLine _ _
  · have hreq := h.request die n
    split
    · rename_i hn
      rw [hreq.dramSense]
      refine hreq.keepWord n (by rw [← hreq.view n, viewDword_eq, hn]; rfl) fun hs => ?_
      simp [(hreq.clean hs).2.1]
    · rename_i w hw
      exact hreq.keepWord n (by rw [← hreq.view n, viewDword_eq, hw]; rfl) fun hs => (hreq.clean hs).2.2 n w hw

/-- A die takes a dword alone (R297). -/
theorem State.shows.getM (die n : Nat) (whole : Bool) : (t.getM die n whole).shows sound view host := by
  unfold State.getM
  dsimp only
  have hin : (if t.moesi die n == some .m || t.moesi die n == some .e then t.touchLine die (n / 16)
      else t.request die n).shows sound view host := by
    split
    · exact h.touchLine _ _
    · exact h.request _ _
  generalize (if t.moesi die n == some .m || t.moesi die n == some .e then t.touchLine die (n / 16) else t.request die n) = u at hin ⊢
  have hall : (List.foldl (fun s d => s.dropL1 d n) u (Machine.dies.filter (fun d => d != die && u.dieHolds d n))).shows sound view host :=
    foldl_shows hin (fun _ _ hu => hu.dropL1 _ _)
  generalize List.foldl _ u _ = v at hall ⊢
  rw [hall.dramSense, ite_self]
  exact hall.keepWord n (hall.view n) (fun hs => hall.viewPoison hs n)

/-- Bytes of a dword are written at a die (R296). -/
theorem State.shows.storeWord (die n off : Nat) (bs : List Byte) : (t.storeWord die n off bs).shows sound
    (Function.update view n (withBytes (view n) off bs)) host := by
  have hget := h.getM die n (decide (8 ≤ bs.length))
  unfold State.storeWord
  rw [h.fenced]
  dsimp only [Bool.false_and, Bool.false_eq_true, if_false]
  rw [hget.view]
  exact State.shows.forwardL1 (hget.putWord n rfl fun hs => by simp [hget.viewPoison hs]) _ _ _ _

/-- Bytes are written through a die slice, and a coherent read finds them and every other byte as before (R296, R297). -/
theorem State.shows.storeRuns (die fuel : Nat) : ∀ (pa : Nat) (bs : List Byte), bs.length ≤ fuel →
    ∃ view' : Nat → Dword,
      ((dwordRuns fuel pa bs).foldl (fun s r => s.storeWord die r.1 r.2.1 r.2.2) t).shows sound view' host ∧
      ∀ a, byteOf (view' (a / 8)) (a % 8) =
        if pa ≤ a ∧ a < pa + bs.length then (bs[a - pa]?).getD 0 else byteOf (view (a / 8)) (a % 8) := by
  induction fuel generalizing t view with
  | zero =>
    intro pa bs hlen
    refine ⟨view, h, fun a => ?_⟩
    rw [if_neg (by omega)]
  | succ fuel ih =>
    intro pa bs hlen
    rw [dwordRuns]
    split
    · rename_i hbs
      obtain rfl := List.isEmpty_iff.1 hbs
      refine ⟨view, h, fun a => ?_⟩
      rw [if_neg (by simp)]
    · obtain ⟨view', hshows, hbytes⟩ := ih (h.storeWord die (pa / 8) (pa % 8) (bs.take (8 - pa % 8))) (pa + (8 - pa % 8))
        (bs.drop (8 - pa % 8)) (by rw [List.length_drop]; omega)
      refine ⟨view', hshows, fun a => ?_⟩
      rw [hbytes, List.length_drop, List.getElem?_drop]
      by_cases hrest : pa + (8 - pa % 8) ≤ a ∧ a < pa + (8 - pa % 8) + (bs.length - (8 - pa % 8))
      · rw [if_pos hrest, if_pos (by omega), show 8 - pa % 8 + (a - (pa + (8 - pa % 8))) = a - pa by omega]
      · rw [if_neg hrest]
        rcases eq_or_ne (a / 8) (pa / 8) with hword | hword
        · -- the dword of the first run
          rw [hword, Function.update_self, byteOf_withBytes _ (Nat.mod_lt a (by omega)) (by rw [List.length_take]; omega),
            List.length_take]
          by_cases hin : pa ≤ a ∧ a < pa + bs.length
          · rw [if_pos hin, if_pos (by omega), show a % 8 - pa % 8 = a - pa by omega, List.getElem?_take_of_lt (by omega)]
          · rw [if_neg hin, if_neg (by omega)]
        · rw [Function.update_of_ne hword, if_neg (by omega)]

theorem State.shows.devStore (die pa : Nat) (bs : List Byte) : ∃ view' : Nat → Dword,
    (t.devStore die pa bs).shows sound view' host ∧ ∀ a, byteOf (view' (a / 8)) (a % 8) =
      if pa ≤ a ∧ a < pa + bs.length then (bs[a - pa]?).getD 0 else byteOf (view (a / 8)) (a % 8) :=
  h.storeRuns die bs.length pa bs le_rfl

theorem State.shows.devFetch (die pa n : Nat) : (t.devFetch die pa n).shows sound view host := foldl_shows h (fun _ _ hu => hu.getS _ _)

theorem State.shows.hubFetch (pa n : Nat) : (t.hubFetch pa n).shows sound view host := foldl_shows h (fun _ _ hu => hu.getS _ _)

theorem State.shows.devOwn (die : Nat) (ns : List Nat) : (t.devOwn die ns).shows sound view host := by
  refine foldl_shows h (fun u n hu => ?_)
  simp only [hu.fenced, Bool.false_and, Bool.false_eq_true, if_false]
  exact hu.getM _ _ _

/-! ### Other memories (R300, R301) -/

theorem State.shows.remoteFetch (die dev n : Nat) : (t.remoteFetch die dev n).shows sound view host := by
  have htouch := h.touchLine die (remoteLine dev (8 * n))
  unfold State.remoteFetch
  dsimp only
  split
  · exact htouch
  · exact htouch.of_eq (by rfl)

theorem State.shows.hostOwn (die ba n : Nat) : (t.hostOwn die ba n).shows sound view host := by
  unfold State.hostOwn
  split
  · exact h
  · refine foldl_shows h (fun u i hu => ?_)
    dsimp only
    split
    · exact State.shows.touchLine (hu.of_eq (by rfl)) _ _
    · exact State.shows.touchLine ((hu.hostGive _).of_eq (by rfl)) _ _

theorem State.shows.remoteWriteBack (die : Nat) : (t.remoteWriteBack die).shows sound view host := by
  refine foldl_shows h (fun u kw hu => ?_)
  dsimp only
  split
  · exact hu.of_eq (by rfl)
  · exact hu

theorem State.shows.remoteInvalidate (die : Nat) : (t.remoteInvalidate die).shows sound view host := by
  unfold State.remoteInvalidate
  exact State.shows.of_eq (h.remoteWriteBack die) (by rfl)

theorem State.shows.releaseActs (f : Firing) (o : Ordering3) (c : Scope) : (t.releaseActs f o c).shows sound view host := by
  unfold State.releaseActs
  split
  · exact h.remoteWriteBack _
  · exact h

theorem State.shows.acquireActs (f : Firing) (o : Ordering3) (c : Scope) : (t.acquireActs f o c).shows sound view host := by
  unfold State.acquireActs
  split
  · exact h.remoteInvalidate _
  · exact h

theorem State.shows.accessAs (kind : AccessKind) (launch : Nat) : (t.accessAs kind launch).shows sound view host := h.of_eq (by rfl)

theorem State.shows.onCore (k : Nat) (g : Core → Core) : (t.onCore k g).shows sound view host := h.of_eq (by rfl)

/-! ### Translation of sound memory (R375, R376) -/

variable (hs : sound)
include hs

/-- A read of a table by the hub die (R375). -/
theorem State.shows.tableRead (pa n : Nat) : ((t.accessAs .walk t.access.2).hubFetch pa n).settle.shows sound view host := by
  have hfetch := (h.accessAs .walk t.access.2).hubFetch pa n
  rwa [hfetch.settle hs]

theorem State.shows.walkLevels (fuel ctx va lvl hi base : Nat) : (State.walkLevels fuel t ctx va lvl hi base).1.shows sound view host := by
  induction fuel generalizing t lvl hi base with
  | zero => exact h
  | succ fuel ih =>
    unfold State.walkLevels
    dsimp only
    split
    · exact h.tableRead hs _ _
    · split
      · exact h.tableRead hs _ _
      · split
        · exact h.tableRead hs _ _
        · split
          · exact h.tableRead hs _ _
          · exact ih (h.tableRead hs _ _) _ _ _

theorem State.shows.walk (ctx va : Nat) : (t.walk ctx va).1.shows sound view host := by
  unfold State.walk
  dsimp only
  split
  · exact h.tableRead hs _ _
  · split
    · exact h.tableRead hs _ _
    · split
      · exact h.tableRead hs _ _
      · split
        · exact h.tableRead hs _ _
        · exact (h.tableRead hs _ _).walkLevels hs 4 _ _ _ _ _

theorem State.shows.translate (core ctx va : Nat) (rd wr : Bool) : (t.translate core ctx va rd wr).1.shows sound view host := by
  have hwalk := h.walk hs ctx va
  unfold State.translate
  dsimp only
  split
  · exact h.of_eq (by rfl)
  · split
    · exact h.of_eq (by rfl)
    · split
      · exact h.of_eq (by rfl)
      · split
        case h_1 hw =>
          rw [hw] at hwalk
          split
          · exact hwalk.of_eq (by rfl)
          · exact hwalk
        case h_2 hw => rw [hw] at hwalk; exact hwalk
        case h_3 hw => rw [hw] at hwalk; exact hwalk

theorem State.shows.locateCtx (k ctx : Nat) (x : Target) (rd wr : Bool) : (t.locateCtx k ctx x rd wr).1.shows sound view host := by
  unfold State.locateCtx
  split
  · exact h
  · rename_i a
    have htr := h.translate hs k ctx a rd wr
    split <;> rename_i hx <;> rw [hx] at htr
    · split
      · split <;> exact htr
      · split <;> exact htr
      · exact htr
    all_goals exact htr

theorem State.shows.locate (k n : Nat) (x : Target) (rd wr : Bool) : (t.locate k n x rd wr).1.shows sound view host :=
  (h.accessAs _ _).locateCtx hs _ _ _ _ _

theorem State.shows.locateOf (f : Firing) (x : Target) (rd wr : Bool) : (t.locateOf f x rd wr).1.shows sound view host := by
  unfold State.locateOf
  split
  · exact (h.accessAs _ _).locateCtx hs _ _ _ _ _
  · exact h.locate hs _ _ _ _ _

/-! ### Accesses of sound memory at a place -/

theorem State.shows.readAt (kind : AccessKind) (f : Firing) (q : Place) (n : Nat) : (t.readAt kind f q n).1.shows sound view host := by
  unfold State.readAt State.readPlace
  cases q
  · have hfetch := (h.accessAs kind (t.groupOf f).1).devFetch (dieOf f.core) ‹_› n
    dsimp only
    rwa [hfetch.settle hs]
  · exact h.hostOwn _ _ _
  · exact foldl_shows h (fun _ _ hu => hu.remoteFetch _ _ _)
  · exact h

/-- A load from device memory finds the bytes of the view, and no mark (R183, R297). -/
theorem State.shows.readAt_dev (kind : AccessKind) (f : Firing) (pa n : Nat) :
    (t.readAt kind f (.dev pa) n).2 = (readLE (fun a => byteOf (view (a / 8)) (a % 8)) pa n, false) := by
  have hfetch := h.readAt hs kind f (.dev pa) n
  refine Prod.ext (readLE_congr fun i _ => ?_) (hfetch.devPoisoned hs pa n)
  exact congrArg (byteOf · _) (hfetch.view _)

theorem State.shows.writeAt_dev (kind : AccessKind) (f : Firing) (pa : Nat) (bs : List Byte) : ∃ view' : Nat → Dword,
    (t.writeAt kind f (.dev pa) bs).shows sound view' host ∧ ∀ a, byteOf (view' (a / 8)) (a % 8) =
      if pa ≤ a ∧ a < pa + bs.length then (bs[a - pa]?).getD 0 else byteOf (view (a / 8)) (a % 8) := by
  obtain ⟨view', hstore, hbytes⟩ := (h.accessAs kind (t.groupOf f).1).devStore (dieOf f.core) pa bs
  refine ⟨view', ?_, hbytes⟩
  unfold State.writeAt State.writePlace
  dsimp only
  rwa [hstore.settle hs]

theorem State.shows.ownPlace_dev (f : Firing) (pa n : Nat) : (t.ownPlace f (.dev pa) n).shows sound view host := by
  have hown := (h.accessAs .rmw (t.groupOf f).1).devOwn (dieOf f.core) (dwordsOf pa n)
  unfold State.ownPlace
  dsimp only
  rwa [hown.settle hs]

end

end Sys2Proof.Machine
end

section
/-! Loads, stores and atomics on device memory (spec 06 R189 to R193; 10 R293 to R297), and O36, O37 and O38. -/

namespace Sys2Proof.Machine
open Sys2Proof.Claims

theorem shows_of_quiet {s : State} (h : quietMemory s) : s.shows True s.viewDword s.hostMem := by
  obtain ⟨hf, hb, hd, hm, hl⟩ := h
  refine ⟨hf, hb, fun _ => rfl, rfl, fun _ => ⟨hd, hm, fun n w hw => ?_⟩⟩
  simpa using List.all_eq_true.1 hl _ (Table.mem_of_look hw)

/-! ### What an access leaves -/

/-- Every byte of device memory, host memory and every thread are as before. -/
def unchanged (s u : State) : Prop :=
  (∀ a, u.viewByte a = s.viewByte a) ∧ u.hostMem = s.hostMem ∧ ∀ k j, u.thread k j = s.thread k j

/-- n bytes of device memory hold a number, little-endian, and every other byte, host memory and every thread are as before. -/
def wrote (s u : State) (pa n v : Nat) : Prop :=
  (∀ i, i < n → u.viewByte (pa + i) = BitVec.ofNat 8 (v / 256 ^ i)) ∧
    (∀ a, (a < pa ∨ pa + n ≤ a) → u.viewByte a = s.viewByte a) ∧ u.hostMem = s.hostMem ∧ ∀ k j, u.thread k j = s.thread k j

section
variable {s u : State}

theorem unchanged_of_shows (h : u.shows True s.viewDword s.hostMem) (ht : ∀ k j, u.thread k j = s.thread k j) : unchanged s u :=
  ⟨fun _ => congrArg (byteOf · _) (h.view _), h.host, ht⟩

theorem wrote_of_shows {view : Nat → Dword} {pa n v : Nat} (h : u.shows True view s.hostMem)
    (hb : ∀ a, byteOf (view (a / 8)) (a % 8) =
      if pa ≤ a ∧ a < pa + (bytesLE n v).length then ((bytesLE n v)[a - pa]?).getD 0 else byteOf (s.viewDword (a / 8)) (a % 8))
    (ht : ∀ k j, u.thread k j = s.thread k j) : wrote s u pa n v := by
  simp only [bytesLE_length] at hb
  have hview : ∀ a, u.viewByte a = byteOf (view (a / 8)) (a % 8) := fun a => congrArg (byteOf · _) (h.view _)
  refine ⟨fun i hi => ?_, fun a ha => ?_, h.host, ht⟩
  · rw [hview, hb, if_pos (by omega), Nat.add_sub_cancel_left, bytesLE_getElem? n hi]
    rfl
  · rw [hview, hb, if_neg (by omega)]
    rfl

end

section
variable {t : State} {view : Nat → Dword} {host : List Host.Cell} (h : t.shows True view host)
include h

/-- A data token changes no memory. -/
theorem State.shows.send_data (f : Firing) (n : Nat) (d : Dst) (scale : Bool) (x : Dword) (tag : Tag) :
    (t.send f n d scale (.data x) tag).shows True view host := by
  unfold State.send
  split
  · exact h
  · split
    · exact h
    · exact h.onCore _ _
    · split
      · exact h
      · exact h.onCore _ _
    · exact h.onCore _ _
    · exact h.onCore _ _

/-- The tokens of an access leave no error to report. -/
theorem State.shows.emit2_settle (f : Firing) (w : SlotWord) (x y : Dword) :
    (t.emit2 f w (.data x) (.data y)).settle = t.emit2 f w (.data x) (.data y) :=
  ((h.send_data f 0 w.d0 false x f.tag).send_data f 1 w.d1 false y f.tag).settle trivial

end

/-! ### Fills of CACHE tiles (R294) -/

theorem lineWords_single (key : Nat) : lineWords (key / 16) (2 ^ (key % 16)) = [key] := by
  have hbit : ∀ j < 16, (List.range 16).filter (fun i => (2 ^ j).testBit i) = [j] := by decide
  rw [lineWords, hbit _ (Nat.mod_lt _ (by omega)), List.map_singleton, Nat.div_add_mod]

theorem lookup_dev_of_miss {s : State} {f : Firing} {pa key : Nat} (h : s.lookup f (.dev pa) = .miss key) : key = pa / 8 := by
  unfold State.lookup at h
  dsimp only [State.l1Key] at h
  split at h
  · cases h
  · split at h <;> cases h
    rfl

theorem sliceWord_dev {s : State} {die key : Nat} (h : key < 4096 * 2 ^ 49) :
    s.sliceWord die key = (s.getS die key, (s.getS die key).viewDword key, (s.getS die key).viewPoison key) := if_pos h

@[simp] theorem l1Fill_threads (c : Core) (key : Nat) (d : Dword) (p : Bool) : (c.l1Fill key d p).threads = c.threads := by
  unfold Core.l1Fill
  dsimp only
  split <;> rfl

theorem onCore_thread_of_threads {s : State} {k : Nat} {g : Core → Core} (hg : (g (s.core k)).threads = (s.core k).threads)
    (j n : Nat) : (s.onCore k g).thread j n = s.thread j n := by
  rcases eq_or_ne j k with rfl | hj
  · rw [State.thread, State.onCore_core_same, Core.thread, hg]
    rfl
  · rw [State.thread, State.onCore_core_other _ _ _ _ hj]
    rfl

/-- The load that alone waits for a dword of device memory receives its bytes of it. -/
theorem fillMiss_of_alone {t : State} {view : Nat → Dword} {host : List Host.Cell} (h : t.shows True view host) {k key : Nat} {m : L1Miss}
    (hm : (t.core k).misses.filter (fun x => x.key == key) = [m]) (hst : m.stale = false) (hkey : key < 4096 * 2 ^ 49) :
    ∃ u : State, t.fillMiss k key =
        u.deliver m.f m.w ((view key).toNat / 2 ^ (8 * m.off) % 2 ^ (8 * m.w.ty.bytes)) false ∧
      u.shows True view host ∧ ∀ j n, u.thread j n = t.thread j n := by
  have hget := (h.accessAs .read ((m.f.who).elim 0 (fun x => x.1))).getS (dieOf k) key
  have hstands := (t.stands_refl.accessAs .read ((m.f.who).elim 0 (fun x => x.1))).getS (dieOf k) key
  refine ⟨_, ?_, hget.onCore k (fun c =>
    ({ c with misses := c.misses.filter (fun x => x.key != key) } : Core).l1Fill key (view key) false), fun j n => ?_⟩
  · rw [State.fillMiss, hm]
    simp only [List.head?_cons, Option.bind_some, sliceWord_dev hkey, hget.settle trivial, hget.view, hget.viewPoison trivial,
      List.isEmpty_cons, List.all_cons, List.all_nil, hst, Bool.false_and, Bool.and_false, Bool.false_eq_true, if_false,
      List.foldl_cons, List.foldl_nil]
  · rw [onCore_thread_of_threads (by simp), hstands.thread]

/-! ### Read-modify-writes (R191 to R193) -/

/-- A read-modify-write finds the bytes of the view, and writes what it makes of them, or nothing. -/
theorem State.shows.rmwAt_dev {t : State} {view : Nat → Dword} {host : List Host.Cell} (h : t.shows True view host) (f : Firing)
    (pa n : Nat) (g : Nat → Option Nat) {old : Nat} (hold : readLE (fun a => byteOf (view (a / 8)) (a % 8)) pa n = old) :
    ∃ u : State, u.shows True view host ∧
      t.rmwAt f (.dev pa) n g = ((g old).elim u (fun v => u.writeAt .rmw f (.dev pa) (bytesLE n v)), some old) := by
  have hown := h.ownPlace_dev trivial f pa n
  have hread := hown.readAt trivial .rmw f (.dev pa) n
  have hval := hown.readAt_dev trivial .rmw f pa n
  simp only [State.rmwAt]
  generalize (t.ownPlace f (.dev pa) n).readAt .rmw f (.dev pa) n = r at hread hval
  obtain ⟨u, x, p⟩ := r
  obtain ⟨rfl, rfl⟩ := Prod.mk.inj hval
  refine ⟨u, hread, ?_⟩
  rw [hold]
  dsimp only
  cases g old <;> rfl

/-! ### The three accesses -/

section
variable {s s' : State} {w : SlotWord} {g pa : Nat} {x : Target} {rd wr : Bool} (hq : quietMemory s)
  (hl : s.locateOf s.fire x rd wr = (s', .ok (.dev pa)))
include hl

theorem stands_of_located : s.stands s' := by
  have := s.stands_refl.locateOf s.fire x rd wr
  rwa [hl] at this

include hq

theorem shows_of_located : s'.shows True s.viewDword s.hostMem := by
  have := (shows_of_quiet hq).locateOf trivial s.fire x rd wr
  rwa [hl] at this

end

theorem dev_ne_spad (pa : Nat) : ∀ k off, Place.dev pa ≠ .spad k off := nofun

section
variable {s s' : State} {w : SlotWord} {g pa : Nat} {x : Target} (hq : quietMemory s) (hgo : s.go s.fire w = .fire)
  (hA : s.opA s.fire w ≠ .pass) (ht : s.targetOf s.fire w w.ty.bytes (s.opA s.fire w) = .ok (g, x))
include hq hgo hA ht

section
variable (hl : s.locateOf s.fire x true false = (s', .ok (.dev pa)))
include hl

theorem ld_dev_of_direct (hd : s'.lookup s.fire (.dev pa) = .direct) : ∃ u : State,
    exec (.ld w) s = .next (u.emit2 s.fire w (bitsVal w.ty (readLE s.viewByte pa w.ty.bytes)) .order) ∧ unchanged s u := by
  have hshows := shows_of_located hq hl
  have hread := hshows.readAt_dev trivial .read s.fire pa w.ty.bytes
  have hafter := (hshows.readAt trivial .read s.fire (.dev pa) w.ty.bytes).acquireActs s.fire w.ordering w.scope
  refine ⟨_, ?_, unchanged_of_shows hafter
    (((stands_of_located hl).readAt .read s.fire (.dev pa) w.ty.bytes).acquireActs s.fire w.ordering w.scope).thread⟩
  rw [ld_of_direct hgo hA ht hl (dev_ne_spad pa) hd, hread]
  exact congrArg Host.Outcome.next (hafter.emit2_settle _ _ _ _)

theorem ld_dev_of_hit {d : Dword} (hd : s'.lookup s.fire (.dev pa) = .hit d false) : ∃ u : State,
    exec (.ld w) s = .next (u.emit2 s.fire w (bitsVal w.ty (d.toNat / 2 ^ (8 * (pa % 8)) % 2 ^ (8 * w.ty.bytes))) .order) ∧
      unchanged s u := by
  have hafter := (shows_of_located hq hl).acquireActs s.fire w.ordering w.scope
  refine ⟨_, ?_, unchanged_of_shows hafter ((stands_of_located hl).acquireActs s.fire w.ordering w.scope).thread⟩
  rw [ld_of_hit hgo hA ht hl (dev_ne_spad pa) hd]
  exact congrArg Host.Outcome.next (hafter.emit2_settle _ _ _ _)

theorem ld_dev_of_miss {key : Nat} (hd : s'.lookup s.fire (.dev pa) = .miss key)
    (halone : ∀ m ∈ (s'.core s.fire.core).misses, m.key ≠ key) (hpa : pa < Config.devBytes) :
    ∃ t u : State, exec (.ld w) s = .next t ∧ unchanged s t ∧
      exec (.cacheFill s.fire.core (key / 16) (2 ^ (key % 16))) t = .next (u.emit2 s.fire w
        (bitsVal w.ty ((s.viewDword key).toNat / 2 ^ (8 * (pa % 8)) % 2 ^ (8 * w.ty.bytes))) .order) ∧ unchanged s u := by
  obtain ⟨t, ht'⟩ : ∃ t, s'.onCore s.fire.core (fun c => { c with
    misses := c.misses ++ [⟨s.fire, w, key, (Place.dev pa).offset, false, s'.epoch⟩] }) = t := ⟨_, rfl⟩
  have hwaits : t.shows True s.viewDword s.hostMem := ht' ▸ (shows_of_located hq hl).onCore _ _
  have hthread : ∀ k j, t.thread k j = s.thread k j := fun k j => by
    rw [← ht', onCore_thread_of_threads (by rfl), (stands_of_located hl).thread]
  have hmine : (t.core s.fire.core).misses.filter (fun m => m.key == key) =
      [⟨s.fire, w, key, (Place.dev pa).offset, false, s'.epoch⟩] := by
    rw [← ht', State.onCore_core_same]
    simpa using halone
  have hkey : key < 4096 * 2 ^ 49 := by
    rw [lookup_dev_of_miss hd]
    unfold Config.devBytes at hpa
    omega
  obtain ⟨v, hfill, hv, hvthread⟩ := fillMiss_of_alone hwaits hmine rfl hkey
  have hafter := hv.acquireActs s.fire w.ordering w.scope
  refine ⟨t, _, ?_, unchanged_of_shows hwaits hthread, ?_, unchanged_of_shows hafter fun k j => ?_⟩
  · rw [ld_of_miss hgo hA ht hl (dev_ne_spad pa) hd, ht', hwaits.settle trivial]
  · show execCacheFill _ _ _ t = _
    rw [execCacheFill, lineWords_single, List.foldl_cons, List.foldl_nil, hfill]
    exact congrArg Host.Outcome.next (hafter.emit2_settle _ _ _ _)
  · rw [(v.stands_refl.acquireActs s.fire w.ordering w.scope).thread, hvthread, hthread]

end

section
variable {b : Nat} (hB : s.opB s.fire w ≠ .pass) (hb : storeImage w.ty (s.opB s.fire w) = some b) (hr : s.unhindered s.fire w)
include hB hb hr

theorem st_dev (hl : s.locateOf s.fire x false true = (s', .ok (.dev pa)))
    (hc : s'.releaseBlocked s.fire w.ordering w.scope = none) :
    ∃ u : State, exec (.st w) s = .next (u.emit2 s.fire w .order .order) ∧ wrote s u pa w.ty.bytes b := by
  obtain ⟨view, hafter, hbytes⟩ := ((shows_of_located hq hl).releaseActs s.fire w.ordering w.scope).writeAt_dev trivial .write s.fire pa
    (bytesLE w.ty.bytes b)
  refine ⟨_, ?_, wrote_of_shows hafter hbytes (((stands_of_located hl).releaseActs s.fire w.ordering w.scope).writeAt
    (dev_ne_spad pa) .write s.fire (bytesLE w.ty.bytes b)).thread⟩
  rw [st_of_place hgo hA ht hB hb hr hl hc (dev_ne_spad pa)]
  exact congrArg Host.Outcome.next (hafter.emit2_settle _ _ _ _)

end

end

/-- An atomic gives the old number, and writes what it makes of it, or nothing. -/
theorem atomicAt_dev {s s' : State} {w : SlotWord} {g pa n : Nat} {x : Target} (hq : quietMemory s)
    (hl : s.locateOf s.fire x true true = (s', .ok (.dev pa))) (hc : s'.releaseBlocked s.fire w.ordering w.scope = none) (op : TileOp)
    (h : Nat → Option Nat) : ∃ u : State,
      (s'.atomicAt s.fire w n g (.dev pa) op h (fun s₁ old => s₁.emit2 s.fire w (oldVal w.ty old) .order)).settle =
        u.emit2 s.fire w (bitsVal w.ty (readLE s.viewByte pa n)) .order ∧
      (h (readLE s.viewByte pa n)).elim (unchanged s u) (wrote s u pa n) := by
  obtain ⟨v, hv, hrmw⟩ := ((shows_of_located hq hl).releaseActs s.fire w.ordering w.scope).rmwAt_dev s.fire pa n h
    (old := readLE s.viewByte pa n) rfl
  have hstands := ((stands_of_located hl).releaseActs s.fire w.ordering w.scope).rmwAt (dev_ne_spad pa) s.fire n h
  rw [atomicAt_of_place (dev_ne_spad pa) nofun hc, show atomicScope (.dev pa) w.scope = w.scope from rfl]
  rw [hrmw] at hstands ⊢
  dsimp only at hstands ⊢
  have hthread := (hstands.acquireActs s.fire w.ordering w.scope).thread
  cases hnew : h (readLE s.viewByte pa n) with
  | none =>
    rw [hnew] at hthread
    have hafter := hv.acquireActs s.fire w.ordering w.scope
    exact ⟨_, hafter.emit2_settle _ _ _ _, unchanged_of_shows hafter hthread⟩
  | some y =>
    rw [hnew] at hthread
    obtain ⟨view, hwrite, hbytes⟩ := hv.writeAt_dev trivial .rmw s.fire pa (bytesLE n y)
    have hafter := hwrite.acquireActs s.fire w.ordering w.scope
    exact ⟨_, hafter.emit2_settle _ _ _ _, wrote_of_shows hafter hbytes hthread⟩

end Sys2Proof.Machine

namespace Sys2Proof.Proofs
open Sys2Proof.Machine

/-- Settles O36: neither a lookup, a fill nor a read through the die slice changes the view (`State.shows`). -/
theorem loadReads : Obligations.LoadReads := by
  intro s s' w g x pa hq hgo hA ht hl same part
  exact ⟨ld_dev_of_direct hq hgo hA ht hl, fun d => ld_dev_of_hit hq hgo hA ht hl,
    fun key hd halone hpa => ⟨lookup_dev_of_miss hd, ld_dev_of_miss hq hgo hA ht hl hd halone hpa⟩⟩

/-- Settles O37: of the view, a store through the die slice changes its own bytes (`State.shows.devStore`). -/
theorem storeWrites : Obligations.StoreWrites := by
  intro s s' w g x pa b hq hgo hA hB hb ht hr hl hc
  exact st_dev hq hgo hA ht hB hb (or_iff_not_imp_left.2 fun h => hr (not_not.1 h)) hl hc

/-- Settles O38: `atom` always writes, and `cas` when it finds what it compares with. -/
theorem atomicsReadModifyWrite : Obligations.AtomicsReadModifyWrite := by
  intro s s' w g x pa b hq hgo hA hB hb ht hr hl hc n old
  have hr' : s.unhindered s.fire w := or_iff_not_imp_left.2 fun h => hr (not_not.1 h)
  refine ⟨?_, fun v hC hv => ?_⟩
  · obtain ⟨u, hu, hwrote⟩ := atomicAt_dev (g := g) (n := n) hq hl hc (.atom w.mod.toNat w.ty b)
      (fun old => some (atomNew w.mod.toNat w.ty old b))
    rw [atom_of_place hgo hA hr' hl hB ht hb, hu]
    exact ⟨u, rfl, hwrote⟩
  · obtain ⟨u, hu, hchange⟩ := atomicAt_dev (g := g) (n := n) hq hl hc (.cas w.ty b v) (fun old => if old = b then some v else none)
    rw [cas_of_place hgo hA hr' hl hB ht hC hb hv, hu]
    refine ⟨u, rfl, ?_⟩
    by_cases hcmp : old = b
    · rw [if_pos hcmp] at hchange
      simp only [if_pos hcmp]
      exact hchange
    · rw [if_neg hcmp] at hchange
      obtain ⟨hview, hhost, hthread⟩ := hchange
      simp only [if_neg hcmp]
      exact ⟨fun i _ => hview _, fun a _ => hview a, hhost, hthread⟩

end Sys2Proof.Proofs
end

section
/-! Fences, window queries and prefetches (spec 06 R196 to R200; 09 R280), and O40. -/

namespace Sys2Proof.Machine
open Sys2Proof.Claims

/-! ### `fence` (R196, R197, R280) -/

/-- What a fence waits for has performed: reads alone for `.acq`. -/
theorem fenceFree_iff (s : State) (f : Firing) (w : SlotWord) : s.fenceFree f w = true ↔
    if w.mod = 0 ∧ w.ordering = .acq then s.earlierReads f = false else s.earlierPending f = false := by
  unfold State.fenceFree
  split <;> simp

section
variable {s : State} {w : SlotWord} (hA : s.opA s.fire w ≠ .pass)
include hA

theorem fence_of_pending (hf : s.fenceFree s.fire w ≠ true) : exec (.fence w) s = .next (s.parkRelease s.fire 0 (.va 0)) := by
  simp only [exec, execFence, if_neg hA, Bool.eq_false_of_not_eq_true hf, Bool.not_false, if_true]

variable (hf : s.fenceFree s.fire w = true)
include hf

theorem fence_of_ticket (hm : w.mod = 1) (hw : wideScope w.scope = true) :
    exec (.fence w) s = .next (s.park (s.keep s.fire 0 0) .ticket) := by
  simp only [exec, execFence, if_neg hA, hf, Bool.not_true, Bool.false_eq_true, if_false, hm, hw, and_self, if_true]

theorem fence_of_plain (hm : w.mod ≠ 1) : exec (.fence w) s = .next (s.fenceActs s.fire w) := by
  simp only [exec, execFence, if_neg hA, hf, Bool.not_true, Bool.false_eq_true, if_false, hm, false_and]

/-- A `.sc` fence of a narrow scope takes its ticket at once. -/
theorem fence_of_narrow (hm : w.mod = 1) (hw : wideScope w.scope = false) :
    exec (.fence w) s = .next (({ s with tickets := s.tickets + 1 } : State).fenceActs s.fire w) := by
  simp only [exec, execFence, if_neg hA, hf, Bool.not_true, Bool.false_eq_true, if_false, hm, hw, and_false, if_true]

end

section
variable {s : State} {f : Firing} {w : SlotWord}

theorem fenceActs_of_clear (h : s.releaseBlocked f w.ordering w.scope = none) : s.fenceActs f w =
    ((s.releaseActs f w.ordering w.scope).acquireActs f w.ordering w.scope).emit2 f w .order .order := releasing_of_clear h

theorem fenceActs_of_silent {dev : Nat} (h : s.releaseBlocked f w.ordering w.scope = some dev) :
    s.fenceActs f w = s.commit f 0x71 .none none dev := releasing_of_silent h

/-- A release of a narrow scope writes nothing home. -/
theorem releaseBlocked_of_narrow {o : Ordering3} {c : Scope} (h : wideScope c = false) : s.releaseBlocked f o c = none := by
  rw [State.releaseBlocked, h, Bool.and_false]
  rfl

end

/-! ### Window queries (R198, R199) -/

/-- The window of an address goes by its four highest bits (R39). -/
theorem natBits_top (a : Dword) : natBits a.toNat 63 60 = a.toNat / 2 ^ 60 := by
  have := a.isLt
  unfold natBits
  omega

theorem windowCode_ne_zero {a : Dword} (h : a.toNat / 2 ^ 60 ≠ 0) : windowCode a.toNat ≠ 0 := by
  rw [windowCode, natBits_top]
  split
  · contradiction
  all_goals decide

/-- The low bits of an address. -/
theorem ofNat_natBits_low (a : Dword) {hi : Nat} (h : hi < 64) : BitVec.ofNat 64 (natBits a.toNat hi 0) = a &&& BitVec.ofNat 64 (2 ^ (hi + 1) - 1) := by
  apply BitVec.eq_of_toNat_eq
  rw [BitVec.toNat_and, BitVec.toNat_ofNat, BitVec.toNat_ofNat, natBits, Nat.shiftRight_zero, Nat.sub_zero]
  have hpow : 2 ^ (hi + 1) ≤ 2 ^ 64 := Nat.pow_le_pow_right (by omega) (by omega)
  have hlow : a.toNat % 2 ^ (hi + 1) ≤ a.toNat := Nat.mod_le _ _
  have ha := a.isLt
  rw [Nat.mod_eq_of_lt (show a.toNat % 2 ^ (hi + 1) < 2 ^ 64 by omega),
    Nat.mod_eq_of_lt (show 2 ^ (hi + 1) - 1 < 2 ^ 64 by omega), Nat.and_two_pow_sub_one_eq_mod]

theorem ofNat_private {a : Dword} (h : a.toNat < 2 ^ 56) : BitVec.ofNat 64 (0xC000000000000000 + a.toNat) = a ||| 0xC000000000000000 := by
  apply BitVec.eq_of_toNat_eq
  have hor := Nat.two_pow_add_eq_or_of_lt h 0xC0
  rw [BitVec.toNat_or, Nat.or_comm, BitVec.toNat_ofNat, Nat.mod_eq_of_lt (by omega)]
  exact hor

section
variable {s : State} {f : Firing} {w : SlotWord} {a : Dword} {h : Nat → Except Nat Nat} (hgo : s.go f w = .fire)
  (hA : s.opA f w = .data a)
include hgo hA

theorem castOp_of_ok {v : Nat} (hv : h a.toNat = .ok v) :
    s.castOp f w h = s.emit2 f w (.data (BitVec.ofNat 64 v)) (.data (BitVec.ofNat 64 v)) := by
  simp only [State.castOp, hgo, hA, hv, emitBoth_eq_emit2]

theorem castOp_of_error {c : Nat} (hv : h a.toNat = .error c) : s.castOp f w h = s.commit f c .none (some a.toNat) 0 := by
  simp only [State.castOp, hgo, hA, hv]

end

theorem gives_of_cast {s : State} {w : SlotWord} {a d : Dword} {i : Instr} {h : Nat → Except Nat Nat} {v : Nat}
    (he : exec i s = .next (s.castOp s.fire w h)) (hgo : s.go s.fire w = .fire) (hA : s.opA s.fire w = .data a)
    (hv : h a.toNat = .ok v) (hd : BitVec.ofNat 64 v = d) : gives i s w (.data d) := by
  rw [gives, he, castOp_of_ok hgo hA hv, hd]

/-- An address of a space's window loses the bits that the space does without (R199). -/
theorem spcastTo_of_window {s : State} {w : SlotWord} {a : Dword} (hgo : s.go s.fire w = .fire) (hA : s.opA s.fire w = .data a)
    {space : Space} {top hi : Nat} (hw : (space, top, hi) ∈ [(Space.g, 0, 55), (.p, 0xC, 55), (.s, 0xD, 19), (.c, 0xE, 22)])
    (hs : w.space = space) (htop : a.toNat / 2 ^ 60 = top) :
    gives (.spcastTo w) s w (.data (a &&& BitVec.ofNat 64 (2 ^ (hi + 1) - 1))) := by
  have hlow : hi < 64 := by fin_cases hw <;> decide
  refine gives_of_cast (v := natBits a.toNat hi 0) rfl hgo hA ?_ (ofNat_natBits_low a hlow)
  fin_cases hw <;> simp only [hs, windowCode, natBits_top, htop, if_true]

/-! ### `pref` (R200) -/

theorem Core.stands_l1Fill (c : Core) (key : Nat) (d : Dword) (p : Bool) : c.stands (c.l1Fill key d p) := by
  unfold Core.l1Fill Core.stands
  dsimp only
  split <;> rfl

section
variable {s t : State} {view : Nat → Dword} {host : List Host.Cell}

theorem State.stands.sliceWord (h : s.stands t) (die key : Nat) : s.stands (t.sliceWord die key).1 := by
  unfold State.sliceWord
  split
  · exact h.getS _ _
  · split
    · exact h.remoteFetch _ _ _
    · exact h.hostOwn _ _ _

theorem State.stands.fillLine (h : s.stands t) (k : Nat) (q : Place) : s.stands (t.fillLine k q) := by
  unfold State.fillLine
  split
  · exact foldl_stands h fun u n hu => (hu.sliceWord _ n).onCore k fun c => c.stands_l1Fill _ _ _
  · exact h

theorem State.shows.sliceWord (h : t.shows True view host) (die key : Nat) : (t.sliceWord die key).1.shows True view host := by
  unfold State.sliceWord
  split
  · exact h.getS _ _
  · split
    · exact h.remoteFetch _ _ _
    · exact h.hostOwn _ _ _

theorem State.shows.fillLine (h : t.shows True view host) (k : Nat) (q : Place) : (t.fillLine k q).shows True view host := by
  unfold State.fillLine
  split
  · refine foldl_shows h fun u n hu => ?_
    unfold State.fillWord
    exact (hu.sliceWord (dieOf k) n).onCore k _
  · exact h

end

/-- From one state to the other, sound memory shows the same and the cores stand. -/
def undisturbed (s u : State) : Prop := u.shows True s.viewDword s.hostMem ∧ s.stands u

theorem pref_of_quiet {s : State} {w : SlotWord} (hq : quietMemory s) (hgo : s.go s.fire w = .fire) (hA : s.opA s.fire w ≠ .pass) :
    ∃ u : State, exec (.pref w) s = .next (u.emit2 s.fire w .order .order) ∧ undisturbed s u := by
  have hshows := shows_of_quiet hq
  have hdone : ∀ u : State, undisturbed s u → ∃ v : State,
      Host.Outcome.next (u.emitBoth s.fire w .order).settle = (.next (v.emit2 s.fire w .order .order) : Host.Outcome State Fault Refusal) ∧
        undisturbed s v :=
    fun u hu => ⟨u, congrArg Host.Outcome.next (hu.1.emit2_settle _ _ _ _), hu⟩
  show ∃ u, execPref w s = _ ∧ _
  rw [execPref, operation_of_fire hgo (by simpa using hA.symm)]
  dsimp only
  split
  · rename_i g a hform
    split
    · exact hdone s ⟨hshows, s.stands_refl⟩
    · have hloc : undisturbed s (s.locate s.fire.core s.fire.thread (.va a) true false).1 :=
        ⟨hshows.locate trivial _ _ _ _ _, s.stands_refl.locate _ _ _ _ _⟩
      split
      · rename_i u q hx
        rw [hx] at hloc
        obtain ⟨hu, hus⟩ := hloc
        split
        · exact hdone u ⟨hu, hus⟩
        · have hread : undisturbed s (u.readAt .read s.fire q.lineStart 128).1 :=
            ⟨hu.readAt trivial _ _ _ _, hus.readAt _ _ _ _⟩
          obtain ⟨hv, hvs⟩ := hread
          split
          · exact hdone _ ⟨hv.fillLine _ _, hvs.fillLine _ _⟩
          · exact hdone _ ⟨hv, hvs⟩
      · rename_i u e _ hx
        rw [hx] at hloc
        exact hdone u hloc
  · exact hdone s ⟨hshows, s.stands_refl⟩

end Sys2Proof.Machine

namespace Sys2Proof.Proofs
open Sys2Proof.Machine Sys2Proof.Claims

/-- Settles O40: a fence by what it waits for, a cast by the window of its address, and a prefetch by what a line's fill leaves as it was
(`undisturbed`). -/
theorem fencesAndWindows : Obligations.FencesAndWindows := by
  intro s w f free
  have hfree : s.fenceFree f w = true ↔ free := fenceFree_iff s f w
  refine ⟨fun hA hf => fence_of_pending hA (hfree.not.2 hf), fun hA hf hm hc => ?_, fun dev hA hf hm hd => ?_, fun hA hf hm hw => ?_,
    fun hA hf => fence_of_ticket hA (hfree.2 hf), fun a b c h => ?_, fun a hgo hA => ?_, fun hgo hA hq => ?_⟩
  · rw [fence_of_plain hA (hfree.2 hf) hm, fenceActs_of_clear hc]
  · rw [fence_of_plain hA (hfree.2 hf) hm, fenceActs_of_silent hd]
  · rw [fence_of_narrow hA (hfree.2 hf) hm hw, fenceActs_of_clear (releaseBlocked_of_narrow hw)]
  · refine gives_of_value h rfl (congrArg Val.data ?_)
    have htop : a.toNat / 2 ^ 60 < 16 := by have := a.isLt; omega
    rw [windowCode, natBits_top]
    generalize a.toNat / 2 ^ 60 = top at htop
    interval_cases top <;> rfl
  · refine ⟨fun hs h => ?_, fun hs h => ?_, fun hs h => ?_, fun hs h => ?_, fun hs h => ?_, fun hs h => ?_, fun hs h => ?_⟩
    · exact spcastTo_of_window hgo hA (hi := 55) (by decide) hs h
    · exact spcastTo_of_window hgo hA (hi := 55) (by decide) hs h
    · exact spcastTo_of_window hgo hA (hi := 19) (by decide) hs h
    · exact spcastTo_of_window hgo hA (hi := 22) (by decide) hs h
    · exact congrArg Host.Outcome.next (castOp_of_error hgo hA (by simp only [hs, if_neg (windowCode_ne_zero h)]))
    · exact gives_of_cast rfl hgo hA (by rw [hs, composeAddress_private h]) (ofNat_private h)
    · exact congrArg Host.Outcome.next (castOp_of_error hgo hA (by rw [hs, composeAddress_high (.inl rfl) a.isLt h]))
  · obtain ⟨u, hu, hshows, hstands⟩ := pref_of_quiet hq hgo hA
    obtain ⟨hview, -, hthread⟩ := unchanged_of_shows hshows hstands.thread
    exact ⟨u, hu, hview, hthread⟩

end Sys2Proof.Proofs
end

section
/-! Memory tiles (spec 06 R201 to R203; 10 R286 to R292), and O41. -/

namespace Sys2Proof.Machine

/-! ### Offsets in a tile's buffer (R201) -/

section
variable {s : State} {f : Firing} {w : SlotWord} {n align : Nat} {a : Dword}

theorem tileOffset_of_beyond (h : s.tileRoom f w < a.toNat + n) : s.tileOffset f w n align (.data a) = .error 0x12 := if_pos h

theorem tileOffset_of_unaligned (h : a.toNat + n ≤ s.tileRoom f w) (ha : a.toNat % align ≠ 0) :
    s.tileOffset f w n align (.data a) = .error 0x15 := (if_neg h.not_gt).trans (if_pos ha)

theorem tileOffset_of_within (h : a.toNat + n ≤ s.tileRoom f w) (ha : a.toNat % align = 0) :
    s.tileOffset f w n align (.data a) = .ok a.toNat := (if_neg h.not_gt).trans (if_neg (not_not.2 ha))

end

/-! ### `gth` and `sct` (R201) -/

section
variable {s : State} {w : SlotWord} {a : Dword} (hgo : s.go s.fire w = .fire) (hA : s.opA s.fire w = .data a)
include hgo hA

theorem gth_of_fault {c : Nat} (h : s.tileOffset s.fire w w.ty.bytes w.ty.bytes (.data a) = .error c) :
    exec (.gth w) s = .next (s.commit s.fire c .read none 0) := by
  show execGth w s = _
  rw [execGth, operation_of_fire hgo (by simp [hA]), hA, h]

theorem gth_of_offset {off : Nat} (h : s.tileOffset s.fire w w.ty.bytes w.ty.bytes (.data a) = .ok off) :
    exec (.gth w) s = .next (s.tileSend s.fire s.fire.core (s.tileKey s.fire w off) w.ty.bytes (.read w.ty) false) := by
  show execGth w s = _
  rw [execGth, operation_of_fire hgo (by simp [hA]), hA, h]

theorem sct_of_offset {off b : Nat} (h : s.tileOffset s.fire w w.ty.bytes w.ty.bytes (.data a) = .ok off)
    (hB : s.opB s.fire w ≠ .pass) (hb : storeImage w.ty (s.opB s.fire w) = some b) :
    exec (.sct w) s = .next (s.tileSend s.fire s.fire.core (s.tileKey s.fire w off) w.ty.bytes (.write b) false) := by
  show execSct w s = _
  rw [execSct, operation_of_fire hgo (by simpa [hA] using hB.symm), hA, h, hb]

end

/-! ### `mtld` and `mtst` (R203) -/

/-- A counted transfer between a tile and memory starts. -/
theorem tileMove_of_room {s : State} {f : Firing} {w : SlotWord} {g : Nat} {x : Target} {off m : Dword} (op : TOp)
    (hB : s.opB f w = .data off) (hC : s.opC f w = .data m) (hlo : 8 ≤ m.toNat) (hhi : m.toNat ≤ 32768) (hm : m.toNat % 8 = 0)
    (hform : s.formAddress f w.space m.toNat 8 (s.opA f w) = .ok (g, x)) (hroom : off.toNat + m.toNat ≤ s.tileRoom f w)
    (hoff : off.toNat % 8 = 0) (hcount : s.countRoom f.core f.thread .gather = true) :
    s.tileMove f w op = (s.startTransfer { Transfer.blank f with
      op := op, cls := .gather, bytes := m.toNat, tile := w.tile, buf := w.buffer
      dst := if op = .mtld then s.tileAddr f w off.toNat else g
      src := if op = .mtld then g else s.tileAddr f w off.toNat }).emit2 f w .order .order := by
  have hsize : ¬ (m.toNat % 8 ≠ 0 ∨ m.toNat < 8 ∨ 32768 < m.toNat) := by omega
  simp only [State.tileMove, hC, if_neg hsize, hform, hB, tileOffset_of_within hroom hoff, hcount, if_true, emitBoth_eq_emit2]

/-! ### The service of a tile (R288, R292) -/

/-- The accesses of a vector request. -/
def TileReq.peer (r x : TileReq) : Bool := x.tile == r.tile && x.f.together r.f

/-- A request with what the tile has answered noted when it is the one served. -/
def TileReq.noted (r : TileReq) (vs : List Val) (x : TileReq) : TileReq := if x = r then { x with got := some vs } else x

/-- A core whose request has what the tile has answered noted. -/
def Core.noteServed (c : Core) (r : TileReq) (vs : List Val) : Core := { c with tileReqs := c.tileReqs.map (r.noted vs) }

theorem peer_noted (r : TileReq) (vs : List Val) (x : TileReq) : r.peer (r.noted vs x) = r.peer x := by
  unfold TileReq.noted
  split <;> rfl

theorem peer_self {c : Core} {r x : TileReq} (h : c.tileReqs.filter r.peer = [x]) : r.peer x = true :=
  (List.mem_filter.1 (h ▸ List.mem_singleton_self x)).2

section
variable {c : Core} {r : TileReq} (vs : List Val) (h : c.tileReqs.filter r.peer = [r])
include h

theorem noteServed_peers : (c.noteServed r vs).tileReqs.filter r.peer = [{ r with got := some vs }] := by
  rw [Core.noteServed, List.filter_map, show r.peer ∘ r.noted vs = r.peer from funext (peer_noted r vs), h]
  exact congrArg (fun x => [x]) (if_pos rfl)

theorem noteServed_others :
    (c.noteServed r vs).tileReqs.filter (fun x => !r.peer x) = c.tileReqs.filter (fun x => !r.peer x) := by
  rw [Core.noteServed, List.filter_map,
    show (fun x => !r.peer x) ∘ r.noted vs = fun x => !r.peer x from funext fun x => congrArg (!·) (peer_noted r vs x)]
  refine (List.map_congr_left fun x hx => if_neg ?_).trans (List.map_id _)
  rintro rfl
  have hother := (List.mem_filter.1 hx).2
  rw [peer_self h] at hother
  exact absurd hother (by decide)

end

/-- A vector request answers when all its accesses have been served. -/
theorem tileAnswers_eq (s : State) (k : Nat) (r : TileReq) : s.tileAnswers k r =
    if ((s.core k).tileReqs.filter r.peer).all (fun x => x.got.isSome) then
      ((s.core k).tileReqs.filter r.peer).foldl State.tileAnswer
        (s.onCore k (fun c => { c with tileReqs := c.tileReqs.filter (fun x => !r.peer x) }))
    else s := rfl

/-- A store to tile bytes leaves the requests. -/
theorem tileStore_withReqs (c : Core) (key : Nat) (bs : List Byte) (l : List TileReq) :
    ({ c with tileReqs := l } : Core).tileStore key bs = { c.tileStore key bs with tileReqs := l } :=
  List.foldl_hom (fun c : Core => ({ c with tileReqs := l } : Core)) fun _ _ => rfl

theorem tileStore_keeps (c : Core) (key : Nat) (bs : List Byte) :
    (c.tileStore key bs).load = c.load ∧ (c.tileStore key bs).tileReqs = c.tileReqs := by
  unfold Core.tileStore
  generalize dwordRuns bs.length key bs = rs
  induction rs generalizing c with
  | nil => exact ⟨rfl, rfl⟩
  | cons r rs ih => exact ih _

theorem fieldsOf_setCore {s : State} {k : Nat} {c : Core} (hc : c.load = (s.core k).load) (f : Firing) :
    (s.setCore k c).fieldsOf f = s.fieldsOf f := by
  have hload : ((s.setCore k c).core f.core).load = (s.core f.core).load := by
    rcases eq_or_ne f.core k with h | h
    · rw [h, State.setCore_core_same, hc]
    · rw [State.setCore_core_other _ _ _ _ h]
  simp only [State.fieldsOf, hload]

theorem setCore_setCore (s : State) (k : Nat) (c d : Core) : (s.setCore k c).setCore k d = s.setCore k d := by
  simp only [State.setCore, Table.put_put]

/-- The access that a bank serves next needs the bank. -/
theorem bank_of_bankNext {c : Core} {bank : Nat} {r : TileReq} (h : c.bankNext bank = some r) :
    r ∈ c.tileReqs ∧ bank ∈ r.banks := by
  have hneeds := List.find?_some h
  simp only [Bool.and_eq_true, List.contains_eq_mem, decide_eq_true_eq] at hneeds
  exact ⟨List.mem_of_mem_filter (List.mem_of_mem_take (List.mem_of_find?_eq_some h)), hneeds.2⟩

/-- The number that an access finds at its tile bytes; none where a dword is poisoned. -/
def Core.found (c : Core) (r : TileReq) : Option Nat :=
  if (List.range r.width).any (fun i => c.tileMark (32768 * r.tile + r.off + i)) then none
  else some (readLE c.tileByte (32768 * r.tile + r.off) r.width)

theorem found_of_sound {c : Core} {r : TileReq} (h : ∀ i, i < r.width → c.tileMark (32768 * r.tile + r.off + i) = false) :
    c.found r = some (readLE c.tileByte (32768 * r.tile + r.off) r.width) := by
  refine if_neg ?_
  simpa using h

/-- A core once a bank has served an access: what it read is noted, and what the access stores is stored. -/
def Core.afterService (c : Core) (r : TileReq) (vs : List Val) (new : Option Nat) : Core :=
  new.elim (c.noteServed r vs) (fun v => (c.noteServed r vs).tileStore (32768 * r.tile + r.off) (bytesLE r.width v))

theorem afterService_keeps (c : Core) (r : TileReq) (vs : List Val) (new : Option Nat) :
    (c.afterService r vs new).load = c.load ∧ (c.afterService r vs new).tileReqs = (c.noteServed r vs).tileReqs := by
  cases new with
  | none => exact ⟨rfl, rfl⟩
  | some v => exact tileStore_keeps (c.noteServed r vs) _ _

/-- A core once the vector request of the access served has left its queue too. -/
def Core.afterAnswer (c : Core) (r : TileReq) (vs : List Val) (new : Option Nat) : Core :=
  { c.afterService r vs new with tileReqs := c.tileReqs.filter (fun x => !r.peer x) }

theorem afterAnswer_load (c : Core) (r : TileReq) (vs : List Val) (new : Option Nat) : (c.afterAnswer r vs new).load = c.load :=
  (afterService_keeps c r vs new).1

theorem afterAnswer_of_store (c : Core) (r : TileReq) (vs : List Val) (v : Nat) : c.afterAnswer r vs (some v) =
    ({ c with tileReqs := c.tileReqs.filter (fun x => !r.peer x) } : Core).tileStore (32768 * r.tile + r.off) (bytesLE r.width v) := by
  rw [tileStore_withReqs, Core.afterAnswer, Core.afterService, Option.elim_some, Core.noteServed, tileStore_withReqs]

section
variable {s : State} {k bank : Nat} {r : TileReq} {vs : List Val} {new : Option Nat}

/-- A bank serves the access that it serves next (R292). -/
theorem execTileRequestService_eq (hnext : (s.core k).bankNext bank = some r) (hwidth : r.width ≤ 8)
    (hserve : r.op.serve ((s.core k).found r) = (vs, new)) :
    exec (.tileRequestService k bank) s = .next ((s.setCore k ((s.core k).afterService r vs new)).tileAnswers k r) := by
  have hbanks : r.banks = [bank] := by
    obtain ⟨-, hb⟩ := bank_of_bankNext hnext
    rw [TileReq.banks, if_neg hwidth.not_gt] at hb ⊢
    rw [List.mem_singleton.1 hb]
  show execTileRequestService k bank s = _
  rw [execTileRequestService, hnext]
  simp only [hbanks, List.any_cons, List.any_nil, hnext, bne_self_eq_false, Bool.or_false, Bool.false_eq_true, if_false]
  generalize hx : TileOp.serve _ _ = out
  obtain rfl : out = (vs, new) := hx.symm.trans hserve
  cases new <;> rfl

/-- The last access of a vector request has been served: the request leaves its queue and answers. -/
theorem tileAnswers_of_alone (halone : (s.core k).tileReqs.filter r.peer = [r]) :
    (s.setCore k ((s.core k).afterService r vs new)).tileAnswers k r =
      (s.setCore k ((s.core k).afterAnswer r vs new)).tileAnswer { r with got := some vs } := by
  obtain ⟨-, hreqs⟩ := afterService_keeps (s.core k) r vs new
  rw [tileAnswers_eq, State.setCore_core_same, hreqs, noteServed_peers vs halone, State.onCore, State.setCore_core_same, setCore_setCore,
    hreqs, noteServed_others vs halone]
  rfl

/-- While an access of its vector request has not been served, an access waits for it. -/
theorem tileAnswers_of_waiting {x : TileReq} (hx : x ∈ (s.core k).tileReqs) (hpeer : r.peer x = true) (hne : x ≠ r)
    (hgot : x.got = none) : (s.setCore k ((s.core k).afterService r vs new)).tileAnswers k r =
      s.setCore k ((s.core k).afterService r vs new) := by
  obtain ⟨-, hreqs⟩ := afterService_keeps (s.core k) r vs new
  have hmem : x ∈ ((s.core k).noteServed r vs).tileReqs.filter r.peer :=
    List.mem_filter.2 ⟨List.mem_map.2 ⟨x, hx, if_neg hne⟩, hpeer⟩
  rw [tileAnswers_eq, State.setCore_core_same, hreqs, if_neg]
  intro hall
  simpa [hgot] using List.all_eq_true.1 hall x hmem

/-- An access that a bank serves answers with a value, or, a store, with order tokens. -/
theorem service_of_alone {w : SlotWord} {v : Val} (hnext : (s.core k).bankNext bank = some r) (hwidth : r.width ≤ 8) (hacq : r.acq = false)
    (hw : s.fieldsOf r.f = some w) (halone : (s.core k).tileReqs.filter r.peer = [r])
    (hserve : r.op.serve ((s.core k).found r) = ([v], new)) (hv : ∀ b, r.op = .write b → v = .order) :
    exec (.tileRequestService k bank) s = .next ((s.setCore k ((s.core k).afterAnswer r [v] new)).emit2 r.f w v .order) := by
  rw [execTileRequestService_eq hnext hwidth hserve, tileAnswers_of_alone halone]
  have hfields : (s.setCore k ((s.core k).afterAnswer r [v] new)).fieldsOf r.f = some w :=
    (fieldsOf_setCore (afterAnswer_load (s.core k) r [v] new) r.f).trans hw
  simp only [State.tileAnswer, hacq, Bool.false_eq_true, if_false, hfields]
  split
  · rename_i b hb
    rw [hv b hb]
    rfl
  · rfl

end

end Sys2Proof.Machine

namespace Sys2Proof.Proofs
open Sys2Proof.Machine

/-- Settles O41: `gth` and `sct` by where their offset lies, a transfer by `tileMove`, and a bank's service by whether the vector request
of its access still waits for another. -/
theorem memoryTiles : Obligations.MemoryTiles := by
  refine ⟨?_, ?_, ?_⟩
  · intro s w a hgo hA f n
    exact ⟨fun hroom hoff => ⟨gth_of_offset hgo hA (tileOffset_of_within hroom hoff),
        fun b => sct_of_offset hgo hA (tileOffset_of_within hroom hoff)⟩,
      fun hroom => gth_of_fault hgo hA (tileOffset_of_beyond hroom),
      fun hroom hoff => gth_of_fault hgo hA (tileOffset_of_unaligned hroom hoff)⟩
  · intro s w g x off m hgo hA f hB hC hlo hhi hm hform hroom hoff hcount
    have hpass : Val.pass ∉ [s.opA f w, s.opB f w, s.opC f w] := by simpa [hB, hC] using hA.symm
    have hmove := fun op => tileMove_of_room op hB hC hlo hhi hm hform hroom hoff hcount
    exact ⟨congrArg Host.Outcome.next ((operation_of_fire hgo hpass _ _).trans (hmove .mtld)),
      congrArg Host.Outcome.next ((operation_of_fire hgo hpass _ _).trans (hmove .mtst))⟩
  · intro s k bank r w hnext hwidth hacq _ hw c key mine rest served sound old
    have hread : sound → c.found r = some old := found_of_sound
    refine ⟨fun b hop halone => ?_, fun ty hop hsound halone => ?_, fun m ty b hop hsound halone => ?_,
      fun x hx hpeer hne hgot => ⟨fun b hop => ?_, fun ty hop hsound => ?_⟩⟩
    · rw [service_of_alone (new := some b) hnext hwidth hacq hw halone (by rw [hop]; rfl) fun _ _ => rfl, afterAnswer_of_store]
      rfl
    · rw [service_of_alone (v := bitsVal ty old) (new := none) hnext hwidth hacq hw halone (by rw [hop, hread hsound]; rfl)
        (by simp [hop])]
      rfl
    · rw [service_of_alone (v := bitsVal ty old) (new := some (atomNew m ty old b)) hnext hwidth hacq hw halone
        (by rw [hop, hread hsound]; rfl) (by simp [hop]), afterAnswer_of_store]
      rfl
    · rw [execTileRequestService_eq (vs := [.order]) (new := some b) hnext hwidth (by rw [hop]; rfl),
        tileAnswers_of_waiting hx hpeer hne hgot]
      rfl
    · rw [execTileRequestService_eq (vs := [bitsVal ty old]) (new := none) hnext hwidth (by rw [hop, hread hsound]; rfl),
        tileAnswers_of_waiting hx hpeer hne hgot]
      rfl

end Sys2Proof.Proofs
end

section
/-! The expand instructions and the owners of flat indices (spec 07 R217 to R220), and O44. -/

namespace Sys2Proof.Machine
open Sys2Proof.Claims

/-! ### Flat indices (R217) -/

theorem prefixOf_succ (lens : List Nat) (i : Nat) : prefixOf lens (i + 1) = prefixOf lens i + (lens[i]?).getD 0 := by
  rw [prefixOf, prefixOf, List.take_add_one, List.foldl_append]
  cases lens[i]? <;> rfl

theorem prefixOf_mono (lens : List Nat) : Monotone (prefixOf lens) :=
  monotone_nat_of_le_succ fun i => by rw [prefixOf_succ]; exact Nat.le_add_right _ _

/-- The flat indices of a lane: from the sum of the lengths below it to its own length further. -/
def ownsIndex (lens : List Nat) (f i : Nat) : Prop := prefixOf lens i ≤ f ∧ f < prefixOf lens (i + 1)

theorem exists_ownsIndex {lens : List Nat} {f : Nat} : ∀ {n : Nat}, f < prefixOf lens n → ∃ i < n, ownsIndex lens f i
  | 0, h => absurd h (Nat.not_lt_zero f)
  | n + 1, h => by
    by_cases hn : prefixOf lens n ≤ f
    · exact ⟨n, n.lt_succ_self, hn, h⟩
    · obtain ⟨i, hi, howns⟩ := exists_ownsIndex (Nat.lt_of_not_le hn)
      exact ⟨i, Nat.lt_succ_of_lt hi, howns⟩

theorem ownsIndex_unique {lens : List Nat} {f i j : Nat} (hi : ownsIndex lens f i) (hj : ownsIndex lens f j) : i = j := by
  have below : ∀ {a b : Nat}, ownsIndex lens f a → ownsIndex lens f b → ¬ a < b := fun ha hb hab =>
    absurd (prefixOf_mono lens hab) (Nat.not_le.2 (hb.1.trans_lt ha.2))
  exact le_antisymm (Nat.not_lt.1 (below hj hi)) (Nat.not_lt.1 (below hi hj))

theorem ownerOf_owns {x : XCtx} {f i : Nat} (hi : i < x.lens.length) (howns : ownsIndex x.lens f i) : x.ownerOf f = i := by
  have hfind : (List.range x.lens.length).find? (fun j => prefixOf x.lens j ≤ f && f < prefixOf x.lens j + (x.lens[j]?).getD 0) = some i := by
    simp only [← prefixOf_succ]
    refine List.find?_range_eq_some.2 ⟨by simpa [ownsIndex] using howns, List.mem_range.2 hi, fun j hj => ?_⟩
    by_contra h
    exact hj.ne (ownsIndex_unique (by simpa [ownsIndex] using h) howns)
  rw [XCtx.ownerOf, hfind, Option.getD_some]

/-! ### `xround` and `xsegred` (R219, R220) -/

theorem execXround_of_ctx {s : State} {w : SlotWord} {x : XCtx}
    (hx : (s.core s.fire.core).ctxOfRound (s.ft s.fire).span s.fire.node = some x) : exec (.xround w) s =
      match s.opA s.fire w with
      | .pass => .next (s.startLoop s.fire w 0 [] none (some x.id))
      | .err k => .next (s.badTrip s.fire k)
      | .data v => .next (s.startLoop s.fire w ((v.toNat + x.n - 1) / x.n) [] none (some x.id)) := by
  show execXround w s = _
  rw [execXround, hx]
  rfl

theorem xsegred_of_item {s : State} {w : SlotWord} {id i : Nat} {b : Dword} (hgo : s.go s.fire w = .fire)
    (hA : s.opA s.fire w ≠ .pass) (hB : s.opB s.fire w = .data b) (hflat : s.flatOf s.fire = some (id, i)) :
    exec (.xsegred w) s = .next
      ((s.handItem s.fire.core id (b.toNat % 2 ^ 32) (some (s.opA s.fire w)) false).emit2 s.fire w .order .order) := by
  show execXsegred w s = _
  simp only [execXsegred, hgo, hB, hflat]
  cases hv : s.opA s.fire w with
  | pass => exact absurd hv hA
  | data x => rfl
  | err k => rfl

end Sys2Proof.Machine

namespace Sys2Proof.Proofs
open Sys2Proof.Machine

/-- Settles O44: the intervals between the sums of the lengths are disjoint, and together they are all flat indices below the total. -/
theorem expansion : Obligations.Expansion := by
  refine ⟨fun s w x hx => ?_, fun s w id i b hgo hA hB hflat => xsegred_of_item hgo hA hB hflat, fun x f htotal hf => ?_⟩
  · rw [execXround_of_ctx hx]
    exact ⟨fun v hv => by rw [hv], fun hv => by rw [hv], fun k hv => by rw [hv]; rfl⟩
  · obtain ⟨i, hi, hlow, hhigh⟩ := exists_ownsIndex (htotal ▸ hf)
    rw [ownerOf_owns hi ⟨hlow, hhigh⟩]
    exact ⟨hi, hlow, hhigh, fun j _ hlo hhi => ownsIndex_unique ⟨hlo, hhi⟩ ⟨hlow, hhigh⟩⟩

end Sys2Proof.Proofs
end

section
/-! The frame of data tokens (spec 03 R81 to R83; 04 R126): whatever the destination, a data token faults at none. -/

namespace Sys2Proof.Machine

/-- Of the machine only tokens and the counters of threads have changed, at one core: those under way, in feeds, in the buffers of its
ports, and staged. -/
structure State.onlySends (s t : State) (k : Nat) : Prop where
  machine : t = { s with cores := t.cores }
  core : t.core k = { s.core k with
    flights := (t.core k).flights, feeds := (t.core k).feeds, ports := (t.core k).ports, threads := (t.core k).threads }
  thread : ∀ n, (t.thread k n).state = (s.thread k n).state

theorem State.onlySends_refl (s : State) (k : Nat) : s.onlySends s k := ⟨rfl, rfl, fun _ => rfl⟩

section
variable {s t : State} {k : Nat} (h : s.onlySends t k)
include h

theorem State.onlySends.trans {u : State} (h' : t.onlySends u k) : s.onlySends u k := by
  obtain ⟨hm, hc, ht⟩ := h
  obtain ⟨hm', hc', ht'⟩ := h'
  exact ⟨hm'.trans (by rw [hm]), hc'.trans (by rw [hc]), fun n => (ht' n).trans (ht n)⟩

/-- A change of the tokens of the core alone. -/
theorem State.onlySends.onCore {g : Core → Core} (hg : ∀ c : Core, g c = { c with
    flights := (g c).flights, feeds := (g c).feeds, ports := (g c).ports }) : s.onlySends (t.onCore k g) k := by
  refine h.trans ⟨rfl, ?_, fun n => ?_⟩
  · rw [State.onCore_core_same]
    exact (hg _).trans (by rw [hg])
  · rw [State.thread, State.onCore_core_same, hg]
    rfl

theorem State.onlySends.onThread (n : Nat) {g : Thread → Thread} (hg : ∀ th, (g th).state = th.state) :
    s.onlySends (t.onThread k n g) k := by
  refine h.trans ⟨rfl, ?_, fun j => ?_⟩
  · rw [State.onThread, State.onCore_core_same]
    rfl
  · rw [State.thread, State.onThread, State.onCore_core_same]
    rcases eq_or_ne j n with rfl | hj
    · rw [Core.onThread_thread_same, hg]
      rfl
    · rw [Core.onThread_thread_other _ _ _ _ hj]
      rfl

theorem State.onlySends.send {f : Firing} (hf : f.core = k) (n : Nat) (d : Dst) (scale : Bool) (x : Dword) (tag : Tag) :
    s.onlySends (t.send f n d scale (.data x) tag) k := by
  subst hf
  unfold State.send
  split
  · exact h
  · split
    · exact h
    · exact h.onCore fun _ => rfl
    · split
      · exact h
      · exact h.onThread _ fun _ => rfl
    · exact h.onCore fun _ => rfl
    · exact h.onCore fun _ => rfl

theorem State.onlySends.emit2 {f : Firing} (hf : f.core = k) (w : SlotWord) (x y : Dword) :
    s.onlySends (t.emit2 f w (.data x) (.data y)) k :=
  (h.send hf 0 w.d0 false x f.tag).send hf 1 w.d1 false y f.tag

theorem State.onlySends.countUp (n : Nat) (cls : CntClass) : s.onlySends (t.countUp k n cls) k :=
  h.onThread n fun th => by cases cls <;> rfl

end

end Sys2Proof.Machine
end

section
/-! The matrix island's acceptance and execution of control tokens (spec 07 R226, R230, R231; 11 R331, R335), and O46. -/

namespace Sys2Proof.Machine

/-! ### Acceptance (R226, R231, R331) -/

/-- What a firing's handle is bound to in a part (R30). -/
def Part.handleOf (p : Part) (m : MxCtl) : Handle := (p.handles.look m.w.handle).getD .unbound

/-- What a handle rule that is no fault makes of a control token that nothing else stops (R231). -/
def State.acceptUnder (s : State) (k : Nat) (m : MxCtl) (p : Part) : HandleRule → State
  | .binds => match (s.core k).bindHandle p (accWidth m.w) with
    | some (c, h) => (s.setCore k (c.bindPart p m.w.handle h)).mxTake k { m with acc := h }
    | none => s.setCore k { s.core k with mxHold := some ((s.core k).mxHold.getD s.time) }
  | .drop h => (s.setCore k ((s.core k).onPart p (fun q => { q with handles := q.handles.del m.w.handle }))).mxTake k
      { m with freeSlots := h.slots }
  | .take h => s.mxTake k { m with acc := h }
  | _ => s.mxTake k m

section
variable {s : State} {k : Nat} {m : MxCtl} {rest : List MxCtl} {p : Part} (hsent : (s.core k).mxSent = m :: rest)
  (hstands : (s.ft m.f).aborted = false ∨ m.f.mute = true) (hqueue : (s.core k).mxQueue.length < 16) (hp : (s.core k).partOf m = some p)
include hsent hstands hqueue hp

/-- The oldest control token fails with its handle or its operand, or waits for its thread's counter, or its handle rule decides. -/
theorem matrixAccept_of_part : exec (.matrixAccept k) s = .next
    (if handleRule m (p.handleOf m) = .fault then s.mxFail k m 0x41
     else if m.bad ≠ 0 then s.mxFail k m m.bad
     else if m.kind.counted && s.owns m.f && !s.countRoom k m.f.thread .matrix then
       (if m.held then s else s.setCore k ({ s.core k with mxSent := { m with held := true } :: rest }.bumpStat 7 1))
     else s.acceptUnder k m p (handleRule m (p.handleOf m))) := by
  have hlive : ¬ ((s.ft m.f).aborted = true ∧ (!m.f.mute) = true) := by
    rcases hstands with h | h <;> simp [h]
  show execMatrixAccept k s = _
  unfold execMatrixAccept
  dsimp only
  split
  case h_1 hnone => rw [hsent] at hnone; cases hnone
  case h_2 m' rest' hcons =>
    obtain ⟨rfl, rfl⟩ := List.cons.inj (hsent.symm.trans hcons)
    rw [if_neg hlive, if_neg hqueue.not_ge, hp]
    dsimp only
    rw [← Part.handleOf]
    generalize handleRule m (p.handleOf m) = r
    split
    · rfl
    · split
      · rfl
      · split
        · rfl
        · cases r with
          | binds =>
            unfold State.acceptUnder
            dsimp only
            cases (s.core k).bindHandle p (accWidth m.w) <;> rfl
          | _ => rfl

theorem matrixAccept_of_fault (hrule : handleRule m (p.handleOf m) = .fault) :
    exec (.matrixAccept k) s = .next (s.mxFail k m 0x41) := by
  rw [matrixAccept_of_part hsent hstands hqueue hp, if_pos hrule]

theorem matrixAccept_of_bad (hrule : handleRule m (p.handleOf m) ≠ .fault) (hbad : m.bad ≠ 0) :
    exec (.matrixAccept k) s = .next (s.mxFail k m m.bad) := by
  rw [matrixAccept_of_part hsent hstands hqueue hp, if_neg hrule, if_pos hbad]

theorem matrixAccept_of_rule (hbad : m.bad = 0)
    (hroom : m.kind.counted = false ∨ s.owns m.f = false ∨ s.countRoom k m.f.thread .matrix = true)
    {r : HandleRule} (hr : handleRule m (p.handleOf m) = r) (hrule : r ≠ .fault) :
    exec (.matrixAccept k) s = .next (s.acceptUnder k m p r) := by
  have hcount : ¬ (m.kind.counted && s.owns m.f && !s.countRoom k m.f.thread .matrix) = true := by
    rcases hroom with h | h | h <;> simp [h]
  rw [matrixAccept_of_part hsent hstands hqueue hp, hr, if_neg hrule, if_neg (not_not_intro hbad), if_neg hcount]

end

/-! ### Execution and exhaustion (R230, R335) -/

theorem matrixExecute_of_run {s u : State} {k : Nat} {m : MxCtl} {rest : List MxCtl} (hqueue : (s.core k).mxQueue = m :: rest)
    (hrun : s.mxRun k m = some u) : exec (.matrixExecuteComplete k) s = .next
      (if m.counted then (u.onCore k (fun c => { c with mxQueue := c.mxQueue.drop 1 })).countDown k m.f.thread .matrix
       else u.onCore k (fun c => { c with mxQueue := c.mxQueue.drop 1 })) := by
  show execMatrixExecuteComplete k s = _
  simp only [execMatrixExecuteComplete, hqueue, hrun]

theorem accExhausted_of_bound {s : State} {k t0 : Nat} {m : MxCtl} {rest : List MxCtl} {p : Part} (hsent : (s.core k).mxSent = m :: rest)
    (hhold : (s.core k).mxHold = some t0) (hp : (s.core k).partOf m = some p)
    (hbind : (s.core k).bindHandle p (accWidth m.w) = none) (hfrozen : s.frozen k = false)
    (hbound : t0 + 2 ^ clamp 10 30 (natBits (s.core k).ksched.toNat 60 56) ≤ s.time) :
    exec (.accExhausted k) s = .next (s.mxFail k m 0x40) := by
  show execAccExhausted k s = _
  simp only [execAccExhausted, hsent, hhold, hp, hbind, hfrozen]
  exact if_pos ⟨rfl, rfl, hbound⟩

end Sys2Proof.Machine

namespace Sys2Proof.Proofs
open Sys2Proof.Machine

/-- Settles O46: acceptance by the handle's rule (`matrixAccept_of_rule`), and the two other steps of the island. -/
theorem matrixIsland : Obligations.MatrixIsland := by
  intro s k c
  refine ⟨fun m rest p hsent hstands hqueue hp => ⟨fun hrule => ?_, fun hrule hbad => ?_, fun hbad hroom => ?_⟩,
    fun m rest u hqueue hrun => matrixExecute_of_run hqueue hrun, fun m rest p t0 hsent hhold hp hbind hfrozen hbound =>
      accExhausted_of_bound hsent hhold hp hbind hfrozen hbound⟩
  · exact matrixAccept_of_fault hsent hstands hqueue hp hrule
  · exact matrixAccept_of_bad hsent hstands hqueue hp hrule hbad
  · have haccept := fun {r : HandleRule} => matrixAccept_of_rule (r := r) hsent hstands hqueue hp hbad hroom
    refine ⟨fun hr => haccept hr nofun, fun g hr => haccept hr nofun, fun g hr => haccept hr nofun, fun d g hr hbind => ?_⟩
    rw [haccept hr nofun, State.acceptUnder, hbind]

end Sys2Proof.Proofs
end

section
/-! Runs of bytes in the memory tiles of a core (spec 10 R288, R289). -/

namespace Sys2Proof.Machine

theorem cellWrites_take_drop (n : Nat) : ∀ (m : List Host.Cell) (a : Nat) (bs : List Byte),
    cellWrites (cellWrites m a (bs.take n)) (a + n) (bs.drop n) = cellWrites m a bs := by
  induction n with
  | zero => intro m a bs; rfl
  | succ n ih =>
    intro m a bs
    cases bs with
    | nil => rfl
    | cons b bs => rw [List.take_succ_cons, List.drop_succ_cons, cellWrites, cellWrites, ← Nat.add_assoc, Nat.add_right_comm, ih]

theorem cellWrites_append (m : List Host.Cell) (a : Nat) (bs cs : List Byte) :
    cellWrites m a (bs ++ cs) = cellWrites (cellWrites m a bs) (a + bs.length) cs := by
  rw [← cellWrites_take_drop bs.length m a (bs ++ cs), List.take_left, List.drop_left]

/-- The part of a store to tile bytes that lies in one dword (R289). -/
def Core.storeRun (c : Core) (r : Nat × Nat × List Byte) : Core :=
  { c with
    tiles := cellWrites c.tiles (8 * r.1 + r.2.1) r.2.2
    tileWritten := insertNat c.tileWritten r.1
    tilePoison := if 8 ≤ r.2.2.length then removeNat c.tilePoison r.1 else c.tilePoison }

/-- From one core to the other tile bytes have been written in order, and nothing else has changed but the bits and marks of their
dwords. -/
def Core.writesTiles (c d : Core) (key : Nat) (bs : List Byte) : Prop :=
  d = { c with tiles := cellWrites c.tiles key bs, tileWritten := d.tileWritten, tilePoison := d.tilePoison }

theorem writesTiles_storeRuns (fuel : Nat) : ∀ (c : Core) (a : Nat) (bs : List Byte), bs.length ≤ fuel →
    c.writesTiles ((dwordRuns fuel a bs).foldl Core.storeRun c) a bs := by
  induction fuel with
  | zero =>
    intro c a bs hlen
    rw [List.length_eq_zero_iff.1 (Nat.le_zero.1 hlen)]
    rfl
  | succ fuel ih =>
    intro c a bs hlen
    cases bs with
    | nil => rfl
    | cons b bs =>
      have hrest := ih (c.storeRun (a / 8, a % 8, (b :: bs).take (8 - a % 8))) (a + (8 - a % 8)) ((b :: bs).drop (8 - a % 8))
        (by rw [List.length_drop, List.length_cons] at *; omega)
      rw [dwordRuns, List.isEmpty_cons, if_neg Bool.false_ne_true, List.foldl_cons]
      unfold Core.writesTiles at hrest ⊢
      rw [hrest, Core.storeRun, Nat.div_add_mod, cellWrites_take_drop]

theorem writesTiles_tileStore (c : Core) (key : Nat) (bs : List Byte) : c.writesTiles (c.tileStore key bs) key bs :=
  writesTiles_storeRuns bs.length c key bs le_rfl

theorem Core.writesTiles.tileMarkPoison {c d : Core} {key : Nat} {bs : List Byte} (h : c.writesTiles d key bs) (n : Nat) :
    c.writesTiles (d.tileMarkPoison n) key bs := by
  unfold Core.writesTiles at h ⊢
  rw [h]
  rfl

theorem Core.writesTiles.append {c d e : Core} {key : Nat} {bs cs : List Byte} (h : c.writesTiles d key bs)
    (h' : d.writesTiles e (key + bs.length) cs) : c.writesTiles e key (bs ++ cs) := by
  unfold Core.writesTiles at h h' ⊢
  rw [h', h, cellWrites_append]

/-! ### Equal pieces in a row -/

section
variable {α : Type} {n : Nat} {g : Nat → List α} (hg : ∀ q, (g q).length = n)
include hg

theorem length_flatMap_range (m : Nat) : ((List.range m).flatMap g).length = n * m := by
  induction m with
  | zero => rfl
  | succ m ih => rw [List.range_succ, List.flatMap_append, List.length_append, ih, List.flatMap_singleton, hg, Nat.mul_succ]

theorem getElem?_flatMap_range {m q i : Nat} (hq : q < m) (hi : i < n) :
    ((List.range m).flatMap g)[n * q + i]? = (g q)[i]? := by
  induction m with
  | zero => omega
  | succ m ih =>
    have hlen := length_flatMap_range hg m
    rw [List.range_succ, List.flatMap_append, List.flatMap_singleton]
    rcases Nat.lt_or_eq_of_le (Nat.le_of_lt_succ hq) with hlt | rfl
    · have hmul : n * (q + 1) ≤ n * m := Nat.mul_le_mul_left n hlt
      rw [List.getElem?_append_left (by rw [hlen]; rw [Nat.mul_succ] at hmul; omega), ih hlt]
    · rw [List.getElem?_append_right (by rw [hlen]; omega), hlen, Nat.add_sub_cancel_left]

end

theorem flatMap_range_mul {α : Type} (g : Nat → List α) (per m : Nat) :
    (List.range m).flatMap (fun d => (List.range per).flatMap (fun i => g (per * d + i))) = (List.range (per * m)).flatMap g := by
  induction m with
  | zero => rfl
  | succ m ih => rw [List.range_succ, List.flatMap_append, ih, List.flatMap_singleton, Nat.mul_succ, List.range_add, List.flatMap_append,
      List.flatMap_map]

/-- A piece of a written row of equal pieces reads back. -/
theorem readLE_cellWrites_flatMap {n m q : Nat} {g : Nat → List Byte} (hg : ∀ q, (g q).length = n) (hq : q < m)
    (cells : List Host.Cell) (a : Nat) :
    readLE (cellRead (cellWrites cells a ((List.range m).flatMap g))) (a + n * q) n = fromLE (g q) := by
  have hpiece := readLE_eq_fromLE (f := cellRead (cellWrites cells a ((List.range m).flatMap g))) (g q) (a := a + n * q)
  rw [hg] at hpiece
  refine hpiece fun i hi => ?_
  have hmul : n * (q + 1) ≤ n * m := Nat.mul_le_mul_left n hq
  rw [Nat.add_assoc, cellRead_cellWrites_same _ _ _ _ (by rw [length_flatMap_range hg, Nat.mul_succ] at *; omega),
    getElem?_flatMap_range hg hq hi]

end Sys2Proof.Machine
end

section
/-! Matrix instructions from their firing to their execution (spec 07 R226, R230 to R233), and O45. -/

namespace Sys2Proof.Machine
open Sys2Proof.Claims

/-! ### Control tokens (R226) -/

/-- The control token of the firing, with the cause that its operand raises and its offset or index. -/
def State.ctl (s : State) (w : SlotWord) (kind : MxKind) (bad off : Nat) : MxCtl where
  kind := kind
  w := w
  f := s.fire
  launch := (s.ft s.fire).launch
  wgid := (s.ft s.fire).wgid
  off := off
  bad := bad
  key := if w.tile = 32 then none else some (s.tileKey s.fire w 0)
  srcA := (s.core s.fire.core).load.feedSource 0
  srcB := (s.core s.fire.core).load.feedSource 1
  held := false
  counted := false
  acc := .unbound
  freeSlots := []

/-- The state with a control token sent to the island of the firing's core. -/
def State.sendCtl (s : State) (m : MxCtl) : State := s.onCore s.fire.core (fun (c : Core) => { c with mxSent := c.mxSent ++ [m] })

section
variable {s : State} {w : SlotWord}

theorem mxFire_of_triggers (h : triggers s w) (kind : MxKind) (opnd : Nat × Nat) :
    s.mxFire w kind opnd = s.sendCtl (s.ctl w kind opnd.1 opnd.2) :=
  triggered_of_triggers h _

theorem mxOffset_of_beyond {f : Firing} {x : Dword} (h : s.tileRoom f w < x.toNat + accBytes w) :
    s.mxOffset f w (.data x) = (0x12, x.toNat) := if_pos h

theorem mxOffset_of_unaligned {f : Firing} {x : Dword} (h : x.toNat + accBytes w ≤ s.tileRoom f w) (hx : x.toNat % 8 ≠ 0) :
    s.mxOffset f w (.data x) = (0x15, x.toNat) := (if_neg h.not_gt).trans (if_pos hx)

theorem mxOffset_of_within {f : Firing} {x : Dword} (h : x.toNat + accBytes w ≤ s.tileRoom f w) (hx : x.toNat % 8 = 0) :
    s.mxOffset f w (.data x) = (0, x.toNat) := (if_neg h.not_gt).trans (if_neg (not_not_intro hx))

end

/-! ### Acceptance of a sent token (R226, R231) -/

theorem owns_of_sounding {s : State} {f : Firing} (h : f.mute = false) : s.owns f = true := by
  unfold State.owns
  split
  · rfl
  · simp [h]

/-- A control token as its acceptance leaves it, with the handle that it has taken. -/
def State.heldCtl (s : State) (w : SlotWord) (kind : MxKind) (off : Nat) (h : Handle) : MxCtl :=
  { s.ctl w kind 0 off with counted := kind.counted, acc := h }

/-- A state in which the island of the firing's core has accepted the control token `m` alone: but for it, the core is `c` with
tokens on their way and counters raised. -/
structure State.accepts (s : State) (c : Core) (m : MxCtl) (u : State) : Prop where
  core : u.core s.fire.core = { c with
    flights := (u.core s.fire.core).flights, feeds := (u.core s.fire.core).feeds, ports := (u.core s.fire.core).ports
    threads := (u.core s.fire.core).threads, mxSent := [], mxHold := none, mxQueue := [m] }
  thread : ∀ n, (u.thread s.fire.core n).state = (s.thread s.fire.core n).state
  kernels : u.kernels = s.kernels

theorem State.accepts.queue {s u : State} {c : Core} {m : MxCtl} (h : s.accepts c m u) : (u.core s.fire.core).mxQueue = [m] := by
  rw [h.core]

theorem accepts_mxTake {s t : State} {c : Core} {m m0 : MxCtl} (hcore : t.core s.fire.core = { c with mxSent := [m0] })
    (hqueue : c.mxQueue = []) (hthreads : c.threads = (s.core s.fire.core).threads) (hkernels : t.kernels = s.kernels)
    (hf : m.f.core = s.fire.core) (hmute : m.f.mute = false) :
    s.accepts c { m with counted := m.kind.counted } (t.mxTake s.fire.core m) := by
  have hqueued : (t.mxPop s.fire.core).onCore s.fire.core (fun (c : Core) => { c with
        mxQueue := c.mxQueue ++ [{ m with counted := m.kind.counted }] }) =
      t.setCore s.fire.core { c with mxSent := [], mxHold := none, mxQueue := [{ m with counted := m.kind.counted }] } := by
    rw [State.mxPop, State.onCore, State.onCore_core_same, State.onCore, setCore_setCore, hcore, hqueue]
    rfl
  have hsends : (t.setCore s.fire.core { c with mxSent := [], mxHold := none, mxQueue := [{ m with counted := m.kind.counted }] }).onlySends
      (t.mxTake s.fire.core m) s.fire.core := by
    unfold State.mxTake
    dsimp only
    rw [owns_of_sounding hmute, Bool.and_true, hqueued]
    generalize t.setCore s.fire.core _ = b
    have hcounted : b.onlySends (if m.kind.counted then b.countUp s.fire.core m.f.thread .matrix else b) s.fire.core := by
      split
      · exact (b.onlySends_refl _).countUp _ _
      · exact b.onlySends_refl _
    split
    · exact hcounted
    · exact hcounted.emit2 hf m.w 0 0
  obtain ⟨hm, hc, ht⟩ := hsends
  rw [State.setCore_core_same] at hc
  refine ⟨hc, fun n => (ht n).trans ?_, (congrArg State.kernels hm).trans hkernels⟩
  rw [State.thread, State.setCore_core_same, Core.thread, hthreads]
  rfl

section
variable {s : State} {w : SlotWord} {p : Part} {kind : MxKind} {off : Nat} (hfree : islandFree s p)
include hfree

/-- The core of a state with a control token sent. -/
theorem sendCtl_core (m : MxCtl) : (s.sendCtl m).core s.fire.core = { s.core s.fire.core with mxSent := [m] } := by
  obtain ⟨hsent, -⟩ := hfree
  rw [State.sendCtl, State.onCore_core_same, hsent]
  rfl

/-- A control token that nothing else stops is accepted as its handle rule says. -/
theorem matrixAccept_of_free {r : HandleRule} (hr : handleRule (s.ctl w kind 0 off) (p.handleOf (s.ctl w kind 0 off)) = r)
    (hrule : r ≠ .fault) : exec (.matrixAccept s.fire.core) (s.sendCtl (s.ctl w kind 0 off)) =
      .next ((s.sendCtl (s.ctl w kind 0 off)).acceptUnder s.fire.core (s.ctl w kind 0 off) p r) := by
  have hcore := sendCtl_core hfree (s.ctl w kind 0 off)
  obtain ⟨-, hqueue, -, habort, -, hpart, hroom⟩ := hfree
  have hthread : ∀ n, (s.sendCtl (s.ctl w kind 0 off)).thread s.fire.core n = s.thread s.fire.core n :=
    fun n => onCore_thread_of_threads rfl _ n
  refine matrixAccept_of_rule (rest := []) (by rw [hcore]) (.inl ?_) (by rw [hcore]; simp [hqueue]) ?_ rfl (.inr (.inr ?_)) hr hrule
  · exact (congrArg Thread.aborted (hthread s.fire.thread)).trans habort
  · rw [hcore]
    exact hpart
  · rw [State.countRoom, hthread]
    exact hroom

theorem accepts_of_free {c : Core} {t : State} (m0 m : MxCtl) (hcore : t.core s.fire.core = { c with mxSent := [m0] })
    (hqueue : c.mxQueue = (s.core s.fire.core).mxQueue) (hthreads : c.threads = (s.core s.fire.core).threads)
    (hkernels : t.kernels = s.kernels) (hm : m.f = s.fire) :
    s.accepts c { m with counted := m.kind.counted } (t.mxTake s.fire.core m) := by
  obtain ⟨-, hempty, -, -, hmute, -, -⟩ := hfree
  exact accepts_mxTake hcore (hqueue.trans hempty) hthreads hkernels (by rw [hm]) (by rw [hm, hmute])

end

section
variable {s : State} {w : SlotWord} {p : Part} {h : Handle} (hfree : islandFree s p) (hlook : p.handles.look w.handle = some h)
  (hfits : h.fits (accWidth w) = true)
include hfree

theorem accepts_info : ∃ u, exec (.matrixAccept s.fire.core) (s.sendCtl (s.ctl w .info 0 0)) = .next u ∧
    s.accepts (s.core s.fire.core) (s.heldCtl w .info 0 .unbound) u :=
  ⟨_, matrixAccept_of_free hfree rfl nofun, accepts_of_free hfree _ (s.ctl w .info 0 0) (sendCtl_core hfree _) rfl rfl rfl rfl⟩

include hlook hfits

theorem accepts_bound {kind : MxKind} (off : Nat) (hrel : kind ≠ .rel) (hinfo : kind ≠ .info) :
    ∃ u, exec (.matrixAccept s.fire.core) (s.sendCtl (s.ctl w kind 0 off)) = .next u ∧
      s.accepts (s.core s.fire.core) (s.heldCtl w kind off h) u := by
  have hbound : h ≠ .unbound := by rintro rfl; cases hfits
  have hrule : handleRule (s.ctl w kind 0 off) (p.handleOf (s.ctl w kind 0 off)) = .take h := by
    have hof : p.handleOf (s.ctl w kind 0 off) = h := by rw [Part.handleOf, State.ctl, hlook, Option.getD_some]
    rw [hof]
    cases kind <;> simp_all [handleRule, State.ctl]
  exact ⟨_, matrixAccept_of_free hfree hrule nofun,
    accepts_of_free hfree _ { s.ctl w kind 0 off with acc := h } (sendCtl_core hfree _) rfl rfl rfl rfl⟩

theorem accepts_rel : ∃ u, exec (.matrixAccept s.fire.core) (s.sendCtl (s.ctl w .rel 0 0)) = .next u ∧
    s.accepts ((s.core s.fire.core).onPart p (fun q => { q with handles := q.handles.del w.handle }))
      { s.heldCtl w .rel 0 .unbound with freeSlots := h.slots } u := by
  have hbound : h ≠ .unbound := by rintro rfl; cases hfits
  have hrule : handleRule (s.ctl w .rel 0 0) (p.handleOf (s.ctl w .rel 0 0)) = .drop h := by
    rw [Part.handleOf, State.ctl, hlook, Option.getD_some]
    exact if_neg hbound
  refine ⟨_, matrixAccept_of_free hfree hrule nofun,
    accepts_of_free hfree (s.ctl w .rel 0 0) { s.ctl w .rel 0 0 with freeSlots := h.slots } ?_ rfl rfl rfl rfl⟩
  rw [State.setCore_core_same, sendCtl_core hfree]
  rfl

end

/-! ### Execution (R230, R232, R233) -/

theorem countDown_of_inload {s : State} {k t : Nat} (h : (s.thread k t).state = .inload) (cls : CntClass) :
    s.countDown k t cls = s.onThread k t (fun th => th.setCnt cls (th.cnt cls - 1)) := by
  refine if_neg fun hexit => ?_
  obtain ⟨hexit, -⟩ := hexit
  have hstate : ∀ th : Thread, ∀ v, (th.setCnt cls v).state = th.state := fun _ _ => by cases cls <;> rfl
  rw [State.onThread_thread_same, hstate, h] at hexit
  cases hexit

/-- What an executed control token leaves of its core: it has left the queue, and its thread's counter has fallen. -/
def Core.executed (c d : Core) : Prop := d = { c with mxQueue := d.mxQueue, threads := d.threads }

theorem matrixExecute_of_inload {s u : State} {k : Nat} {m : MxCtl} (hqueue : (s.core k).mxQueue = [m]) (hrun : s.mxRun k m = some u)
    (hthreads : (u.core k).threads = (s.core k).threads) (hinload : (s.thread k m.f.thread).state = .inload) :
    ∃ v, exec (.matrixExecuteComplete k) s = .next v ∧ (u.core k).executed (v.core k) := by
  refine ⟨_, matrixExecute_of_run hqueue hrun, ?_⟩
  have hdone : (u.onCore k (fun c => { c with mxQueue := c.mxQueue.drop 1 })).core k =
      { u.core k with mxQueue := (u.core k).mxQueue.drop 1 } := State.onCore_core_same ..
  split
  · rw [countDown_of_inload, State.onThread, State.onCore_core_same, hdone]
    · rfl
    · rw [onCore_thread_of_threads rfl, ← hinload, State.thread, Core.thread, hthreads]
      rfl
  · rw [hdone]
    rfl

theorem look_foldl_put_range {α : Type} (g : Nat → α) (b : Nat) {n q : Nat} (hq : q < n) (t : Table α) :
    ((List.range n).foldl (fun t q => t.put (b + q) (g q)) t).look (b + q) = some (g q) := by
  induction n with
  | zero => omega
  | succ n ih =>
    rw [List.range_succ, List.foldl_append, List.foldl_cons, List.foldl_nil]
    rcases Nat.lt_or_eq_of_le (Nat.le_of_lt_succ hq) with hlt | rfl
    · rw [Table.look_put_other _ _ _ _ (by omega), ih hlt]
    · exact Table.look_put_same ..

theorem accAt_accFill (c : Core) (h : Handle) (g : Nat → AccElem) {q : Nat} (hq : q < 256) : (c.accFill h g).accAt h q = g q := by
  rw [Core.accAt, Core.accFill, look_foldl_put_range g _ hq, Option.getD_some]

theorem mem_insertNat {l : List Nat} {n x : Nat} : x ∈ insertNat l n ↔ x = n ∨ x ∈ l := by
  induction l with
  | nil => simp [insertNat]
  | cons k l ih =>
    unfold insertNat
    split_ifs with hlt heq
    · exact List.mem_cons
    · rw [heq]; simp
    · rw [List.mem_cons, ih, List.mem_cons, or_left_comm]

theorem mem_foldl_insertNat {ns l : List Nat} {x : Nat} : x ∈ ns.foldl insertNat l ↔ x ∈ ns ∨ x ∈ l := by
  induction ns generalizing l with
  | nil => simp
  | cons n ns ih => rw [List.foldl_cons, ih, mem_insertNat, List.mem_cons, or_assoc, or_left_comm]

/-- A part whose handle is given back has it unbound. -/
theorem look_del_of_onPart {c : Core} {p p' : Part} {launch wgid n : Nat}
    (hp : c.parts.find? (fun q => q.launch == launch && q.wgid == wgid) = some p)
    (hp' : (c.onPart p (fun q => { q with handles := q.handles.del n })).parts.find? (fun q => q.launch == launch && q.wgid == wgid) = some p') :
    p'.handles.look n = none := by
  rw [Core.onPart, List.find?_map] at hp'
  have hsame : ((fun q : Part => q.launch == launch && q.wgid == wgid) ∘ fun q : Part =>
      if q.launch = p.launch ∧ q.wgid = p.wgid ∧ q.index = p.index then { q with handles := q.handles.del n } else q) =
      fun q => q.launch == launch && q.wgid == wgid := by
    funext q
    dsimp only [Function.comp]
    split <;> rfl
  rw [hsame, hp, Option.map_some, if_pos ⟨rfl, rfl, rfl⟩] at hp'
  cases hp'
  exact Table.look_del_same ..

/-- Taking an operand set leaves the accumulators and the threads. -/
theorem feedSet_keeps {s : State} {k feed : Nat} {m : MxCtl} {x : OpSet} {c : Core} (h : s.feedSet k m feed = some (x, c)) :
    c.acc = (s.core k).acc ∧ c.threads = (s.core k).threads := by
  have hclose : ∀ (d : Core) n, (d.closesGo n).acc = d.acc ∧ (d.closesGo n).threads = d.threads := by
    intro d n
    unfold Core.closesGo
    split <;> exact ⟨rfl, rfl⟩
  unfold State.feedSet at h
  split at h
  · unfold State.fabricSet at h
    dsimp only at h
    split at h
    · cases h
    · cases h
      exact ⟨rfl, rfl⟩
  · dsimp only at h
    split at h
    · cases h
      exact hclose _ _
    · cases h

/-! ### Stores of accumulators (R232) -/

/-- The bytes of an accumulator element in a tile: a Poison element reads as zero. -/
def AccElem.image (n : Nat) (e : AccElem) : List Byte := bytesLE n (if e.poison then 0 else e.bits.toNat)

theorem image_length (n : Nat) (e : AccElem) : (e.image n).length = n := bytesLE_length ..

/-- The bytes of a dword of `per` accumulator elements. -/
def Core.accDword (c : Core) (h : Handle) (n per d : Nat) : List Byte :=
  (List.range per).flatMap (fun i => (c.accAt h (per * d + i)).image n)

/-- An accumulator's store to a tile writes its elements in a row. -/
theorem mxStore_core {s : State} {k key : Nat} {m : MxCtl} (hkey : m.key = some key) :
    (s.core k).writesTiles ((s.mxStore k m).core k) (key + m.off)
      ((List.range 256).flatMap (fun q => ((s.core k).accAt m.acc q).image (accBytes m.w / 256))) := by
  obtain ⟨n, per, hn, hper, hlen, hdwords⟩ : ∃ n per, accBytes m.w / 256 = n ∧ 8 / n = per ∧ n * per = 8 ∧ per * (accBytes m.w / 8) = 256 := by
    unfold accBytes
    split <;> exact ⟨_, _, rfl, rfl, rfl, rfl⟩
  have hdword : ∀ c : Core, ∀ d, (c.accDword m.acc n per d).length = 8 := fun c d => by
    rw [Core.accDword, length_flatMap_range (fun _ => image_length _ _), hlen]
  rw [hn, ← hdwords, ← flatMap_range_mul, State.mxStore, hn, hper]
  generalize accBytes m.w / 8 = count
  induction count with
  | zero => rfl
  | succ j ih =>
    rw [List.range_succ, List.foldl_append, List.flatMap_append, List.flatMap_singleton, List.foldl_cons, List.foldl_nil]
    generalize (List.range j).foldl _ s = t at ih ⊢
    have hacc : (t.core k).acc = (s.core k).acc := by rw [ih]
    have haccDword : (List.range per).flatMap (fun i => ((s.core k).accAt m.acc (per * j + i)).image n) =
        (t.core k).accDword m.acc n per j := by rw [Core.accDword]; unfold Core.accAt; rw [hacc]
    have hat : t.mxKey k m (8 * j) = key + m.off + ((List.range j).flatMap (fun d => (s.core k).accDword m.acc n per d)).length := by
      rw [length_flatMap_range (hdword _), State.mxKey, hkey]
    rw [haccDword]
    refine ih.append ?_
    dsimp only
    rw [State.setCore_core_same, hat, List.flatMap_map]
    split
    · exact (writesTiles_tileStore _ _ _).tileMarkPoison _
    · exact writesTiles_tileStore _ _ _

/-! ### What an accepted control token finds (R226, R232) -/

section
variable {s u : State} {c : Core} {m : MxCtl}

theorem State.accepts.inload (hu : s.accepts c m u) {p : Part} (hfree : islandFree s p) (hm : m.f = s.fire) :
    (u.thread s.fire.core m.f.thread).state = .inload := by
  obtain ⟨-, -, hinload, -⟩ := hfree
  rw [hm, hu.thread]
  exact hinload

/-- The tile bytes of an offset of a matrix instruction, for its scratchpad and for a buffer (R232). -/
def State.mxByteKey (s : State) (w : SlotWord) (off b : Nat) : Nat :=
  if w.tile = 32 then spadKey (s.spadTilesAt s.fire.core (s.ft s.fire).launch (s.ft s.fire).wgid) (off + b)
  else s.tileKey s.fire w off + b

theorem tileKey_add {s : State} {f : Firing} {w : SlotWord} (h : w.tile ≠ 32) (off : Nat) : s.tileKey f w off = s.tileKey f w 0 + off := by
  simp only [State.tileKey, if_neg h, Nat.add_zero]

theorem mxKey_of_accepts {w : SlotWord} {kind : MxKind} {off : Nat} {h : Handle}
    (hu : s.accepts (s.core s.fire.core) (s.heldCtl w kind off h) u) (b : Nat) :
    u.mxKey s.fire.core (s.heldCtl w kind off h) b = s.mxByteKey w off b := by
  have htiles : ∀ launch wgid, u.spadTilesAt s.fire.core launch wgid = s.spadTilesAt s.fire.core launch wgid := by
    intro launch wgid
    simp only [State.spadTilesAt, State.kernel, hu.kernels]
    rw [hu.core]
  unfold State.mxKey State.mxByteKey State.heldCtl State.ctl
  dsimp only
  by_cases htile : w.tile = 32
  · simp only [if_pos htile, htiles]
  · simp only [if_neg htile, tileKey_add htile off]

/-! ### Executions (R230, R232, R233) -/

section
variable {p : Part} (hu : s.accepts c m u) (hfree : islandFree s p) (hm : m.f = s.fire)
include hu hfree hm

theorem executes_accFill {d : Core} {h : Handle} {g : Nat → AccElem}
    (hrun : u.mxRun s.fire.core m = some (u.setCore s.fire.core (d.accFill h g))) (hd : d.threads = (u.core s.fire.core).threads) :
    ∃ v, exec (.matrixExecuteComplete s.fire.core) u = .next v ∧ ∀ q, q < 256 → (v.core s.fire.core).accAt h q = g q := by
  have hfill := fun q (hq : q < 256) => accAt_accFill d h g hq
  have hthreads : (d.accFill h g).threads = (u.core s.fire.core).threads := by rw [Core.accFill, hd]
  generalize d.accFill h g = e at hrun hfill hthreads
  obtain ⟨v, hexec, hv⟩ := matrixExecute_of_inload hu.queue hrun (by rw [State.setCore_core_same, hthreads]) (hu.inload hfree hm)
  refine ⟨v, hexec, fun q hq => ?_⟩
  rw [State.setCore_core_same] at hv
  rw [← hfill q hq, Core.accAt, hv]
  rfl

end

theorem matrixExecute_of_answer {k : Nat} {x : Dword} (hqueue : (u.core k).mxQueue = [m]) (hk : m.f.core = k) (hcounted : m.counted = false)
    (hrun : u.mxRun k m = some (u.emit2 m.f m.w (.data x) (.data x))) : exec (.matrixExecuteComplete k) u = .next
      ((u.emit2 m.f m.w (.data x) (.data x)).onCore k (fun c => { c with mxQueue := [] })) := by
  have hleft : ((u.emit2 m.f m.w (.data x) (.data x)).core k).mxQueue = [m] := by
    rw [((u.onlySends_refl k).emit2 hk m.w x x).core]
    exact hqueue
  rw [matrixExecute_of_run hqueue hrun, if_neg (by rw [hcounted]; decide), State.onCore, hleft]
  rfl

end

/-- An `mxst` to a tile writes the accumulator's elements in a row; one to the scratchpad executes too. -/
theorem executes_store {s u : State} {w : SlotWord} {p : Part} {h : Handle} {off : Nat} (hfree : islandFree s p)
    (hu : s.accepts (s.core s.fire.core) (s.heldCtl w .store off h) u) : ∃ v, exec (.matrixExecuteComplete s.fire.core) u = .next v ∧
      (w.tile ≠ 32 → ∀ q e, q < 256 → (s.core s.fire.core).accAt h q = ⟨false, e⟩ →
        readLE (v.core s.fire.core).tileByte (s.mxByteKey w off (accBytes w / 256 * q)) (accBytes w / 256) =
          e.toNat % 256 ^ (accBytes w / 256)) := by
  by_cases htile : w.tile = 32
  · exact ⟨_, matrixExecute_of_run hu.queue rfl, fun h => absurd htile h⟩
  have hstored := mxStore_core (s := u) (k := s.fire.core) (m := s.heldCtl w .store off h) (if_neg htile)
  obtain ⟨v, hexec, hv⟩ := matrixExecute_of_inload hu.queue rfl (by rw [hstored]) (hu.inload hfree rfl)
  refine ⟨v, hexec, fun _ q e hq he => ?_⟩
  have hacc : ((u.core s.fire.core).accAt h q) = ⟨false, e⟩ := by rw [← he, hu.core]; rfl
  have htiles : (v.core s.fire.core).tileByte = cellRead (cellWrites (u.core s.fire.core).tiles (s.tileKey s.fire w 0 + off)
      ((List.range 256).flatMap (fun q => ((u.core s.fire.core).accAt h q).image (accBytes w / 256)))) := by
    rw [hv, hstored]
    rfl
  rw [htiles, State.mxByteKey, if_neg htile, tileKey_add htile off,
    readLE_cellWrites_flatMap (fun _ => image_length _ _) hq, hacc]
  exact fromLE_bytesLE _ _

/-- An `mxrel` returns the slots of its handle and leaves the handle unbound. -/
theorem executes_rel {s u : State} {w : SlotWord} {p : Part} {h : Handle} (hfree : islandFree s p)
    (hu : s.accepts ((s.core s.fire.core).onPart p (fun q => { q with handles := q.handles.del w.handle }))
      { s.heldCtl w .rel 0 .unbound with freeSlots := h.slots } u) : ∃ v, exec (.matrixExecuteComplete s.fire.core) u = .next v ∧
      (∀ q ∈ h.slots, q ∈ (v.core s.fire.core).accFree) ∧
      ∀ p', (v.core s.fire.core).parts.find? (fun (p : Part) => p.launch == (s.ft s.fire).launch && p.wgid == (s.ft s.fire).wgid) =
        some p' → p'.handles.look w.handle = none := by
  obtain ⟨v, hexec, hv⟩ := matrixExecute_of_inload hu.queue rfl (by rw [State.setCore_core_same]; rfl) (hu.inload hfree rfl)
  rw [State.setCore_core_same] at hv
  refine ⟨v, hexec, fun q hq => ?_, fun p' hp' => ?_⟩
  · rw [hv]
    exact mem_foldl_insertNat.2 (.inl hq)
  · obtain ⟨-, -, -, -, -, hpart, -⟩ := hfree
    rw [hv] at hp'
    refine look_del_of_onPart hpart ?_
    rw [← hp']
    exact (congrArg (fun c : Core => c.parts.find? _) hu.core).symm

theorem mxRun_op {s : State} {k : Nat} {m : MxCtl} {x y : OpSet} {c d : Core} (hkind : m.kind = .op)
    (hA : s.feedSet k m 0 = some (x, c)) (hB : (s.setCore k c).feedSet k m 1 = some (y, d)) : s.mxRun k m = some
      (s.setCore k (d.accFill m.acc (fun q => accStep m.w (d.accAt m.acc q) (mxTerm m.w x y (q / 16) (q % 16))))) := by
  simp only [State.mxRun, hkind, hA, hB, setCore_setCore]

theorem mxRun_read {s : State} {k : Nat} {m : MxCtl} {e : Dword} (hkind : m.kind = .read)
    (he : (s.core k).accAt m.acc m.off = ⟨false, e⟩) : s.mxRun k m = some
      (s.emit2 m.f m.w (bitsVal m.w.ty e.toNat) (bitsVal m.w.ty e.toNat)) := by
  simp only [State.mxRun, hkind, he]
  rfl

theorem mxSent_of_triggers {s : State} {w : SlotWord} (h : triggers s w) {i : Instr} {kind : MxKind} {bad off : Nat}
    (hi : exec i s = .next (s.mxFire w kind (bad, off))) : ∃ m : MxCtl,
      exec i s = .next (s.onCore s.fire.core (fun (c : Core) => { c with mxSent := c.mxSent ++ [m] })) ∧
      m.kind = kind ∧ m.w = w ∧ m.f = s.fire ∧ m.launch = (s.ft s.fire).launch ∧ m.wgid = (s.ft s.fire).wgid ∧ m.bad = bad ∧ m.off = off :=
  ⟨s.ctl w kind bad off, by rw [hi, mxFire_of_triggers h]; rfl, rfl, rfl, rfl, rfl, rfl, rfl, rfl⟩


end Sys2Proof.Machine

namespace Sys2Proof.Proofs
open Sys2Proof.Machine Sys2Proof.Claims

/-- Settles O45: a matrix instruction sends one control token (`mxFire_of_triggers`); the free island accepts it with the handle that its
part has bound (`accepts_bound`), and its execution is `mxRun` on a core that acceptance has left as it was. -/
theorem matrixControlTokens : Obligations.MatrixControlTokens := by
  constructor
  · intro s w h f sent
    have hsent : ∀ {i : Instr} {kind : MxKind} {opnd : Nat × Nat} {bad off : Nat}, exec i s = .next (s.mxFire w kind opnd) →
        opnd = (bad, off) → sent i kind bad off := by
      rintro i kind _ bad off hi rfl
      exact mxSent_of_triggers h hi
    refine ⟨hsent rfl rfl, hsent rfl rfl, hsent rfl rfl, hsent rfl rfl, fun x hA => ⟨hsent rfl (by rw [hA]; rfl), fun hroom hoff => ?_,
      fun hroom => ?_, fun hroom hoff => ?_⟩, fun hA => ?_⟩
    · have hop := mxOffset_of_within hroom hoff
      rw [← hA] at hop
      exact ⟨hsent rfl hop, hsent rfl hop⟩
    · have hop := mxOffset_of_beyond hroom
      rw [← hA] at hop
      exact ⟨hsent rfl hop, hsent rfl hop⟩
    · have hop := mxOffset_of_unaligned hroom hoff
      rw [← hA] at hop
      exact ⟨hsent rfl hop, hsent rfl hop⟩
    · exact ⟨hsent rfl (by rw [hA]; rfl), hsent rfl (by rw [hA]; rfl), hsent rfl (by rw [hA]; rfl)⟩
  · intro s w p h htrig hfree hlook hfits f k n at_ accepted executes
    have send : ∀ {i : Instr} {kind : MxKind} {opnd : Nat × Nat} {off : Nat}, exec i s = .next (s.mxFire w kind opnd) → opnd = (0, off) →
        exec i s = .next (s.sendCtl (s.ctl w kind 0 off)) := by
      rintro i kind _ off hi rfl
      rw [hi, mxFire_of_triggers htrig]
    have bound : ∀ {i : Instr} {kind : MxKind} {off : Nat} {P : MxCtl → State → Prop},
        exec i s = .next (s.sendCtl (s.ctl w kind 0 off)) → kind ≠ .rel → kind ≠ .info →
        (∀ u, s.accepts (s.core k) (s.heldCtl w kind off h) u → P (s.heldCtl w kind off h) u) → accepted i P := by
      intro i kind off P hi hrel hinfo hP
      obtain ⟨u, haccept, hu⟩ := accepts_bound hfree hlook hfits off hrel hinfo
      exact ⟨_, _, u, hi, haccept, hu.queue, rfl, rfl, hP u hu⟩
    have hacc : ∀ {m u}, s.accepts (s.core k) m u → ∀ q, (u.core k).accAt h q = (s.core k).accAt h q := by
      intro m u hu q
      rw [hu.core]
      rfl
    refine ⟨bound (send rfl rfl) nofun nofun fun u hu => executes_accFill hu hfree rfl rfl rfl, ?_, ?_,
      bound (send rfl rfl) nofun nofun fun u hu x y c d hA hB => ?_, fun x hx => ⟨fun e he => ?_, fun hroom hoff => ?_⟩⟩
    · obtain ⟨u, haccept, hu⟩ := accepts_rel hfree hlook hfits
      exact ⟨_, _, u, send rfl rfl, haccept, hu.queue, rfl, rfl, executes_rel hfree hu⟩
    · obtain ⟨u, haccept, hu⟩ := accepts_info hfree
      exact ⟨_, _, u, send rfl rfl, haccept, hu.queue, rfl, rfl, matrixExecute_of_answer hu.queue rfl rfl rfl⟩
    · obtain ⟨haccA, hthA⟩ := feedSet_keeps hA
      obtain ⟨haccB, hthB⟩ := feedSet_keeps hB
      rw [State.setCore_core_same] at haccB hthB
      obtain ⟨v, hexec, hv⟩ := executes_accFill hu hfree rfl (mxRun_op rfl hA hB) (hthB.trans hthA)
      refine ⟨v, hexec, fun q hq => (hv q hq).trans ?_⟩
      have hd : d.accAt h q = (s.core k).accAt h q := by
        rw [← hacc hu, Core.accAt, haccB, haccA]
        rfl
      rw [← hd]
      rfl
    · refine bound (send rfl (by rw [hx]; rfl)) nofun nofun fun u hu => matrixExecute_of_answer hu.queue rfl rfl ?_
      exact mxRun_read rfl ((hacc hu _).trans he)
    · have hop : s.mxOffset f w (s.opA f w) = (0, x.toNat) := by rw [hx]; exact mxOffset_of_within hroom hoff
      refine ⟨bound (send rfl hop) nofun nofun fun u hu => ?_, bound (send rfl hop) nofun nofun fun u hu => executes_store hfree hu⟩
      obtain ⟨v, hexec, hv⟩ := executes_accFill hu hfree rfl rfl rfl
      refine ⟨v, hexec, fun q hq => (hv q hq).trans ?_⟩
      have hmark : ∀ key, (u.core k).tileMark key = (s.core k).tileMark key := fun key => by rw [hu.core]; rfl
      have hbyte : ∀ key, (u.core k).tileByte key = (s.core k).tileByte key := fun key => by rw [hu.core]; rfl
      simp only [k, f] at hmark hbyte
      simp only [mxKey_of_accepts hu, hmark, hbyte]
      rfl

end Sys2Proof.Proofs
end

section
/-! The groups of a core while a fault is taken or a token is sent (spec 01 R24; 13 R366, R367; 07 R205): none of it touches a group. -/

namespace Sys2Proof.Machine

/-! ### Ports and transfers of an aborted workgroup (R249, R367) -/

theorem foldl_groups {α : Type} {f : Core → α → Core} (hf : ∀ c a, (f c a).groups = c.groups) (l : List α) (c : Core) :
    (l.foldl f c).groups = c.groups := by
  induction l generalizing c with
  | nil => rfl
  | cons a l ih => exact (ih _).trans (hf c a)

@[simp] theorem onPort_groups (c : Core) (n : Nat) (f : Port → Port) : (c.onPort n f).groups = c.groups := rfl

@[simp] theorem closesGo_groups (c : Core) (n : Nat) : (c.closesGo n).groups = c.groups := by
  unfold Core.closesGo
  split <;> rfl

@[simp] theorem portCheck_groups (c : Core) (n : Nat) : (c.portCheck n).groups = c.groups := closesGo_groups _ _

@[simp] theorem portClose_groups (c : Core) (n : Nat) : (c.portClose n).groups = c.groups := by
  rw [Core.portClose, closesGo_groups, onPort_groups]
  refine foldl_groups (fun _ _ => ?_) _ c
  rfl

theorem portLoses_groups (c : Core) (n : Nat) (gone : Nat → Bool) : (c.portLoses n gone).groups = c.groups := by
  unfold Core.portLoses
  dsimp only
  split
  · rfl
  · split
    · exact portClose_groups _ _
    · split
      · exact closesGo_groups _ _
      · exact portCheck_groups _ _

theorem dropTransfers_groups (c : Core) (launch wgid : Nat) : (c.dropTransfers launch wgid).groups = c.groups := by
  refine (foldl_groups (fun d n => portLoses_groups d n _) _ _).trans ?_
  refine foldl_groups (fun _ _ => ?_) _ c
  rfl

/-! ### Taking a fault (R24, R366, R367) -/

/-- Every core has the groups that it had. -/
def State.keepsGroups (s t : State) : Prop := ∀ k, (t.core k).groups = (s.core k).groups

section
variable {s t : State} (h : s.keepsGroups t)
include h

theorem State.keepsGroups.of_cores {u : State} (hu : u.cores = t.cores) : s.keepsGroups u := by
  intro k
  rw [State.core, hu]
  exact h k

theorem State.keepsGroups.of_stands {u : State} (hu : t.stands u) : s.keepsGroups u := by
  intro k
  rw [hu.core k]
  exact h k

theorem State.keepsGroups.onCore (k : Nat) {g : Core → Core} (hg : ∀ c, (g c).groups = c.groups) : s.keepsGroups (t.onCore k g) := by
  intro j
  rcases eq_or_ne j k with rfl | hj
  · rw [State.onCore_core_same, hg]
    exact h j
  · rw [State.onCore_core_other _ _ _ _ hj]
    exact h j

theorem State.keepsGroups.onThread (k n : Nat) (g : Thread → Thread) : s.keepsGroups (t.onThread k n g) := h.onCore k fun _ => rfl

theorem State.keepsGroups.foldl {α : Type} {f : State → α → State} (hf : ∀ u a, s.keepsGroups u → s.keepsGroups (f u a)) (l : List α) :
    s.keepsGroups (l.foldl f t) := by
  induction l generalizing t with
  | nil => exact h
  | cons a l ih => exact ih (hf t a h)

theorem State.keepsGroups.setFvalid (k : Nat) (x : Option (Nat × Byte)) : s.keepsGroups (t.setFvalid k x) := by
  unfold State.setFvalid
  split
  · exact h
  · refine h.onCore k fun c => ?_
    split <;> rfl

theorem State.keepsGroups.storeOwn (k n : Nat) (r : FaultRec) (c : Byte) : s.keepsGroups (t.storeOwn k n r (some c)).1 := by
  obtain ⟨u, hu, hw, hn⟩ := storeOwn_cases t k n r c
  by_cases hx : (t.storeOwn k n r (some c)).2 = .written
  · rw [hw hx]
    exact (h.of_stands hu).setFvalid _ _
  · rw [hn hx]
    exact h.of_stands hu

theorem State.keepsGroups.muteHeld (k n : Nat) : s.keepsGroups (t.muteHeld k n) := by
  intro j
  unfold State.muteHeld State.core
  dsimp only
  rw [← State.core]
  refine State.keepsGroups.onCore h k (fun _ => ?_) j
  rfl

theorem State.keepsGroups.reportAbort (r : FaultRec) (launch wgid : Nat) : s.keepsGroups (t.reportAbort r launch wgid) :=
  h.of_cores (reportAbort_frame t r launch wgid).1

theorem State.keepsGroups.dropHeld (p : HeldItem → Bool) : s.keepsGroups (t.dropHeld p) := by
  refine State.keepsGroups.foldl ?_ (fun _ _ hu => ?_) _
  · exact h.of_cores rfl
  · exact hu.of_cores rfl

theorem State.keepsGroups.fireOn (p : Firing → Bool) : s.keepsGroups (t.fireOn p) := h.of_cores rfl

theorem State.keepsGroups.onWg (launch wgid : Nat) (g : Workgroup → Workgroup) : s.keepsGroups (t.onWg launch wgid g) := h.of_cores rfl

theorem State.keepsGroups.onLaunch (launch : Nat) (g : Launch → Launch) : s.keepsGroups (t.onLaunch launch g) := h.of_cores rfl

theorem State.keepsGroups.abortWg (launch wgid : Nat) : s.keepsGroups (t.abortWg launch wgid) := by
  unfold State.abortWg
  split
  · exact h
  · split
    · exact h
    · refine State.keepsGroups.foldl ?_ (fun u k hu => hu.onCore k fun c => ?_) _
      · exact (((h.onWg _ _ _).onLaunch _ _).dropHeld _).fireOn _
      · exact dropTransfers_groups _ _ _

theorem State.keepsGroups.recordRefused (k n : Nat) (x : Stored) : s.keepsGroups (t.recordRefused k n x) := by
  unfold State.recordRefused
  split
  · have hpost : ∀ r, s.keepsGroups (t.fqPost r none) := fun r => h.of_stands (t.stands_refl.fqPost r none)
    exact (hpost _).abortWg _ _
  · exact h

theorem State.keepsGroups.divert (k n : Nat) : s.keepsGroups (t.divert k n) := by
  unfold State.divert
  dsimp only
  split
  · exact h.onThread k n _
  · exact h.abortWg _ _

theorem State.keepsGroups.ite {p : Prop} [Decidable p] {u : State} (hu : s.keepsGroups u) : s.keepsGroups (if p then u else t) := by
  split
  · exact hu
  · exact h

theorem State.keepsGroups.laterFault (k n : Nat) (r : FaultRec) : s.keepsGroups (t.laterFault k n r) := by
  unfold State.laterFault
  dsimp only
  split
  · split
    · have hstored := State.keepsGroups.storeOwn (h.of_cores (u := t.archiveRec r) rfl) k n r (BitVec.ofNat 8 r.cause)
      exact (hstored.ite (hstored.reportAbort _ _ _)).onThread k n _
    · exact h
  · exact h

theorem State.keepsGroups.contain (k n : Nat) (r : FaultRec) : s.keepsGroups (t.contain k n r) := by
  have hstored := State.keepsGroups.storeOwn ((h.muteHeld k n).of_cores (u := t.faultTaken k n r) rfl) k n r (BitVec.ofNat 8 r.cause)
  unfold State.contain
  dsimp only
  split
  · exact h
  · split
    · exact h.laterFault k n r
    · generalize hu : State.recordRefused _ k n _ = u
      have hrecord : s.keepsGroups u := by
        rw [← hu]
        exact ((hstored.onThread k n _).ite ((hstored.onThread k n _).reportAbort _ _ _)).recordRefused _ _ _
      split
      · exact hrecord.abortWg _ _
      · exact ((hrecord.onThread k n _).divert _ _).ite (hrecord.onThread k n _)
      · exact ((hrecord.onThread k n _).divert _ _).ite (hrecord.onThread k n _)
      · exact hrecord.onThread k n _

/-! ### Sending tokens (R81, R248) -/

theorem State.keepsGroups.commit (f : Firing) (cause : Nat) (kind : AccessKind) (va : Option Nat) (detail : Nat) :
    s.keepsGroups (t.commit f cause kind va detail) := h.ite (h.contain _ _ _)

theorem State.keepsGroups.send (f : Firing) (n : Nat) (d : Dst) (scale : Bool) (v : Val) (tag : Tag) :
    s.keepsGroups (t.send f n d scale v tag) := by
  have hstage : ∀ x, s.keepsGroups (if (t.thread f.core tag.slot.toNat).closing then t else
      t.onThread f.core tag.slot.toNat (fun th => { th with staged := th.staged ++ [x] })) :=
    fun x => (h.onThread _ _ _).ite h
  unfold State.send
  split
  · exact h
  · split
    · exact h
    · exact h.onCore _ fun _ => rfl
    · cases v with
      | pass => exact h
      | data x => exact hstage _
      | err k => exact hstage _
    · split
      case h_3 => exact h.commit _ _ _ _ _
      case h_1 => exact h
      all_goals exact h.onCore _ fun _ => rfl
    · exact h.onCore _ fun _ => rfl

theorem State.keepsGroups.emit2 (f : Firing) (w : SlotWord) (v0 v1 : Val) : s.keepsGroups (t.emit2 f w v0 v1) :=
  (h.send f 0 w.d0 false v0 f.tag).send f 1 w.d1 false v1 f.tag

end

end Sys2Proof.Machine
end

section
/-! Gang and expand instructions: how a lane joins its group, and what the last one makes the group give (spec 07 R205, R208, R218,
R221), and O42. -/

namespace Sys2Proof.Machine
open Sys2Proof.Claims

/-! ### Joining (R205) -/

section
variable {s : State} {w : SlotWord} {vs : List Val}

theorem gang_of_skip (h : s.go s.fire w = .skip) : s.gang w vs = s.groupIn s.fire .inactive := by
  simp only [State.gang, h]

theorem gang_of_stop {k : Sub} (h : s.go s.fire w = .stop k) : s.gang w vs = s.groupIn s.fire (.predError k) := by
  simp only [State.gang, h]

theorem gang_of_poison (h : s.go s.fire w = .poison) : s.gang w vs = (s.commit s.fire 0x20 .none none 0).groupIn s.fire .gone := by
  simp only [State.gang, h]

theorem gang_of_pass (h : s.go s.fire w = .fire) (hv : .pass ∈ vs) : s.gang w vs = s.groupIn s.fire .inactive := by
  simp only [State.gang, h, List.contains_iff_mem.2 hv, if_true]

theorem gang_of_active (h : s.go s.fire w = .fire) (hv : .pass ∉ vs) :
    s.gang w vs = s.groupIn s.fire (.active ((vs[0]?).getD .pass) ((vs[1]?).getD .pass)) := by
  simp only [State.gang, h]
  exact if_neg (by simpa using hv)

/-- A gang or expand instruction joins its group with the operands that it reads. -/
theorem exec_eq_gang (s : State) (w : SlotWord) :
    ∀ i ∈ [Instr.shfl w, .lpush w, .vote w, .gscan w, .gred w, .gbcast w, .gmatch w, .xbegin w, .xend w],
      ∃ vs, exec i s = .next (s.gang w (s.opA s.fire w :: vs)) := by
  intro i hi
  simp only [List.mem_cons, List.not_mem_nil, or_false] at hi
  rcases hi with rfl | rfl | rfl | rfl | rfl | rfl | rfl | rfl | rfl
  case inl | inr.inl | inr.inr.inr.inr.inr.inr.inr.inl => exact ⟨[s.opB s.fire w], rfl⟩
  all_goals exact ⟨[], rfl⟩

end

/-! ### The group of the firing (R205) -/

theorem Group.same_iff (g h : Group) : g.same h = true ↔
    g.elem = h.elem ∧ g.slot = h.slot ∧ g.out = h.out ∧ g.inn = h.inn ∧ g.span = h.span := by
  simp [Group.same, and_assoc]

theorem Group.same_self (g : Group) : g.same g = true := (g.same_iff g).2 ⟨rfl, rfl, rfl, rfl, rfl⟩

theorem joined_node (s : State) (a b : Val) : 16 * (joined s a b).elem + (joined s a b).slot = s.fire.node := by
  unfold joined
  dsimp only
  cases hfind : List.find? _ _ with
  | none => rfl
  | some h =>
    have hsame := List.find?_some hfind
    obtain ⟨helem, hslot, -⟩ := (h.same_iff _).1 hsame
    rw [Option.getD_some, helem, hslot]
    rfl

/-- The state with a core whose groups are given. -/
def State.withGroups (s : State) (k : Nat) (gs : List Group) : State := s.setCore k { s.core k with groups := gs }

@[simp] theorem withGroups_core (s : State) (k : Nat) (gs : List Group) : (s.withGroups k gs).core k = { s.core k with groups := gs } :=
  State.setCore_core_same ..

section
variable {s : State} {w : SlotWord} {opc : Nat} {a b : Val} (h : lastLane s w opc a b)
include h

theorem groupIn_of_last : s.groupIn s.fire (.active a b) = (s.withGroups s.fire.core [joined s a b]).groupsGo s.fire.core := by
  obtain ⟨-, -, -, -, -, hsame, -⟩ := h
  have hnone : (s.core s.fire.core).groups.filter (fun g => !g.same (joined s a b)) = [] :=
    List.filter_eq_nil_iff.2 fun g hg => by simp [hsame g hg]
  show (s.setCore s.fire.core { s.core s.fire.core with
    groups := (s.core s.fire.core).groups.filter (fun g => !g.same (joined s a b)) ++ [joined s a b] }).groupsGo s.fire.core = _
  rw [hnone]
  rfl

end

/-- A core's only group, when it cannot fire, waits. -/
theorem groupsGo_of_waiting {s : State} {k : Nat} {g : Group} (h : (s.withGroups k [g]).groupReady k g = false) :
    (s.withGroups k [g]).groupsGo k = s.withGroups k [g] := by
  have htry : (s.withGroups k [g]).tryGroup k g = s.withGroups k [g] := by rw [State.tryGroup, h]; rfl
  have hgroups : ((s.withGroups k [g]).core k).groups = [g] := by rw [withGroups_core]
  unfold State.groupsGo
  simp only [hgroups, List.foldl_cons, List.foldl_nil, htry]

/-- A core's only group, when it can fire and no other stands afterwards, fires alone. -/
theorem groupsGo_of_ready {s : State} {k : Nat} {g : Group} (h : (s.withGroups k [g]).groupReady k g = true)
    (hleft : (((s.withGroups k [g]).fireGroup k g).core k).groups = []) :
    (s.withGroups k [g]).groupsGo k = (s.withGroups k [g]).fireGroup k g := by
  have htry : (s.withGroups k [g]).tryGroup k g = (s.withGroups k [g]).fireGroup k g := by rw [State.tryGroup, h]; rfl
  have hgroups : ((s.withGroups k [g]).core k).groups = [g] := by rw [withGroups_core]
  unfold State.groupsGo
  simp only [hgroups, List.foldl_cons, List.foldl_nil, htry, hleft]

/-! ### Firing (R205, R218, R221) -/

/-- What the exchange of an opcode gives its lanes (R209 to R215). -/
def Group.exchange (g : Group) (w : SlotWord) (p : Span) (c : Core) (opc : Nat) : GroupOut :=
  match opc with
  | 0xC0 => g.shfl w p
  | 0xC1 => g.lpush w p
  | 0xC2 => g.vote w p
  | 0xC3 => g.gscan w p c
  | 0xC4 => g.gred w p c
  | 0xC5 => g.gbcast w p
  | _ => g.gmatch w p

/-- What a group of an opcode does when it fires. -/
def State.fires (s : State) (k : Nat) (g : Group) (w : SlotWord) (opc : Nat) : State :=
  match opc with
  | 0xC7 => s.fireXbegin k g w
  | 0xCA => s.fireXend k g w
  | o => s.giveLanes k g w ((s.core k).span g.span) (g.exchange w ((s.core k).span g.span) (s.core k) o)

section
variable {s : State} {w : SlotWord} {opc : Nat} {a b : Val} (h : lastLane s w opc a b)
include h

theorem fireGroup_of_last : (s.withGroups s.fire.core [joined s a b]).fireGroup s.fire.core (joined s a b) =
    (s.withGroups s.fire.core []).fires s.fire.core (joined s a b) w opc := by
  obtain ⟨-, -, -, hopc, hfields, -, -⟩ := h
  have hdrop : (s.withGroups s.fire.core [joined s a b]).onCore s.fire.core (fun (c : Core) => { c with
      groups := c.groups.filter (fun (h : Group) => !h.same (joined s a b)) }) = s.withGroups s.fire.core [] := by
    rw [State.onCore, withGroups_core, State.withGroups, setCore_setCore]
    simp only [List.filter_cons, Group.same_self, Bool.not_true, Bool.false_eq_true, if_false, List.filter_nil]
    rfl
  rw [← joined_node s a b] at hopc hfields
  unfold State.fireGroup
  simp only [hdrop, withGroups_core]
  rw [show Core.load { s.core s.fire.core with groups := [joined s a b] } = (s.core s.fire.core).load from rfl, hopc, hfields]
  split
  case h_1 ho hw => cases ho; cases hw; rfl
  case h_2 ho hw => cases ho; cases hw; rfl
  case h_3 h7 hA ho hw =>
    cases ho; cases hw
    show State.giveLanes _ _ _ _ _ ((joined s a b).exchange w _ _ opc) = _
    unfold State.fires
    split
    case h_1 => exact (h7 rfl).elim
    case h_2 => exact (hA rfl).elim
    case h_3 => rw [withGroups_core]; rfl
  case h_4 hnone => exact absurd rfl (hnone _ _ rfl)

end

/-! ### When a group can fire (R205, R218, R221) -/

theorem any_put {α : Type} {t : Table α} {n : Nat} {a : α} {q : α → Bool} (h : q a = ((t.look n).map q).getD false) :
    (t.put n a).any (fun kv => q kv.2) = t.any (fun kv => q kv.2) := by
  induction t with
  | nil => simpa [Table.put, Table.look] using h
  | cons kv t ih =>
    obtain ⟨k, v⟩ := kv
    rw [Table.look] at h
    rw [Table.put]
    split
    · rename_i hlt
      rw [if_neg hlt.ne] at h
      rw [List.any_cons, h]
      cases hl : Table.look t n with
      | none => rfl
      | some x =>
        rw [Option.map_some, Option.getD_some]
        cases hx : q x with
        | false => rfl
        | true =>
          have hmem : t.any (fun kv => q kv.2) = true := List.any_eq_true.2 ⟨_, Table.mem_of_look hl, hx⟩
          rw [List.any_cons, hmem, Bool.or_true, Bool.or_true]
    · split
      · rename_i heq
        rw [if_pos heq] at h
        rw [List.any_cons, List.any_cons]
        exact congrArg (· || _) h
      · rename_i hne
        rw [if_neg hne] at h
        rw [List.any_cons, List.any_cons, ih h]

section
variable {s : State} {k : Nat} (gs : List Group)

theorem tileReqsOf_withGroups_any (q : TileReq → Bool) :
    ((s.withGroups k gs).tileReqsOf k).any q = (s.tileReqsOf k).any q := by
  have hany : ∀ t : State, (t.tileReqsOf k).any q =
      t.cores.any (fun kc => (kc.2.tileReqs.filter (fun r => r.f.core == k)).any q) := fun t => List.any_flatMap
  rw [hany, hany]
  refine any_put (q := fun c : Core => (c.tileReqs.filter (fun r => r.f.core == k)).any q) ?_
  rw [State.core]
  cases s.cores.look k <;> rfl

theorem idleBut_withGroups (t : Nat) : (s.withGroups k gs).idleBut k t = s.idleBut k t := by
  simp only [State.idleBut, tileReqsOf_withGroups_any, withGroups_core]
  rfl

theorem lanesFinished_withGroups (p : Span) (x : XCtx) : (s.withGroups k gs).lanesFinished k p x = s.lanesFinished k p x := by
  simp only [State.lanesFinished, idleBut_withGroups, State.thread, withGroups_core]
  rfl

end

/-- What a group of an opcode waits for besides its lanes (R218, R221). -/
def State.mayFire (s : State) (k : Nat) (g : Group) (opc : Nat) : Bool :=
  match opc with
  | 0xC7 => decide (2 ^ 32 ≤ (List.range ((s.core k).span g.span).count).foldl (fun t i => t + (g.lenOf i).2) 0) ||
      (s.core k).roomForX (16 * g.elem + g.slot) ((s.core k).span g.span)
  | 0xCA => ((s.core k).ctxOfEnd g.span (16 * g.elem + g.slot)).elim ((s.core k).overflowed g.span (16 * g.elem + g.slot))
      (s.lanesFinished k ((s.core k).span g.span))
  | _ => true

/-- With all its lanes here, a group can fire when nothing else that its opcode names is missing. -/
theorem groupReady_of_last {s : State} {w : SlotWord} {opc : Nat} {a b : Val} (h : lastLane s w opc a b) :
    (s.withGroups s.fire.core [joined s a b]).groupReady s.fire.core (joined s a b) = s.mayFire s.fire.core (joined s a b) opc := by
  obtain ⟨-, -, -, hopc, -, -, hlanes⟩ := h
  rw [← joined_node s a b] at hopc
  have hhere : (List.range ((s.core s.fire.core).span (joined s a b).span).count).all (fun i =>
      ((joined s a b).lanes.look i).isSome || (s.core s.fire.core).laneLeft ((s.core s.fire.core).span (joined s a b).span) i) = true :=
    List.all_eq_true.2 fun i hi => Bool.or_eq_true_iff.2 (hlanes i (List.mem_range.1 hi))
  unfold State.groupReady
  rw [withGroups_core]
  refine (Bool.and_eq_right_iff_imp.2 fun _ => hhere).trans ?_
  show (match (s.core s.fire.core).load.opc (16 * (joined s a b).elem + (joined s a b).slot) with
    | some 0xC7 => _ | some 0xCA => _ | _ => _ : Bool) = _
  rw [hopc]
  unfold State.mayFire
  split
  case h_1 ho => cases ho; rfl
  case h_2 ho =>
    cases ho
    show (match (s.core s.fire.core).ctxOfEnd (joined s a b).span (16 * (joined s a b).elem + (joined s a b).slot) with
      | none => _ | some x => _ : Bool) = _
    cases (s.core s.fire.core).ctxOfEnd (joined s a b).span (16 * (joined s a b).elem + (joined s a b).slot) with
    | none => rfl
    | some x => exact lanesFinished_withGroups _ _ _
  case h_3 h7 hA =>
    split
    · exact (h7 rfl).elim
    · exact (hA rfl).elim
    · rfl

/-! ### What a fired group gives (R205, R218, R221) -/

section
variable {s : State} {w : SlotWord} {opc : Nat} {a b : Val} (h : lastLane s w opc a b)
include h

/-- The last lane makes its group fire, and no group stands afterwards when the firing makes none. -/
theorem groupIn_of_fires {t : State} (hready : s.mayFire s.fire.core (joined s a b) opc = true)
    (hfires : (s.withGroups s.fire.core []).fires s.fire.core (joined s a b) w opc = t) (hleft : (t.core s.fire.core).groups = []) :
    s.groupIn s.fire (.active a b) = t := by
  have hfire := (fireGroup_of_last h).trans hfires
  rw [groupIn_of_last h, groupsGo_of_ready ((groupReady_of_last h).trans hready) (by rw [hfire]; exact hleft), hfire]

end

theorem giveLanes_of_sound {s : State} {w : SlotWord} {g : Group} {o : GroupOut} (hbad : o.bad = []) :
    (s.withGroups s.fire.core []).giveLanes s.fire.core g w ((s.core s.fire.core).span g.span) o = lanesGet s w g o.res := by
  unfold State.giveLanes
  rw [hbad]
  rfl

/-- The tokens of a fired group's lanes make no group. -/
theorem lanesGet_groups (s : State) (w : SlotWord) (g : Group) (r : Nat → Val × Val) :
    ((lanesGet s w g r).core s.fire.core).groups = [] := by
  have hkeeps : (s.withGroups s.fire.core []).keepsGroups (lanesGet s w g r) := by
    refine State.keepsGroups.foldl (t := s.withGroups s.fire.core []) (fun _ => rfl) (fun u i hu => ?_) _
    split
    · exact hu
    · split
      case h_4 => exact hu
      all_goals exact hu.emit2 _ _ _ _
  rw [hkeeps, withGroups_core]

section
variable {s : State} {w : SlotWord} {opc : Nat} {a b : Val} (h : lastLane s w opc a b)
include h

/-- An exchange whose lanes all name lanes gives each its tokens (R205). -/
theorem groupIn_of_exchange {o : GroupOut}
    (ho : (joined s a b).exchange w ((s.core s.fire.core).span (joined s a b).span) (s.core s.fire.core) opc = o) (hbad : o.bad = [])
    (h7 : opc ≠ 0xC7) (hA : opc ≠ 0xCA) : s.groupIn s.fire (.active a b) = lanesGet s w (joined s a b) o.res := by
  refine groupIn_of_fires h ?_ ?_ (lanesGet_groups _ _ _ _)
  · unfold State.mayFire
    split
    · exact (h7 rfl).elim
    · exact (hA rfl).elim
    · rfl
  · unfold State.fires
    split
    · exact (h7 rfl).elim
    · exact (hA rfl).elim
    · rw [withGroups_core, ← giveLanes_of_sound hbad, ← ho]
      rfl

end

/-! ### `xend` (R221) -/

theorem withGroups_onCore {s : State} {k : Nat} {gs : List Group} {f : Core → Core}
    (hf : ∀ (c : Core) (gs : List Group), f { c with groups := gs } = { f c with groups := gs }) :
    (s.withGroups k gs).onCore k f = (s.onCore k f).withGroups k gs := by
  rw [State.onCore, withGroups_core, hf, State.withGroups, setCore_setCore, State.withGroups, State.onCore_core_same, State.onCore,
    setCore_setCore]

theorem withGroups_span (s : State) (k : Nat) (gs : List Group) (id : Nat) :
    ((s.withGroups k gs).core k).span id = (s.core k).span id := by
  rw [withGroups_core]
  rfl

section
variable {s : State} {w : SlotWord} {a : Val} (h : lastLane s w 0xCA a .pass)
include h

/-- The group of an `xend` whose lanes have finished gives each lane the result and the status of its items, and frees the context. -/
theorem groupIn_of_xend {x : XCtx} (hx : (s.core s.fire.core).ctxOfEnd (joined s a .pass).span s.fire.node = some x)
    (hdone : s.lanesFinished s.fire.core ((s.core s.fire.core).span (joined s a .pass).span) x = true) {red : Option SlotWord}
    (hred : (((s.core s.fire.core).load.xroundOf (16 * x.elem + x.slot)).bind (s.core s.fire.core).load.xsegredOf).bind
      (s.core s.fire.core).load.fields = red) : s.groupIn s.fire (.active a .pass) =
      (lanesGet s w (joined s a .pass) (fun i => x.result i red ((red.map (fun r => (s.core s.fire.core).laneCtx r
        ((s.core s.fire.core).span (joined s a .pass).span) i)).getD .rne))).onCore s.fire.core
        (fun (c : Core) => { c with xctxs := c.xctxs.filter (fun (y : XCtx) => y.id != x.id) }) := by
  subst hred
  rw [← joined_node s a .pass] at hx
  refine groupIn_of_fires h ?_ ?_ ?_
  · show ((s.core s.fire.core).ctxOfEnd _ _).elim _ _ = true
    rw [hx]
    exact hdone
  · show (s.withGroups s.fire.core []).fireXend s.fire.core (joined s a .pass) w = _
    unfold State.fireXend
    dsimp only
    rw [withGroups_core]
    split
    case h_1 hnone => cases hx.symm.trans hnone
    case h_2 y hy =>
      cases hx.symm.trans hy
      exact congrArg (fun t : State => t.onCore s.fire.core _) (giveLanes_of_sound rfl)
  · rw [State.onCore_core_same]
    exact lanesGet_groups _ _ _ _

theorem groupIn_of_xend_waiting (hx : (s.core s.fire.core).ctxOfEnd (joined s a .pass).span s.fire.node = none)
    (ho : (s.core s.fire.core).overflowed (joined s a .pass).span s.fire.node = false) :
    s.groupIn s.fire (.active a .pass) = s.withGroups s.fire.core [joined s a .pass] := by
  rw [← joined_node s a .pass] at hx ho
  rw [groupIn_of_last h]
  refine groupsGo_of_waiting ((groupReady_of_last h).trans ?_)
  show ((s.core s.fire.core).ctxOfEnd _ _).elim _ _ = false
  rw [hx]
  exact ho

theorem groupIn_of_xend_overflowed (hx : (s.core s.fire.core).ctxOfEnd (joined s a .pass).span s.fire.node = none)
    (ho : (s.core s.fire.core).overflowed (joined s a .pass).span s.fire.node = true) :
    s.groupIn s.fire (.active a .pass) = lanesGet (s.onCore s.fire.core (fun (c : Core) => { c with
      overflows := c.overflows.filter (fun x => x != ((joined s a .pass).span, (c.load.xbeginOfEnd s.fire.node).getD 0)) })) w
      (joined s a .pass) (fun _ => (.pass, .pass)) := by
  rw [← joined_node s a .pass] at hx ho ⊢
  refine groupIn_of_fires h ?_ ?_ (lanesGet_groups _ _ _ _)
  · show ((s.core s.fire.core).ctxOfEnd _ _).elim _ _ = true
    rw [hx]
    exact ho
  · show (s.withGroups s.fire.core []).fireXend s.fire.core (joined s a .pass) w = _
    rw [← giveLanes_of_sound (o := ⟨[], fun _ => (.pass, .pass)⟩) rfl]
    unfold State.fireXend
    dsimp only
    rw [withGroups_core]
    split
    case h_1 =>
      rw [withGroups_onCore fun _ _ => rfl]
      refine congrArg (fun p => State.giveLanes _ _ _ _ p _) ?_
      show _ = ((s.onCore s.fire.core _).core s.fire.core).span (joined s a .pass).span
      rw [State.onCore_core_same]
      rfl
    case h_2 y hy => cases hx.symm.trans hy

end

/-! ### `xbegin` (R218) -/

/-- The context that a group of `n` lanes takes. -/
def Group.context (g : Group) (id n : Nat) : XCtx where
  id := id
  span := g.span
  elem := g.elem
  slot := g.slot
  n := n
  total := ((List.range n).map (fun i => (g.lenOf i).2)).foldl (· + ·) 0
  starts := (List.range n).map (fun i => (g.lenOf i).1)
  lens := (List.range n).map (fun i => (g.lenOf i).2)
  items := []
  fin := []
  rounds := 0
  part := []

/-- The group is gone and has taken its context. -/
def State.takesContext (s : State) (k : Nat) (g : Group) (n : Nat) : State :=
  s.onCore k (fun (c : Core) => { c with
    groups := [], nextCtx := c.nextCtx + 1, xctxs := c.xctxs ++ [g.context c.nextCtx n] })

/-- A lane that has come and stayed has the total. -/
def State.givesTotal (s : State) (k : Nat) (g : Group) (w : SlotWord) (p : Span) (n i : Nat) : State :=
  if g.silent i || (g.lanes.look i).isNone || g.lanes.look i == some .gone then s
  else s.emit2 (g.firing k p i) w (.data (BitVec.ofNat 64 n)) (.data (BitVec.ofNat 64 n))

theorem foldl_eq_of_invariant {α β : Type} {f g : β → α → β} (P : β → Prop) {l : List α}
    (hstep : ∀ b, P b → ∀ a ∈ l, f b a = g b a ∧ P (g b a)) {b : β} (hb : P b) :
    l.foldl f b = l.foldl g b ∧ P (l.foldl g b) := by
  induction l generalizing b with
  | nil => exact ⟨rfl, hb⟩
  | cons a l ih =>
    obtain ⟨heq, hnext⟩ := hstep b hb a List.mem_cons_self
    rw [List.foldl_cons, List.foldl_cons, heq]
    exact ih (fun b hb a ha => hstep b hb a (List.mem_cons_of_mem _ ha)) hnext

theorem takesContext_thread (s : State) (k : Nat) (g : Group) (n j : Nat) : (s.takesContext k g n).thread k j = s.thread k j :=
  onCore_thread_of_threads (s := s) (k := k) (g := fun c => { c with
    groups := [], nextCtx := c.nextCtx + 1, xctxs := c.xctxs ++ [g.context c.nextCtx n] }) rfl k j

/-- The context that is taken once the group is gone. -/
theorem withGroups_onCore_context (s : State) (k : Nat) (g : Group) (n : Nat) :
    (s.withGroups k []).onCore k (fun (c : Core) => { c with
      xctxs := c.xctxs ++ [g.context c.nextCtx n], nextCtx := c.nextCtx + 1 }) = s.takesContext k g n := by
  rw [State.onCore, withGroups_core, State.withGroups, setCore_setCore]
  rfl

theorem State.onlySends.givesTotal {s t : State} {k : Nat} (h : s.onlySends t k) (g : Group) (w : SlotWord) (p : Span) (n i : Nat) :
    s.onlySends (t.givesTotal k g w p n i) k := by
  unfold State.givesTotal
  split
  · exact h
  · exact h.emit2 rfl w _ _

/-- Giving the totals sends tokens, and nothing else. -/
theorem givesTotals_onlySends (t : State) (k : Nat) (g : Group) (w : SlotWord) (p : Span) (n : Nat) (l : List Nat) :
    t.onlySends (l.foldl (fun t i => t.givesTotal k g w p n i) t) k :=
  List.foldlRecOn (motive := fun u => t.onlySends u k) l _ (State.onlySends_refl t k) fun _ h i _ => h.givesTotal g w p n i

section
variable {s : State} {k : Nat} {g : Group} {p : Span} (hp : (s.core k).span g.span = p)
  (hsound : ∀ i x y, g.act i = some (x, y) → x ≠ .err .poison ∧ y ≠ .err .poison)
  (hup : ∀ i, i < p.count → (s.thread k ((p.members[i]?).getD 0)).state ≠ .faulted)
  (htotal : (g.context 0 p.count).total < 2 ^ 32)
include hp hsound hup htotal

/-- An `xbegin` without Poison whose total is below 2^32 takes its context and gives every lane the total. -/
theorem fireXbegin_of_sound (w : SlotWord) : (s.withGroups k []).fireXbegin k g w = (List.range p.count).foldl
    (fun t i => t.givesTotal k g w p (g.context 0 p.count).total i) (s.takesContext k g p.count) := by
  have hfew : decide (2 ^ 32 ≤ ((List.range p.count).map (fun i => (g.lenOf i).2)).foldl (· + ·) 0) = false :=
    decide_eq_false htotal.not_ge
  unfold State.fireXbegin
  simp only [withGroups_span, hp, hfew, Bool.false_eq_true, if_false]
  generalize hpoisoned : List.filter _ (List.range p.count) = poisoned
  obtain rfl : poisoned = [] := by
    rw [← hpoisoned]
    refine List.filter_eq_nil_iff.2 fun i _ => ?_
    split
    · rename_i x y hact
      obtain ⟨hx, hy⟩ := hsound i x y hact
      simp [hx, hy]
    · decide
  rw [List.foldl_nil]
  refine (congrArg (fun t => List.foldl _ t _) (withGroups_onCore_context s _ _ _)).trans ?_
  refine (foldl_eq_of_invariant (fun t => (s.takesContext k g p.count).onlySends t k)
    (fun t ht i hi => ⟨?_, ht.givesTotal g w p (g.context 0 p.count).total i⟩) (State.onlySends_refl _ _)).1
  have hruns : ((t.thread k ((p.members[i]?).getD 0)).state == .faulted) = false := by
    rw [ht.thread, takesContext_thread]
    exact beq_eq_false_iff_ne.2 (hup i (List.mem_range.1 hi))
  unfold State.givesTotal
  rw [hruns, Bool.or_false]
  cases hlane : g.lanes.look i with
  | none => simp
  | some x => cases x <;> simp [Group.context]

/-- The group of an `xbegin` that finds room takes a context and gives every lane the total. -/
theorem groupIn_of_xbegin {w : SlotWord} {a b : Val} (h : lastLane s w 0xC7 a b) (hk : s.fire.core = k) (hg : joined s a b = g)
    (hroom : (s.core k).roomForX s.fire.node p = true) : s.groupIn s.fire (.active a b) = (List.range p.count).foldl
      (fun t i => t.givesTotal k g w p (g.context 0 p.count).total i) (s.takesContext k g p.count) := by
  subst hk hg
  rw [← joined_node s a b] at hroom
  refine groupIn_of_fires h ?_ (fireXbegin_of_sound hp hsound hup htotal w) ?_
  · show (decide _ || (s.core s.fire.core).roomForX _ _) = true
    rw [hp, hroom, Bool.or_true]
  · rw [(givesTotals_onlySends _ _ _ w p _ _).core]
    exact congrArg Core.groups (State.onCore_core_same s _ _)

end

end Sys2Proof.Machine

namespace Sys2Proof.Proofs
open Sys2Proof.Machine Sys2Proof.Claims

/-- How a lane joins its group, by what its predicate and its operands say (R205, R208). -/
theorem lane_joins (s : State) (w : SlotWord) :
    ∀ i ∈ [Instr.shfl w, .lpush w, .vote w, .gscan w, .gred w, .gbcast w, .gmatch w, .xbegin w, .xend w],
      (s.go s.fire w = .skip → exec i s = .next (s.groupIn s.fire .inactive)) ∧
      (s.go s.fire w = .fire → s.opA s.fire w = .pass → exec i s = .next (s.groupIn s.fire .inactive)) ∧
      (∀ k, s.go s.fire w = .stop k → exec i s = .next (s.groupIn s.fire (.predError k))) ∧
      (s.go s.fire w = .poison → exec i s = .next ((s.commit s.fire 0x20 .none none 0).groupIn s.fire .gone)) := by
  intro i hi
  obtain ⟨vs, hexec⟩ := exec_eq_gang s w i hi
  rw [hexec]
  exact ⟨fun h => congrArg _ (gang_of_skip h), fun h ha => congrArg _ (gang_of_pass h (ha ▸ List.mem_cons_self)),
    fun k h => congrArg _ (gang_of_stop h), fun h => congrArg _ (gang_of_poison h)⟩

/-- An instruction of one operand joins its group as an active lane with it. -/
theorem gang_of_one {s : State} {w : SlotWord} {a : Val} (hgo : s.go s.fire w = .fire) (hop : s.opA s.fire w = a) (ha : a ≠ .pass) :
    s.gang w [s.opA s.fire w] = s.groupIn s.fire (.active a .pass) := by
  subst hop
  exact gang_of_active hgo (by simpa using ha.symm)

/-- An instruction of two operands joins its group as an active lane with both. -/
theorem gang_of_two {s : State} {w : SlotWord} {a b : Val} (hgo : s.go s.fire w = .fire) (hop : s.opA s.fire w = a) (ha : a ≠ .pass)
    (hopB : s.opB s.fire w = b) (hb : b ≠ .pass) :
    s.gang w [s.opA s.fire w, s.opB s.fire w] = s.groupIn s.fire (.active a b) := by
  subst hop hopB
  exact gang_of_active hgo (by simp [ha.symm, hb.symm])

/-- The firing of a last lane of two operands. -/
theorem gang_of_last_two {s t : State} {w : SlotWord} {opc : Nat} {a b : Val} (h : lastLane s w opc a b) (hopB : s.opB s.fire w = b)
    (hb : b ≠ .pass) (hgroup : s.groupIn s.fire (.active a b) = t) :
    s.gang w [s.opA s.fire w, s.opB s.fire w] = t := by
  obtain ⟨hgo, hop, ha, -⟩ := h
  exact (gang_of_two hgo hop ha hopB hb).trans hgroup

/-- The firing of a last lane of one operand. -/
theorem gang_of_last_one {s t : State} {w : SlotWord} {opc : Nat} {a : Val} (h : lastLane s w opc a .pass)
    (hgroup : s.groupIn s.fire (.active a .pass) = t) : s.gang w [s.opA s.fire w] = t := by
  obtain ⟨hgo, hop, ha, -⟩ := h
  exact (gang_of_one hgo hop ha).trans hgroup

/-- Settles O42: every lane joins by `State.gang`; the last one makes its group ready, which fires alone since no other group stands. -/
theorem gangLanes : Obligations.GangLanes := by
  unfold Obligations.GangLanes
  refine ⟨fun s w => ⟨fun hgo ha hb => ?_, fun hgo ha => ?_, lane_joins s w⟩, fun s w a b hopB hb => ?_, fun s w a => ?_⟩
  · have hjoins := congrArg (Host.Outcome.next (φ := Fault) (ρ := Refusal)) (gang_of_two hgo rfl ha rfl hb)
    exact ⟨hjoins, hjoins, hjoins⟩
  · have hjoins := congrArg (Host.Outcome.next (φ := Fault) (ρ := Refusal)) (gang_of_one hgo rfl ha)
    exact ⟨hjoins, hjoins, hjoins, hjoins, hjoins, hjoins⟩
  · refine ⟨fun h hbad => ?shfl, fun h hbad => ?lpush, fun h hsound hup hroom htotal => ?xbegin⟩
    case xbegin =>
      exact congrArg Host.Outcome.next (gang_of_last_two h hopB hb (groupIn_of_xbegin rfl hsound hup htotal h rfl rfl hroom))
    all_goals
      exact congrArg Host.Outcome.next (gang_of_last_two h hopB hb (groupIn_of_exchange h rfl hbad (by decide) (by decide)))
  · refine ⟨fun h => ?vote, fun h => ?scan, fun h => ?red, fun h => ?bcast, fun h => ?same, fun x h hx hdone => ?xend,
      fun h hx => ⟨fun ho => ?waiting, fun ho => ?overflowed⟩⟩
    case xend => exact congrArg Host.Outcome.next (gang_of_last_one h (groupIn_of_xend h hx hdone rfl))
    case waiting => exact congrArg Host.Outcome.next (gang_of_last_one h (groupIn_of_xend_waiting h hx ho))
    case overflowed => exact congrArg Host.Outcome.next (gang_of_last_one h (groupIn_of_xend_overflowed h hx ho))
    all_goals exact congrArg Host.Outcome.next (gang_of_last_one h (groupIn_of_exchange h rfl rfl (by decide) (by decide)))

end Sys2Proof.Proofs
end

section
/-! The copy instructions: their checks, and what a copy that passes them starts (spec 08 R235 to R246), and O47. -/

namespace Sys2Proof.Machine

/-! ### Issue (R236, R243) -/

/-- A stream port with a copy queued behind the others; a CLOSED one opens (R243). -/
def Port.enqueue (q : Port) (id : Nat) : Port :=
  { q with queue := q.queue ++ [id], begun := true, state := if q.state = .closed then .opened else q.state }

section
variable {s : State} {f : Firing} {w : SlotWord} {x : Transfer} {v : Val}

/-- The core of a state that has just been set there is the one that was set. -/
theorem onCore_id_of_onCore (s : State) (k : Nat) (g : Core → Core) : (s.onCore k g).onCore k (fun c => c) = s.onCore k g := by
  rw [State.onCore, State.onCore_core_same, State.onCore, setCore_setCore]

theorem issueCopy_of_room {p : CopyPlan} (hq : (s.core f.core).copyQueue < 64) (hp : p.ports.all (s.core f.core).portRoom = true)
    (hcount : s.countRoom f.core f.thread p.x.cls = true) : s.issueCopy f w p =
      ((s.startTransfer p.x).onCore f.core (fun c => p.ports.foldl (fun c n =>
        c.onPort n (fun q => q.enqueue (s.core f.core).nextTransfer)) c)).emit2 f w p.d0 .order := by
  simp only [State.issueCopy, Core.copyRoom, hq, hp, hcount, decide_true, Bool.and_self, Bool.not_true, Bool.false_eq_true, if_false]
  rfl

/-- A copy between memories queues at no port. -/
theorem issueCopy_of_memory (hx : x.f = f) (hq : (s.core f.core).copyQueue < 64) (hcount : s.countRoom f.core f.thread x.cls = true) :
    s.issueCopy f w ⟨x, [], v⟩ = (s.startTransfer x).emit2 f w v .order := by
  rw [issueCopy_of_room hq rfl hcount, ← hx]
  exact congrArg (fun t : State => t.emit2 x.f w v .order) (onCore_id_of_onCore _ _ _)

theorem issueCopy_of_stream {n : Nat} (hq : (s.core f.core).copyQueue < 64) (hp : (s.core f.core).portRoom n = true)
    (hcount : s.countRoom f.core f.thread x.cls = true) : s.issueCopy f w ⟨x, [n], v⟩ =
      ((s.startTransfer x).onCore f.core (fun c => c.onPort n (fun q => q.enqueue (s.core f.core).nextTransfer))).emit2 f w v .order :=
  issueCopy_of_room hq (by simp [hp]) hcount

theorem issueCopy_of_ports {m n : Nat} (hq : (s.core f.core).copyQueue < 64) (hm : (s.core f.core).portRoom m = true)
    (hn : (s.core f.core).portRoom n = true) (hcount : s.countRoom f.core f.thread x.cls = true) : s.issueCopy f w ⟨x, [m, n], v⟩ =
      ((s.startTransfer x).onCore f.core (fun c => (c.onPort m (fun q => q.enqueue (s.core f.core).nextTransfer)).onPort n (fun q =>
        q.enqueue (s.core f.core).nextTransfer))).emit2 f w v .order :=
  issueCopy_of_room hq (by simp [hm, hn]) hcount

end

/-! ### Checks (R239 to R246) -/

theorem copySize_of_bad {m : Dword} (h : m.toNat % 8 ≠ 0 ∨ m = 0) : copySize (.data m) = .error 0x44 := by
  have hbad : m.toNat % 8 ≠ 0 ∨ m.toNat < 8 ∨ 2 ^ 32 - 8 < m.toNat := h.imp_right (fun h0 => .inl (by simp [h0]))
  exact if_pos hbad

section
variable {s : State} {f : Firing} {w : SlotWord} {n d g : Nat}

theorem planCpy_of_checked (hn : copySize (s.opC f w) = .ok n) (hd : s.copyRange f n (s.opA f w) = .ok d)
    (hg : s.copyRange f n (s.opB f w) = .ok g) : s.planCpy f w = .ok ⟨{ Transfer.blank f with
      op := .cpy, cls := copyClass w, dst := d, src := g, bytes := n, poison := w.poisonMode, chan := w.channel }, [], .order⟩ := by
  simp only [State.planCpy, hn, hd, hg]

theorem planCpy_of_badSize {c : Nat} (hn : copySize (s.opC f w) = .error c) : s.planCpy f w = .error (.access c .none none 0) := by
  simp only [State.planCpy, hn]

theorem planCpymc_of_badSize {c : Nat} (hn : copySize (s.opC f w) = .error c) : s.planCpymc f w = .error (.access c .none none 0) := by
  simp only [State.planCpymc, hn]

theorem planCpymc_of_checked {off : Dword} (hn : copySize (s.opC f w) = .ok n) (hoff : s.opA f w = .data off)
    (hg : s.copyRange f n (s.opB f w) = .ok g) (hroom : off.toNat + n ≤ s.spadBytes f.core f.thread) (halign : off.toNat % 8 = 0)
    (hmask : s.maskBad f (w.immBits 7 0) = false) : s.planCpymc f w = .ok ⟨{ Transfer.blank f with
      op := .cpymc, dst := off.toNat, src := g, bytes := n, poison := w.poisonMode, chan := w.channel
      mask := w.immBits 7 0 - s.maskIgnored f (w.immBits 7 0) }, [], .data (BitVec.ofNat 64
        (s.maskIgnored f (w.immBits 7 0) + 256 * (w.immBits 7 0 - s.maskIgnored f (w.immBits 7 0))))⟩ := by
  have hcount : countOperand (.data off) = .ok off.toNat := rfl
  simp only [State.planCpymc, hn, hoff, hcount, hg, if_neg hroom.not_gt, halign, hmask, ne_eq, not_true_eq_false, Bool.false_eq_true,
    if_false]

theorem planStream_of_unbound {out : Bool} (h : (s.core f.core).portBound w.port out = false) :
    s.planStream f w out = .error (.port w.port) := by
  simp only [State.planStream, h, Bool.not_false, if_true]

theorem planStream_of_checked {out : Bool} {ag : Option AgFields} (h : (s.core f.core).portBound w.port out = true)
    (hn : s.streamSize f w.port (s.opB f w) = .ok (n, ag)) (hg : s.streamRange f n ag (s.opA f w) = .ok g) :
    s.planStream f w out = .ok ⟨{ Transfer.blank f with
      op := if out then .cpysm else .cpyms, cls := copyClass w, dst := g, src := g, bytes := n, ag := ag, port := w.port
      chan := if out then w.channel else none }, [w.port], .order⟩ := by
  simp only [State.planStream, h, hn, hg, Bool.not_true, Bool.false_eq_true, if_false]

theorem planCpyss_of_unbound (h : (s.core f.core).portBound w.port true = false) : s.planCpyss f w = .error (.port w.port) := by
  simp only [State.planCpyss, h, Bool.not_false, or_true, if_true]

theorem planCpyss_of_checked {m : Dword} (hm : s.opA f w = .data m) (hne : w.port ≠ w.immBits 15 12)
    (hout : (s.core f.core).portBound w.port true = true) (hin : (s.core f.core).portBound (w.immBits 15 12) false = true)
    (hpos : 0 < m.toNat) (hlt : m.toNat < 2 ^ 32) : s.planCpyss f w = .ok ⟨{ Transfer.blank f with
      op := .cpyss, bytes := m.toNat, port := w.port, port2 := w.immBits 15 12 }, [w.port, w.immBits 15 12], .order⟩ := by
  have hcount : countOperand (.data m) = .ok m.toNat := rfl
  have hsize : ¬ (m.toNat = 0 ∨ 2 ^ 32 ≤ m.toNat) := by omega
  simp only [State.planCpyss, hm, hout, hin, hcount, hne, if_neg hsize, Bool.not_true, Bool.false_eq_true, or_self, if_false]

end

/-! ### The five instructions -/

section
variable {s : State} {w : SlotWord} (hgo : s.go s.fire w = .fire) (hA : s.opA s.fire w ≠ .pass)
include hgo hA

theorem cpyss_eq_runCopy : exec (.cpyss w) s = .next (s.runCopy s.fire w (s.planCpyss s.fire w)) :=
  congrArg Host.Outcome.next (operation_of_fire hgo (by simpa using hA.symm) _ _)

variable (hB : s.opB s.fire w ≠ .pass)
include hB

theorem cpyms_eq_runCopy : exec (.cpyms w) s = .next (s.runCopy s.fire w (s.planStream s.fire w false)) :=
  congrArg Host.Outcome.next (operation_of_fire hgo (by simpa using ⟨hA.symm, hB.symm⟩) _ _)

theorem cpysm_eq_runCopy : exec (.cpysm w) s = .next (s.runCopy s.fire w (s.planStream s.fire w true)) :=
  congrArg Host.Outcome.next (operation_of_fire hgo (by simpa using ⟨hA.symm, hB.symm⟩) _ _)

variable (hC : s.opC s.fire w ≠ .pass)
include hC

theorem cpy_eq_runCopy : exec (.cpy w) s = .next (s.runCopy s.fire w (s.planCpy s.fire w)) :=
  congrArg Host.Outcome.next (operation_of_fire hgo (by simpa using ⟨hA.symm, hB.symm, hC.symm⟩) _ _)

theorem cpymc_eq_runCopy : exec (.cpymc w) s = .next (s.runCopy s.fire w (s.planCpymc s.fire w)) :=
  congrArg Host.Outcome.next (operation_of_fire hgo (by simpa using ⟨hA.symm, hB.symm, hC.symm⟩) _ _)

end

end Sys2Proof.Machine

namespace Sys2Proof.Proofs
open Sys2Proof.Machine

/-- Settles O47: each copy runs its plan by `runCopy`, and a plan that its checks let through is issued where there is room. -/
theorem copyInstructions : Obligations.CopyInstructions := by
  intro s w hgo hA hB f c room queued
  refine ⟨fun n d g hC hn hd hg ⟨hq, hcount⟩ => ?cpy, fun m hm hbad => ?badSize,
    fun n g off hC hn hoff hg hspad halign hmask ⟨hq, hcount⟩ => ?cpymc, fun n ag g hbound hn hg ⟨hq, hcount⟩ hport => ?cpyms,
    fun n ag g hbound hn hg ⟨hq, hcount⟩ hport => ?cpysm, fun n hn hne hout hin hpos hlt ⟨hq, hcount⟩ hport hport2 => ?cpyss,
    fun hfree => ?unboundIn, fun hfree => ?unboundOut⟩
  case cpy =>
    rw [cpy_eq_runCopy hgo hA hB hC, planCpy_of_checked hn hd hg]
    exact congrArg Host.Outcome.next (issueCopy_of_memory rfl hq hcount)
  case badSize =>
    have hsize : copySize (s.opC f w) = .error 0x44 := by rw [hm, copySize_of_bad hbad]
    have hC : s.opC f w ≠ .pass := by simp [hm]
    rw [cpy_eq_runCopy hgo hA hB hC, cpymc_eq_runCopy hgo hA hB hC, planCpy_of_badSize hsize, planCpymc_of_badSize hsize]
    exact ⟨rfl, rfl⟩
  case cpymc =>
    rw [cpymc_eq_runCopy hgo hA hB hC, planCpymc_of_checked hn hoff hg hspad halign hmask]
    exact congrArg Host.Outcome.next (issueCopy_of_memory rfl hq hcount)
  case cpyms =>
    rw [cpyms_eq_runCopy hgo hA hB, planStream_of_checked hbound hn hg]
    exact congrArg Host.Outcome.next (issueCopy_of_stream hq hport hcount)
  case cpysm =>
    rw [cpysm_eq_runCopy hgo hA hB, planStream_of_checked hbound hn hg]
    exact congrArg Host.Outcome.next (issueCopy_of_stream hq hport hcount)
  case cpyss =>
    rw [cpyss_eq_runCopy hgo hA, planCpyss_of_checked hn hne hout hin hpos hlt]
    exact ⟨_, congrArg Host.Outcome.next (issueCopy_of_ports hq hport hport2 hcount), by rw [State.onCore_core_same]; rfl⟩
  case unboundIn =>
    rw [cpyms_eq_runCopy hgo hA hB, planStream_of_unbound hfree]
    rfl
  case unboundOut =>
    rw [cpysm_eq_runCopy hgo hA hB, cpyss_eq_runCopy hgo hA, planStream_of_unbound hfree, planCpyss_of_unbound hfree]
    exact ⟨rfl, rfl⟩

end Sys2Proof.Proofs
end

section
/-! Streams, channels, counters and address generators (spec 08 R247 to R253), and O48. -/

namespace Sys2Proof.Machine
open Sys2Proof.Claims

section
variable {s : State} {w : SlotWord} (hgo : s.go s.fire w = .fire) (hA : s.opA s.fire w ≠ .pass)

theorem portBound_of_unbound {c : Core} {n : Nat} (h : (c.port n).state = .unbound) (out : Bool) : c.portBound n out = false := by
  simp [Core.portBound, h]

include hgo hA

/-! ### `sget` (R247) -/

theorem sget_of_unbound (h : (s.core s.fire.core).portBound w.port false = false) :
    exec (.sget w) s = .next (s.portFault s.fire w.port) := by
  show execSget w s = _
  rw [execSget, operation_of_fire hgo (by simpa using hA.symm)]
  simp only [h, Bool.not_false, if_true]

section
variable (hbound : (s.core s.fire.core).portBound w.port false = true) (hturn : (s.core s.fire.core).streamTurn s.fire = true)
include hbound hturn

/-- The oldest bytes leave the port; none of them is marked. -/
theorem sget_of_bytes (hlen : w.ty.bytes ≤ ((s.core s.fire.core).port w.port).buf.length)
    (hclean : ((s.core s.fire.core).port w.port).buf.all (fun b => !b.2) = true) :
    exec (.sget w) s = .next ((s.onCore s.fire.core (fun (c : Core) =>
      (c.onPort w.port (fun (q : Port) => { q with buf := q.buf.drop w.ty.bytes })).portCheck w.port)).emit2 s.fire w
        (bitsVal w.ty (fromLE ((((s.core s.fire.core).port w.port).buf.take w.ty.bytes).map (fun b => b.1)))) .order) := by
  have hsome : ((s.core s.fire.core).port w.port).buf.isEmpty = false := by
    rw [List.isEmpty_eq_false_iff, ← List.length_pos_iff]
    exact w.ty.bytes_pos.trans_le hlen
  have hmarks : (((s.core s.fire.core).port w.port).buf.take w.ty.bytes).any (fun b => b.2) = false := by
    rw [List.any_eq_false]
    intro b hb
    simpa using List.all_eq_true.1 hclean b (List.mem_of_mem_take hb)
  show execSget w s = _
  rw [execSget, operation_of_fire hgo (by simpa using hA.symm)]
  simp only [hbound, hturn, hsome, hlen, hmarks, Bool.not_true, Bool.false_eq_true, and_false, if_false, if_true]

theorem sget_of_ended (hstate : ((s.core s.fire.core).port w.port).state = .closed)
    (hbuf : ((s.core s.fire.core).port w.port).buf = []) : gives2 (.sget w) s w .pass .pass := by
  show execSget w s = _
  rw [execSget, operation_of_fire hgo (by simpa using hA.symm)]
  simp only [hbound, hturn, hstate, hbuf, List.isEmpty_nil, Bool.not_true, Bool.false_eq_true, and_self, if_false, if_true,
    emitBoth_eq_emit2]

/-- While copies may still bring bytes, an empty port keeps its reader waiting. -/
theorem sget_of_empty (hstate : ((s.core s.fire.core).port w.port).state = .opened)
    (hbuf : ((s.core s.fire.core).port w.port).buf = [])
    (hfetched : (s.core s.fire.core).portFetched ((s.core s.fire.core).port w.port) = false) :
    exec (.sget w) s = .next (s.park s.fire .stream) := by
  show execSget w s = _
  rw [execSget, operation_of_fire hgo (by simpa using hA.symm)]
  simp [hbound, hturn, hstate, hbuf, hfetched, w.ty.bytes_pos.ne']

end

/-! ### `sput` (R248) -/

/-- Without a count operand all bytes of the type are appended. -/
theorem sput_of_room {v : Nat} (hbound : (s.core s.fire.core).portBound w.port true = true)
    (hturn : (s.core s.fire.core).streamTurn s.fire = true) (hB : w.b = .absent) (hv : storeImage w.ty (s.opA s.fire w) = some v)
    (hroom : ((s.core s.fire.core).port w.port).buf.length + s.portOwed s.fire.core (BitVec.ofNat 4 w.port) + w.ty.bytes ≤ 4096) :
    exec (.sput w) s = .next ((s.onCore s.fire.core (fun (c : Core) => c.onPort w.port (fun (q : Port) => { q with
      buf := q.buf ++ (bytesLE w.ty.bytes v).map (fun b => (b, false)) }))).emit2 s.fire w .order .order) := by
  have hplan : s.planPut s.fire w = .ok (w.ty.bytes, v) := by simp [State.planPut, hv, hB, w.ty.bytes_pos.ne']
  have hcan : s.putCan s.fire w w.ty.bytes = true := by simp [State.putCan, hturn, hroom]
  have hopB : s.opB s.fire w = .data 0 := by rw [State.opB, hB]; rfl
  show execSput w s = _
  rw [execSput, operation_of_fire hgo (by simpa [hopB] using hA.symm)]
  simp only [hbound, hplan, hcan, Bool.not_true, Bool.false_eq_true, if_false, emitBoth_eq_emit2]

/-! ### `sclose` (R249) -/

theorem sclose_of_unbound (h : ((s.core s.fire.core).port w.port).state = .unbound) :
    exec (.sclose w) s = .next (s.portFault s.fire w.port) := by
  show execSclose w s = _
  rw [execSclose, operation_of_fire hgo (by simpa using hA.symm)]
  simp only [h]

theorem sclose_of_closed (h : ((s.core s.fire.core).port w.port).state = .closed) : gives2 (.sclose w) s w .order .order := by
  show execSclose w s = _
  rw [execSclose, operation_of_fire hgo (by simpa using hA.symm)]
  simp only [h, emitBoth_eq_emit2]

/-- Only an outbound port that holds bytes makes its `sclose` wait. -/
theorem sclose_of_opened (h : ((s.core s.fire.core).port w.port).state = .opened)
    (hq : ((s.core s.fire.core).port w.port).out = false ∨ ((s.core s.fire.core).port w.port).buf = []) :
    exec (.sclose w) s = .next ((s.onCore s.fire.core (fun (c : Core) => c.portClose w.port)).emit2 s.fire w .order .order) := by
  have hidle : (((s.core s.fire.core).port w.port).out && !((s.core s.fire.core).port w.port).buf.isEmpty) = false := by
    rcases hq with hq | hq <;> simp [hq]
  show execSclose w s = _
  rw [execSclose, operation_of_fire hgo (by simpa using hA.symm)]
  simp only [h, hidle, Bool.false_eq_true, if_false, emitBoth_eq_emit2]

/-! ### `chdone` and `ewait` (R252, R253) -/

theorem chdone_of_complete (h : (s.core s.fire.core).chanComplete (w.immBits 21 16) = true) :
    gives2 (.chdone w) s w .order .order := by
  show execChdone w s = _
  rw [execChdone, operation_of_fire hgo (by simpa using hA.symm), if_pos h, emitBoth_eq_emit2]

theorem chdone_of_incomplete (h : (s.core s.fire.core).chanComplete (w.immBits 21 16) = false) :
    exec (.chdone w) s = .next (s.park s.fire .channel) := by
  show execChdone w s = _
  rw [execChdone, operation_of_fire hgo (by simpa using hA.symm), if_neg (Bool.eq_false_iff.1 h)]

theorem ewait_of_reached (h : ((s.ft s.fire).cnt (waitClass w)).toNat ≤ w.immBits 7 0) : gives2 (.ewait w) s w .order .order := by
  show execEwait w s = _
  rw [execEwait, operation_of_fire hgo (by simpa using hA.symm), if_pos h, emitBoth_eq_emit2]

theorem ewait_of_above (h : w.immBits 7 0 < ((s.ft s.fire).cnt (waitClass w)).toNat) :
    exec (.ewait w) s = .next (s.park s.fire .engine) := by
  show execEwait w s = _
  rw [execEwait, operation_of_fire hgo (by simpa using hA.symm), if_neg h.not_ge]

/-! ### `agcfg` (R250) -/

omit hA

theorem agcfg_of_set {x : Dword} {a b : AgFields} (hx : s.opA s.fire w = .data x)
    (ha : (s.core s.fire.core).ags.look (w.immBits 3 0) = some a) (hset : a.set w.mod.toNat x = some b) :
    exec (.agcfg w) s = .next ((s.onCore s.fire.core (fun (c : Core) => { c with ags := c.ags.put (w.immBits 3 0) b })).emit2 s.fire w
      .order .order) := by
  show execAgcfg w s = _
  rw [execAgcfg, operation_of_fire hgo (by simp [hx])]
  simp only [hx, ha, Option.bind_some, hset, emitBoth_eq_emit2]

theorem agcfg_of_refused {x : Dword} (hx : s.opA s.fire w = .data x) (hset : ∀ a : AgFields, a.set w.mod.toNat x = none) :
    exec (.agcfg w) s = .next (s.commit s.fire 0x44 .none none 0) := by
  show execAgcfg w s = _
  rw [execAgcfg, operation_of_fire hgo (by simp [hx])]
  simp only [hx, hset, Option.bind_fun_none]

end

end Sys2Proof.Machine

namespace Sys2Proof.Proofs
open Sys2Proof.Machine

/-- Settles O48, each instruction by the state of its port, its channel or its counter, and `agcfg` by what its field takes. -/
theorem streamInstructions : Obligations.StreamInstructions := by
  intro s w hgo hA f c q u
  refine ⟨sget_of_bytes hgo hA, sget_of_ended hgo hA, sget_of_empty hgo hA, fun v => sput_of_room hgo hA, sclose_of_closed hgo hA,
    sclose_of_opened hgo hA, fun h => ⟨sget_of_unbound hgo hA (portBound_of_unbound h false), sclose_of_unbound hgo hA h⟩,
    chdone_of_complete hgo hA, chdone_of_incomplete hgo hA, ewait_of_reached hgo hA, ewait_of_above hgo hA,
    fun x a hx ha hmod hlo hhi => agcfg_of_set hgo hx ha ?inRange, fun x hx hmod h0 => agcfg_of_refused hgo hx fun a => ?zero⟩
  case inRange => rw [hmod]; exact if_pos ⟨hlo, hhi⟩
  case zero => rw [hmod, h0]; simp [AgFields.set]

end Sys2Proof.Proofs
end

section
/-! Records of stage graphs (spec 08 R254 to R259; 12 R346, R347; 06 R186), and O49. -/

namespace Sys2Proof.Machine
open Sys2Proof.Claims

/-! ### Faults and operands (R255, R362) -/

theorem recordOperand_of_data (x : Dword) : recordOperand (.data x) = .ok x.toNat := rfl

section
variable {s : State} {f : Firing} {kind : AccessKind}

/-- A pool fault names the node as its detail. -/
theorem recFault_of_node {cause : Nat} (h : 0x50 ≤ cause) (i : Nat) :
    s.recFault f cause kind (some i) = s.commit f cause kind none i := by
  simp only [State.recFault, if_pos h, Option.getD_some]

theorem ended_of_fire {w : SlotWord} (h : s.go f w = .fire) : s.ended f = false := by
  rw [Bool.eq_false_iff]
  intro he
  simp [State.go, he] at h

theorem unwait_of_fire {w : SlotWord} (h : s.go f w = .fire) : s.unwait f = s := by
  simp only [State.unwait, ended_of_fire h, Bool.false_eq_true, if_false]

end

section
variable {s : State} {w : SlotWord} {g : Graph} {n : GNode} {i : Nat} (hgo : s.go s.fire w = .fire)
  (hg : s.graph? (s.ft s.fire).launch = some g) (hn : g.nodes[i]? = some n)
include hgo hg hn

/-! ### `recalloc` (R256, R347) -/

section
variable {x : Dword} (hx : s.opA s.fire w = .data x) (hi : x.toNat = i)
include hx hi

section
variable (hdepth : n.maxDepth < (s.ft s.fire).recDepth.toNat + 1)
include hdepth

theorem recalloc_try_of_deep (ht : w.tryForm = true) : gives2 (.recalloc w) s w (.data 2) .order := by
  show execRecalloc w s = _
  rw [execRecalloc, unwait_of_fire hgo, operation_of_fire hgo (by simp [hx])]
  simp only [hx, recordOperand_of_data, hi, hg, Option.bind_some, hn, hdepth, ht, if_true]
  rfl

theorem recalloc_of_deep (ht : w.tryForm = false) : exec (.recalloc w) s = .next (s.commit s.fire 0x51 .none none i) := by
  show execRecalloc w s = _
  rw [execRecalloc, unwait_of_fire hgo, operation_of_fire hgo (by simp [hx])]
  simp only [hx, recordOperand_of_data, hi, hg, Option.bind_some, hn, hdepth, ht, if_true, Bool.false_eq_true, if_false]
  rw [recFault_of_node (by decide)]

end

section
variable (hdepth : (s.ft s.fire).recDepth.toNat + 1 ≤ n.maxDepth)
include hdepth

/-- A free record goes at once to the `.try` form, which never waits, and to a firing that no older waiter of the node precedes. -/
theorem recalloc_of_taken {u : Nat} {g' : Graph} (hturn : w.tryForm = true ∨ g.waitsBefore i s.fire = false)
    (htake : g.take i = some (u, g')) : exec (.recalloc w) s = .next (s.recGive s.fire w i u g') := by
  show execRecalloc w s = _
  rw [execRecalloc, unwait_of_fire hgo, operation_of_fire hgo (by simp [hx])]
  simp only [hx, recordOperand_of_data, hi, hg, Option.bind_some, hn, hdepth.not_gt, htake, if_false]
  split
  · rfl
  · rename_i hwaits
    rw [not_or] at hwaits
    rw [hturn.resolve_left hwaits.1]
    rfl

variable (htake : g.take i = none)
include htake

theorem recalloc_try_of_none (ht : w.tryForm = true) : gives2 (.recalloc w) s w (.data 1) .order := by
  show execRecalloc w s = _
  rw [execRecalloc, unwait_of_fire hgo, operation_of_fire hgo (by simp [hx])]
  simp only [hx, recordOperand_of_data, hi, hg, Option.bind_some, hn, hdepth.not_gt, htake, ht, true_or, if_true, if_false]
  rfl

/-- A thread that owns records may not wait for another. -/
theorem recalloc_of_owning (ht : w.tryForm = false) (howned : (s.ft s.fire).owned ≠ []) :
    exec (.recalloc w) s = .next (s.commit s.fire 0x50 .none none i) := by
  show execRecalloc w s = _
  rw [execRecalloc, unwait_of_fire hgo, operation_of_fire hgo (by simp [hx])]
  simp only [hx, recordOperand_of_data, hi, hg, Option.bind_some, hn, hdepth.not_gt, htake, ht, List.isEmpty_eq_false_iff.2 howned,
    Bool.false_and, Bool.not_false, or_true, if_true, Bool.false_eq_true, if_false]
  rw [recFault_of_node (by decide)]

theorem recalloc_of_waiting (ht : w.tryForm = false) (howned : (s.ft s.fire).owned = [])
    (hreserve : ((s.wg? (s.ft s.fire).launch (s.ft s.fire).wgid).map Workgroup.reserve).getD false = false) :
    exec (.recalloc w) s = .next (s.recWait s.fire g i) := by
  show execRecalloc w s = _
  rw [execRecalloc, unwait_of_fire hgo, operation_of_fire hgo (by simp [hx])]
  simp only [hx, recordOperand_of_data, hi, hg, Option.bind_some, hn, hdepth.not_gt, htake, ht, howned, hreserve, List.isEmpty_nil,
    Bool.not_false, Bool.and_self, Bool.not_true, Bool.false_eq_true, or_self, if_false, ite_self]

end

/-! ### `recinfo` (R259) -/

theorem recinfo_of_node : gives2 (.recinfo w) s w
    (.data (BitVec.ofNat 64 (g.available n % 2 ^ 32 + n.maxDepth * 2 ^ 32 + n.record / 16 * 2 ^ 40))) .order := by
  show execRecinfo w s = _
  rw [execRecinfo, operation_of_fire hgo (by simp [hx])]
  simp only [hx, recordOperand_of_data, hi, hg, Option.bind_some, hn]

end

end

/-! ### `recw` and `recrd` (R257) -/

section
variable {s s' : State} {f : Firing} {w : SlotWord} {va : Nat} {q : Place}

/-- The bytes that a `recw` has written are no longer undefined. -/
theorem recStore_of_place (b : Nat) (hl : s.locateOf f (.va va) false true = (s', .ok q)) : s.recStore f w va b =
    (let v := s'.writeAt .write f q (bytesLE w.ty.bytes b)
     (v.onGraph (v.groupOf f).1 (fun g => { g with
       blank := g.blank.filter (fun x => !(decide (va ≤ g.poolBase + x) && decide (g.poolBase + x < va + w.ty.bytes))) })).emit2
         f w .order .order) := by
  simp only [State.recStore, hl, emitBoth_eq_emit2]

theorem recLoad_of_place {g : Graph} (hl : s.locateOf f (.va va) true false = (s', .ok q))
    (hg : (s'.readAt .read f q w.ty.bytes).1.graph? ((s'.readAt .read f q w.ty.bytes).1.groupOf f).1 = some g) : s.recLoad f w va =
      (let r := s'.readAt .read f q w.ty.bytes
       r.1.emit2 f w (if r.2.2 then .err .poison else bitsVal w.ty (r.1.recordImage g va w.ty.bytes r.2.1)) .order) := by
  simp only [State.recLoad, hl, hg]

end

section
variable {s : State} {w : SlotWord} (hgo : s.go s.fire w = .fire) (hA : s.opA s.fire w ≠ .pass)
include hgo hA

theorem recrd_of_kept {h : Kept} (hk : s.fire.kept = some h) : exec (.recrd w) s = .next (s.recLoad s.fire w h.va).settle := by
  show execRecrd w s = _
  rw [execRecrd, operation_of_fire hgo (by simpa using hA.symm)]
  simp only [hk, Option.isSome_some, if_true, Option.map_some, Option.getD_some]

/-- The input record of a thread is one of its group's node. -/
theorem recrd_of_checked {g : Graph} {n : GNode} {i u off : Nat} (hk : s.fire.kept = none)
    (hg : s.graph? (s.ft s.fire).launch = some g) (hn : g.nodes[i]? = some n)
    (hi : (s.wg? (s.ft s.fire).launch (s.ft s.fire).wgid).bind Workgroup.node = some i) (hu : (s.ft s.fire).recUnit = some u)
    (hoff : recordOffset n.record w.ty.bytes (s.opA s.fire w) = .ok off) :
    exec (.recrd w) s = .next (s.recLoad s.fire w (g.recordVa u off)).settle := by
  show execRecrd w s = _
  rw [execRecrd, operation_of_fire hgo (by simpa using hA.symm)]
  simp only [hk, Option.isSome_none, Bool.false_eq_true, if_false, hg, hi, Option.bind_some, hn, hu, hoff]

variable {b : Nat} (hB : s.opB s.fire w ≠ .pass) (hC : s.opC s.fire w ≠ .pass) (hb : storeImage w.ty (s.opC s.fire w) = some b)
include hB hC hb

theorem recw_of_kept {h : Kept} (hk : s.fire.kept = some h) : exec (.recw w) s = .next (s.recStore s.fire w h.va b).settle := by
  show execRecw w s = _
  rw [execRecw, operation_of_fire hgo (by simpa using ⟨hA.symm, hB.symm, hC.symm⟩)]
  simp only [hk, hb, Option.isSome_some, if_true, Option.map_some, Option.getD_some]

omit hA in
theorem recw_of_checked {g : Graph} {n : GNode} {i u off : Nat} {h : Dword} (hk : s.fire.kept = none)
    (hg : s.graph? (s.ft s.fire).launch = some g) (hh : s.opA s.fire w = .data h)
    (howned : s.ownedRecord s.fire h.toNat = some (n, i, u)) (hoff : recordOffset n.record w.ty.bytes (s.opB s.fire w) = .ok off) :
    exec (.recw w) s = .next (s.recStore s.fire w (g.recordVa u off) b).settle := by
  show execRecw w s = _
  rw [execRecw, operation_of_fire hgo (by simpa [hh] using ⟨hB.symm, hC.symm⟩)]
  simp only [hk, Option.isSome_none, Bool.false_eq_true, if_false, hh, recordOperand_of_data, hg, howned, hoff, hb]

end

/-! ### `recemit` (R258, R349) -/

section
variable {s : State} {w : SlotWord} {h : Dword} (hgo : s.go s.fire w = .fire) (hh : s.opA s.fire w = .data h)
  (howns : s.owns s.fire = true)
include hgo hh howns

theorem recemit_of_foreign (hnone : s.ownedRecord s.fire h.toNat = none) (hnull : natBit h.toNat 63 = false) :
    exec (.recemit w) s = .next (s.commit s.fire 0x52 .none none 0xFF).settle := by
  show execRecemit w s = _
  rw [execRecemit, operation_of_fire hgo (by simp [hh])]
  simp only [howns, hh, recordOperand_of_data, hnone, hnull, Bool.not_true, Bool.false_eq_true, if_false]
  rfl

variable {n : GNode} {i u : Nat} (howned : s.ownedRecord s.fire h.toNat = some (n, i, u))
include howned

theorem recemit_of_pending (hp : s.earlierPending s.fire = true) :
    exec (.recemit w) s = .next (s.parkRelease s.fire 0 (.va 0)).settle := by
  show execRecemit w s = _
  rw [execRecemit, operation_of_fire hgo (by simp [hh])]
  simp only [howns, hh, recordOperand_of_data, howned, hp, Bool.not_true, Bool.false_eq_true, if_false, if_true]

/-- A release at device scope writes nothing home. -/
theorem recemit_of_performed (hp : s.earlierPending s.fire = false) : exec (.recemit w) s = .next
    ((((s.onThread s.fire.core s.fire.thread (fun t => { t with owned := removeNat t.owned u })).enqueue (s.ft s.fire).launch i u
      ((s.ft s.fire).recDepth.toNat + 1)).emit2 s.fire w .order .order)).settle := by
  show execRecemit w s = _
  rw [execRecemit, operation_of_fire hgo (by simp [hh])]
  simp only [howns, hh, recordOperand_of_data, howned, hp, Bool.not_true, Bool.false_eq_true, if_false]
  rfl

end

end Sys2Proof.Machine

namespace Sys2Proof.Proofs
open Sys2Proof.Machine

/-- Settles O49: an allocation by the depth, the records left and the waiters of its node, an access by the record that its handle or its
thread names, and `recemit` by what its release waits for. -/
theorem recordInstructions : Obligations.RecordInstructions := by
  intro s w g n i hgo f th hg hn
  refine ⟨fun x hx hi => ⟨fun u g' hdepth hturn htake => ?taken, fun ht hd => recalloc_try_of_deep hgo hg hn hx hi hd ht,
      fun ht hd htake => recalloc_try_of_none hgo hg hn hx hi hd htake ht, fun ht hd => recalloc_of_deep hgo hg hn hx hi hd ht,
      fun ht hd htake => recalloc_of_owning hgo hg hn hx hi hd htake ht,
      fun ht hd htake => recalloc_of_waiting hgo hg hn hx hi hd htake ht, recinfo_of_node hgo hg hn hx hi⟩,
    fun h off u b s' q hk hh howned hB hC hoff hb => ?store, fun off u s' q g' hk hA hi hu hoff => ?load,
    fun h b hk hA hB hC hb => ⟨recw_of_kept hgo hA hB hC hb hk, recrd_of_kept hgo hA hk⟩,
    fun h u hh howned howns => ⟨recemit_of_pending hgo hh howns howned, recemit_of_performed hgo hh howns howned⟩,
    fun h hh hnone hnull howns => recemit_of_foreign hgo hh howns hnone hnull⟩
  case taken => exact recalloc_of_taken hgo hg hn hx hi hdepth hturn htake
  case store =>
    intro va hl
    rw [recw_of_checked hgo hB hC hb hk hg hh howned hoff, recStore_of_place b hl]
  case load =>
    intro hl r hg'
    rw [recrd_of_checked hgo hA hk hg hn hi hu hoff, recLoad_of_place hl hg']

end Sys2Proof.Proofs
end

section
/-! System instructions (spec 08 R262 to R265; 06 R186), and O50. -/

namespace Sys2Proof.Machine
open Sys2Proof.Claims

section
variable {s : State} {w : SlotWord} (h : triggers s w)
include h

/-! ### Tokens, clocks and registers (R262 to R264) -/

theorem forward_of_triggers : s.forward w = s.emit2 s.fire w (s.opA s.fire w) (s.opA s.fire w) := by
  rw [State.forward, triggered_of_triggers h, emitBoth_eq_emit2]

theorem nop_of_triggers : gives (.nop w) s w (s.opA s.fire w) := congrArg Host.Outcome.next (forward_of_triggers h)

theorem hint_of_triggers : gives (.hint w) s w (s.opA s.fire w) := congrArg Host.Outcome.next (forward_of_triggers h)

theorem rdclk_of_triggers : gives (.rdclk w) s w (.data (BitVec.ofNat 64 s.time)) :=
  congrArg Host.Outcome.next (triggered_of_triggers h _)

theorem rdctr_of_triggers : gives (.rdctr w) s w (.data (s.counter s.fire.core (w.immBits 7 0))) :=
  congrArg Host.Outcome.next (triggered_of_triggers h _)

theorem sysrd_of_triggers : gives (.sysrd w) s w (.data (BitVec.ofNat 64 (s.sysReg s.fire (w.immBits 11 0)))) :=
  congrArg Host.Outcome.next (triggered_of_triggers h _)

/-! ### `syswr` (R264, R186) -/

theorem syswr_of_poison (hx : s.opA s.fire w = .err .poison) : exec (.syswr w) s = .next (s.commit s.fire 0x20 .none none 0) := by
  show execSyswr w s = _
  rw [execSyswr, triggered_of_triggers h, hx]
  rfl

section
variable {x : Dword} (hx : s.opA s.fire w = .data x)
include hx

theorem syswr_of_pending (hp : s.earlierPending s.fire = true) :
    exec (.syswr w) s = .next (s.parkRelease s.fire 0 (.va 0)) := by
  show execSyswr w s = _
  rw [execSyswr, triggered_of_triggers h, hx, storeImage_b64]
  simp only [hp, if_true]

/-- The event of a thread that still stands carries its launch's id. -/
theorem syswr_of_performed (howns : s.owns s.fire = true) (hp : s.earlierPending s.fire = false)
    (hclear : s.releaseBlocked s.fire .rel .sys = none) : exec (.syswr w) s = .next
      (((s.releaseActs s.fire .rel .sys).raiseEvent 8 (s.ft s.fire).launch x (s.ft s.fire).launch).emit2 s.fire w .order .order) := by
  show execSyswr w s = _
  rw [execSyswr, triggered_of_triggers h, hx, storeImage_b64]
  simp only [hp, howns, releasing_of_clear hclear, BitVec.ofNat_toNat, BitVec.setWidth_eq, Bool.false_eq_true, if_false, if_true,
    emitBoth_eq_emit2]

end

/-! ### `fltrd` (R265) -/

variable (hk : s.fire.kept = none)
include hk

theorem heldRecord_of_none (g : State → State) (hv : (s.ft s.fire).fvalid = false) :
    s.heldRecord w g = g (s.emit2 s.fire w (.data 0) (.data 0)) := by
  rw [State.heldRecord, triggered_of_triggers h]
  simp only [hv, hk, Option.isNone_none, Bool.not_false, Bool.and_self, if_true, emitBoth_eq_emit2]

theorem heldRecord_of_place {s' : State} {q : Place} (g : State → State) (hv : (s.ft s.fire).fvalid = true)
    (hl : s.locateOf s.fire (.va (s.privBase s.fire.core s.fire.thread + (s.kernelAt s.fire.core s.fire.thread).privRound +
      8 * w.immBits 2 0)) true false = (s', .ok q)) : s.heldRecord w g =
        g (let r := s'.readAt .read s.fire q 8
           let v := if r.2.2 then Val.err .poison else .data (BitVec.ofNat 64 r.2.1)
           r.1.emit2 s.fire w v v) := by
  rw [State.heldRecord, triggered_of_triggers h]
  simp only [hv, hk, Option.map_none, Option.getD_none, hl, Bool.not_true, Bool.false_and, Bool.false_eq_true, if_false,
    emitBoth_eq_emit2]

end

/-- `fltrd.clr` clears both fields whatever its tokens have done: a firing that sends tokens owns its slot. -/
theorem fltrdClr_of_sounding {s t : State} {w : SlotWord} (hmute : s.fire.mute = false) (h : ∀ g, s.heldRecord w g = g t) :
    exec (.fltrdClr w) s = .next (t.onThread s.fire.core s.fire.thread (fun th => { th with fvalid := false, fcause := 0 })).settle := by
  show execFltrdClr w s = _
  rw [execFltrdClr, h, owns_of_sounding hmute]
  rfl

theorem fltrd_eq {s t : State} {w : SlotWord} (h : ∀ g, s.heldRecord w g = g t) : exec (.fltrd w) s = .next t.settle :=
  congrArg (fun u : State => Host.Outcome.next u.settle) (h id)

end Sys2Proof.Machine

namespace Sys2Proof.Proofs
open Sys2Proof.Machine

/-- Settles O50: the instructions that only send a token by `triggered`, `syswr` by what its release waits for, and the reads of the record
by `heldRecord`. -/
theorem systemInstructions : Obligations.SystemInstructions := by
  intro s w h f th
  refine ⟨nop_of_triggers h, hint_of_triggers h, rdclk_of_triggers h, fun hi => ?counter, fun hi => ?noload, fun hr => ?launch,
    fun hr => ?power, fun hr => ?sched, fun x hx howns => ⟨syswr_of_pending h hx, syswr_of_performed h hx howns⟩, syswr_of_poison h,
    fun hv hk => ?unheld, fun s' q hv hk hl => ?held⟩
  case counter =>
    have := rdctr_of_triggers h
    rwa [State.counter, if_neg hi] at this
  case noload =>
    have := rdctr_of_triggers h
    rwa [State.counter, if_pos hi] at this
  case launch | power | sched =>
    have := sysrd_of_triggers h
    rwa [hr] at this
  case unheld =>
    have hread := fun g => heldRecord_of_none h hk g hv
    exact ⟨fltrd_eq hread, fun hmute => fltrdClr_of_sounding hmute hread⟩
  case held =>
    have hread := fun g => heldRecord_of_place h hk g hv hl
    exact ⟨fltrd_eq hread, fun hmute => fltrdClr_of_sounding hmute hread⟩

end Sys2Proof.Proofs
end

section
/-! Engines, watchdogs and the ordering point of `.sc` fences (spec 08 R236; 11 R318, R336; 13 R382; 14 R431, R432), and O53. -/

namespace Sys2Proof.Machine

section
variable {s : State} {k : Nat}

/-! ### Transfers (R236, R336) -/

theorem execCopyBurst_of_turn {id : Nat} {x : Transfer} (hturn : (s.core k).copyTurn = some id)
    (hx : (s.core k).transfer? id = some x) :
    execCopyBurst k id s = .next ((s.setCore k { s.core k with lastTurn := id }).burst k id x.lineAt 128).settle := by
  simp only [execCopyBurst, hturn, hx, ne_eq, not_true_eq_false, if_false, Option.map_some, Option.getD_some]

theorem execEngineOperationComplete_of_thread {id : Nat} {x : Transfer} (hx : (s.core k).transfer? id = some x)
    (hdone : (s.core k).transferDone x = true) (hq : x.queue = none) (hcounted : x.counted = true) :
    execEngineOperationComplete k id s =
      .next ((s.onCore k (fun (c : Core) => c.dropTransfer x)).countDown k x.f.thread x.cls) := by
  simp only [execEngineOperationComplete, hx, hdone, hq, hcounted, Bool.not_true, Bool.false_eq_true, if_false, if_true]

/-! ### Watchdogs (R318, R382) -/

theorem execWaitWatchdog_of_late {i : Nat} {p : Parked} (hp : (s.core k).parked[i]? = some p) (hwhy : p.why = .engine ∨ p.why = .channel)
    (hret : s.canReturn p = false) (hfrozen : s.frozen k = false)
    (hlate : p.since + 2 ^ clamp 10 30 (natBits (s.core k).kwdog.toNat 4 0) ≤ s.time) : execWaitWatchdog k i s = .next
      (let u := s.setCore k { s.core k with parked := (s.core k).parked.eraseIdx i }
       u.abortFault k p.f.thread (u.firingRec p.f 0x7F 2 .none 1)) := by
  simp only [execWaitWatchdog, hp, hwhy, hret, hfrozen, hlate, Bool.not_false, and_self, if_true]

/-- No held item leaves by a condition that none meets. -/
theorem dropHeld_of_none {p : HeldItem → Bool} (h : ∀ i, p i = false) : s.dropHeld p = s.dropHeld (fun _ => false) :=
  congrArg s.dropHeld (funext h)

/-- Without a transfer no hold is dropped and no workgroup is aborted. -/
theorem execPinWatchdog_of_idle {t0 n : Nat} (hsince : (s.core k).idleSince = some t0) (hidle : s.pinIdle k = true)
    (hlate : t0 + 2 ^ clamp 10 30 (natBits (s.core k).ksched.toNat 44 40) ≤ s.time) (hnone : (s.core k).transfers = [])
    (hport : lowest (s.core k).busyPorts = some n) : execPinWatchdog k s = .next
      (let u := (s.dropHeld (fun _ => false)).onCore k Core.closeAll
       u.fqPost { u.blankRec 0x7F 2 .none 2 with core := some k, port := some (0x40 + n), launch := 0 } none) := by
  simp only [execPinWatchdog, hsince, hidle, hlate.not_gt, hnone, hport, Bool.not_true, Bool.false_eq_true, or_self, if_false,
    List.filter_nil, List.map_nil, List.dedup_nil, List.head?_nil, List.foldl_nil, List.any_nil, Bool.and_false]
  rw [dropHeld_of_none fun i => by cases i <;> rfl]
  rfl

/-! ### Tickets (R431, R432) -/

theorem setCore_ordersFences (s : State) (k : Nat) (c : Core) : (s.setCore k c).ordersFences = s.ordersFences := rfl

theorem setCore_ticketSilent (s : State) (k : Nat) (c : Core) : (s.setCore k c).ticketSilent = s.ticketSilent := rfl

/-- Of the cores only what is parked at one changes. -/
theorem setCore_parked_core (s : State) (k j : Nat) (l : List Parked) : (s.setCore k { s.core k with parked := l }).core j =
    { s.core j with parked := ((s.setCore k { s.core k with parked := l }).core j).parked } := by
  rcases eq_or_ne j k with rfl | hj
  · rw [State.setCore_core_same]
  · rw [State.setCore_core_other _ _ _ _ hj]

theorem setCore_parked_ended (s : State) (k : Nat) (l : List Parked) (f : Firing) :
    (s.setCore k { s.core k with parked := l }).ended f = s.ended f := by
  rw [State.ended, State.ft, State.thread, setCore_parked_core]
  rfl

theorem setCore_parked_fieldsOf (s : State) (k : Nat) (l : List Parked) (f : Firing) :
    (s.setCore k { s.core k with parked := l }).fieldsOf f = s.fieldsOf f := by
  rw [State.fieldsOf, setCore_parked_core]
  rfl

/-- The fence whose turn it is performs, unless the ordering device is another one that does not answer. -/
theorem execScTicket_of_turn {i : Nat} {p : Parked} {w : SlotWord} (hp : (s.core k).parked[i]? = some p) (hwhy : p.why = .ticket)
    (hturn : s.ticketTurn k i p.since = true) (hended : s.ended p.f = false) (hw : s.fieldsOf p.f = some w) :
    execScTicket k i s = .next
      (let u := s.setCore k { s.core k with parked := (s.core k).parked.eraseIdx i }
       if s.ordersFences = false ∧ s.ticketSilent = true then u.commit p.f 0x71 .none none (natBits s.mwOrd.toNat 11 0)
       else (if s.ordersFences = true then { u with tickets := s.tickets + 1 } else u).fenceActs p.f w) := by
  simp only [execScTicket, hp, hwhy, hturn, ne_eq, not_true_eq_false, Bool.not_true, Bool.false_eq_true, or_self, if_false,
    setCore_parked_ended, hended, setCore_ordersFences, setCore_ticketSilent, setCore_parked_fieldsOf, hw, Bool.not_eq_true',
    State.setCore_mwOrd, State.setCore_tickets]
  split <;> rfl

end

end Sys2Proof.Machine

namespace Sys2Proof.Proofs
open Sys2Proof.Machine

/-- Settles O53, each step by its condition; the ticket's answer by whether the hub die or another device orders fences. -/
theorem enginesAndWatchdogs : Obligations.EnginesAndWatchdogs := by
  intro s k c
  refine ⟨fun id x => execCopyBurst_of_turn, fun id x => execEngineOperationComplete_of_thread, fun i p => execWaitWatchdog_of_late,
    fun t0 n => execPinWatchdog_of_idle, fun i p w hp hwhy hturn hended hw => ?ticket, fun dev => rfl⟩
  case ticket =>
    have hticket := execScTicket_of_turn hp hwhy hturn hended hw
    exact ⟨fun hown => hticket.trans (congrArg Host.Outcome.next ((if_neg (by simp [hown])).trans
        (congrArg (fun u : State => u.fenceActs p.f w) (if_pos hown)))),
      fun hown hanswers => hticket.trans (congrArg Host.Outcome.next ((if_neg (by simp [hanswers])).trans
        (congrArg (fun u : State => u.fenceActs p.f w) (if_neg (by simp [hown]))))),
      fun hown hsilent => hticket.trans (congrArg Host.Outcome.next (if_pos ⟨hown, hsilent⟩))⟩

end Sys2Proof.Proofs
end

section
/-! What an execution that the consistency model allows cannot show (spec 09 R269 to R284), and the verdicts on the tables of R285, O60. -/

namespace Sys2Proof.Machine.Execution

variable {x : Execution} {l : Loc} {r w : Nat}

/-! ### The conditions on an allowed execution (R252, R275 to R284) -/

theorem allowed_iff : x.allowed = true ↔
    x.coverOk = true ∧ x.place.Nodup ∧
    (∀ l ∈ x.allLocs, x.initialOk l = true ∧ x.coherent l = true ∧
      ∀ r ∈ x.readers l, x.readOk r l = true ∧ ((x.ev r).kind.updates = true → x.rmwOk r l = true)) ∧
    x.singleCopy = true ∧ x.grounded = true ∧ x.fencesOk = true ∧ x.finalOk = true := by
  simp [allowed, and_assoc, imp_iff_not_or]

theorem mem_readers : r ∈ x.readers l ↔ r ∈ x.ids ∧ (x.ev r).kind.reads = true ∧ l ∈ (x.ev r).locs := by
  simp [readers]

theorem mem_writers : w ∈ x.writers l ↔ w ∈ x.ids ∧ (x.ev w).kind.writes = true ∧ l ∈ (x.ev w).locs := by
  simp [writers]

theorem mem_allLocs_of_mem_readers (h : r ∈ x.readers l) : l ∈ x.allLocs := by
  obtain ⟨hr, -, hl⟩ := mem_readers.1 h
  have hmem : x.ev r ∈ x.events := by simp [ev, List.mem_range.1 hr]
  exact List.mem_dedup.2 (List.mem_flatMap.2 ⟨x.ev r, hmem, hl⟩)

theorem mem_of_earlierIn {o : List Nat} {a b : Nat} (h : earlierIn o a b = true) : a ∈ o ∧ b ∈ o := by
  obtain ⟨⟨ha, hb⟩, -⟩ : (a ∈ o ∧ b ∈ o) ∧ o.idxOf a < o.idxOf b := by simpa [earlierIn] using h
  exact ⟨ha, hb⟩

theorem readOk_of_allowed (hx : x.allowed = true) (hr : r ∈ x.readers l) : x.readOk r l = true := by
  obtain ⟨-, -, hlocs, -⟩ := allowed_iff.1 hx
  obtain ⟨-, -, hreads⟩ := hlocs l (mem_allLocs_of_mem_readers hr)
  exact (hreads r hr).1

theorem rmwOk_of_allowed (hx : x.allowed = true) (hr : r ∈ x.readers l) (hu : (x.ev r).kind.updates = true) :
    x.rmwOk r l = true := by
  obtain ⟨-, -, hlocs, -⟩ := allowed_iff.1 hx
  obtain ⟨-, -, hreads⟩ := hlocs l (mem_allLocs_of_mem_readers hr)
  exact (hreads r hr).2 hu

/-! ### Outcomes that no allowed execution has, by the rule that each breaks -/

/-- R276, rule 2: between the write that a read takes and the read, no later write happens. -/
theorem forbidden_of_overwritten (l : Loc) (r w v : Nat) (h : r ∈ x.readers l ∧ x.source r l = some w ∧ v ∈ x.writers l ∧
    x.coBefore l w v = true ∧ x.hbAt l v r = true) : x.allowed = false := by
  obtain ⟨hr, hw, hv, hco, hhb⟩ := h
  refine Bool.eq_false_iff.2 fun hx => ?_
  obtain ⟨-, -, hlast, -⟩ := by simpa [readOk, hw, and_assoc] using readOk_of_allowed hx hr
  simpa [hco, hhb] using hlast v hv

/-- R276, rule 3: a read does not go back behind what a read before it took. -/
theorem forbidden_of_older_than_seen (l : Loc) (r q w v : Nat) (h : r ∈ x.readers l ∧ x.source r l = some w ∧ q ∈ x.readers l ∧
    x.source q l = some v ∧ x.coBefore l w v = true ∧ x.hbAt l q r = true) : x.allowed = false := by
  obtain ⟨hr, hw, hq, hv, hco, hhb⟩ := h
  refine Bool.eq_false_iff.2 fun hx => ?_
  obtain ⟨-, -, -, hseen, -⟩ := by simpa [readOk, hw, and_assoc] using readOk_of_allowed hx hr
  simpa [hv, hco, hhb] using hseen q hq

/-- R277 and R278: no atomic that overlaps an RMW with another address or width comes between what the RMW reads and what it writes. -/
theorem forbidden_of_unlike_between (l : Loc) (r w v : Nat) (h : r ∈ x.readers l ∧ (x.ev r).kind.updates = true ∧
    x.source r l = some w ∧ v ∈ x.writers l ∧ v ≠ w ∧ v ≠ r ∧ x.coBefore l w v = true ∧ x.coBefore l v r = true ∧
    (x.ev v).unlike (x.ev r) = true ∧ l.space ≠ .host) : x.allowed = false := by
  obtain ⟨hr, hu, hw, hv, hvw, hvr, hwv, hvr', hunlike, hhost⟩ := h
  refine Bool.eq_false_iff.2 fun hx => ?_
  obtain ⟨-, hbetween, -⟩ := by simpa [rmwOk, hw, and_assoc] using rmwOk_of_allowed hx hr hu
  simpa [hvw, hvr, hwv, hvr', hunlike, hhost] using hbetween v hv

/-- R277 and R284: on host atomic paths 1 and 2 no write at the host comes between the initial byte that an RMW reads and its write. -/
theorem forbidden_of_host_write_between (l : Loc) (r w v : Nat) (h : r ∈ x.readers l ∧ (x.ev r).kind.updates = true ∧
    x.source r l = some w ∧ v ∈ x.writers l ∧ v ≠ w ∧ v ≠ r ∧ (x.ev w).agent = .init ∧
    earlierIn x.place v r = true ∧ l.space = .host ∧
    x.path3 = false) : x.allowed = false := by
  obtain ⟨hr, hu, hw, hv, hvw, hvr, hinit, hplace, hhost, hpath⟩ := h
  refine Bool.eq_false_iff.2 fun hx => ?_
  obtain ⟨-, -, halone⟩ := by simpa [rmwOk, hw, hinit, hhost, hpath, and_assoc] using rmwOk_of_allowed hx hr hu
  simpa [hvw, hvr, hplace] using halone v hv

/-- R278: a whole read does not take one of the bytes of a whole write and leave another. -/
theorem forbidden_of_torn (k l : Loc) (r w : Nat) (h : (x.ev r).whole = true ∧ (x.ev w).whole = true ∧ (x.ev w).agent ≠ .init ∧
    r ∈ x.readers k ∧ w ∈ x.writers k ∧ x.source r k = some w ∧
    r ∈ x.readers l ∧ w ∈ x.writers l ∧ x.source r l ≠ some w) : x.allowed = false := by
  obtain ⟨hrw, hww, hinit, hrk, hwk, hk, hrl, hwl, hl⟩ := h
  refine Bool.eq_false_iff.2 fun hx => ?_
  obtain ⟨hr, hreads, hrk⟩ := mem_readers.1 hrk
  obtain ⟨hw, hwrites, hwk⟩ := mem_writers.1 hwk
  obtain ⟨-, -, -, hsingle, -⟩ := allowed_iff.1 hx
  have htogether : together (x.source r) (x.shared r w) w = true := by
    have hread := (Bool.and_eq_true_iff.1 hsingle).1
    simp only [List.all_eq_true, List.mem_filter, Bool.and_eq_true, bne_iff_ne] at hread
    exact hread r ⟨hr, hreads, hrw⟩ w ⟨hw, ⟨hwrites, hww⟩, hinit⟩
  rcases (by simpa [together, shared] using htogether) with hall | hnone
  · exact (hall l (mem_readers.1 hrl).2.2).elim (fun h => h (mem_writers.1 hwl).2.2) hl
  · exact hnone k hrk hwk hk

/-- R280: a read after an `.sc` fence does not fall behind what an access before an earlier `.sc` fence wrote or took. -/
theorem forbidden_of_fences (l : Loc) (f g a w r v : Nat) (h : earlierIn x.order f g = true ∧ (x.ev f).mutually (x.ev g) = true ∧
    x.before a f = true ∧ (a ∈ x.writers l ∧ w = a ∨ a ∈ x.readers l ∧ x.source a l = some w) ∧
    r ∈ x.readers l ∧ x.before g r = true ∧ x.source r l = some v ∧ x.coBefore l v w = true) : x.allowed = false := by
  obtain ⟨hfg, hmut, haf, hseen, hr, hgr, hv, hco⟩ := h
  refine Bool.eq_false_iff.2 fun hx => ?_
  obtain ⟨-, -, -, -, -, hfences, -⟩ := allowed_iff.1 hx
  obtain ⟨⟨⟨⟨-, hsc⟩, -⟩, -⟩, hbehind⟩ := by
    simpa only [fencesOk, List.all_eq_true, Bool.and_eq_true, Bool.or_eq_true, List.contains_iff_mem] using hfences
  obtain ⟨hf, hg⟩ := mem_of_earlierIn hfg
  have hread := (hbehind f (hsc f hf) g (hsc g hg)).resolve_left (by simp [hfg, hmut]) l (mem_allLocs_of_mem_readers hr) w ?_ r hr
  · simp [hgr, hv, hco] at hread
  · rcases hseen with ⟨ha, rfl⟩ | ⟨ha, hw⟩
    · exact List.mem_flatMap.2 ⟨w, List.mem_filter.2 ⟨(mem_writers.1 ha).1, haf⟩, by simp [ha]⟩
    · exact List.mem_flatMap.2 ⟨a, List.mem_filter.2 ⟨(mem_readers.1 ha).1, haf⟩, by simp [ha, hw]⟩

/-- R283 and R284: memory does not end with a write that another of the location is co-after. -/
theorem forbidden_of_final_overwritten (l : Loc) (w v : Nat) (h : (l, w) ∈ x.final ∧ v ∈ x.writers l ∧ x.coBefore l w v = true) :
    x.allowed = false := by
  obtain ⟨hw, hv, hco⟩ := h
  refine Bool.eq_false_iff.2 fun hx => ?_
  obtain ⟨-, -, -, -, -, -, hfinal⟩ := allowed_iff.1 hx
  obtain ⟨-, hlast⟩ := Bool.and_eq_true_iff.1 (List.all_eq_true.1 hfinal _ hw)
  simpa [hco] using List.all_eq_true.1 hlast v hv

/-- R279: same-thread order and reads-from have no cycle. -/
theorem forbidden_of_not_grounded (h : x.grounded = false) : x.allowed = false := by
  simp [allowed, h]

/-- R252 and R253: an engine acquire covers what its count asks for. -/
theorem forbidden_of_not_coverOk (h : x.coverOk = false) : x.allowed = false := by
  simp [allowed, h]

end Sys2Proof.Machine.Execution

namespace Sys2Proof.Proofs
open Sys2Proof.Machine Execution

/-- Settles O60, table by table: a row allowed by the evaluation of every condition on its execution, a row forbidden by the rule that its
outcome breaks, at the location and events that show it. -/
theorem litmusVerdicts : Obligations.LitmusVerdicts := by
  unfold Obligations.LitmusVerdicts
  refine ⟨?messagePassing, ?storeBuffering, ?loadBuffering, ?independentReads, ?writeToRead, ?engines, ?hosts, ?barriersAndLaunches⟩
  case messagePassing =>
    exact ⟨by decide +kernel, by decide +kernel,
      forbidden_of_overwritten (l := litmusLoc 0) (r := 5) (w := 0) (v := 2) (by decide +kernel),
      by decide +kernel, by decide +kernel,
      forbidden_of_overwritten (l := litmusLoc 0) (r := 5) (w := 0) (v := 2) (by decide +kernel),
      by decide +kernel, by decide +kernel,
      forbidden_of_overwritten (l := litmusLoc 0) (r := 5) (w := 0) (v := 2) (by decide +kernel),
      by decide +kernel⟩
  case storeBuffering =>
    exact ⟨by decide +kernel, by decide +kernel, by decide +kernel,
      forbidden_of_fences (l := litmusLoc 0) (f := 6) (g := 7) (a := 2) (w := 2) (r := 5) (v := 0) (by decide +kernel),
      by decide +kernel⟩
  case loadBuffering =>
    exact ⟨by decide +kernel,
      forbidden_of_not_grounded (by decide +kernel)⟩
  case independentReads =>
    exact ⟨by decide +kernel, by decide +kernel,
      forbidden_of_fences (l := litmusLoc 0) (f := 8) (g := 9) (a := 4) (w := 2) (r := 7) (v := 0) (by decide +kernel),
      forbidden_of_fences (l := litmusLoc 1) (f := 9) (g := 8) (a := 6) (w := 3) (r := 5) (v := 1) (by decide +kernel)⟩
  case writeToRead =>
    exact ⟨by decide +kernel,
      forbidden_of_older_than_seen (l := litmusLoc 0) (r := 6) (q := 3) (w := 0) (v := 2) (by decide +kernel),
      forbidden_of_older_than_seen (l := litmusLoc 0) (r := 6) (q := 3) (w := 0) (v := 2) (by decide +kernel)⟩
  case engines =>
    exact ⟨forbidden_of_overwritten (l := litmusLoc 1) (r := 8) (w := 1) (v := 5) (by decide +kernel),
      by decide +kernel, by decide +kernel, by decide +kernel,
      forbidden_of_overwritten (l := litmusLoc 0) (r := 3) (w := 0) (v := 5) (by decide +kernel),
      forbidden_of_overwritten (l := litmusLoc 1) (r := 6) (w := 1) (v := 4) (by decide +kernel),
      forbidden_of_not_coverOk (by decide +kernel),
      by decide +kernel, by decide +kernel,
      forbidden_of_torn (k := ⟨.device 0, 16⟩) (l := ⟨.device 0, 17⟩) (r := 13) (w := 9) (by decide +kernel),
      forbidden_of_overwritten (l := litmusLoc 2) (r := 13) (w := 4) (v := 9) (by decide +kernel),
      forbidden_of_unlike_between (l := litmusLoc 0) (r := 3) (w := 0) (v := 2) (by decide +kernel),
      by decide +kernel, by decide +kernel,
      forbidden_of_torn (k := litmusLoc 0) (l := ⟨.device 0, 1⟩) (r := 4) (w := 2) (by decide +kernel)⟩
  case hosts =>
    exact ⟨forbidden_of_overwritten (l := litmusLoc 0) (r := 5) (w := 0) (v := 2) (by decide +kernel),
      by decide +kernel,
      forbidden_of_overwritten (l := ⟨.host, 0⟩) (r := 5) (w := 0) (v := 2) (by decide +kernel),
      by decide +kernel, by decide +kernel,
      forbidden_of_final_overwritten (l := litmusLoc 0) (w := 0) (v := 2) (by decide +kernel),
      forbidden_of_final_overwritten (l := litmusLoc 1) (w := 1) (v := 3) (by decide +kernel),
      by decide +kernel,
      forbidden_of_final_overwritten (l := litmusLoc 0) (w := 2) (v := 3) (by decide +kernel),
      by decide +kernel,
      forbidden_of_host_write_between (l := ⟨.host, 0⟩) (r := 1) (w := 0) (v := 2) (by decide +kernel),
      by decide +kernel, by decide +kernel⟩
  case barriersAndLaunches =>
    exact ⟨forbidden_of_overwritten (l := litmusLoc 0) (r := 3) (w := 0) (v := 1) (by decide +kernel),
      by decide +kernel,
      forbidden_of_overwritten (l := litmusLoc 0) (r := 4) (w := 0) (v := 1) (by decide +kernel),
      forbidden_of_overwritten (l := litmusLoc 0) (r := 4) (w := 0) (v := 1) (by decide +kernel)⟩

end Sys2Proof.Proofs
end

section
/-! The canonical form of the memories (spec 10 R295; log 6): the reset state has it, no instruction, input or activity takes a memory out
of it, and it makes equal what reads alike. O7, O8 and O9. -/

namespace Sys2Proof.Machine

/-! ### Every instruction and every step (O8) -/

/-- Whatever instruction or activity runs, the memories keep their canonical form. -/
theorem exec_memOk {s : State} (h : s.memOk) (i : Instr) : outOk (exec i s) := by
  unfold exec
  split
  · exact execAdd_memOk h
  · exact execSub_memOk h
  · exact execMul_memOk h
  · exact execMulh_memOk h
  · exact execMad_memOk h
  · exact execDiv_memOk h
  · exact execRem_memOk h
  · exact execNeg_memOk h
  · exact execAbs_memOk h
  · exact execMin_memOk h
  · exact execMax_memOk h
  · exact execAnd_memOk h
  · exact execOr_memOk h
  · exact execXor_memOk h
  · exact execNot_memOk h
  · exact execShl_memOk h
  · exact execShr_memOk h
  · exact execSar_memOk h
  · exact execRol_memOk h
  · exact execRor_memOk h
  · exact execClz_memOk h
  · exact execCtz_memOk h
  · exact execPopc_memOk h
  · exact execBrev_memOk h
  · exact execBfx_memOk h
  · exact execBfi_memOk h
  · exact execCmp_memOk h
  · exact execSel_memOk h
  · exact execSext_memOk h
  · exact execZext_memOk h
  · exact execAddc_memOk h
  · exact execSubb_memOk h
  · exact execLea_memOk h
  · exact execMov_memOk h
  · exact execConst_memOk h
  · exact execFadd_memOk h
  · exact execFsub_memOk h
  · exact execFmul_memOk h
  · exact execFfma_memOk h
  · exact execFneg_memOk h
  · exact execFabs_memOk h
  · exact execFmin_memOk h
  · exact execFmax_memOk h
  · exact execFcmp_memOk h
  · exact execFcvt_memOk h
  · exact execFcvti_memOk h
  · exact execIcvtf_memOk h
  · exact execFrnd_memOk h
  · exact execFdiv_memOk h
  · exact execFrcp_memOk h
  · exact execFsqrt_memOk h
  · exact execFrsq_memOk h
  · exact execFexp2_memOk h
  · exact execFlog2_memOk h
  · exact execFsin_memOk h
  · exact execFcos_memOk h
  · exact execFclass_memOk h
  · exact execFscale_memOk h
  · exact execFfrexp_memOk h
  · exact execFsign_memOk h
  · exact execFpmodeImm_memOk h
  · exact execFpmodeVal_memOk h
  · exact execHadd2_memOk h
  · exact execHmul2_memOk h
  · exact execHfma2_memOk h
  · exact execFdot2_memOk h
  · exact execEcatch_memOk h
  · exact execBmax_memOk h
  · exact execBscale_memOk h
  · exact execBquant_memOk h
  · exact execBdequant_memOk h
  · exact execBpack_memOk h
  · exact execBunpack_memOk h
  · exact execBdot_memOk h
  · exact execBsfwd_memOk h
  · exact execEntry_memOk h
  · exact execLvr_memOk h
  · exact execLvw_memOk h
  · exact execFan_memOk h
  · exact execSteer_memOk h
  · exact execMergeFirst_memOk h
  · exact execMergeJoin_memOk h
  · exact execSink_memOk h
  · exact execLhead_memOk h
  · exact execLsparse_memOk h
  · exact execLtail_memOk h
  · exact execLexit_memOk h
  · exact execBr_memOk h
  · exact execJmp_memOk h
  · exact execBrx_memOk h
  · exact execCall_memOk h
  · exact execRet_memOk h
  · exact execExit_memOk h
  · exact execBarSync_memOk h
  · exact execBarArrive_memOk h
  · exact execBarWait_memOk h
  · exact execGate_memOk h
  · exact execRelease_memOk h
  · exact execTrap_memOk h
  · exact execLd_memOk h
  · exact execSt_memOk h
  · exact execAtom_memOk h
  · exact execCas_memOk h
  · exact execCas2_memOk h
  · exact execFence_memOk h
  · exact execSptest_memOk h
  · exact execSpcastTo_memOk h
  · exact execSpcastFrom_memOk h
  · exact execPref_memOk h
  · exact execGth_memOk h
  · exact execSct_memOk h
  · exact execMtld_memOk h
  · exact execMtst_memOk h
  · exact execShfl_memOk h
  · exact execLpush_memOk h
  · exact execVote_memOk h
  · exact execGscan_memOk h
  · exact execGred_memOk h
  · exact execGbcast_memOk h
  · exact execGmatch_memOk h
  · exact execXbegin_memOk h
  · exact execXround_memOk h
  · exact execXsegred_memOk h
  · exact execXend_memOk h
  · exact execMxop_memOk h
  · exact execMxzero_memOk h
  · exact execMxld_memOk h
  · exact execMxrd_memOk h
  · exact execMxst_memOk h
  · exact execMxrel_memOk h
  · exact execMxinfo_memOk h
  · exact execCpy_memOk h
  · exact execCpyms_memOk h
  · exact execCpysm_memOk h
  · exact execCpyss_memOk h
  · exact execCpymc_memOk h
  · exact execSget_memOk h
  · exact execSput_memOk h
  · exact execSclose_memOk h
  · exact execChdone_memOk h
  · exact execEwait_memOk h
  · exact execAgcfg_memOk h
  · exact execRecalloc_memOk h
  · exact execRecw_memOk h
  · exact execRecrd_memOk h
  · exact execRecemit_memOk h
  · exact execRecinfo_memOk h
  · exact execNop_memOk h
  · exact execRdclk_memOk h
  · exact execRdctr_memOk h
  · exact execSysrd_memOk h
  · exact execSyswr_memOk h
  · exact execBrk_memOk h
  · exact execHint_memOk h
  · exact execFltrd_memOk h
  · exact execFltrdClr_memOk h
  · exact execFaultedDrained_memOk h
  · exact execAdmitWorkgroup_memOk h
  · exact execGangSnapshot_memOk h
  · exact execTokenArrival_memOk h
  · exact execElementIssue_memOk h
  · exact execCreditReturn_memOk h
  · exact execLoopIssue_memOk h
  · exact execTagStarve_memOk h
  · exact execMatrixAccept_memOk h
  · exact execMatrixExecuteComplete_memOk h
  · exact execAccExhausted_memOk h
  · exact execEngineOperationComplete_memOk h
  · exact execCopyBurst_memOk h
  · exact execRemoteUnreachable_memOk h
  · exact execPinWatchdog_memOk h
  · exact execWaitWatchdog_memOk h
  · exact execSwitchBegin_memOk h
  · exact execFlip_memOk h
  · exact execDecodeStart_memOk h
  · exact execDecodeReady_memOk h
  · exact execConfigCacheFill_memOk h
  · exact execValidateKernel_memOk h
  · exact execTileRequestService_memOk h
  · exact execCacheFill_memOk h
  · exact execL2Store_memOk h
  · exact execGets_memOk h
  · exact execGetm_memOk h
  · exact execPutm_memOk h
  · exact execPuts_memOk h
  · exact execInvalidation_memOk h
  · exact execBackInvalidationSnoop_memOk h
  · exact execHostHalfRequest_memOk h
  · exact execPatrolScrub_memOk h
  · exact execTableWalk_memOk h
  · exact execAtsResponse_memOk h
  · exact execPriResponse_memOk h
  · exact execAtsInvalidateRequest_memOk h
  · exact execDeferredRecordWrite_memOk h
  · exact execFqResume_memOk h
  · exact execFqRdWrite_memOk h
  · exact execFqStatRead_memOk h
  · exact execXltInv_memOk h
  · exact execXltInvDone_memOk h
  · exact execDqPush_memOk h
  · exact execPageRelease_memOk h
  · exact execDqPop_memOk h
  · exact execDqStatClear_memOk h
  · exact execLoadPreempt_memOk h
  · exact execWorkgroupPreempt_memOk h
  · exact execLaunchPreempt_memOk h
  · exact execRestore_memOk h
  · exact execQuantumExpiry_memOk h
  · exact execNotify_memOk h
  · exact execQctlEnable_memOk h
  · exact execQctlDisable_memOk h
  · exact execPacketHeaderPoll_memOk h
  · exact execPacketNop_memOk h
  · exact execPacketLaunch_memOk h
  · exact execPacketGraph_memOk h
  · exact execPacketCopy_memOk h
  · exact execPacketWaitsig_memOk h
  · exact execPacketBarrierAnd_memOk h
  · exact execPacketRetire_memOk h
  · exact execLaunchComplete_memOk h
  · exact execEventToken_memOk h
  · exact execEventTokenRetry_memOk h
  · exact execFirmwareTimer_memOk h
  · exact execHevStatRead_memOk h
  · exact execLmbGo_memOk h
  · exact execLmbStatRead_memOk h
  · exact execFenceCore_memOk h
  · exact execFenceCluster_memOk h
  · exact execFenceStack_memOk h
  · exact execFencePort_memOk h
  · exact execFunctionReady_memOk h
  · exact execColdReset_memOk h
  · exact execWarmReset_memOk h
  · exact execBootCmd_memOk h
  · exact execOwnerCommand_memOk h
  · exact execAttCmd_memOk h
  · exact execQuoteComplete_memOk h
  · exact execGovernorTick_memOk h
  · exact execThermalCrossing_memOk h
  · exact execThermalShutdown_memOk h
  · exact execMuwinPortState_memOk h
  · exact execMwpStatRead_memOk h
  · exact execFlitReplay_memOk h
  · exact execScTicket_memOk h
  · exact execLauncherTick_memOk h
  · exact execRecordPoolExhausted_memOk h
  · exact execGraphComplete_memOk h
  · exact execGraphPreempt_memOk h
  · exact execRegisterWrite_memOk h
  · exact execHostBar2Access_memOk h
  · exact execMuwinPeerAccess_memOk h
  · exact execPowerLoss_memOk h
  · exact execThermalSensorLost_memOk h

section
variable {s : State} (h : s.memOk)
include h

theorem runInstr_memOk (i : Instr) : outOk (runInstr i s) := by
  have hexec := exec_memOk h i
  unfold runInstr
  split
  next t he => exact outOk_next (State.tick_memOk (hexec t he))
  · exact outOk_fault _
  · exact outOk_refused _

theorem runFiring_memOk : outOk (runFiring s) := by
  unfold runFiring
  split
  · exact outOk_next (State.tick_memOk h)
  · split
    · exact outOk_next (State.tick_memOk h)
    · exact runInstr_memOk h _

theorem runRetry_memOk (i : HeldItem) : outOk (runRetry i s) := by
  unfold runRetry
  split
  next f => exact runFiring_memOk (s := { s with fire := f }) h
  · exact outOk_next (State.tick_memOk (State.replayTransfer_memOk h))
  · exact runInstr_memOk h _
  · exact runInstr_memOk h _
  · exact runInstr_memOk h _
  next k ctx va bytes thread =>
    have hstore : (s.storeRecord k ctx va bytes thread).1.memOk := State.storeRecord_memOk h
    split
    next hx =>
      have hu := fst_memOk hx hstore
      split
      · exact outOk_next (State.tick_memOk (State.settle_memOk (State.recordRefused_memOk hu)))
      · exact outOk_next (State.tick_memOk (State.settle_memOk (State.fqPost_memOk hu)))
    next hx => exact outOk_next (State.tick_memOk (State.settle_memOk (fst_memOk hx hstore)))

theorem runActivity_memOk : outOk (runActivity s) :=
  runInstr_memOk (State.chosen_memOk (State.decay_memOk h)) _

theorem runInput_memOk (i : Input) : outOk (runInput i s) := by
  unfold runInput
  split
  · exact runInstr_memOk h _
  · exact outOk_next (State.tick_memOk (State.takesInput_memOk h))

theorem stepOff_memOk : outOk (stepOff s) := by
  unfold stepOff
  split
  next more _ => exact runInstr_memOk (s := { s with inbox := more }) h _
  · exact outOk_next h
  · exact outOk_fault _

theorem stepOn_memOk : outOk (stepOn s) := by
  unfold stepOn
  split
  · exact runFiring_memOk (State.latchFiring_memOk h)
  next rest _ _ => exact runRetry_memOk (s := { s with retries := rest }) h _
  · exact runInstr_memOk h _
  next more _ _ _ _ =>
    split
    · exact runActivity_memOk h
    · exact runInput_memOk (s := { s with inbox := more }) h _
  · exact runActivity_memOk h

theorem step_memOk : outOk (step s) := by
  unfold step
  split
  · exact stepOn_memOk h
  · exact stepOff_memOk h

end

/-! ### Reads determine a canonical memory (O9) -/

/-- Of a memory in canonical form, no byte below its addresses reads as anything but zero. -/
theorem le_of_cellRead_ne_zero {b a : Nat} : ∀ {m : List Host.Cell}, wfAbove b m → cellRead m a ≠ 0 → b ≤ a
  | [], _, h => absurd rfl h
  | (k, v) :: t, ⟨hk, _, ht⟩, h => by
    rcases eq_or_ne a k with rfl | ha
    · exact hk
    · rw [cellRead, Table.look, if_neg ha] at h
      have := le_of_cellRead_ne_zero ht h
      omega

theorem cellRead_cons_self (k : Nat) (v : Byte) (t : List Host.Cell) : cellRead ((k, v) :: t) k = v := by
  simp [cellRead, Table.look]

theorem cellRead_cons_of_ne {k a : Nat} (h : a ≠ k) (v : Byte) (t : List Host.Cell) : cellRead ((k, v) :: t) a = cellRead t a := by
  simp [cellRead, Table.look, h]

/-- The first addresses agree, as each is the lowest byte that does not read as zero; past it the rests read alike. -/
theorem eq_of_cellRead_eq {b c : Nat} {m n : List Host.Cell} (hm : wfAbove b m) (hn : wfAbove c n)
    (h : ∀ a, cellRead m a = cellRead n a) : m = n := by
  induction m generalizing b c n with
  | nil =>
    cases n with
    | nil => rfl
    | cons y n =>
      obtain ⟨-, hy, -⟩ := hn
      exact absurd ((h y.1).trans (cellRead_cons_self y.1 y.2 n)).symm hy
  | cons x m ih =>
    obtain ⟨k, v⟩ := x
    obtain ⟨-, hv, hm⟩ := hm
    cases n with
    | nil => exact absurd ((cellRead_cons_self k v m).symm.trans (h k)) hv
    | cons y n =>
      obtain ⟨j, w⟩ := y
      obtain ⟨-, hw, hn⟩ := hn
      have hjk : j ≤ k := le_of_cellRead_ne_zero (m := (j, w) :: n) ⟨le_rfl, hw, hn⟩ (by rwa [← h k, cellRead_cons_self])
      have hkj : k ≤ j := le_of_cellRead_ne_zero (m := (k, v) :: m) ⟨le_rfl, hv, hm⟩ (by rwa [h j, cellRead_cons_self])
      obtain rfl : k = j := Nat.le_antisymm hkj hjk
      obtain rfl : v = w := by simpa only [cellRead_cons_self] using h k
      rw [ih hm hn fun a => ?_]
      rcases le_or_gt a k with ha | ha
      · have zero : ∀ {t : List Host.Cell}, wfAbove (k + 1) t → cellRead t a = 0 := fun ht =>
          not_not.1 fun hne => absurd (le_of_cellRead_ne_zero ht hne) (by omega)
        rw [zero hm, zero hn]
      · simpa only [cellRead_cons_of_ne ha.ne'] using h a

end Sys2Proof.Machine

namespace Sys2Proof.Proofs
open Sys2Proof.Machine

/-- Settles O8: each instruction by its own lemma (`exec_memOk`), and each kind of step by the instruction that it runs. -/
theorem stepKeepsMemoryCanonical : Obligations.StepKeepsMemoryCanonical :=
  fun _ t h ht => step_memOk h t ht

/-- Settles O9. -/
theorem equalReadsEqualMemory : Obligations.EqualReadsEqualMemory :=
  fun m n hm hn h => eq_of_cellRead_eq ((wf_iff m).1 hm) ((wf_iff n).1 hn) h

/-- Settles O7: every memory is empty after reset. -/
theorem resetMemoryCanonical : Obligations.ResetMemoryCanonical := ⟨reset_mem_wf, rfl, rfl, rfl, rfl⟩

end Sys2Proof.Proofs
end

section
/-! Bytes stored through a die slice and read back by any die (spec 10 R296, R297), and O10. -/

namespace Sys2Proof.Machine

/-- Without a fenced stack or a bad burst, poisoned dwords aside. -/
theorem shows_of_unfenced {s : State} (hf : s.fenceStacks = []) (hb : s.badBursts = []) : s.shows False s.viewDword s.hostMem :=
  ⟨hf, hb, fun _ => rfl, rfl, False.elim⟩

theorem State.shows.viewByte {t : State} {sound : Prop} {view : Nat → Dword} {host : List Host.Cell} (h : t.shows sound view host)
    (a : Nat) : t.viewByte a = byteOf (view (a / 8)) (a % 8) :=
  congrArg (byteOf · _) (h.view _)

end Sys2Proof.Machine

namespace Sys2Proof.Proofs
open Sys2Proof.Machine

/-- Settles O10: of the view, a store changes its own bytes alone (`State.shows.devStore`), and a coherent read nothing
(`State.shows.devFetch`). -/
theorem deviceMemoryCoherent : Obligations.DeviceMemoryCoherent := by
  refine ⟨fun s die pa bs hf hb => ?_, fun s die pa n hf hb => ((shows_of_unfenced hf hb).devFetch die pa n).viewByte⟩
  obtain ⟨view, hstore, hbytes⟩ := (shows_of_unfenced hf hb).devStore die pa bs
  refine ⟨fun i hi => ?_, fun a ha => ?_⟩
  · rw [hstore.viewByte, hbytes, if_pos (by omega), Nat.add_sub_cancel_left]
  · rw [hstore.viewByte, hbytes, if_neg (by omega)]
    rfl

end Sys2Proof.Proofs
end

section
/-! Who holds a dword (spec 10 R295 to R300): what the slices list after a die gives words up, and after the requests that make room. -/

namespace Sys2Proof.Machine

/-! ### A die gives up words (R297) -/

/-- What the slices list of a dword once a die has given it up: nothing when no die holds it and memory has its data. -/
def L2Word.without (die : Nat) (w : L2Word) : Option L2Word :=
  match w.holders.look die with
  | none => some w
  | some st =>
    let dirty := if st == .m || st == .o then none else w.dirty
    if (w.holders.del die).isEmpty && dirty.isNone then none else some ⟨w.holders.del die, dirty, w.poison⟩

/-- Its holders are the others. -/
theorem without_holders (w : L2Word) (die d : Nat) :
    (w.without die).bind (fun w => w.holders.look d) = if d = die then none else w.holders.look d := by
  have hdel : (w.holders.del die).look d = if d = die then none else w.holders.look d := by
    split
    next h => rw [h, Table.look_del_same]
    next h => rw [Table.look_del_other _ _ _ h]
  unfold L2Word.without
  split
  next hn =>
    show w.holders.look d = _
    split
    next h => rw [h, hn]
    · rfl
  next st hst =>
    dsimp only
    generalize (if st == .m || st == .o then none else w.dirty) = dirty
    split
    next hgone =>
      obtain ⟨hempty, -⟩ := Bool.and_eq_true_iff.1 hgone
      rw [← hdel, List.isEmpty_iff.1 hempty]
      rfl
    · exact hdel

/-- An M or O copy is gone with its die. -/
theorem without_dirty {w : L2Word} {die : Nat} (h : w.holders.look die = some .m ∨ w.holders.look die = some .o) :
    (w.without die).bind L2Word.dirty = none := by
  obtain ⟨st, hst, hback⟩ : ∃ st, w.holders.look die = some st ∧ (st == .m || st == .o) = true :=
    h.elim (fun h => ⟨.m, h, rfl⟩) (fun h => ⟨.o, h, rfl⟩)
  unfold L2Word.without
  simp only [hst, hback, if_true]
  split <;> rfl

theorem without_of_given_up {w v : L2Word} {die : Nat} (h : w.without die = some v) : v.without die = some v := by
  have hnone : v.holders.look die = none := by simpa [h] using without_holders w die die
  rw [L2Word.without, hnone]

/-- A fold that changes what the slices list of each of its dwords, in a way that a second time changes nothing more. -/
theorem look_foldl_words {f : State → Nat → State} {g : L2Word → Option L2Word}
    (hf : ∀ u n k, (f u n).l2.look k = if k = n then (u.l2.look k).bind g else u.l2.look k)
    (hg : ∀ w v, g w = some v → g v = some v) (ns : List Nat) (s : State) (k : Nat) :
    (ns.foldl f s).l2.look k = if k ∈ ns then (s.l2.look k).bind g else s.l2.look k := by
  have hagain : ∀ o : Option L2Word, (o.bind g).bind g = o.bind g := by
    rintro (_ | w)
    · rfl
    · cases hw : g w with
      | none => simp [hw]
      | some v => simp [hw, hg w v hw]
  induction ns generalizing s with
  | nil => rfl
  | cons n ns ih =>
    rw [List.foldl_cons, ih, hf]
    by_cases hn : k = n <;> by_cases hk : k ∈ ns <;> simp [hn, hk, hagain]

theorem foldl_l2 {α : Type} {f : State → α → State} (hf : ∀ u a, (f u a).l2 = u.l2) (l : List α) (s : State) :
    (l.foldl f s).l2 = s.l2 :=
  List.foldlRecOn l f (motive := fun u => u.l2 = s.l2) rfl fun u hu a _ => (hf u a).trans hu

theorem burstSense_l2 (s : State) (b : Nat) : (s.burstSense b).l2 = s.l2 := by
  unfold State.burstSense
  split <;> rfl

theorem dramPrepare_l2 (s : State) (ns : List Nat) : (s.dramPrepare ns).l2 = s.l2 := by
  refine foldl_l2 (fun u n => ?_) ns s
  dsimp only
  split
  · rfl
  · exact burstSense_l2 u _

theorem dramPut_l2 (s : State) (n : Nat) (d : Dword) (p : Bool) : (s.dramPut n d p).l2 = s.l2 := by
  unfold State.dramPut
  split <;> rfl

theorem dropWords_look (s : State) (die : Nat) (ns : List Nat) (k : Nat) : (s.dropWords die ns).l2.look k =
    if k ∈ ns then (s.l2.look k).bind (L2Word.without die) else s.l2.look k := by
  unfold State.dropWords
  dsimp only
  rw [look_foldl_words (g := L2Word.without die) (fun u n k => ?step) (fun _ _ => without_of_given_up), dramPrepare_l2]
  case step =>
    have hl2 : ∀ p d, (if p = true then (u.dropL1 die n).dramPut n ((u.dropL1 die n).viewDword n) d else u.dropL1 die n).l2 = u.l2 :=
      fun p d => by
        split
        · exact dramPut_l2 _ _ _ _
        · rfl
    have hsame : u.l2.look n = (u.l2.look n).bind (L2Word.without die) →
        u.l2.look k = if k = n then (u.l2.look k).bind (L2Word.without die) else u.l2.look k := by
      intro h
      split
      next hk => rwa [hk]
      · rfl
    cases hw : u.l2.look n with
    | none => exact hsame (by rw [hw]; rfl)
    | some w =>
      cases hst : w.holders.look die with
      | none =>
        simp only [hst]
        exact hsame (by rw [hw, Option.bind_some, L2Word.without, hst])
      | some st =>
        have hwithout : w.without die =
            if (w.holders.del die).isEmpty && (if st == .m || st == .o then none else w.dirty).isNone then none
              else some ⟨w.holders.del die, if st == .m || st == .o then none else w.dirty, w.poison⟩ := by
          rw [L2Word.without, hst]
        simp only [hst]
        generalize (if st == .m || st == .o then none else w.dirty) = dirty at hwithout ⊢
        rcases eq_or_ne k n with rfl | hk
        · rw [if_pos rfl, hw, Option.bind_some, hwithout]
          split
          · exact Table.look_del_same _ _
          · exact Table.look_put_same _ _ _
        · rw [if_neg hk, ← hl2 (st == .m || st == .o) w.poison]
          split
          · exact Table.look_del_other _ _ _ hk
          · exact Table.look_put_other _ _ _ _ hk

theorem dirRelease_l2 (s : State) (line : Nat) : (s.dirRelease line).l2 = s.l2 := by
  unfold State.dirRelease
  split <;> rfl

theorem evict_look (s : State) (die line : Nat) (ns : List Nat) (k : Nat) : (s.evict die line ns).l2.look k =
    if k ∈ ns then (s.l2.look k).bind (L2Word.without die) else s.l2.look k := by
  rw [← dropWords_look]
  unfold State.evict
  dsimp only
  rw [dirRelease_l2]
  split <;> rfl

/-- After an eviction the die holds none of the words, and every other holding stands. -/
theorem evict_moesi (s : State) (die line : Nat) (ns : List Nat) (d k : Nat) : (s.evict die line ns).moesi d k =
    if d = die ∧ k ∈ ns then none else s.moesi d k := by
  unfold State.moesi
  rw [evict_look]
  by_cases hk : k ∈ ns
  · rw [if_pos hk]
    cases s.l2.look k with
    | none => simp
    | some w => simpa [hk] using without_holders w die d
  · simp [hk]

theorem evict_moesi_none {s : State} {d k : Nat} (h : s.moesi d k = none) (die line : Nat) (ns : List Nat) :
    (s.evict die line ns).moesi d k = none := by
  rw [evict_moesi, h, ite_self]

/-- Memory has the data of a word whose M or O copy a die has given up. -/
theorem cellDword_evict {t : State} {sound : Prop} {view : Nat → Dword} {host : List Host.Cell} (h : t.shows sound view host)
    {die line n : Nat} {ns : List Nat} (hn : n ∈ ns) (hd : t.moesi die n = some .m ∨ t.moesi die n = some .o) :
    cellDword (t.evict die line ns).mem n = view n := by
  have hclean : ((t.evict die line ns).l2.look n).bind L2Word.dirty = none := by
    rw [evict_look, if_pos hn]
    unfold State.moesi at hd
    cases hw : t.l2.look n with
    | none => rfl
    | some w => exact without_dirty (by simpa [hw] using hd)
  rw [← (h.evict die line ns).view n, viewDword_eq, hclean]
  rfl

/-! ### Room for a line (R295, R299) -/

theorem recall_moesi_none {s : State} {d k : Nat} (h : s.moesi d k = none) (line : Nat) : (s.recall line).moesi d k = none := by
  have hall : (dies.foldl (fun u d => u.evict d line (lineWords line 0xFFFF)) s).moesi d k = none :=
    List.foldlRecOn (motive := fun u => State.moesi u d k = none) dies _ h fun u hu e _ => evict_moesi_none hu e line _
  unfold State.recall
  dsimp only
  generalize dies.foldl _ s = u at hall ⊢
  exact hall

/-- The directory's room for a line gives no die a word. -/
theorem dirEnsure_moesi_none {s : State} {d k : Nat} (h : s.moesi d k = none) (line : Nat) : (s.dirEnsure line).moesi d k = none := by
  unfold State.dirEnsure
  dsimp only
  split
  · exact h
  · split
    · exact h
    · split
      · exact h
      · split
        · exact h
        next dir v _ => exact recall_moesi_none (s := { s with directory := dir }) h v

theorem hostGive_l2 (s : State) (half : Nat) : (s.hostGive half).l2 = s.l2 := by
  unfold State.hostGive
  split
  · rfl
  · refine foldl_l2 (fun u i => ?_) _ _
    rfl

theorem remoteSend_l2 (s : State) (die dev n : Nat) : (s.remoteSend die dev n).l2 = s.l2 := by
  unfold State.remoteSend
  split
  · rfl
  · split
    · rfl
    · dsimp only
      split <;> rfl

theorem evictAny_moesi {s : State} {line k : Nat} (hk : k / 16 ≠ line) (die d : Nat) : (s.evictAny die line).moesi d k = s.moesi d k := by
  have hl2 : ∀ u : State, u.l2 = s.l2 → u.moesi d k = s.moesi d k := fun u hu => by rw [State.moesi, hu]; rfl
  unfold State.evictAny
  dsimp only
  split
  · have hout : k ∉ lineWords line 0xFFFF := fun hin => hk (by
      obtain ⟨i, hi, rfl⟩ := List.mem_map.1 hin
      have := List.mem_range.1 (List.mem_filter.1 hi).1
      omega)
    rw [evict_moesi, if_neg fun h => hout h.2]
  · split
    · refine hl2 _ (foldl_l2 (fun u h => ?_) _ _)
      split
      · exact hostGive_l2 u h
      · rfl
    · exact hl2 _ (foldl_l2 (fun u i => remoteSend_l2 u _ _ _) _ _)

/-- A line that is a slice's most recently used makes room for itself in no word of its own. -/
theorem touchLine_moesi (s : State) (die line d : Nat) {k : Nat} (hk : k / 16 = line) : (s.touchLine die line).moesi d k = s.moesi d k := by
  unfold State.touchLine
  dsimp only
  split
  · split
    next e he =>
      have hin := List.mem_filter.1 (List.mem_of_getLast? he)
      obtain ⟨hother, hsame⟩ := hin
      have hdie : e.1 = die := by simpa using (Bool.and_eq_true_iff.1 (Bool.and_eq_true_iff.1 hsame).1).1
      have hne : e ≠ (die, line) := by simpa using (List.mem_filter.1 hother).2
      refine evictAny_moesi (fun hline => hne ?_) die d
      rw [← hk, hline, ← hdie]
    · rfl
  · rfl

theorem dieHolds_eq (s : State) (die n : Nat) : s.dieHolds die n = (s.moesi die n).isSome := by
  unfold State.dieHolds State.moesi
  cases s.l2.look n <;> rfl

/-! ### The requests of a die (R297) -/

theorem getS_dieHolds {t : State} {sound : Prop} {view : Nat → Dword} {host : List Host.Cell} (h : t.shows sound view host) (die n : Nat) :
    (t.getS die n).dieHolds die n = true := by
  unfold State.getS
  split
  next hn => rwa [dieHolds_eq, touchLine_moesi _ _ _ _ rfl, ← dieHolds_eq]
  · simp only [h.fenced, Bool.false_and, Bool.false_eq_true, if_false]
    split <;> simp [State.dieHolds, Table.look_put_same, Table.look]

/-- After GetM the die holds the word in M. -/
theorem getM_moesi (s : State) (die n : Nat) (whole : Bool) (d : Nat) :
    (s.getM die n whole).moesi d n = if d = die then some .m else none := by
  unfold State.getM State.moesi
  dsimp only
  rw [Table.look_put_same]
  simp [Table.look]

/-! ### What the CACHE tiles lose (R296) -/

/-- From one state to the other no word has come into the CACHE tiles. -/
def State.l1Falls (s t : State) : Prop := ∀ k, (t.core k).l1 ⊆ (s.core k).l1

theorem State.l1Falls_refl (s : State) : s.l1Falls s := fun _ _ h => h

/-- A change of a die's cores reaches a core or does not. -/
theorem onDie_core (s : State) (die : Nat) (g : Core → Core) (k : Nat) :
    (s.onDie die g).core k = s.core k ∨ (s.onDie die g).core k = g (s.core k) := by
  have hmap : (fun kc : Nat × Core => if dieOf kc.1 = die then (kc.1, g kc.2) else kc) =
      fun kc => (kc.1, if dieOf kc.1 = die then g kc.2 else kc.2) := by
    funext kc
    split <;> rfl
  rw [State.core, State.core, State.onDie, hmap, Table.look_map s.cores (fun k c => if dieOf k = die then g c else c)]
  cases s.cores.look k with
  | none => exact .inl rfl
  | some c =>
    by_cases hk : dieOf k = die
    · exact .inr (by simp [hk])
    · exact .inl (by simp [hk])

section
variable {s t : State} (h : s.l1Falls t)
include h

theorem foldl_l1Falls {α : Type} {f : State → α → State} {l : List α} (hf : ∀ u a, s.l1Falls u → s.l1Falls (f u a)) :
    s.l1Falls (l.foldl f t) :=
  List.foldlRecOn l f h fun u hu a _ => hf u a hu

/-- A change of anything but the cores. -/
theorem State.l1Falls.of_eq {u : State} (hu : u.cores = t.cores) : s.l1Falls u := fun k => by
  rw [show u.core k = t.core k by rw [State.core, State.core, hu]]
  exact h k

/-- Words leave the CACHE tiles of a die. -/
theorem State.l1Falls.onDie (die : Nat) {g : Core → Core} (hg : ∀ c, (g c).l1 ⊆ c.l1) : s.l1Falls (t.onDie die g) := fun k => by
  rcases onDie_core t die g k with hk | hk <;> rw [hk]
  · exact h k
  · exact fun _ hx => h k (hg _ hx)

theorem State.l1Falls.dropL1 (die key : Nat) : s.l1Falls (t.dropL1 die key) := h.onDie die fun _ => List.filter_subset_self _

theorem State.l1Falls.burstSense (b : Nat) : s.l1Falls (t.burstSense b) := by
  unfold State.burstSense
  split <;> exact h.of_eq (by rfl)

theorem State.l1Falls.dramSense (n : Nat) : s.l1Falls (t.dramSense n) := foldl_l1Falls h fun _ b hu => hu.burstSense b

theorem State.l1Falls.dramPrepare (ns : List Nat) : s.l1Falls (t.dramPrepare ns) := by
  refine foldl_l1Falls h fun u n hu => ?_
  dsimp only
  split
  · exact hu.of_eq (by rfl)
  · exact hu.burstSense _

theorem State.l1Falls.dramPut (n : Nat) (d : Dword) (p : Bool) : s.l1Falls (t.dramPut n d p) := by
  unfold State.dramPut
  split <;> exact h.of_eq (by rfl)

theorem State.l1Falls.dropWords (die : Nat) (ns : List Nat) : s.l1Falls (t.dropWords die ns) := by
  refine foldl_l1Falls (h.dramPrepare _) fun u n hu => ?_
  have hdrop := hu.dropL1 die n
  split
  · exact hu
  · split
    · exact hu
    · dsimp only
      split
      · split <;> exact (hdrop.dramPut _ _ _).of_eq (by rfl)
      · split <;> exact hdrop.of_eq (by rfl)

theorem State.l1Falls.dirRelease (line : Nat) : s.l1Falls (t.dirRelease line) := by
  unfold State.dirRelease
  split <;> exact h.of_eq (by rfl)

theorem State.l1Falls.evict (die line : Nat) (ns : List Nat) : s.l1Falls (t.evict die line ns) := by
  have hdrop := h.dropWords die ns
  unfold State.evict
  dsimp only
  split
  · exact hdrop.dirRelease line
  · exact State.l1Falls.dirRelease (hdrop.of_eq (by rfl)) line

theorem State.l1Falls.recall (line : Nat) : s.l1Falls (t.recall line) := by
  have hall : s.l1Falls (Machine.dies.foldl (fun u d => u.evict d line (lineWords line 0xFFFF)) t) :=
    foldl_l1Falls h fun _ d hu => hu.evict d line _
  unfold State.recall
  dsimp only
  generalize Machine.dies.foldl _ t = u at hall ⊢
  exact hall.of_eq (by rfl)

theorem State.l1Falls.dirEnsure (line : Nat) : s.l1Falls (t.dirEnsure line) := by
  unfold State.dirEnsure
  dsimp only
  split
  · exact h
  · split
    · exact h.of_eq (by rfl)
    · split
      · exact h.of_eq (by rfl)
      · split
        · exact h.of_eq (by rfl)
        · exact State.l1Falls.recall (h.of_eq (by rfl)) _

theorem State.l1Falls.hostGive (half : Nat) : s.l1Falls (t.hostGive half) := by
  unfold State.hostGive
  split
  · exact h
  · exact foldl_l1Falls (h.of_eq (by rfl)) fun _ _ hu => hu.dropL1 _ _

theorem State.l1Falls.remoteSend (die dev n : Nat) : s.l1Falls (t.remoteSend die dev n) := by
  unfold State.remoteSend
  split
  · exact h
  · split
    · exact h
    · dsimp only
      split <;> exact State.l1Falls.dropL1 (h.of_eq (by rfl)) _ _

theorem State.l1Falls.evictAny (die line : Nat) : s.l1Falls (t.evictAny die line) := by
  unfold State.evictAny
  dsimp only
  split
  · exact h.evict _ _ _
  · split
    · refine foldl_l1Falls (h.of_eq (by rfl)) fun u x hu => ?_
      split
      · exact hu.hostGive x
      · exact hu
    · exact foldl_l1Falls (h.of_eq (by rfl)) fun _ _ hu => hu.remoteSend _ _ _

theorem State.l1Falls.touchLine (die line : Nat) : s.l1Falls (t.touchLine die line) := by
  unfold State.touchLine
  dsimp only
  split
  · split
    · exact State.l1Falls.evictAny (h.of_eq (by rfl)) _ _
    · exact h.of_eq (by rfl)
  · exact h.of_eq (by rfl)

theorem State.l1Falls.request (die n : Nat) : s.l1Falls (t.request die n) :=
  (State.l1Falls.dirEnsure (t := t.hostYield n) (h.of_eq (by rfl)) _).touchLine _ _

theorem State.l1Falls.fenceSense (n : Nat) : s.l1Falls (t.fenceSense n) := by
  unfold State.fenceSense
  dsimp only
  split <;> exact h.of_eq (by rfl)

theorem State.l1Falls.getS (die n : Nat) : s.l1Falls (t.getS die n) := by
  have hreq := h.request die n
  have hsense := hreq.dramSense n
  unfold State.getS
  split
  · exact h.touchLine _ _
  · split
    · exact h.fenceSense n
    · dsimp only
      split
      · generalize (t.request die n).dramSense n = u at hsense ⊢
        exact hsense.of_eq (by rfl)
      · exact hreq.of_eq (by rfl)

end

end Sys2Proof.Machine
end

section
/-! Steps of the memory hierarchy (spec 10 R294 to R304; 13 R376), and O54. -/

namespace Sys2Proof.Machine
open Sys2Proof.Claims

/-! ### Steps that change no byte -/

theorem undisturbed_of_quiet {s : State} (hq : quietMemory s) : undisturbed s s := ⟨shows_of_quiet hq, s.stands_refl⟩

section
variable {s t : State} (h : undisturbed s t)
include h

theorem unchanged_of_undisturbed : unchanged s t := by
  obtain ⟨hshows, hstands⟩ := h
  exact unchanged_of_shows hshows hstands.thread

theorem undisturbed_settle : undisturbed s t.settle := by
  obtain ⟨hshows, hstands⟩ := h
  exact ⟨(hshows.settle trivial).symm ▸ hshows, hstands.settle⟩

theorem undisturbed_accessAs (kind : AccessKind) (launch : Nat) : undisturbed s (t.accessAs kind launch) := by
  obtain ⟨hshows, hstands⟩ := h
  exact ⟨hshows.accessAs _ _, hstands.accessAs _ _⟩

theorem undisturbed_evict (die line : Nat) (ns : List Nat) : undisturbed s (t.evict die line ns) := by
  obtain ⟨hshows, hstands⟩ := h
  exact ⟨hshows.evict _ _ _, hstands.evict _ _ _⟩

theorem undisturbed_foldl {α : Type} {f : State → α → State} {l : List α} (hf : ∀ u, undisturbed s u → ∀ a, undisturbed s (f u a)) :
    undisturbed s (l.foldl f t) :=
  List.foldlRecOn l f h fun u hu a _ => hf u hu a

/-- A die asks for words to read them. -/
theorem undisturbed_gets (die line mask : Nat) : undisturbed s
    ((lineWords line mask).foldl (fun u n => u.getS die n) (t.accessAs .read 0)).settle := by
  refine undisturbed_settle (undisturbed_foldl (undisturbed_accessAs h _ _) fun u hu n => ?_)
  obtain ⟨hshows, hstands⟩ := hu
  exact ⟨hshows.getS _ _, hstands.getS _ _⟩

/-- A die asks for words to write them. -/
theorem undisturbed_getm (die line mask : Nat) : undisturbed s ((lineWords line mask).foldl
    (fun u n => if u.fenced n && (u.l2.look n).isNone then u.fenceSense n else u.getM die n false) (t.accessAs .write 0)).settle := by
  refine undisturbed_settle (undisturbed_foldl (undisturbed_accessAs h _ _) fun u hu n => ?_)
  obtain ⟨hshows, hstands⟩ := hu
  rw [hshows.fenced, Bool.false_and, if_neg Bool.false_ne_true]
  exact ⟨hshows.getM _ _ _, hstands.getM _ _ _⟩

/-- A die gives words up. -/
theorem undisturbed_giveUp (die line : Nat) (ns : List Nat) : undisturbed s ((t.accessAs .none 0).evict die line ns).settle :=
  undisturbed_settle (undisturbed_evict (undisturbed_accessAs h _ _) die line ns)

/-- The dies give a half up to the host (R300). -/
theorem undisturbed_hostHalf (line : Nat) (ns halves : List Nat) :
    undisturbed s ({ (dies.foldl (fun u d => u.evict d line ns) t).dirEnsure line with hostHalves := halves } : State).settle := by
  obtain ⟨hshows, hstands⟩ : undisturbed s (dies.foldl (fun u d => u.evict d line ns) t) :=
    undisturbed_foldl h fun u hu d => undisturbed_evict hu d line ns
  exact undisturbed_settle ⟨(hshows.dirEnsure line).of_eq (by rfl), (hstands.dirEnsure line).of_eq (by rfl)⟩

theorem undisturbed_snoop (line half : Nat) :
    undisturbed s (({ t with hostHalves := removeNat t.hostHalves half } : State).dirRelease line) := by
  obtain ⟨hshows, hstands⟩ := h
  exact ⟨State.shows.dirRelease (hshows.of_eq (by rfl)) line, State.stands.dirRelease (hstands.of_eq (by rfl)) line⟩

theorem undisturbed_scrub (n : Nat) : undisturbed s ((t.accessAs .scrub 0).dramSense n).settle := by
  have hacc := undisturbed_accessAs h .scrub 0
  have ⟨hshows, _⟩ := hacc
  rw [hshows.dramSense]
  exact undisturbed_settle hacc

theorem undisturbed_walk (core ctx va : Nat) (rd wr : Bool) : undisturbed s (t.translate core ctx va rd wr).1.settle := by
  obtain ⟨hshows, hstands⟩ := h
  exact undisturbed_settle ⟨hshows.translate trivial _ _ _ _ _, hstands.translate _ _ _ _ _⟩

/-- A fill of a dword for which no load waits. -/
theorem undisturbed_fillMiss {core key : Nat} (hm : ∀ m ∈ (t.core core).misses, m.key ≠ key) : undisturbed s (t.fillMiss core key) := by
  obtain ⟨hslice, hstands⟩ : undisturbed s ((t.accessAs .read 0).sliceWord (dieOf core) key).1.settle := by
    obtain ⟨hshows, hstands⟩ := undisturbed_accessAs h .read 0
    exact undisturbed_settle ⟨hshows.sliceWord _ _, hstands.sliceWord _ _⟩
  have hnone : (t.core core).misses.filter (fun m => m.key == key) = [] := by simpa using hm
  have hmisses : (((t.accessAs .read 0).sliceWord (dieOf core) key).1.settle.core core).misses = (t.core core).misses := by
    have hs := (((t.stands_refl.accessAs .read 0).sliceWord (dieOf core) key).settle).core core
    rw [hs]
  have hkept : (t.core core).misses.filter (fun m => m.key != key) = (t.core core).misses := by simpa using hm
  simp only [State.fillMiss, hnone, List.head?_nil, Option.bind_none, Option.elim_none, List.foldl_nil, List.isEmpty_nil, Bool.not_true,
    Bool.false_and, Bool.false_eq_true, if_false]
  refine ⟨hslice.onCore _ _, ?_⟩
  rw [State.onCore, hmisses, hkept, ← hmisses]
  exact hstands.onCore core fun c => c.stands_l1Fill _ _ _

theorem undisturbed_cacheFill {core line mask : Nat} (hm : ∀ m ∈ (s.core core).misses, m.key ∉ lineWords line mask) :
    undisturbed s ((lineWords line mask).foldl (fun u n => u.fillMiss core n) t).settle := by
  refine undisturbed_settle (List.foldlRecOn _ _ h fun u hu n hn => undisturbed_fillMiss hu fun m hmem hkey => ?_)
  obtain ⟨-, hstands⟩ := hu
  rw [hstands.core core] at hmem
  exact hm m hmem (hkey ▸ hn)

end

/-! ### What a step leaves -/

theorem permitted_page {x e : TlbEntry} {rd wr : Bool} (h : permitted x rd wr = .page e) : x = e := by
  unfold permitted at h
  split at h
  · cases h
  · exact Xlation.page.inj h

theorem fillMicro_utlb (s : State) (core : Nat) (e : TlbEntry) : ((s.fillMicro core e).core core).utlb.head? = some e := by
  rw [State.fillMicro, State.onCore_core_same]
  rfl

/-- Whichever level answers, the page that a core's translation delivers is its micro-TLB's most recent one (R376). -/
theorem translate_utlb {s : State} {core ctx va : Nat} {rd wr : Bool} {e : TlbEntry} (h : (s.translate core ctx va rd wr).2 = .page e) :
    ((s.translate core ctx va rd wr).1.core core).utlb.head? = some e := by
  revert h
  unfold State.translate
  dsimp only
  split
  next x l hx =>
    intro h
    obtain ⟨y, -, hy⟩ := Option.map_eq_some_iff.1 hx
    obtain ⟨rfl, rfl⟩ := Prod.mk.inj hy
    rw [State.onCore_core_same, ← permitted_page h]
    rfl
  · split
    · exact fun h => permitted_page h ▸ fillMicro_utlb _ _ _
    · split
      · exact fun h => permitted_page h ▸ fillMicro_utlb _ _ _
      · split
        · split
          · exact fun h => Xlation.page.inj h ▸ fillMicro_utlb _ _ _
          next hno => exact fun h => absurd h (hno e)
        · intro h
          unfold State.atsState at h
          dsimp only at h
          split at h <;> cases h
        next hno _ _ => exact fun h => (hno _ h).elim

section
variable {s : State} (hq : quietMemory s)
include hq

theorem l2Store_of_quiet (core a width : Nat) (v : BitVec 64) :
    ∃ t : State, exec (.l2Store core a width v) s = .next t ∧ wrote s t a width v.toNat := by
  obtain ⟨view, hstore, hbytes⟩ := ((shows_of_quiet hq).accessAs .write 0).devStore (dieOf core) a (bytesLE width v.toNat)
  refine ⟨_, congrArg Host.Outcome.next (hstore.settle trivial), wrote_of_shows hstore hbytes fun k j => ?_⟩
  exact ((s.stands_refl.accessAs .write 0).devStore (dieOf core) a _).thread k j

theorem gets_of_quiet (die n : Nat) :
    exec (.gets die (n / 16) (2 ^ (n % 16))) s = .next ((s.accessAs .read 0).getS die n) := by
  show execGets _ _ _ s = _
  rw [execGets, lineWords_single]
  exact congrArg Host.Outcome.next ((((shows_of_quiet hq).accessAs .read 0).getS die n).settle trivial)

theorem getm_of_quiet (die n : Nat) :
    exec (.getm die (n / 16) (2 ^ (n % 16))) s = .next ((s.accessAs .write 0).getM die n false) := by
  have hacc := (shows_of_quiet hq).accessAs .write 0
  show execGetm _ _ _ s = _
  rw [execGetm, lineWords_single, List.foldl_cons, List.foldl_nil, hacc.fenced, Bool.false_and, if_neg Bool.false_ne_true,
    (hacc.getM die n false).settle trivial]

/-- An eviction that finds nothing wrong leaves its words I, and memory the data of its M and O words. -/
theorem giveUp_of_quiet (die line : Nat) (ns : List Nat) :
    let t := ((s.accessAs .none 0).evict die line ns).settle
    ∀ n ∈ ns, t.moesi die n = none ∧ (s.moesi die n = some .m ∨ s.moesi die n = some .o → cellDword t.mem n = s.viewDword n) := by
  have hacc := (shows_of_quiet hq).accessAs .none 0
  dsimp only
  rw [(hacc.evict die line ns).settle trivial]
  exact fun n hn => ⟨by rw [evict_moesi, if_pos ⟨rfl, hn⟩], cellDword_evict hacc hn⟩

theorem tableWalk_of_quiet {core ctx va : Nat} {kind : AccessKind} {e : TlbEntry}
    (he : (s.translate core ctx va (kindAccess kind).1 (kindAccess kind).2).2 = .page e) :
    ∃ t : State, exec (.tableWalk core ctx va kind) s = .next t ∧ (t.core core).utlb.head? = some e :=
  ⟨_, congrArg Host.Outcome.next (((shows_of_quiet hq).translate trivial core ctx va _ _).settle trivial), translate_utlb he⟩

end

theorem mem_wordsIn {s : State} {die line mask n : Nat} {states : List Moesi} {x : Moesi} (hn : n ∈ lineWords line mask)
    (hx : s.moesi die n = some x) (hin : states.contains x = true) : n ∈ s.wordsIn die line mask states :=
  List.mem_filter.2 ⟨hn, by rw [hx]; exact hin⟩

/-! ### The host's halves (R300) -/

/-- The words of a half of a line. -/
theorem mem_lineWords_half {line half n : Nat} (hh : half < 2) (hn : n / 8 = 2 * line + half) : n ∈ lineWords line (0xFF * 256 ^ half) := by
  have hbit : ∀ h < 2, ∀ j < 8, (0xFF * 256 ^ h).testBit (8 * h + j) = true := by decide
  refine List.mem_map.2 ⟨8 * half + n % 8, List.mem_filter.2 ⟨List.mem_range.2 (by omega), hbit half hh _ (by omega)⟩, by omega⟩

theorem hostHalf_dieHolds (s : State) {line half d n : Nat} (hd : d < 8) (hh : half < 2) (hn : n / 8 = 2 * line + half) :
    ((dies.foldl (fun u d => u.evict d line (lineWords line (0xFF * 256 ^ half))) s).dirEnsure line).dieHolds d n = false := by
  have hin := mem_lineWords_half hh hn
  have hall : ∀ (l : List Nat) (u : State), d ∈ l ∨ u.moesi d n = none →
      (l.foldl (fun u d => u.evict d line (lineWords line (0xFF * 256 ^ half))) u).moesi d n = none := by
    intro l
    induction l with
    | nil => exact fun u hu => hu.resolve_left (List.not_mem_nil)
    | cons e l ih =>
      refine fun u hu => ih _ ?_
      rw [evict_moesi]
      rcases hu with hmem | hnone
      · rcases List.mem_cons.1 hmem with rfl | hmem
        · exact .inr (if_pos ⟨rfl, hin⟩)
        · exact .inl hmem
      · exact .inr (by rw [hnone, ite_self])
  rw [dieHolds_eq, dirEnsure_moesi_none (hall dies s (.inl (by unfold dies; interval_cases d <;> decide))) line]
  rfl

/-! ### A fill that loads wait for (R294) -/

/-- The CACHE tiles of a core hold a dword. -/
def State.caches (s : State) (k n : Nat) (d : Dword) : Prop := ∃ x ∈ (s.core k).l1, x.key = n ∧ x.data = d

theorem l1_onCore {s : State} {k : Nat} {g : Core → Core} (hg : ∀ c, (g c).l1 = c.l1) (j : Nat) :
    ((s.onCore k g).core j).l1 = (s.core j).l1 := by
  rcases eq_or_ne j k with rfl | hj
  · rw [State.onCore_core_same, hg]
  · rw [State.onCore_core_other _ _ _ _ hj]

theorem l1_send_data (s : State) (f : Firing) (n : Nat) (d : Dst) (scale : Bool) (x : Dword) (tag : Tag) (j : Nat) :
    ((s.send f n d scale (.data x) tag).core j).l1 = (s.core j).l1 := by
  unfold State.send
  split
  · rfl
  · split
    · rfl
    · refine l1_onCore (fun _ => ?_) j
      rfl
    · split
      · rfl
      · exact l1_onCore (fun c => Core.onThread_l1 c _ _) j
    · refine l1_onCore (fun _ => ?_) j
      rfl
    · refine l1_onCore (fun _ => ?_) j
      rfl

theorem remoteWriteBack_cores (s : State) (die : Nat) : (s.remoteWriteBack die).cores = s.cores := by
  refine List.foldlRecOn (motive := fun u => State.cores u = s.cores) _ _ rfl fun u hu kw _ => ?_
  dsimp only
  split
  · exact hu
  · exact hu

/-- An acquire leaves the words of device memory in the CACHE tiles (R301). -/
theorem caches_acquireActs {s : State} {k n : Nat} {d : Dword} (h : s.caches k n d) (hn : n < 4096 * 2 ^ 49) (f : Firing) (o : Ordering3)
    (c : Scope) : (s.acquireActs f o c).caches k n d := by
  obtain ⟨x, hx, rfl, hd⟩ := h
  unfold State.acquireActs
  split
  · refine ⟨x, ?_, rfl, hd⟩
    unfold State.remoteInvalidate
    dsimp only
    generalize hu : ({ s.remoteWriteBack _ with remoteL2 := _, l2Lines := _ } : State) = u
    have hcore : u.core k = s.core k := by
      rw [← hu, State.core, State.core, ← remoteWriteBack_cores s (dieOf f.core)]
    rcases onDie_core u (dieOf f.core) _ k with hk | hk
    · rw [hk, hcore]
      exact hx
    · rw [hk, hcore]
      exact List.mem_filter.2 ⟨hx, Bool.or_eq_true_iff.2 (.inl (decide_eq_true hn))⟩
  · exact ⟨x, hx, rfl, hd⟩

theorem caches_deliver {s : State} {k n : Nat} {d : Dword} (h : s.caches k n d) (hn : n < 4096 * 2 ^ 49) (f : Firing) (w : SlotWord)
    (v : Nat) : (s.deliver f w v false).caches k n d := by
  obtain ⟨x, hx, hd⟩ := caches_acquireActs h hn f w.ordering w.scope
  refine ⟨x, ?_, hd⟩
  unfold State.deliver State.emit2
  exact (l1_send_data _ f 1 w.d1 false 0 f.tag k).symm ▸ (l1_send_data _ f 0 w.d0 false _ f.tag k).symm ▸ hx

theorem State.shows.deliver {t : State} {view : Nat → Dword} {host : List Host.Cell} (h : t.shows True view host) (f : Firing) (w : SlotWord)
    (v : Nat) : (t.deliver f w v false).shows True view host :=
  ((h.acquireActs f w.ordering w.scope).send_data f 0 w.d0 false _ f.tag).send_data f 1 w.d1 false _ f.tag

theorem l1Fill_mem {c : Core} {key : Nat} (ht : c.load.tilesOf .cache ≠ []) (hc : ∀ x ∈ c.l1, x.key ≠ key) (d : Dword) (p : Bool) :
    ⟨key, d, p⟩ ∈ (c.l1Fill key d p).l1 := by
  have hnot : ¬ ((c.load.tilesOf .cache).length = 0 ∨ c.l1.any (fun w => w.key == key) = true) := by
    simpa [ht] using hc
  rw [Core.l1Fill]
  dsimp only
  rw [if_neg hnot]
  exact List.mem_append_right _ (List.mem_singleton_self _)

/-- A fill puts the dword into tiles that do not hold it yet, for loads whose tiles have not been swapped out meanwhile. -/
theorem fillMiss_caches {t : State} {view : Nat → Dword} {host : List Host.Cell} (h : t.shows True view host) {k n : Nat}
    (ht : (t.core k).load.tilesOf .cache ≠ []) (hc : ∀ x ∈ (t.core k).l1, x.key ≠ n) (hn : n < 4096 * 2 ^ 49)
    (hm : ∀ m ∈ (t.core k).misses, m.key = n → m.stale = false) :
    (t.fillMiss k n).shows True view host ∧ (t.fillMiss k n).caches k n (view n) := by
  have hlive : ∀ l : List L1Miss, l = (t.core k).misses.filter (fun m => m.key == n) →
      (!l.isEmpty && l.all (fun m => m.stale)) = false := by
    rintro (_ | ⟨m, l⟩) hl
    · rfl
    · obtain ⟨hmem, hkey⟩ := List.mem_filter.1 (hl ▸ List.mem_cons_self : m ∈ (t.core k).misses.filter (fun m => m.key == n))
      simp [hm m hmem (by simpa using hkey)]
  unfold State.fillMiss
  dsimp only
  generalize hmine : (t.core k).misses.filter (fun m => m.key == n) = mine
  generalize ((mine.head?).bind (fun m => m.f.who)).elim 0 (fun x => x.1) = launch
  have hget := (h.accessAs .read launch).getS (dieOf k) n
  have hstands := ((t.stands_refl.accessAs .read launch).getS (dieOf k) n).core k
  have hfalls := (State.l1Falls.of_eq (u := t.accessAs .read launch) t.l1Falls_refl rfl).getS (dieOf k) n k
  simp only [sliceWord_dev hn, hget.settle trivial, hget.view, hget.viewPoison trivial, hlive mine hmine.symm, Bool.false_eq_true, if_false]
  generalize (t.accessAs .read launch).getS (dieOf k) n = u at hget hstands hfalls
  refine List.foldlRecOn (motive := fun v => State.shows v True view host ∧ State.caches v k n (view n)) _ _
    ⟨hget.onCore k _, ⟨n, view n, false⟩, ?_, rfl, rfl⟩ fun v hv m _ => ⟨hv.1.deliver _ _ _, caches_deliver hv.2 hn _ _ _⟩
  rw [State.onCore_core_same]
  refine l1Fill_mem (c := { u.core k with misses := (u.core k).misses.filter (fun m => m.key != n) }) ?_ (fun x hx => hc x (hfalls hx)) _ _
  rw [hstands]
  exact ht

/-! ### The patrol scrubber (R304, R364) -/

/-- The burst of a dword has been found bad: the dword is poisoned, and the error waits for its report with an access. -/
structure State.foundBad (s : State) (n : Nat) (access : AccessKind × Nat) : Prop where
  poison : n ∈ s.memPoison
  bursts : s.badBursts.contains (n / 4) = false
  report : (32 * (n / 4), access) ∈ s.detected

theorem State.foundBad.burstSense {s : State} {n : Nat} {access : AccessKind × Nat} (h : s.foundBad n access) (b : Nat) :
    (s.burstSense b).foundBad n access := by
  obtain ⟨hpoison, hbursts, hreport⟩ := h
  unfold State.burstSense
  split
  · refine ⟨mem_foldl_insertNat.2 (.inr hpoison), ?_, List.mem_append_left _ hreport⟩
    simp only [List.contains_eq_mem, decide_eq_false_iff_not, removeNat, List.mem_filter] at hbursts ⊢
    exact fun hmem => hbursts hmem.1
  · exact ⟨hpoison, hbursts, hreport⟩

theorem foundBad_of_bad {s : State} {n : Nat} (h : s.badBursts.contains (n / 4) = true) : (s.burstSense (n / 4)).foundBad n s.access := by
  rw [State.burstSense, if_pos h]
  refine ⟨mem_foldl_insertNat.2 (.inl ?_), by simp [removeNat], by simp⟩
  simp only [List.mem_cons, List.not_mem_nil, or_false]
  omega

/-- Of the bursts that memory reads, each bad one is found. -/
theorem foundBad_foldl {n : Nat} {l : List Nat} (hl : n / 4 ∈ l) {s : State} (h : s.badBursts.contains (n / 4) = true) :
    (l.foldl State.burstSense s).foundBad n s.access := by
  induction l generalizing s with
  | nil => cases hl
  | cons b l ih =>
    rw [List.foldl_cons]
    rcases eq_or_ne (n / 4) b with rfl | hb
    · exact List.foldlRecOn (motive := fun u => State.foundBad u n s.access) l _ (foundBad_of_bad h) fun _ hu c _ => hu.burstSense c
    · have hother : (s.burstSense b).access = s.access ∧ (s.burstSense b).badBursts.contains (n / 4) = true := by
        unfold State.burstSense
        split
        · refine ⟨rfl, ?_⟩
          simpa [removeNat, hb] using h
        · exact ⟨rfl, h⟩
      obtain ⟨haccess, hbad⟩ := hother
      exact haccess ▸ ih ((List.mem_cons.1 hl).resolve_left hb) hbad

theorem dramSense_foundBad {s : State} {n : Nat} (h : s.badBursts.contains (n / 4) = true) :
    (s.dramSense (16 * (n / 16))).foundBad n s.access := by
  unfold State.dramSense
  dsimp only
  refine foundBad_foldl ?_ h
  simp only [List.mem_cons, List.not_mem_nil, or_false]
  omega

/-- The scrubber reads a line that no die holds dirty. -/
theorem patrolScrub_of_clean {s : State} {line : Nat}
    (h : ∀ m ∈ lineWords line 0xFFFF, ((s.l2.look m).bind L2Word.dirty) = none ∧ s.fenced m = false) :
    exec (.patrolScrub line) s = .next ((s.accessAs .scrub 0).dramSense (16 * line)).settle := by
  have hclean : (lineWords line 0xFFFF).any (fun n => ((s.l2.look n).bind L2Word.dirty).isSome || s.fenced n) = false := by
    refine List.any_eq_false.2 fun m hm => ?_
    obtain ⟨hdirty, hfence⟩ := h m hm
    simp [hdirty, hfence]
  show execPatrolScrub line s = _
  rw [execPatrolScrub, hclean, if_neg Bool.false_ne_true]

/-! ### The steps together -/

/-- A request of the host for a half of a line (R300). -/
theorem hostHalfRequest_undisturbed {s : State} (hq : quietMemory s) (line half : Nat) :
    ∃ t : State, exec (.hostHalfRequest line half) s = .next t ∧ undisturbed s t := by
  have hs := undisturbed_of_quiet hq
  show ∃ t, execHostHalfRequest line half s = .next t ∧ _
  unfold execHostHalfRequest
  split
  · refine ⟨_, rfl, ?_⟩
    split
    · obtain ⟨hshows, hstands⟩ := hs
      exact ⟨hshows.hostGive _, hstands.hostGive _⟩
    · exact hs
  · split
    · exact ⟨s, rfl, hs⟩
    · exact ⟨_, rfl, undisturbed_hostHalf hs line _ _⟩

theorem patrolScrub_undisturbed {s : State} (hq : quietMemory s) (line : Nat) :
    ∃ t : State, exec (.patrolScrub line) s = .next t ∧ undisturbed s t := by
  show ∃ t, execPatrolScrub line s = .next t ∧ _
  unfold execPatrolScrub
  split
  · exact ⟨s, rfl, undisturbed_of_quiet hq⟩
  · exact ⟨_, rfl, undisturbed_scrub (undisturbed_of_quiet hq) _⟩

/-- A half that the host asks for under CXL.mem: no die keeps a word of it. -/
theorem hostHalfRequest_of_device {s : State} (hq : quietMemory s) {line half : Nat} (hcap : natBit s.hostcap.toNat 11 = true)
    (hline : line < 2 ^ 60) (hh : half < 2) : ∃ t : State, exec (.hostHalfRequest line half) s = .next t ∧
      (2 * line + half) ∈ t.hostHalves ∧ ∀ d n, d < 8 → n / 8 = 2 * line + half → t.dieHolds d n = false := by
  obtain ⟨u, hu⟩ : ∃ u, (dies.foldl (fun v d => v.evict d line (lineWords line (0xFF * 256 ^ half))) s).dirEnsure line = u := ⟨_, rfl⟩
  have hshows : u.shows True s.viewDword s.hostMem :=
    hu ▸ State.shows.dirEnsure (foldl_shows (shows_of_quiet hq) fun _ d hv => hv.evict d line _) line
  have hgone : ∀ d n, d < 8 → n / 8 = 2 * line + half → u.dieHolds d n = false :=
    fun d n hd hn => by rw [← hu, hostHalf_dieHolds s hd hh hn]
  have hexec : exec (.hostHalfRequest line half) s =
      .next ({ u with hostHalves := insertNat u.hostHalves (2 * line + half) } : State).settle := by
    show execHostHalfRequest line half s = _
    rw [execHostHalfRequest, if_neg hline.not_ge, hcap, ← hu]
    rfl
  rw [hexec, State.shows.settle (hshows.of_eq (by rfl)) trivial]
  exact ⟨_, rfl, mem_insertNat.2 (.inl rfl), hgone⟩

/-- A half that the host answers for is given back (R300). -/
theorem snoop_hostHalves (s : State) (line half : Nat) :
    half ∉ (({ s with hostHalves := removeNat s.hostHalves half } : State).dirRelease line).hostHalves := by
  unfold State.dirRelease
  split <;> simp [removeNat]

/-- A fill of one dword of device memory (R294). -/
theorem cacheFill_of_quiet {s : State} (hq : quietMemory s) {core n : Nat} (ht : (s.core core).load.tilesOf .cache ≠ [])
    (hc : (s.core core).l1.any (fun (x : L1Word) => x.key == n) = false) (hn : 8 * n < Config.devBytes)
    (hm : ∀ m ∈ (s.core core).misses, m.key = n → m.stale = false) :
    ∃ t : State, exec (.cacheFill core (n / 16) (2 ^ (n % 16))) s = .next t ∧
      ∃ x ∈ (t.core core).l1, x.key = n ∧ x.data = s.viewDword n := by
  obtain ⟨hfill, hcaches⟩ := fillMiss_caches (shows_of_quiet hq) ht (by simpa using hc) (n := n) (by unfold Config.devBytes at hn; omega) hm
  refine ⟨s.fillMiss core n, ?_, hcaches⟩
  show execCacheFill _ _ _ s = _
  rw [execCacheFill, lineWords_single]
  exact congrArg Host.Outcome.next (hfill.settle trivial)

end Sys2Proof.Machine

namespace Sys2Proof.Proofs
open Sys2Proof.Machine Sys2Proof.Claims

/-- Settles O54: no step disturbs what memory shows (`undisturbed`); what each leaves is read off what the slices list (`evict_moesi`,
`getM_moesi`), off the CACHE tiles that it fills (`fillMiss_caches`) and off the bursts that it reads (`dramSense_foundBad`). -/
theorem hierarchySteps : Obligations.HierarchySteps := by
  refine ⟨fun s hq => ?_, fun s n hclean hbad => ?_⟩
  · have hs := undisturbed_of_quiet hq
    have next : ∀ {i t}, exec i s = .next t → undisturbed s t → ∃ t : State, exec i s = .next t ∧ unchanged s t :=
      fun he ht => ⟨_, he, unchanged_of_undisturbed ht⟩
    refine ⟨?unchanged, fun core a width v => ?store, fun die n => ?gets, fun die n => ?getm, fun die line mask => ?putm,
      fun die line mask => ?puts, fun die line mask => ?invalidation, fun core n ht hc hn hm => cacheFill_of_quiet hq ht hc hn hm,
      fun line half hcap hline hh => hostHalfRequest_of_device hq hcap hline hh, fun line half hcached hline => ?hostLine,
      fun die line half => ⟨_, rfl, snoop_hostHalves s line _⟩, fun core ctx va kind e he => tableWalk_of_quiet hq he⟩
    case unchanged =>
      rintro i (⟨die, line, mask, rfl | rfl | rfl | rfl | rfl⟩ | ⟨core, line, mask, rfl, hm⟩ | ⟨die, line, half, rfl⟩ | ⟨line, rfl⟩ |
        ⟨core, ctx, va, kind, rfl⟩ | ⟨line, half, -, rfl⟩)
      · exact next rfl (undisturbed_gets hs _ _ _)
      · exact next rfl (undisturbed_getm hs _ _ _)
      · exact next rfl (undisturbed_giveUp hs _ _ _)
      · exact next rfl (undisturbed_giveUp hs _ _ _)
      · exact next rfl (undisturbed_giveUp hs _ _ _)
      · exact next rfl (undisturbed_cacheFill hs hm)
      · exact next rfl (undisturbed_snoop hs _ _)
      · obtain ⟨t, he, ht⟩ := patrolScrub_undisturbed hq line
        exact next he ht
      · exact next rfl (undisturbed_walk hs _ _ _ _ _)
      · obtain ⟨t, he, ht⟩ := hostHalfRequest_undisturbed hq line half
        exact next he ht
    case store =>
      obtain ⟨t, he, hbytes, hrest, -, -⟩ := l2Store_of_quiet hq core a width v
      exact ⟨t, he, hbytes, hrest⟩
    case gets => exact ⟨_, gets_of_quiet hq die n, getS_dieHolds ((shows_of_quiet hq).accessAs .read 0) die n⟩
    case getm =>
      refine ⟨_, getm_of_quiet hq die n, by rw [getM_moesi, if_pos rfl], fun d hd => ?_⟩
      rw [dieHolds_eq, getM_moesi, if_neg hd]
      rfl
    case putm =>
      refine ⟨_, rfl, fun n hn hd => ?_⟩
      have hin : n ∈ (s.accessAs .none 0).wordsIn die line mask [.m, .o] := hd.elim (mem_wordsIn hn · rfl) (mem_wordsIn hn · rfl)
      obtain ⟨hgone, hmem⟩ := giveUp_of_quiet hq die line _ n hin
      exact ⟨hgone, hmem hd⟩
    case puts =>
      refine ⟨_, rfl, fun n hn hd => ?_⟩
      have hin : n ∈ (s.accessAs .none 0).wordsIn die line mask [.e, .s] := hd.elim (mem_wordsIn hn · rfl) (mem_wordsIn hn · rfl)
      exact (giveUp_of_quiet hq die line _ n hin).1
    case invalidation => exact ⟨_, rfl, giveUp_of_quiet hq die line _⟩
    case hostLine =>
      show execHostHalfRequest line half s = _
      rw [execHostHalfRequest, if_pos hline, if_pos hcached]
  · obtain ⟨hpoison, hbursts, hreport⟩ := dramSense_foundBad (s := s.accessAs .scrub 0) hbad
    exact ⟨_, patrolScrub_of_clean hclean, hpoison, hbursts, hreport⟩

end Sys2Proof.Proofs
end

section
/-! The step of an issued firing (spec 11 R306, R308; logs 1, 3 and 5), and O4. -/

namespace Sys2Proof.Machine
open Sys2Proof.Claims

theorem runInstr_eq_thenTime (i : Instr) (s : State) : runInstr i s = thenTime (exec i s) := by
  unfold runInstr thenTime
  cases exec i s <;> rfl

/-! ### What a firing's word makes of it -/

theorem wordOf_of_kept {s : State} {f : Firing} {h : Kept} (hk : f.kept = some h) : s.wordOf f = some h.word := by
  simp [State.wordOf, hk]

theorem wordOf_of_not_kept {s : State} {f : Firing} (hk : f.kept = none) : s.wordOf f = (s.core f.core).load.bits f.node := by
  simp [State.wordOf, hk, State.fetch]

/-- Latching a firing leaves the loads as they are. -/
@[simp] theorem wordOf_latchFiring (s : State) (f g : Firing) (rest : List Firing) :
    (s.latchFiring f rest).wordOf g = s.wordOf g := rfl

theorem runFiring_of_empty {s : State} (hw : s.wordOf s.fire = none) : runFiring s = .next s.tick := by
  simp only [runFiring, hw]

theorem runFiring_of_invalid {s : State} {x : Word128} {n : Nat} (hw : s.wordOf s.fire = some x) (hd : decodeWord x = .error n) :
    runFiring s = .next s.tick := by
  simp only [runFiring, hw, hd]

theorem runFiring_of_decodes {s : State} {x : Word128} {i : Instr} (hw : s.wordOf s.fire = some x) (hd : decodeWord x = .ok i) :
    runFiring s = thenTime (exec i s) := by
  simp only [runFiring, hw, hd, runInstr_eq_thenTime]

/-- An issued firing goes before every other activity of a machine that runs (log 1). -/
theorem step_of_ready {s : State} {f : Firing} {rest : List Firing} (hp : s.powered = true) (hr : s.heldInReset = false)
    (hq : s.ready = f :: rest) : step s = runFiring (s.latchFiring f rest) := by
  simp only [step, hp, hr, Bool.not_false, Bool.and_self, if_true, stepOn, hq]

end Sys2Proof.Machine

namespace Sys2Proof.Proofs
open Sys2Proof.Machine Sys2Proof.Claims

/-- Settles O4: the step latches the firing (`step_of_ready`), which leaves its word as it was, and the word and its decoding say which
of the outcomes of `runFiring` follows. -/
theorem stepRunsDecodedWord : Obligations.StepRunsDecodedWord := by
  intro s f rest hp hr hq u
  have hstep : step s = runFiring u := step_of_ready hp hr hq
  have hword : u.wordOf u.fire = s.wordOf f := wordOf_latchFiring s f f rest
  refine ⟨wordOf_of_not_kept, fun h => wordOf_of_kept, fun x i hx hd => ?decodes, fun x n hx hd => ?invalid, fun hx => ?empty⟩
  case decodes => exact hstep.trans (runFiring_of_decodes (hword.trans hx) hd)
  case invalid => exact hstep.trans (runFiring_of_invalid (hword.trans hx) hd)
  case empty => exact hstep.trans (runFiring_of_empty (hword.trans hx))

end Sys2Proof.Proofs
end

section
/-! Steps without a firing (spec 13 R372; 12 R350; 14 R415, R416, R421; logs 1, 4, 56 and 74), O5, and what reset leaves (13 R369,
R378, R380; 14 R397, R415), O6. -/

namespace Sys2Proof.Machine
open Sys2Proof.Claims

section
variable {s : State}

/-! ### With power: an access that has left its hold, a tick, an input, an activity (log 1) -/

theorem step_of_running (hp : s.powered = true) (hr : s.heldInReset = false) : step s = stepOn s := by
  simp only [step, hp, hr, Bool.not_false, Bool.and_self, if_true]

theorem stepOn_of_retry {h : HeldItem} {rest : List HeldItem} (hq : s.ready = []) (hret : s.retries = h :: rest) :
    stepOn s = runRetry h { s with retries := rest } := by
  simp only [stepOn, hq, hret]

theorem stepOn_of_tick {die : Nat} (hq : s.ready = []) (hret : s.retries = []) (hdue : s.dueTick = some die) :
    stepOn s = thenTime (exec (.launcherTick die) s) := by
  simp only [stepOn, hq, hret, hdue, runInstr_eq_thenTime]

theorem stepOn_of_input {x : Input} {more : List Input} (hq : s.ready = []) (hret : s.retries = []) (hdue : s.dueTick = none)
    (hin : s.inbox = x :: more) (hgo : s.inputWaits x = false) : stepOn s = runInput x { s with inbox := more } := by
  simp only [stepOn, hq, hret, hdue, hin, hgo, Bool.false_eq_true, if_false]

/-- Without an input, or with one that waits for its stack, the hardware goes on by itself (R415). -/
theorem stepOn_of_idle (hq : s.ready = []) (hret : s.retries = []) (hdue : s.dueTick = none)
    (hin : s.inbox = [] ∨ ∃ x more, s.inbox = x :: more ∧ s.inputWaits x = true) : stepOn s = runActivity s := by
  rcases hin with hin | ⟨x, more, hin, hwait⟩
  · simp only [stepOn, hq, hret, hdue, hin]
  · simp only [stepOn, hq, hret, hdue, hin, hwait, if_true]

/-- A held instance runs the word that it would have run as it issued (R181). -/
theorem runRetry_of_firing {f : Firing} {x : Word128} {i : Instr} (hw : s.wordOf f = some x) (hd : decodeWord x = .ok i) :
    runRetry (.firing f) s = thenTime (exec i { s with fire := f }) :=
  runFiring_of_decodes (s := { s with fire := f }) hw hd

theorem runInput_of_run (i : Instr) : runInput (.run i) s = thenTime (exec i s) := runInstr_eq_thenTime i s

theorem runInput_of_other {x : Input} (hx : ∀ i, x ≠ .run i) : runInput x s = .next (s.takesInput x).tick := by
  cases x with
  | run i => exact absurd rfl (hx i)
  | hostMemory | hart | measure => rfl

/-! ### Without power, or held in reset (R416, R421; log 56) -/

theorem step_of_stopped (h : s.powered = false ∨ s.heldInReset = true) : step s = stepOff s := by
  rcases h with h | h <;> simp [step, h]

theorem stepOff_of_coldReset {more : List Input} (hin : s.inbox = .run .coldReset :: more) :
    stepOff s = thenTime (exec .coldReset { s with inbox := more }) := by
  simp only [stepOff, hin, runInstr_eq_thenTime]

theorem stepOff_of_other {x : Input} {more : List Input} (hin : s.inbox = x :: more) (hx : x ≠ .run .coldReset) :
    stepOff s = .next { s with inbox := more } := by
  unfold stepOff
  split
  case h_1 h => exact absurd (List.cons.inj (hin.symm.trans h)).1 hx
  case h_2 h => rw [(List.cons.inj (hin.symm.trans h)).2]
  case h_3 h => exact absurd (hin.symm.trans h) (List.cons_ne_nil _ _)

end

end Sys2Proof.Machine

namespace Sys2Proof.Proofs
open Sys2Proof.Machine Sys2Proof.Claims

/-- Settles O5: which of the branches of `stepOn` or `stepOff` the step takes, by what waits in the machine. -/
theorem stepsWithoutFirings : Obligations.StepsWithoutFirings := by
  refine ⟨fun s hp hr hq => ?running, fun s hoff => ?stopped⟩
  case running =>
    have hstep := step_of_running hp hr
    refine ⟨fun h rest hret => hstep.trans (stepOn_of_retry hq hret), fun f rest x i hret hw hd => ?firing,
      fun die hret hdue => hstep.trans (stepOn_of_tick hq hret hdue), fun i more hret hdue hin => ?run,
      fun x more hret hdue hin hx hgo => ?input, fun hret hdue hin => ?activity⟩
    case firing => exact (hstep.trans (stepOn_of_retry hq hret)).trans (runRetry_of_firing (s := { s with retries := rest }) hw hd)
    case run => exact (hstep.trans (stepOn_of_input hq hret hdue hin rfl)).trans (runInput_of_run i)
    case input => exact (hstep.trans (stepOn_of_input hq hret hdue hin hgo)).trans (runInput_of_other hx)
    case activity => exact (hstep.trans (stepOn_of_idle hq hret hdue hin)).trans (runInstr_eq_thenTime _ _)
  case stopped =>
    have hstep := step_of_stopped hoff
    refine ⟨fun hin => hstep.trans ?nothing, fun more hin => hstep.trans (stepOff_of_coldReset hin),
      fun x more hin hx => hstep.trans (stepOff_of_other hin hx)⟩
    case nothing => simp only [stepOff, hin]

/-- Settles O6: every field of the machine after reset is written out, and no queue is listed, so that each reads as one after reset. -/
theorem resetValues : Obligations.ResetValues := by
  refine ⟨rfl, rfl, rfl, rfl, rfl, rfl, rfl, rfl, rfl, rfl, rfl, rfl, rfl, rfl, rfl, rfl, rfl, fun q => ?queue⟩
  case queue =>
    have hq : State.reset.queue q = Queue.reset := rfl
    rw [hq]
    decide

end Sys2Proof.Proofs
end

section
/-! Fields of registers (spec 14 R392): bits, fields, and what the host reads of a register. -/

namespace Sys2Proof.Machine

theorem natBit_toNat {n : Nat} (x : BitVec n) (i : Nat) : natBit x.toNat i = x.getLsbD i := BitVec.testBit_toNat x

theorem testBit_natBits (x hi lo i : Nat) : (natBits x hi lo).testBit i = (decide (i < hi + 1 - lo) && x.testBit (lo + i)) := by
  rw [natBits, Nat.testBit_mod_two_pow, Nat.testBit_shiftRight]

/-- A set field holds the low bits of its value; the bits around it stay. -/
theorem getLsbD_setField (d : Dword) {hi : Nat} (lo v i : Nat) (h : hi < 64) :
    (setField d hi lo v).getLsbD i = if lo ≤ i ∧ i ≤ hi then v.testBit (i - lo) else d.getLsbD i := by
  have hmask : (BitVec.ofNat 64 ((2 ^ (hi + 1 - lo) - 1) * 2 ^ lo)).getLsbD i = decide (lo ≤ i ∧ i ≤ hi) := by
    rw [BitVec.getLsbD_ofNat, Nat.testBit_mul_two_pow, Nat.testBit_two_pow_sub_one, ← Bool.decide_and, ← Bool.decide_and]
    exact decide_eq_decide.2 (by omega)
  have hval : (BitVec.ofNat 64 (v * 2 ^ lo)).getLsbD i = (decide (i < 64) && (decide (lo ≤ i) && v.testBit (i - lo))) := by
    rw [BitVec.getLsbD_ofNat, Nat.testBit_mul_two_pow]
  rw [setField, BitVec.getLsbD_or, BitVec.getLsbD_and, BitVec.getLsbD_and, BitVec.getLsbD_not, hmask, hval]
  split
  next hin =>
    have hi64 : i < 64 := by omega
    simp [hin, hi64]
  next hout =>
    by_cases hi64 : i < 64
    · simp [hout, hi64]
    · simp [hout, hi64, BitVec.getLsbD_of_ge d i (by omega)]

theorem natBits_setField_same (d : Dword) {hi lo : Nat} (v : Nat) (h : hi < 64) :
    natBits (setField d hi lo v).toNat hi lo = v % 2 ^ (hi + 1 - lo) := by
  refine Nat.eq_of_testBit_eq fun i => ?_
  rw [testBit_natBits, BitVec.testBit_toNat, getLsbD_setField d lo v _ h, Nat.testBit_mod_two_pow]
  by_cases hi' : i < hi + 1 - lo
  · rw [if_pos (by omega), Nat.add_sub_cancel_left]
  · simp [hi']

theorem natBits_setField_other (d : Dword) {hi lo hi' lo' : Nat} (v : Nat) (h : hi < 64) (hd : hi < lo' ∨ hi' < lo) :
    natBits (setField d hi lo v).toNat hi' lo' = natBits d.toNat hi' lo' := by
  refine Nat.eq_of_testBit_eq fun i => ?_
  rw [testBit_natBits, testBit_natBits, BitVec.testBit_toNat, BitVec.testBit_toNat, getLsbD_setField d lo v _ h]
  by_cases hi : i < hi' + 1 - lo'
  · rw [if_neg (by omega)]
  · simp [hi]

/-- The control bit of a command register goes to 0. -/
theorem setField_top_zero (d : Dword) : setField d 63 63 0 = d &&& 0x7FFFFFFFFFFFFFFF := by
  refine BitVec.eq_of_getLsbD_eq fun i hi => ?_
  have hmask : (0x7FFFFFFFFFFFFFFF : Dword).getLsbD i = decide (i < 63) := by
    rw [show (0x7FFFFFFFFFFFFFFF : Dword) = BitVec.ofNat 64 (2 ^ 63 - 1) from rfl, BitVec.getLsbD_ofNat,
      Nat.testBit_two_pow_sub_one]
    simp [hi]
  rw [getLsbD_setField d 63 0 i (by omega), BitVec.getLsbD_and, hmask]
  rcases Nat.lt_or_ge i 63 with h | h
  · rw [if_neg (by omega)]
    simp [h]
  · rw [if_pos (by omega)]
    simp [h.not_gt]

theorem bytesLE_mod (n v : Nat) : bytesLE n (v % 256 ^ n) = bytesLE n v := by
  induction n generalizing v with
  | zero => rfl
  | succ n ih =>
    rw [bytesLE, bytesLE, Nat.pow_succ', Nat.mod_mul_right_div_self, ih]
    congr 1
    apply BitVec.eq_of_toNat_eq
    rw [BitVec.toNat_ofNat, BitVec.toNat_ofNat]
    exact Nat.mod_mul_right_mod _ _ _

/-- A read of both words returns the register. -/
theorem hostReads_dword (s : State) (v : Nat) : s.hostReads .dword v = { s with hostData := bytesLE 8 v, hostPoison := false } := by
  have hall : accMask .dword = BitVec.allOnes 64 := rfl
  have hwhole : bytesLE 8 (v % 2 ^ 64) = bytesLE 8 v := bytesLE_mod 8 v
  rw [State.hostReads, hall, BitVec.and_allOnes, BitVec.toNat_ofNat, hwhole]

/-- A read of the low word returns it alone. -/
theorem hostReads_low (s : State) (v : Nat) :
    s.hostReads .low v = { s with hostData := bytesLE 8 (v % 2 ^ 32), hostPoison := false } := by
  have hmask : (accMask .low).toNat = 2 ^ 32 - 1 := rfl
  rw [State.hostReads, BitVec.toNat_and, BitVec.toNat_ofNat, hmask, Nat.and_two_pow_sub_one_eq_mod, Nat.mod_mod_of_dvd _ (by decide)]

end Sys2Proof.Machine
end

section
/-! The fault queue's registers and resumes, translation answers, invalidation and the freeing of pages (spec 13 R369 to R372, R377 to
R380; 14 R392, R464; logs 7 and 50), and O55. -/

namespace Sys2Proof.Machine

section
variable (s : State)

/-! ### The fault queue (R369 to R372) -/

theorem foldl_wake_retries (l : List HeldItem) : (l.foldl State.wake s).retries = s.retries ++ l := by
  induction l generalizing s with
  | nil => exact (List.append_nil _).symm
  | cons i l ih => rw [List.foldl_cons, ih, State.wake, List.append_assoc, List.singleton_append]

theorem foldl_hold_retries (l : List Hold) :
    (l.foldl (fun s (h : Hold) => h.items.foldl State.wake s) s).retries = s.retries ++ l.flatMap Hold.items := by
  induction l generalizing s with
  | nil => exact (List.append_nil _).symm
  | cons h l ih => rw [List.foldl_cons, ih, foldl_wake_retries, List.flatMap_cons, List.append_assoc]

/-- What the walker queues give back comes after what retries already. -/
theorem walkersGo_retries : ∃ more, s.walkersGo.retries = s.retries ++ more := by
  have hwake : ∀ (l : List (Nat × HeldItem)) (u : State),
      (l.foldl (fun s w => s.wake w.2) u).retries = u.retries ++ l.map Prod.snd := fun l u => by
    rw [← foldl_wake_retries, List.foldl_map]
  exact ⟨_, hwake _ _⟩

theorem release_retries (p : Hold → Bool) :
    ∃ more, (s.release p).retries = s.retries ++ (s.holds.filter p).flatMap Hold.items ++ more := by
  obtain ⟨more, h⟩ := walkersGo_retries
    ((s.holds.filter p).foldl (fun s (h : Hold) => h.items.foldl State.wake s) { s with holds := s.holds.filter (fun h => !p h) })
  exact ⟨more, h.trans (congrArg (· ++ more) (foldl_hold_retries _ _))⟩

variable {s}

theorem execFqResume_of_clear (h : s.barWaits = false) (q : BitVec 32) : execFqResume q s = .next (s.resume q) := by
  rw [execFqResume, h]
  rfl

theorem execFqResume_of_waiting (h : s.barWaits = true) (q : BitVec 32) :
    execFqResume q s = .next { s with waiting := s.waiting ++ [.fqResume q] } := by
  rw [execFqResume, if_pos h]

theorem execDeferredRecordWrite_of_room {d : Deferred} {rest : List Deferred} (hd : s.deferred = d :: rest) (hroom : s.fqFull = false) :
    execDeferredRecordWrite s = .next (({ s with deferred := rest } : State).fqWrite d.record d.hold) := by
  simp only [execDeferredRecordWrite, hd, hroom, Bool.false_eq_true, if_false]

/-! ### Invalidation (R378) -/

/-- XLT_INV takes OP, CTX and PAGE, and sets BUSY. -/
theorem execXltInv_of_idle (v : Dword) (h : s.xltInv.getLsbD 63 = false) :
    ∃ x : Dword, execXltInv v s = .next { s with xltInv := x } ∧
      x.getLsbD 63 = true ∧ ∀ i, i < 63 → x.getLsbD i = (v.getLsbD i && (decide (49 ≤ i) || decide (i ≤ 43))) := by
  have hpage : natBits v.toNat 43 0 < 2 ^ 49 := (Nat.mod_lt _ (by decide)).trans (by decide)
  have hop : natBits v.toNat 62 49 < 2 ^ 14 := Nat.mod_lt _ (by decide)
  have hsum : 2 ^ 63 + natBits v.toNat 62 49 * 2 ^ 49 + natBits v.toNat 43 0 =
      2 ^ 49 * (2 ^ 14 + natBits v.toNat 62 49) + natBits v.toNat 43 0 := by omega
  have hbusy : (2 ^ 14 + natBits v.toNat 62 49).testBit 14 = true := by
    rw [Nat.testBit_two_pow_add_eq, Nat.testBit_lt_two_pow hop]
    rfl
  refine ⟨_, by rw [execXltInv, natBit_toNat, h]; rfl, ?_, fun i hi => ?_⟩ <;>
    rw [BitVec.getLsbD_ofNat, hsum, Nat.testBit_two_pow_mul_add _ hpage]
  · rw [if_neg (by decide), hbusy]
    rfl
  · rcases Nat.lt_or_ge i 49 with h49 | h49
    · rw [if_pos h49, testBit_natBits, BitVec.testBit_toNat]
      simp [h49.not_ge, Nat.lt_succ_iff, Bool.and_comm, show i < 64 by omega]
    · rw [if_neg h49.not_gt, Nat.testBit_two_pow_add_gt (by omega), testBit_natBits, BitVec.testBit_toNat, Nat.add_sub_cancel' h49]
      simp [h49, show i < 64 by omega, show i - 49 < 14 by omega]

theorem execXltInvDone_of_busy (h : s.xltInv.getLsbD 63 = true) : execXltInvDone s = .next
    { s.dropEntries s.invalidates with xltInv := s.xltInv &&& 0x7FFFFFFFFFFFFFFF } := by
  rw [execXltInvDone, natBit_toNat, if_pos h]
  simp only [setField_top_zero]
  rfl

/-! ### Freeing pages (R379, R380) -/

theorem execDqPush_of_room (v : Dword) (h : s.dq.length < 1024) : execDqPush v s = .next { s with
    dq := s.dq ++ [⟨v &&& 0x000FFFFFFFFFFE00, s.epoch.toNat, false⟩], epoch := s.epoch + 1 } := by
  have hfields : BitVec.ofNat 64 (natBits v.toNat 51 9 * 2 ^ 9) = v &&& 0x000FFFFFFFFFFE00 := by
    refine BitVec.eq_of_getLsbD_eq fun i hi => ?_
    have hmask : (0x000FFFFFFFFFFE00 : Dword).getLsbD i = (decide (9 ≤ i) && decide (i - 9 < 43)) := by
      rw [show (0x000FFFFFFFFFFE00 : Dword) = BitVec.ofNat 64 ((2 ^ 43 - 1) * 2 ^ 9) from rfl, BitVec.getLsbD_ofNat,
        Nat.testBit_mul_two_pow, Nat.testBit_two_pow_sub_one]
      simp [hi]
    rw [BitVec.getLsbD_ofNat, Nat.testBit_mul_two_pow, testBit_natBits, BitVec.testBit_toNat, BitVec.getLsbD_and, hmask]
    by_cases h9 : 9 ≤ i
    · simp [hi, h9, Bool.and_comm]
    · simp [h9]
  rw [execDqPush, if_neg h.not_ge, hfields]

theorem execDqPush_of_full (v : Dword) (h : 1024 ≤ s.dq.length) : execDqPush v s = .next { s with dqOvf := true } := by
  rw [execDqPush, if_pos h]

/-- The pages that are released leave the epoch and the length of the queue as they are. -/
theorem execPageRelease_eq (s : State) :
    ∃ t : State, execPageRelease s = .next t ∧ t.epoch = s.epoch ∧ t.dq.length = s.dq.length ∧ t.qdone = s.quiesced :=
  ⟨_, rfl, rfl, List.length_map _, rfl⟩

/-- The running maximum of some ages: none of them exceeds it, and it lies below each bound of them all. -/
theorem foldl_max_bounds {α : Type} (f : α → Nat) (l : List α) (n : Nat) :
    (n ≤ l.foldl (fun n a => max n (f a)) n ∧ ∀ a ∈ l, f a ≤ l.foldl (fun n a => max n (f a)) n) ∧
      ∀ b, n < b → (∀ a ∈ l, f a < b) → l.foldl (fun n a => max n (f a)) n < b := by
  induction l generalizing n with
  | nil => exact ⟨⟨le_rfl, by simp⟩, fun b hb _ => hb⟩
  | cons a l ih =>
    obtain ⟨⟨hn, hl⟩, hb⟩ := ih (max n (f a))
    refine ⟨⟨(le_max_left _ _).trans hn, fun x hx => ?_⟩, fun b hnb hall => ?_⟩
    · rcases List.mem_cons.1 hx with rfl | hx
      · exact (le_max_right _ _).trans hn
      · exact hl x hx
    · exact hb b (max_lt hnb (hall a List.mem_cons_self)) fun x hx => hall x (List.mem_cons_of_mem _ hx)

theorem quiesced_of_no_misses (h : ∀ kc ∈ s.cores, kc.2.misses = []) : s.quiesced = s.epoch - 1 := by
  have hnone : s.cores.flatMap (fun kc => kc.2.misses) = [] := List.flatMap_eq_nil_iff.2 h
  rw [State.quiesced, hnone]
  exact BitVec.sub_zero _

/-- QDONE stays behind the epoch of every load that waits (R379). -/
theorem quiesced_behind_misses (h : ∀ kc ∈ s.cores, ∀ m ∈ kc.2.misses, (s.epoch - m.epoch).toNat < 2 ^ 31) :
    ∀ kc ∈ s.cores, ∀ m ∈ kc.2.misses, (s.epoch - m.epoch).toNat < (s.epoch - s.quiesced).toNat := by
  intro kc hkc m hm
  obtain ⟨⟨-, hle⟩, hbound⟩ := foldl_max_bounds (fun m : L1Miss => (s.epoch - m.epoch).toNat) (s.cores.flatMap (fun kc => kc.2.misses)) 0
  have hage := hle m (List.mem_flatMap.2 ⟨kc, hkc, hm⟩)
  have hback := hbound (2 ^ 31) (by decide) fun a ha => by
    obtain ⟨kc, hkc, ha⟩ := List.mem_flatMap.1 ha
    exact h kc hkc a ha
  rw [State.quiesced]
  generalize List.foldl _ 0 _ = back at hage hback ⊢
  have hdiff : s.epoch - (s.epoch - 1 - BitVec.ofNat 32 back) = BitVec.ofNat 32 (back + 1) := by
    bv_omega
  rw [hdiff, BitVec.toNat_ofNat, Nat.mod_eq_of_lt (by omega)]
  exact Nat.lt_succ_of_le hage

theorem execDqPop_of_freed {i : Nat} {d : DqPage} (hi : s.dq.findIdx? (fun (d : DqPage) => d.released) = some i)
    (hd : s.dq[i]? = some d) (hkeep : d.fields.getLsbD 9 = false) : execDqPop .dword s = .next
      { s with hostData := bytesLE 8 s.dqPop, hostPoison := false, dq := s.dq.eraseIdx i } := by
  simp only [execDqPop, hostReads_dword, accHigh, hi, hd, Option.map_some, Option.getD_some, natBit_toNat, hkeep, Bool.false_eq_true,
    if_false]
  rfl

/-! ### Answers of the host (R377) -/

theorem execAtsResponse_of_waiting {die ctx va : Nat} {r : AtsReq} (answer : AtsAnswer)
    (h : s.ats.find? (fun (r : AtsReq) => r.die == die && r.ctx == ctx && r.page == va / 4096) = some r) :
    execAtsResponse die ctx va answer s = .next (r.items.foldl State.wake
      (let u := { s with ats := s.ats.filter (fun (r : AtsReq) => !(r.die == die && r.ctx == ctx && r.page == va / 4096)) }
       match answer with
       | .page bus log rd wr => u.fillDie die ⟨ctx, va / 2 ^ log * 2 ^ log, 2 ^ log, bus / 2 ^ log * 2 ^ log, 1, 0, rd, wr⟩
       | .noTranslation => { u with priPages := s.priPages ++ [(die, ctx, va / 4096)] })).settle := by
  rw [execAtsResponse]
  simp only [h] <;> rfl

theorem execPriResponse_of_success {ctx va : Nat} (h : ∃ die, (die, ctx, va / 4096) ∈ s.priPages) :
    execPriResponse ctx va .success s = .next
      (({ s with priPages := s.priPages.filter (fun x => !(x.2.1 == ctx && x.2.2 == va / 4096)) } : State).release
        (fun (h : Hold) => (h.ctx == ctx && h.page == va / 4096) && h.seq.isSome)).settle := by
  obtain ⟨die, hmem⟩ := h
  have hany : s.priPages.any (fun x => x.2.1 == ctx && x.2.2 == va / 4096) = true := List.any_eq_true.2 ⟨_, hmem, by simp⟩
  simp only [execPriResponse, hany, Bool.not_true, Bool.false_eq_true, if_false]

end

end Sys2Proof.Machine

namespace Sys2Proof.Proofs
open Sys2Proof.Machine

/-- Settles O55, each step by its condition; how far QDONE moves by the ages of the loads that wait (`foldl_max_bounds`). -/
theorem faultQueueAndPages : Obligations.FaultQueueAndPages := by
  intro s
  have hwhole : ∀ v, bytesLE 8 (v % 2 ^ 64) = bytesLE 8 v := bytesLE_mod 8
  refine ⟨fun q => rfl, fun q h => execFqResume_of_clear h q, fun q h => execFqResume_of_waiting h q, fun q => release_retries s _,
    fun d rest hd hroom => execDeferredRecordWrite_of_room hd hroom, ?readBoth, ?readLow, fun v h => execXltInv_of_idle v h,
    fun h => execXltInvDone_of_busy h, fun v h => execDqPush_of_room v h, fun v h => execDqPush_of_full v h, ?release,
    fun i d hi hd hkeep => ?pop, fun v h => ?clear, fun pasid va all => rfl, fun die ctx va r h => ?ats,
    fun ctx va h => execPriResponse_of_success h⟩
  case readBoth =>
    show execFqStatRead .dword s = _
    rw [hwhole, execFqStatRead, hostReads_dword]
    rfl
  case readLow =>
    show execFqStatRead .low s = _
    rw [execFqStatRead, hostReads_low]
    rfl
  case release =>
    obtain ⟨t, he, hepoch, hlen, hdone⟩ := execPageRelease_eq s
    exact ⟨t, he, hepoch, hlen, fun h => hdone.trans (quiesced_of_no_misses h), fun h => hdone ▸ quiesced_behind_misses h⟩
  case pop =>
    rw [hwhole]
    exact execDqPop_of_freed hi hd hkeep
  case clear =>
    show execDqStatClear v s = _
    rw [execDqStatClear, natBit_toNat, if_pos h]
  case ats => exact ⟨execAtsResponse_of_waiting .noTranslation h, fun bus log rd wr => execAtsResponse_of_waiting (.page bus log rd wr) h⟩

end Sys2Proof.Proofs
end

section
/-! Queues, their packets and the end of launches (spec 14 R395 to R404; 16 R441; log 49), and O57. -/

namespace Sys2Proof.Machine

section
variable {s : State} {q : Nat}

/-! ### NOTIFY, and EN (R396, R397) -/

theorem execNotify_of_inside {i : Dword} (hactive : (s.queue q).state = 1) (hnew : (s.queue q).qwr.toNat < i.toNat)
    (hin : i.toNat - (s.queue q).qrd.toNat ≤ (s.queue q).size) :
    execNotify q i s = .next ((s.onQueue q (fun (x : Queue) => { x with qwr := i })).raiseEvent 1 q i 0) := by
  simp only [execNotify, hactive, hnew.not_ge, hin.not_gt, ne_eq, not_true_eq_false, or_self, if_false]

theorem execNotify_of_beyond {i : Dword} (hactive : (s.queue q).state = 1) (hnew : (s.queue q).qwr.toNat < i.toNat)
    (hout : (s.queue q).size < i.toNat - (s.queue q).qrd.toNat) :
    execNotify q i s = .next (s.queueError q 3 i.toNat).rotate := by
  simp only [execNotify, hactive, hnew.not_ge, hout, ne_eq, not_true_eq_false, or_self, if_false, if_true]

theorem execQctlEnable_of_disabled (h : (s.queue q).state = 0) :
    execQctlEnable q s = .next (s.onQueue q Queue.enable).rotate := by
  rw [execQctlEnable, if_neg (by simp [h])]

/-- Enabling leaves the queue ACTIVE with EN set, and disabling DISABLED without it. -/
theorem enable_state (x : Queue) : natBits x.enable.qctl.toNat 63 62 = 1 ∧ x.enable.qctl.getLsbD 31 = true := by
  constructor
  · exact (natBits_setField_other _ _ (by decide) (by decide)).trans (natBits_setField_same _ _ (by decide))
  · exact getLsbD_setField _ 31 1 31 (by decide)

theorem disable_state (x : Queue) : natBits x.disable.qctl.toNat 63 62 = 0 ∧ x.disable.qctl.getLsbD 31 = false := by
  constructor
  · exact (natBits_setField_other _ _ (by decide) (by decide)).trans (natBits_setField_same _ _ (by decide))
  · exact getLsbD_setField _ 31 0 31 (by decide)

/-! ### Packets that start (R399 to R403, R441) -/

theorem execPacketHeaderPoll_of_ready {s' r : State} {p : Place} {bs : List Byte} (hactive : (s.queue q).state = 1)
    (hmode : s.assisted 1 = false) (hready : natBit s.funcReady.toNat 1 = true) (hnone : (s.queue q).header = none)
    (hnext : (s.queue q).nextPkt < (s.queue q).qwr.toNat) (hpoll : (s.queue q).pollAt ≤ s.time)
    (hretired : (s.queue q).started.any (fun (p : Packet) => !p.retired) = false) (htask : s.handled q = true)
    (hheld : s.keyHeld q = false)
    (hplace : s.packetPlace q (s.queue q).ctx ((s.queue q).packetAddr (s.queue q).nextPkt)
      (natBit (s.queue q).qbase.toNat 63) true false = (s', .ok p))
    (hread : s'.hubRead p 64 = (r, bs)) (hvalid : bytesAt bs 0 1 % 2 = 1) (hok : packetError bs = none) :
    execPacketHeaderPoll q s = .next (r.onQueue q (fun (x : Queue) => { x with header := some bs })).rotate.settle := by
  simp only [execPacketHeaderPoll, hactive, hmode, hready, hnone, hnext.not_ge, hpoll.not_gt, hretired, htask, hheld, hplace, hread,
    hvalid, hok, ne_eq, not_true_eq_false, Bool.not_true, Bool.false_eq_true, Option.isSome_none, or_self, if_false,
    Nat.one_ne_zero]

theorem execPacketNop_of_startable {bs : List Byte} (h : s.startable q 0 = some bs) :
    execPacketNop q s = .next (s.startPacket q bs).rotate := by
  simp only [execPacketNop, h]

/-- A packet that brings a record starts its work once the record has been read (R402, R405). -/
theorem takeRecord_of_packet {type : Nat} {go : State → Post → List Byte → State} {bs r : List Byte} {at_ : Place} {u v : State}
    (hmail : s.mailPost q type = none) (hstart : s.startable q type = some bs)
    (hroom : s.launchRoom (launchId q (s.queue q).nextPkt) = true)
    (hplace : s.hubPlace (s.queue q).ctx (bytesAt bs 16 8) true false (.packet q) = (u, .ok at_))
    (hread : u.hubRead at_ 128 = (v, r)) :
    s.takeRecord q type go = ((go v (s.packetPost q bs) r).startPacket q bs).rotate := by
  have hroom' : s.launchRoom (launchId q (s.packetPost q bs).index) = true := hroom
  have hplace' : s.hubPlace (s.packetPost q bs).ctx (s.packetPost q bs).recVa true false (.packet q) = (u, .ok at_) := hplace
  simp only [State.takeRecord, hmail, hstart, hroom', hplace', hread, Bool.not_true, Bool.false_eq_true, if_false]

/-- A launch joins those that run, with what its record says (R402). -/
theorem startLaunch_launches (s : State) (p : Post) (r : List Byte) :
    ∃ l : Launch, (s.startLaunch p r).launches = s.launches ++ [l] ∧ l.id = launchId p.queue p.index ∧
      l.kernelVa = bytesAt r 0 8 ∧ l.param = bytesAt r 8 8 ∧ l.wgCount = bytesAt r 0x20 4 ∧ l.nextWg = bytesAt r 0x50 4 :=
  ⟨_, rfl, rfl, rfl, rfl, rfl, rfl⟩

/-- The transfer that a COPY packet whose checks pass gives to a core (R399). -/
def State.packetTransfer (s : State) (q : Nat) (bs : List Byte) (c : Nat) : Transfer :=
  { Transfer.blank Firing.none with
    id := (s.core c).nextTransfer, ctx := (s.queue q).ctx, dst := bytesAt bs 16 8, src := bytesAt bs 24 8, bytes := bytesAt bs 32 8
    poison := natBit (bytesAt bs 48 1) 0, mask := bytesAt bs 40 8, counted := false, queue := some q
    index := (s.queue q).nextPkt, era := (s.queue q).era, signal := bytesAt bs 8 8, status := 0 }

theorem execPacketCopy_of_room {bs : List Byte} {c : Nat} (hstart : s.startable q 3 = some bs)
    (hok : copyCheck (bytesAt bs 16 8) (bytesAt bs 24 8) (bytesAt bs 32 8) = 0)
    (hcore : (List.range Config.cores).find? (fun c =>
      dieOf c == s.copyDie q (s.queue q).ctx (bytesAt bs 16 8) (bytesAt bs 24 8) && s.coreUp c) = some c)
    (hroom : (s.core c).copyQueue < 64) :
    execPacketCopy q s = .next ((s.onCore c (fun (core : Core) => { core with
      transfers := core.transfers ++ [s.packetTransfer q bs c], nextTransfer := core.nextTransfer + 1 })).startPacket q bs).rotate := by
  simp only [execPacketCopy, hstart, hok, hcore, hroom.not_ge, ne_eq, not_true_eq_false, false_and, if_false, if_true]
  rfl

theorem execPacketWaitsig_of_read {bs v : List Byte} {s' r : State} {p : Place} (hstart : s.startable q 4 = some bs)
    (hplace : s.hubPlace (s.queue q).ctx (bytesAt bs 16 8) true false (.packet q) = (s', .ok p)) (hread : s'.hubRead p 8 = (r, v)) :
    execPacketWaitsig q s = .next
      (if signalCondition (bytesAt bs 32 1) (fromLE v) (bytesAt bs 24 8) then (r.startPacket q bs).rotate
       else r.pollLater q).settle := by
  simp only [execPacketWaitsig, hstart, hplace, hread]
  split <;> rfl

theorem execPacketBarrierAnd_of_read {bs : List Byte} {s' : State} {ok : Bool} (hstart : s.startable q 5 = some bs)
    (hread : s.signalsZero q (s.queue q).ctx (barrierSignals bs) = (s', .ok ok)) :
    execPacketBarrierAnd q s = .next (if ok then (s'.startPacket q bs).rotate else s'.pollLater q).settle := by
  cases ok <;> simp only [execPacketBarrierAnd, hstart, hread, Bool.false_eq_true, if_false, if_true]

/-! ### Packets and launches that end (R400, R402, R404) -/

section
variable {p : Packet} (hp : (s.queue q).started.find? (fun (p : Packet) => !p.retired || selfDone p.type) = some p)
include hp

/-- The header becomes zero, and then QRD advances. -/
theorem execPacketRetire_of_started {s' : State} {at_ : Place} (hretired : p.retired = false) (hheld : s.keyHeld q = false)
    (hplace : s.packetPlace q p.ctx p.addr p.bus false true = (s', .ok at_)) :
    execPacketRetire q s = .next ((s'.hubWrite at_ (List.replicate 8 0)).onQueue q (fun (x : Queue) =>
      ({ x with qrd := x.qrd + 1 } : Queue).mark p.index p.era (fun (p : Packet) => { p with retired := true }))).settle := by
  simp only [execPacketRetire, hp, hretired, hheld, hplace, Bool.false_eq_true, if_false]
  rfl

theorem execPacketRetire_of_retired (hretired : p.retired = true) (hheld : s.keyHeld (doneKey q p.index) = false) :
    execPacketRetire q s = .next (s.completePacket q p.index p.era p.ctx p.signal).1.rotate.settle := by
  simp only [execPacketRetire, hp, hretired, hheld, Bool.false_eq_true, if_false, if_true]

end

theorem execLaunchComplete_of_outcome {id st : Nat} {l : Launch} (hl : s.launch? id = some l) (hout : s.outcome l = some st) :
    execLaunchComplete id s = .next (s.finishLaunch l st).settle := by
  simp only [execLaunchComplete, hl, hout]

end

end Sys2Proof.Machine

namespace Sys2Proof.Proofs
open Sys2Proof.Machine

/-- Settles O57: what each step does when its conditions hold; a LAUNCH packet starts the launch of its record (`takeRecord_of_packet`). -/
theorem queuesAndPackets : Obligations.QueuesAndPackets := by
  intro s q x
  refine ⟨fun i => execNotify_of_inside, fun i => execNotify_of_beyond, execQctlEnable_of_disabled, rfl,
    ⟨rfl, rfl, enable_state x⟩, disable_state x, fun s' p r bs => execPacketHeaderPoll_of_ready, fun bs => execPacketNop_of_startable,
    fun bs at_ u v r hmail hstart hroom hplace hread => ⟨?launch, startLaunch_launches v (s.packetPost q bs) r⟩,
    fun bs c hstart hok hcore hroom => ⟨s.packetTransfer q bs c, rfl, rfl, rfl, rfl, rfl, rfl, rfl, rfl,
      execPacketCopy_of_room hstart hok hcore hroom⟩, fun bs s' p r v => execPacketWaitsig_of_read, fun bs s' ok => execPacketBarrierAnd_of_read,
    fun p s' at_ hp => execPacketRetire_of_started hp, fun p hp => execPacketRetire_of_retired hp,
    fun id l st => execLaunchComplete_of_outcome⟩
  case launch => exact congrArg (fun t : State => Host.Outcome.next t.settle) (takeRecord_of_packet hmail hstart hroom hplace hread)

end Sys2Proof.Proofs
end

section
/-! The frame of a report: an event raised, an archive entry or a replacement request changes the rings, the event engine, host memory with
the CACHE tiles that hold it, the archive and REPLACE_REQ, and nothing else (spec 14 R409, R414, R418, R422). -/

namespace Sys2Proof.Machine

/-- From one state to the other only reports have been made. -/
def State.onlyReports (s t : State) : Prop :=
  t = { s with
    cores := t.cores, hostOwned := t.hostOwned, hostMem := t.hostMem, hevWr := t.hevWr, hevDrop := t.hevDrop, msix := t.msix
    evPending := t.evPending, evStore := t.evStore, archive := t.archive, archWr := t.archWr, replaceReq := t.replaceReq }

section
variable {s t : State}

theorem State.onlyReports_refl (s : State) : s.onlyReports s := rfl

theorem State.onlyReports.trans {u : State} (h : s.onlyReports t) (h' : t.onlyReports u) : s.onlyReports u := by
  unfold State.onlyReports at *
  rw [h', h]

theorem foldl_onlyReports {α : Type} {f : State → α → State} (hf : ∀ (u : State) (a : α), u.onlyReports (f u a)) (l : List α) (s : State) :
    s.onlyReports (l.foldl f s) := by
  induction l generalizing s with
  | nil => exact s.onlyReports_refl
  | cons a l ih => exact (hf s a).trans (ih _)

theorem ite_onlyReports {p : Prop} [Decidable p] {u : State} (ht : s.onlyReports t) (hu : s.onlyReports u) :
    s.onlyReports (if p then t else u) := by
  split
  · exact ht
  · exact hu

/-- The relation as the equation that it is. -/
theorem State.onlyReports.eq (h : s.onlyReports t) : t = { s with
    cores := t.cores, hostOwned := t.hostOwned, hostMem := t.hostMem, hevWr := t.hevWr, hevDrop := t.hevDrop, msix := t.msix
    evPending := t.evPending, evStore := t.evStore, archive := t.archive, archWr := t.archWr, replaceReq := t.replaceReq } := h

theorem State.onlyReports.fencePorts (h : s.onlyReports t) : t.fencePorts = s.fencePorts := by rw [h.eq]
theorem State.onlyReports.funcReadyL (h : s.onlyReports t) : t.funcReadyL = s.funcReadyL := by rw [h.eq]
theorem State.onlyReports.ports (h : s.onlyReports t) : t.ports = s.ports := by rw [h.eq]
theorem State.onlyReports.silent (h : s.onlyReports t) : t.silent = s.silent := by rw [h.eq]
theorem State.onlyReports.lid (h : s.onlyReports t) : t.lid = s.lid := by rw [h.eq]
theorem State.onlyReports.jmax (h : s.onlyReports t) : t.jmax = s.jmax := by rw [h.eq]

variable (s)

theorem onlyReports_hostGive (half : Nat) : s.onlyReports (s.hostGive half) := by
  unfold State.hostGive
  split
  · exact s.onlyReports_refl
  · exact State.onlyReports.trans (t := { s with hostOwned := s.hostOwned.del half }) rfl
      (foldl_onlyReports (f := fun s i => s.dropL1 _ (hostL1Key (8 * half + i))) (fun _ _ => rfl) _ _)

theorem onlyReports_hostPut (ba : Nat) (bs : List Byte) : s.onlyReports (s.hostPut ba bs) :=
  (ite_onlyReports (foldl_onlyReports (fun u _ => onlyReports_hostGive u _) _ s) s.onlyReports_refl).trans rfl

theorem onlyReports_hostRing (kind key : Nat) (p : Dword) (launch : Nat) : s.onlyReports (s.hostRing kind key p launch) := by
  unfold State.hostRing
  dsimp only
  split
  · have hput := onlyReports_hostPut s (s.hevBase.toNat / 64 * 64 + 64 * (s.hevWr.toNat % 2 ^ clamp 6 16 (natBits s.hevCtl.toNat 4 0)))
      (bytesLE 1 kind ++ [0] ++ bytesLE 2 (key % 65536) ++ bytesLE 4 launch ++ bytesLE 8 s.time ++ bytesLE 8 p.toNat ++
        List.replicate 40 0)
    generalize s.hostPut _ _ = u at hput ⊢
    exact hput.trans rfl
  · rfl

theorem onlyReports_engineToken (e : Event) : s.onlyReports (s.engineToken e) := ite_onlyReports rfl (ite_onlyReports rfl rfl)

theorem onlyReports_raiseEvent (kind key : Nat) (p : Dword) (launch : Nat) : s.onlyReports (s.raiseEvent kind key p launch) :=
  ite_onlyReports (onlyReports_hostRing s _ _ _ _)
    (ite_onlyReports ((onlyReports_engineToken s _).trans (onlyReports_hostRing _ _ _ _ _))
      (ite_onlyReports (onlyReports_hostRing s _ _ _ _) (onlyReports_engineToken s _)))

theorem onlyReports_archivePost (type sub unit launch : Nat) (bs : List Byte) :
    s.onlyReports (s.archivePost type sub unit launch bs) := rfl

theorem onlyReports_replaceRequest (kind unit reason : Nat) : s.onlyReports (s.replaceRequest kind unit reason) :=
  ite_onlyReports rfl rfl

theorem onlyReports_reportFence (kind unit reason : Nat) : s.onlyReports (s.reportFence kind unit reason) := by
  have hevent := (onlyReports_archivePost s 4 0 unit 0 (bytesLE 8 (kind * 2 ^ 12 + unit))).trans
    (onlyReports_raiseEvent _ 10 unit (BitVec.ofNat 64 (kind * 2 ^ 12 + unit)) 0)
  unfold State.reportFence
  dsimp only
  split
  · exact hevent
  · exact hevent.trans (onlyReports_replaceRequest _ _ _ _)

theorem onlyReports_thermal (sub sensor : Nat) : s.onlyReports (s.thermal sub sensor) := by
  unfold State.thermal
  exact (onlyReports_archivePost s _ _ _ _ _).trans (onlyReports_raiseEvent _ _ _ _ _)

/-- A port that changes state is written; one that goes down, or is fenced, leaves the routes, and the rest is reports (R422, R431). -/
theorem portTo_reports (port : Nat) (p : MuwinPort) :
    ∃ u : State, ({ s with ports := s.ports.put port p } : State).onlyReports u ∧ (s.portTo port p = u ∨ s.portTo port p = u.unroute port) := by
  refine ⟨_, (onlyReports_archivePost _ 6 0 port 0 (bytesLE 1 p.state.toNat)).trans (onlyReports_raiseEvent _ 6 port (BitVec.ofNat 64 p.stat) 0), ?_⟩
  unfold State.portTo
  dsimp only
  split
  · exact .inr rfl
  · exact .inl rfl

/-- What reports and routes leave alone stands as the port was written. -/
theorem portTo_keeps {α : Type} (g : State → α) (port : Nat) (p : MuwinPort) (hroutes : ∀ u : State, g (u.unroute port) = g u)
    (hreports : ∀ u v : State, u.onlyReports v → g v = g u) : g (s.portTo port p) = g { s with ports := s.ports.put port p } := by
  obtain ⟨u, hu, h | h⟩ := portTo_reports s port p
  · rw [h, hreports _ _ hu]
  · rw [h, hroutes, hreports _ _ hu]

@[simp] theorem portTo_ports (port : Nat) (p : MuwinPort) : (s.portTo port p).ports = s.ports.put port p :=
  portTo_keeps s State.ports port p (fun _ => rfl) fun _ _ h => h.ports

@[simp] theorem portTo_fencePorts (port : Nat) (p : MuwinPort) : (s.portTo port p).fencePorts = s.fencePorts :=
  portTo_keeps s State.fencePorts port p (fun _ => rfl) fun _ _ h => h.fencePorts

@[simp] theorem portTo_funcReadyL (port : Nat) (p : MuwinPort) : (s.portTo port p).funcReadyL = s.funcReadyL :=
  portTo_keeps s State.funcReadyL port p (fun _ => rfl) fun _ _ h => h.funcReadyL

end

end Sys2Proof.Machine
end

section
/-! The event engine and the harts, the mailbox, fences, readiness and resets (spec 14 R409, R413 to R417, R421, R430; logs 6, 11, 28
and 43), and O58. -/

namespace Sys2Proof.Machine

section
variable {s : State}

/-! ### The matching store (R409) -/

/-- A token without a partner takes an entry. -/
theorem offerToken_of_alone {i : Nat} {e : Event} (he : s.evPending[i]? = some e) (hstore : s.evStore = []) :
    s.offerToken i = { s with evPending := s.evPending.eraseIdx i, evStore := [e] } := by
  simp only [State.offerToken, he, hstore, List.find?_nil, List.length_nil, Nat.zero_lt_succ, if_true, List.nil_append]

/-- A token takes its partner's entry. -/
theorem offerToken_of_pair {i : Nat} {x e : Event} (he : s.evPending[i]? = some e)
    (hx : s.evStore.find? (fun x => x.pairs e) = some x) :
    s.offerToken i = ({ s with
      evPending := s.evPending.eraseIdx i, evStore := s.evStore.erase x, evPairs := s.evPairs ++ [(x, e)] } : State).dispatchPairs := by
  simp only [State.offerToken, he, hx]

/-- Without a pair that waits, no hart takes one. -/
theorem foldl_dispatchTo_of_none (l : List Nat) (h : s.evPairs = []) : l.foldl State.dispatchTo s = s := by
  induction l with
  | nil => rfl
  | cons i l ih =>
    have hi : s.dispatchTo i = s := by
      unfold State.dispatchTo
      rw [h]
      split
      next hp => exact absurd hp (List.cons_ne_nil _ _).symm
      · rfl
    rw [List.foldl_cons, hi, ih]

/-- A single pair goes to the first hart when that is free. -/
theorem dispatchPairs_of_free {p : Event × Event} {h : Hart} {rest : List Hart} (hp : s.evPairs = [p]) (hh : s.harts = h :: rest)
    (hfree : h.task = none) (hready : natBit s.funcReady.toNat 1 = true) :
    s.dispatchPairs = { s with harts := { h with task := some p } :: rest, evPairs := [] } := by
  have hfirst : s.dispatchTo 0 = { s with harts := { h with task := some p } :: rest, evPairs := [] } := by
    simp only [State.dispatchTo, hp, hh, List.getElem?_cons_zero, hfree, hready, Option.isSome_none, Bool.false_eq_true, Bool.not_true,
      or_self, if_false, List.set_cons_zero]
  rw [State.dispatchPairs, hh, List.length_cons, List.range_succ_eq_map, List.foldl_cons, hfirst]
  exact foldl_dispatchTo_of_none _ rfl

/-- With no pair before it, a pair that forms goes to the first hart when that is free. -/
theorem offerToken_of_free {i : Nat} {x e : Event} {h : Hart} {rest : List Hart} (he : s.evPending[i]? = some e)
    (hx : s.evStore.find? (fun x => x.pairs e) = some x) (hh : s.harts = h :: rest) (hfree : h.task = none)
    (hready : natBit s.funcReady.toNat 1 = true) (hpairs : s.evPairs = []) : s.offerToken i = { s with
      evPending := s.evPending.eraseIdx i, evStore := s.evStore.erase x, harts := { h with task := some (x, e) } :: rest } := by
  have hone : s.evPairs ++ [(x, e)] = [(x, e)] := by rw [hpairs, List.nil_append]
  rw [offerToken_of_pair he hx, hone]
  refine Eq.trans (dispatchPairs_of_free rfl hh hfree hready) ?_
  simp only [hpairs]

theorem execFirmwareTimer_of_lt {n : Nat} (h : n < 64) : execFirmwareTimer n s = .next (s.raiseEvent 4 n 0 0) := by
  rw [execFirmwareTimer, if_pos h]

/-! ### The mailbox (R413) -/

theorem execLmbGo_of_active {v : Dword} (hgo : v.getLsbD 63 = true) (hidle : s.lmbBusy = false)
    (htype : natBits v.toNat 17 16 = 1 ∨ natBits v.toNat 17 16 = 2) (hactive : (s.queue (natBits v.toNat 9 0)).state = 1)
    (hroom : s.launches.length < 256) : execLmbGo v s = .next { s with lmbBusy := true, lmbResult := 0, lmbCtl := v } := by
  have htype' : ¬ (natBits v.toNat 17 16 = 0 ∨ natBits v.toNat 17 16 = 3) := by omega
  simp only [execLmbGo, natBit_toNat, hgo, hidle, htype', hactive, hroom.not_ge, Bool.not_true, Bool.false_eq_true, or_self, ne_eq,
    not_true_eq_false, if_false]

theorem execLmbGo_of_other_type {v : Dword} (hgo : v.getLsbD 63 = true) (hidle : s.lmbBusy = false)
    (htype : natBits v.toNat 17 16 = 0 ∨ natBits v.toNat 17 16 = 3) : execLmbGo v s = .next { s with lmbResult := 4 } := by
  simp only [execLmbGo, natBit_toNat, hgo, hidle, htype, Bool.not_true, Bool.false_eq_true, or_self, if_false, if_true]

/-! ### Fences and readiness (R415, R417) -/

theorem fenceCore_of_lt {u : Nat} (h : u < 320) (r : Nat) : s.fenceCore u r = (s.fenceSome [u]).reportFence 1 u r :=
  if_neg (Nat.not_le.2 h)

theorem fenceCluster_of_lt {u : Nat} (h : u < 40) (r : Nat) :
    s.fenceCluster u r = (s.fenceSome (clusterCores u)).reportFence 2 u r := if_neg (Nat.not_le.2 h)

theorem fenceStack_of_lt {u : Nat} (h : u < 8) (r : Nat) :
    s.fenceStack u r = ({ s with fenceStacks := insertNat s.fenceStacks u } : State).reportFence 3 u r := if_neg (Nat.not_le.2 h)

theorem fencePort_fencePorts {u : Nat} (h : u < 16) (r : Nat) : (s.fencePort u r).fencePorts = insertNat s.fencePorts u := by
  rw [State.fencePort, if_neg (Nat.not_le.2 h)]
  exact (onlyReports_reportFence _ _ _ _).fencePorts.trans (portTo_fencePorts _ _ _)

theorem execFunctionReady_of_link {b : Nat} (hlo : 18 ≤ b) (hhi : b < 58) (h : natBit s.funcReady.toNat b = false) :
    execFunctionReady b s = .next (s.setReady b) := by
  rw [execFunctionReady, if_neg (by omega), if_neg (by simp only [h, Bool.false_eq_true, or_false]; omega), if_neg (by omega),
    if_neg (by omega), if_neg (by omega), if_neg (by omega)]

/-- A port is ready once its link has trained. -/
theorem execFunctionReady_of_port {p : Nat} (hp : p < 16) (hnew : natBit s.funcReadyL.toNat p = false)
    (hopen : s.fencePorts.contains p = false) (hup : (s.mport p).state = 2) :
    execFunctionReady (0x100 + p) s = .next (s.setReady (0x100 + p)) := by
  rw [execFunctionReady, if_pos (Nat.le_add_right _ _)]
  simp only [Nat.add_sub_cancel_left, hnew, hopen, hup, hp.not_ge, ne_eq, not_true_eq_false, Bool.false_eq_true, or_self, if_false]

end

end Sys2Proof.Machine

namespace Sys2Proof.Proofs
open Sys2Proof.Machine

/-- Settles O58: a pair goes to the free hart at once (`offerToken_of_free`), a fence's reports leave the fences as they are
(`fencePort_fencePorts`), and what a reset leaves is written out. -/
theorem eventsFencesAndResets : Obligations.EventsFencesAndResets := by
  intro s
  refine ⟨fun e he hstore => congrArg Host.Outcome.next (offerToken_of_alone he hstore),
    fun i x e he hx => ⟨congrArg Host.Outcome.next (offerToken_of_pair he hx), fun h rest hh hfree hready hpairs =>
      congrArg Host.Outcome.next (offerToken_of_free he hx hh hfree hready hpairs)⟩, rfl,
    fun n h => execFirmwareTimer_of_lt h, ?drop, ?result, fun v => execLmbGo_of_active, fun v => execLmbGo_of_other_type,
    fun u r h => congrArg Host.Outcome.next (fenceCore_of_lt h r), fun u r h => congrArg Host.Outcome.next (fenceCluster_of_lt h r),
    fun u r h => congrArg Host.Outcome.next (fenceStack_of_lt h r), fun u r h => ⟨_, rfl, ?port⟩,
    fun b => execFunctionReady_of_link, fun p => execFunctionReady_of_port,
    ⟨_, rfl, rfl, rfl, rfl, rfl, rfl, rfl, rfl, rfl, rfl, rfl, rfl, rfl, rfl, rfl⟩,
    ⟨_, rfl, rfl, rfl, rfl, rfl, rfl, rfl, rfl, rfl, rfl, rfl, rfl, rfl, rfl⟩, ⟨_, rfl, rfl⟩⟩
  case drop =>
    show execHevStatRead .dword s = _
    rw [execHevStatRead, hostReads_dword]
    rfl
  case result =>
    show execLmbStatRead .dword s = _
    rw [execLmbStatRead, hostReads_dword]
    rfl
  case port =>
    rw [fencePort_fencePorts h]
    exact mem_insertNat.2 (.inl rfl)

end Sys2Proof.Proofs
end

section
/-! Boot commands, attestation, power, Muwin ports and the accesses of other agents (spec 14 R390 to R394, R418 to R431; log 29), and
O59. -/

namespace Sys2Proof.Machine

section
variable {s : State}

/-! ### The security engine (R424, R426, R428) -/

theorem natBits_low_word (v : Dword) : natBits v.toNat 31 0 = v.toNat % 2 ^ 32 := by
  rw [natBits, Nat.shiftRight_zero]

/-- Outside recovery, or without GO, a boot command does nothing. -/
theorem bootCmd_of_idle {v : Dword} (h : v.getLsbD 63 = false ∨ natBits s.bootStatus.toNat 63 32 = 0) : s.bootCmd v = s := by
  rw [State.bootCmd, natBit_toNat, if_pos (by simpa using h)]

/-- In recovery what the buffer holds is parsed, and an image that verifies goes to the flash. -/
theorem bootCmd_of_recovery {v : Dword} (hgo : v.getLsbD 63 = true) (hrec : natBits s.bootStatus.toNat 63 32 ≠ 0) :
    s.bootCmd v =
      (let bs := readBytes (cellRead s.recovery) 0 (min (v.toNat % 2 ^ 32) 0x100000)
       match Config.parseImage bs with
       | none => s
       | some x =>
         if imageOk s.keySlots x then
           { s with flash := bs, bootStatus := bootWord s.keySlots 0, meas := List.replicate 8 (List.replicate 64 0) }
         else s) := by
  rw [State.bootCmd, natBit_toNat, hgo, natBits_low_word]
  exact if_neg (by simpa using hrec)

theorem execOwnerCommand_of_accepted {cmd : OwnerCmd} (hsigner : signerOk s.keySlots cmd.signer cmd.op = true)
    (hslot : slotAccepts s.keySlots cmd.signer cmd.modulus cmd.exponent cmd.signature (Config.ownerMessage cmd.op) = true) :
    execOwnerCommand cmd s = .next { s with
      keySlots := fuse s.keySlots cmd.op, bootStatus := bootWord (fuse s.keySlots cmd.op) (natBits s.bootStatus.toNat 63 32) } := by
  rw [execOwnerCommand, hsigner, hslot]
  rfl

theorem attest_of_running (h : s.attRunning = true) (v : Dword) : s.attest v = s := if_pos h

theorem attest_of_idle (h : s.attRunning = false) (v : Dword) :
    s.attest v = { s with attCmd := v &&& 0x7FFFFFFFFFFFFFFF, attRunning := decide (v = 1) } := by
  rw [State.attest, h, setField_top_zero]
  rfl

theorem execQuoteComplete_of_running (h : s.attRunning = true) : ∃ t : State, execQuoteComplete s = .next t ∧
    t.attRunning = false ∧ t.attCmd.getLsbD 63 = true ∧
    t.attSig = rsaSign Config.identityModulus Config.identityExponent s.quote := by
  refine ⟨_, if_pos h, rfl, getLsbD_setField _ 63 1 63 (by decide), ?_⟩
  with_reducible rfl

/-! ### Power and temperature (R418 to R421) -/

theorem budgetFor_le (cap lid throt : Nat) : budgetFor cap lid throt ≤ 128 := (Nat.sub_le _ _).trans (Nat.min_le_left _ _)

/-- GATE lies beside BUDGET, which holds what is written. -/
theorem setBudget_powerBudget (c : Core) (b : Nat) : (c.setBudget b).powerBudget = b % 65536 :=
  (natBits_setField_other _ _ (by decide) (by decide)).trans (natBits_setField_same _ _ (by decide))

/-- Of a change made to some cores, each of them shows what the change gives, and the others what they showed. -/
theorem foldl_onCore_core {p : Core → Prop} {f : Core → Core} (hf : ∀ c, p (f c)) (l : List Nat) (k : Nat) :
    ∀ s : State, k ∈ l ∨ p (s.core k) → p ((l.foldl (fun s j => s.onCore j f) s).core k) := by
  induction l with
  | nil => exact fun s h => h.resolve_left (List.not_mem_nil)
  | cons j l ih =>
    refine fun s h => ih _ ?_
    rcases eq_or_ne k j with rfl | hkj
    · rw [State.onCore_core_same]
      exact .inr (hf _)
    · rw [State.onCore_core_other _ _ _ _ hkj]
      exact h.imp_left fun hk => (List.mem_cons.1 hk).resolve_left hkj

theorem foldl_onCore_time (f : Core → Core) (l : List Nat) (s : State) : (l.foldl (fun s k => s.onCore k f) s).time = s.time := by
  induction l generalizing s with
  | nil => rfl
  | cons k l ih => exact ih (s.onCore k f)

theorem execGovernorTick_of_due (hmode : s.assisted 5 = false) (hready : natBit s.funcReady.toNat 1 = true) (hdue : s.govAt ≤ s.time) :
    ∃ t : State, execGovernorTick s = .next t ∧ t.govAt = s.time + 1700000 ∧
      ∀ k, k < 320 → s.fenceCores.contains k = false →
        (t.core k).powerBudget = (budgetFor s.boardCap s.lid.toNat s.throt.toNat) % 65536 := by
  refine ⟨_, by rw [execGovernorTick, hmode, hready, if_neg (by simpa using hdue)], congrArg (· + millisecond) (foldl_onCore_time _ _ _),
    fun k hk hopen => ?_⟩
  refine foldl_onCore_core (p := fun c => c.powerBudget = budgetFor s.boardCap s.lid.toNat s.throt.toNat % 65536)
    (fun c => setBudget_powerBudget c _) _ k s ?_
  by_cases hsame : (s.core k).powerBudget = budgetFor s.boardCap s.lid.toNat s.throt.toNat
  · have hle := budgetFor_le s.boardCap s.lid.toNat s.throt.toNat
    exact .inr (hsame.trans (Nat.mod_eq_of_lt (by omega)).symm)
  · exact .inl (List.mem_filter.2 ⟨List.mem_range.2 hk, by simp only [hopen, bne_iff_ne.2 hsame, Bool.not_false, Bool.and_self]⟩)

/-- Below both shutdown limits the readings ask for nothing. -/
theorem thermalLimits_of_below (h : s.lid.toNat < 1520) (hj : s.jmax.toNat < 1680) (sensor : Nat) (b : Bool) :
    s.thermalLimits sensor b = s := by
  have hnone : s.shutdownLimit b = none := by simp [State.shutdownLimit, h.not_ge, hj.not_ge]
  rw [State.thermalLimits, hnone]

/-- At either limit the device is held in reset, whatever the report is of. -/
theorem thermalLimits_of_reached (h : 1520 ≤ s.lid.toNat ∨ 1680 ≤ s.jmax.toNat) (sensor : Nat) (b : Bool) :
    (s.thermalLimits sensor b).heldInReset = true := by
  have hsome : ∃ sub, s.shutdownLimit b = some sub := by
    unfold State.shutdownLimit
    dsimp only
    split
    next => exact ⟨_, rfl⟩
    next hnot =>
      rw [if_pos ?_]
      · exact ⟨_, rfl⟩
      · rcases h with h | h
        · exact decide_eq_true h
        · simp only [h, true_and, not_or, Bool.not_eq_true', decide_eq_false_iff_not, not_not] at hnot
          exact decide_eq_true hnot.2
  obtain ⟨sub, hsub⟩ := hsome
  rw [State.thermalLimits, hsub]

/-- The state with new readings. -/
def State.withReadings (s : State) (lid jmax : Nat) : State :=
  { s with lid := BitVec.ofNat 16 lid, jmax := BitVec.ofNat 16 jmax }

/-- Readings within their registers are held as they are. -/
theorem withReadings_toNat {lid jmax : Nat} (hlid : lid < 65536) (hjmax : jmax < 65536) :
    (s.withReadings lid jmax).lid.toNat = lid ∧ (s.withReadings lid jmax).jmax.toNat = jmax :=
  ⟨Nat.mod_eq_of_lt hlid, Nat.mod_eq_of_lt hjmax⟩

theorem withReadings_of_below {lid jmax : Nat} (hlid : lid < 1520) (hjmax : jmax < 1680) (sensor : Nat) (b : Bool) :
    (s.withReadings lid jmax).thermalLimits sensor b = s.withReadings lid jmax := by
  obtain ⟨hl, hj⟩ := withReadings_toNat (s := s) (show lid < 65536 by omega) (show jmax < 65536 by omega)
  exact thermalLimits_of_below (hl.trans_lt hlid) (hj.trans_lt hjmax) sensor b

/-- The state in which a crossing's limits are examined: the report that new readings make, or none (R422). -/
theorem execThermalCrossing_eq (sensor lid jmax : Nat) (up : Bool) :
    execThermalCrossing sensor lid jmax up s = .next
      ((if decide (s.throt.toNat ≤ (s.withReadings lid jmax).lid.toNat) = up ∧ decide (s.throt.toNat ≤ s.lid.toNat) ≠ up then
          (s.withReadings lid jmax).thermal (if up then 1 else 0) sensor
        else s.withReadings lid jmax).thermalLimits sensor false) := rfl

/-- Readings that stay above THROT cross nothing. -/
theorem execThermalCrossing_of_above {sensor lid jmax : Nat} (hwas : s.throt.toNat ≤ s.lid.toNat) (hlid : lid < 1520)
    (hjmax : jmax < 1680) : execThermalCrossing sensor lid jmax true s = .next (s.withReadings lid jmax) := by
  rw [execThermalCrossing_eq, if_neg (by simp [hwas]), withReadings_of_below hlid hjmax]

theorem execThermalCrossing_of_rising {sensor lid jmax : Nat} (hwas : s.lid.toNat < s.throt.toNat) (hlid : lid < 1520)
    (hjmax : jmax < 1680) (his : s.throt.toNat ≤ lid) :
    execThermalCrossing sensor lid jmax true s = .next ((s.withReadings lid jmax).thermal 1 sensor) := by
  obtain ⟨hl, hj⟩ := withReadings_toNat (s := s) (show lid < 65536 by omega) (show jmax < 65536 by omega)
  have hreport := onlyReports_thermal (s.withReadings lid jmax) 1 sensor
  rw [execThermalCrossing_eq, if_pos (by simp [hl, his, hwas.not_ge]), if_pos rfl, thermalLimits_of_below]
  · rw [hreport.lid, hl]
    exact hlid
  · rw [hreport.jmax, hj]
    exact hjmax

/-- Readings at a shutdown limit hold the device in reset, whether they come with a crossing or not. -/
theorem heldInReset_of_reached {lid jmax : Nat} (h : 1520 ≤ lid ∨ 1680 ≤ jmax) (hlid : lid < 65536) (hjmax : jmax < 65536)
    {t : State} (ht : (s.withReadings lid jmax).onlyReports t) (sensor : Nat) (b : Bool) :
    (t.thermalLimits sensor b).heldInReset = true := by
  obtain ⟨hl, hj⟩ := withReadings_toNat (s := s) hlid hjmax
  refine thermalLimits_of_reached ?_ sensor b
  rw [ht.lid, ht.jmax, hl, hj]
  exact h

theorem execThermalCrossing_of_reached {sensor lid jmax : Nat} (b : Bool) (h : 1520 ≤ lid ∨ 1680 ≤ jmax) (hlid : lid < 65536)
    (hjmax : jmax < 65536) : ∃ t : State, execThermalCrossing sensor lid jmax b s = .next t ∧ t.heldInReset = true :=
  ⟨_, execThermalCrossing_eq sensor lid jmax b,
    heldInReset_of_reached h hlid hjmax (ite_onlyReports (onlyReports_thermal _ _ _) (State.onlyReports_refl _)) sensor false⟩

/-! ### Muwin ports (R415, R429 to R431) -/

theorem mport_of_ports {t : State} {p : Nat} {m : MuwinPort} (h : t.ports = s.ports.put p m) : t.mport p = m := by
  rw [State.mport, h, Table.look_put_same]
  rfl

/-- A port's readiness bit is set with a report, and nothing else changes. -/
theorem setReady_of_port (s : State) (p : Nat) : ({ s with funcReadyL := s.funcReadyL ||| BitVec.ofNat 64 (2 ^ p) } : State).onlyReports
    (s.setReady (0x100 + p)) := by
  rw [State.setReady, if_pos (Nat.le_add_right _ _), Nat.add_sub_cancel_left]
  exact onlyReports_raiseEvent _ _ _ _ _

/-- A port as its link comes up, before its readiness is looked at. -/
def MuwinPort.linked (m : MuwinPort) (peer lanes : Nat) : MuwinPort :=
  { m with ctl := setField m.ctl 0 0 1, state := 2, peer := BitVec.ofNat 12 peer, lanes := BitVec.ofNat 8 lanes, failures := 0 }

/-- The state with that port, in which every device is reachable again (log 29). -/
def State.withPortLinked (s : State) (p peer lanes : Nat) : State := { s.portTo p ((s.mport p).linked peer lanes) with silent := [] }

/-- A port that comes up is ready, if it was not before, with the peer and the lanes of its link, and makes every device reachable again
(R415, R430; log 29). -/
theorem execMuwinPortState_of_up {p : Nat} (peer lanes : Nat) (hp : p < 16) (hopen : s.fencePorts.contains p = false)
    (hen : natBit (s.mport p).ctl.toNat 0 = true) :
    ∃ t : State, execMuwinPortState p 2 peer lanes s = .next t ∧ (t.mport p).state = 2 ∧
      (t.mport p).peer = BitVec.ofNat 12 peer ∧ (t.mport p).lanes = BitVec.ofNat 8 lanes ∧ t.silent = [] ∧
      natBit t.funcReadyL.toNat p = true := by
  have htrains : s.trains (s.mport p) = true := by rw [State.trains, hen, Bool.true_or]
  have hgo : ¬ (16 ≤ p ∨ s.fencePorts.contains p ∨ 3 ≤ 2 ∨ (2 ≠ 0 ∧ !s.trains (s.mport p))) := by
    rw [hopen, htrains]
    simp [hp.not_ge]
  have hcount : (if (s.mport p).state = 1 ∧ 2 = 0 then (s.mport p).failures + 1 else if 2 = 2 then 0 else (s.mport p).failures) = 0 := by
    simp
  have hexec : execMuwinPortState p 2 peer lanes s = .next (if 2 = 2 ∧ !natBit (s.withPortLinked p peer lanes).funcReadyL.toNat p then
      (s.withPortLinked p peer lanes).setReady (0x100 + p) else s.withPortLinked p peer lanes) := by
    rw [execMuwinPortState, if_neg hgo, hcount]
    rfl
  have hports : (s.withPortLinked p peer lanes).ports = s.ports.put p ((s.mport p).linked peer lanes) := portTo_ports s p _
  have hsilent : (s.withPortLinked p peer lanes).silent = [] := rfl
  generalize s.withPortLinked p peer lanes = u at hexec hports hsilent
  by_cases hready : natBit u.funcReadyL.toNat p = true
  · refine ⟨u, by rw [hexec, if_neg (by simp [hready])], ?_⟩
    rw [mport_of_ports hports]
    exact ⟨rfl, rfl, rfl, hsilent, hready⟩
  · have hset := setReady_of_port u p
    refine ⟨u.setReady (0x100 + p), by rw [hexec, if_pos (by simp [hready])], ?_⟩
    rw [mport_of_ports (hset.ports.trans hports), hset.silent, hset.funcReadyL]
    refine ⟨rfl, rfl, rfl, hsilent, ?_⟩
    rw [natBit_toNat, BitVec.getLsbD_or, BitVec.getLsbD_ofNat, Nat.testBit_two_pow_self, Bool.and_true,
      decide_eq_true (show p < 64 by omega), Bool.or_true]

theorem execMwpStatRead_of_lt {p : Nat} (hp : p < 16) : execMwpStatRead p .dword s = .next { s with
    hostData := bytesLE 8 (s.mport p).stat, hostPoison := false, ports := s.ports.put p { s.mport p with replay := 0 } } := by
  rw [execMwpStatRead, hostReads_dword, if_pos ⟨rfl, hp⟩]

theorem execFlitReplay_of_up {p : Nat} (hp : p < 16) (hup : (s.mport p).state = 2) : execFlitReplay p s = .next { s with
    ports := s.ports.put p { s.mport p with replay := (s.mport p).replay + 1 } } := if_pos ⟨hp, hup⟩

/-! ### Accesses of other agents, and registers (R391, R392) -/

theorem execMuwinPeerAccess_of_read {a n : Nat} (h : s.opensAt a n = true) : execMuwinPeerAccess a (.read n) s = .next
    (let r := s.agentRead a n
     ({ r.1 with peerData := r.2.1, peerPoison := r.2.2 } : State)).settle := by
  rw [execMuwinPeerAccess, show s.opensAt a (memOpSize (.read n)) = true from h]
  rfl

theorem execHostBar2Access_of_write {o : Nat} {bs : List Byte} (h : s.opensAt (s.bar2 o) bs.length = true) :
    execHostBar2Access o (.write bs) s = .next
      ({ (s.accessAs .write 0).hubStore (s.bar2 o) (bs.take (Config.devBytes - s.bar2 o)) with
        hostData := [], hostPoison := false } : State).settle := by
  rw [execHostBar2Access, if_neg (by simp [MemOp.ofHost])]
  simp only [show s.opensAt (s.bar2 o) (memOpSize (.write bs)) = true from h, Bool.not_true, Bool.false_eq_true, if_false]
  rfl

/-- A read of both words of a register that a read leaves as it is returns it. -/
theorem hostReadsReg_fqRd (s : State) :
    s.hostReadsReg 0x1018 8 = { s with hostData := bytesLE 8 s.fqRd.toNat, hostPoison := false } := by
  have hread : s.hostReadsReg 0x1018 8 = { s.hostReads .dword s.fqRd.toNat with
    hostData := ((s.hostReads .dword s.fqRd.toNat).hostData.drop 0).take 8 } := rfl
  have htake : (bytesLE 8 s.fqRd.toNat).take 8 = bytesLE 8 s.fqRd.toNat := List.take_of_length_le (bytesLE_length 8 _).le
  rw [hread, hostReads_dword, List.drop_zero, htake]

/-- An access of two bytes reads zero and writes nothing. -/
theorem execRegisterWrite_of_half (a : Nat) (v : Option Dword) : ∃ t : State, execRegisterWrite a 2 v s = .next t ∧
    t = (if v.isSome then s else { s with hostData := [0, 0], hostPoison := false }) := by
  have hsize : ((2 : Nat) ≠ 4 ∧ (2 : Nat) ≠ 8) ∨ a % 2 ≠ 0 := .inl (by decide)
  cases v with
  | none => exact ⟨_, if_pos hsize, rfl⟩
  | some v => exact ⟨_, if_pos hsize, rfl⟩

end

end Sys2Proof.Machine

namespace Sys2Proof.Proofs
open Sys2Proof.Machine

/-- Settles O59: each step by its condition; what the reports of a crossing or of a port leave alone (`onlyReports`) shows the readings and
the port as they were written. -/
theorem securityPowerAndHost : Obligations.SecurityPowerAndHost := by
  intro s
  refine ⟨fun v h => congrArg Host.Outcome.next (bootCmd_of_idle h), fun v hgo hrec => ?boot, fun cmd => execOwnerCommand_of_accepted,
    fun v h => congrArg Host.Outcome.next (attest_of_running h v), fun v h => congrArg Host.Outcome.next (attest_of_idle h v),
    execQuoteComplete_of_running, execGovernorTick_of_due,
    fun sensor lid jmax hwas hlid hjmax _ => execThermalCrossing_of_above hwas hlid hjmax,
    fun sensor lid jmax => execThermalCrossing_of_rising, fun sensor lid jmax b h hlid hjmax => ⟨⟨_, rfl, ?held⟩,
      execThermalCrossing_of_reached b h hlid hjmax⟩,
    fun sensor lid jmax b hlid hjmax => congrArg Host.Outcome.next (withReadings_of_below hlid hjmax sensor b), fun sensor => rfl,
    fun p peer lanes => execMuwinPortState_of_up peer lanes, fun p => execMwpStatRead_of_lt, fun p => execFlitReplay_of_up,
    fun a n => execMuwinPeerAccess_of_read, fun o bs => execHostBar2Access_of_write, fun v => rfl, fun v => rfl, fun v => rfl,
    congrArg Host.Outcome.next (hostReadsReg_fqRd s), fun v => execRegisterWrite_of_half _ v⟩
  case boot =>
    have hboot := bootCmd_of_recovery hgo hrec
    refine ⟨fun x hx hok => congrArg Host.Outcome.next (hboot.trans ?_), fun x hx hok => congrArg Host.Outcome.next (hboot.trans ?_),
      fun hx => congrArg Host.Outcome.next (hboot.trans ?_)⟩
    · simp only [hx, hok, if_true]
    · simp only [hx, hok, Bool.false_eq_true, if_false]
    · simp only [hx]
  case held => exact heldInReset_of_reached h hlid hjmax (State.onlyReports_refl _) sensor b

end Sys2Proof.Proofs
end

section
/-! The roster of launches and graphs: reading a graph's image, reserving, seeding and whatever the hub die reports meanwhile change what a
launch or a graph holds, and neither start nor end one (spec 12 R341 to R349; 13 R369 to R377). -/

namespace Sys2Proof.Machine

/-- The launches by their ids, each with whether it is a graph's, and the running graphs by their launches. -/
def State.roster (s : State) : List (Nat × Bool) × List Nat := (s.launches.map (fun l => (l.id, l.graph)), s.graphs.map Graph.launch)

theorem roster_of_work {s t : State} (h : t.work = s.work) : t.roster = s.roster :=
  congrArg (fun x : List Launch × List Graph × List Workgroup =>
    (x.1.map (fun l => (l.id, l.graph)), x.2.1.map Graph.launch)) h

theorem foldl_roster {α : Type} {f : State → α → State} (hf : ∀ u a, (f u a).roster = u.roster) (l : List α) (s : State) :
    (l.foldl f s).roster = s.roster := by
  induction l generalizing s with
  | nil => rfl
  | cons a l ih => exact (ih (f s a)).trans (hf s a)

/-- A loop that carries something beside the state. -/
theorem foldl_fst_roster {α β : Type} {f : State × β → α → State × β} (hf : ∀ x a, (f x a).1.roster = x.1.roster) (l : List α)
    (x : State × β) : (l.foldl f x).1.roster = x.1.roster := by
  induction l generalizing x with
  | nil => rfl
  | cons a l ih => exact (ih (f x a)).trans (hf x a)

/-- A branch whose answer holds more than the state. -/
theorem ite_roster_fst {α : Type} {p : Prop} [Decidable p] {s : State} {x y : State × α} (hx : x.1.roster = s.roster)
    (hy : y.1.roster = s.roster) : (if p then x else y).1.roster = s.roster := by
  split
  · exact hx
  · exact hy

theorem ite_roster {p : Prop} [Decidable p] {s t u : State} (ht : t.roster = s.roster) (hu : u.roster = s.roster) :
    (if p then t else u).roster = s.roster := by
  split
  · exact ht
  · exact hu

section
variable (s : State)

/-! ### Changes of one launch, and of one graph -/

theorem onLaunch_roster (id : Nat) {f : Launch → Launch} (hf : ∀ l, ((f l).id, (f l).graph) = (l.id, l.graph)) :
    (s.onLaunch id f).roster = s.roster := by
  refine congrArg (fun l => (l, s.graphs.map Graph.launch)) (List.map_map.trans (List.map_congr_left fun l _ => ?_))
  show (fun l : Launch => (l.id, l.graph)) (if l.id = id then f l else l) = _
  split
  · exact hf l
  · rfl

theorem onGraph_roster (id : Nat) {f : Graph → Graph} (hf : ∀ g : Graph, g.launch = id → (f g).launch = id) :
    (s.onGraph id f).roster = s.roster := by
  refine congrArg (fun l => (s.launches.map (fun l => (l.id, l.graph)), l)) (List.map_map.trans (List.map_congr_left fun g _ => ?_))
  show (if g.launch = id then f g else g).launch = g.launch
  split
  next h => exact (hf g h).trans h.symm
  · rfl

/-! ### Records, holds and the hub die's accesses (R369 to R377, R400)

A definition whose answer is more than the state is put in by its equation, and the call that it turns on is generalized at once: with
`unfold` the kernel would compute the call to compare the answers' states. -/

theorem fqWrite_roster (r : FaultRec) (hold : Option Nat) : (s.fqWrite r hold).roster = s.roster := by
  have hput : ∀ b pa bs, (if natBit s.fqBase.toNat 63 = b then s.hostPut pa bs else s.hubStoreBeside pa bs).work = s.work :=
    fun b pa bs => ite_work (hostPut_work s pa bs) (hubStoreBeside_work s pa bs)
  unfold State.fqWrite
  refine (roster_of_work (raiseEvent_work _ _ _ _ _)).trans ?_
  have hrec := roster_of_work (hput true (natBits s.fqBase.toNat 51 12 * 4096 + 64 * (s.fqWr.toNat % s.fqEntries))
    ({ r with seq := some s.fqWr.toNat } : FaultRec).bytes)
  dsimp only
  generalize (if natBit s.fqBase.toNat 63 = true then _ else _ : State) = u at hrec ⊢
  split
  · refine (onLaunch_roster _ _ fun l => ?_).trans hrec
    split <;> rfl
  · exact hrec

theorem fqPost_roster (r : FaultRec) (hold : Option Nat) : (s.fqPost r hold).roster = s.roster :=
  ite_roster (ite_roster rfl rfl) (fqWrite_roster s r hold)

theorem hold_roster (die ctx va : Nat) (i : HeldItem) (r : FaultRec) : (s.hold die ctx va i r).roster = s.roster :=
  ite_roster rfl (ite_roster rfl (fqPost_roster _ _ _))

theorem atsWait_roster (die ctx va : Nat) (i : HeldItem) : (s.atsWait die ctx va i).roster = s.roster := ite_roster rfl rfl

theorem hubTranslate_roster (launch ctx va : Nat) (rd wr : Bool) : (s.hubTranslate launch ctx va rd wr).1.roster = s.roster := by
  have hwalk : ((s.accessAs .none launch).walk ctx va).1.roster = s.roster := roster_of_work (walk_work (s.accessAs .none launch) ctx va)
  rw [State.hubTranslate]
  generalize (s.accessAs .none launch).walk ctx va = r at hwalk ⊢
  obtain ⟨u, x⟩ := r
  cases x with
  | page | absent | denied => exact hwalk
  | ats =>
    dsimp only
    split <;> exact hwalk

theorem hubPlace_roster (ctx va : Nat) (rd wr : Bool) (i : HeldItem) : (s.hubPlace ctx va rd wr i).1.roster = s.roster := by
  rw [State.hubPlace.eq_def]
  generalize hr : s.hubTranslate _ ctx va rd wr = r
  have htr : r.1.roster = s.roster := hr ▸ hubTranslate_roster s _ ctx va rd wr
  obtain ⟨u, x⟩ := r
  cases x with
  | page e =>
    dsimp only
    split
    · split <;> exact htr
    · split <;> exact htr
    · exact htr
  | absent => exact (hold_roster _ _ _ _ _ _).trans htr
  | ats => exact (atsWait_roster _ _ _ _ _).trans htr
  | denied => exact (fqPost_roster _ _ _).trans htr

theorem hubReadAs_roster (kind : AccessKind) (launch : Nat) (q : Place) (n : Nat) : (s.hubReadAs kind launch q n).1.roster = s.roster := by
  cases q with
  | dev pa => exact roster_of_work ((settle_work _).trans (hubFetch_work (s.accessAs kind launch) pa n))
  | host | remote | spad => rfl

theorem hubWriteAs_roster (kind : AccessKind) (launch : Nat) (q : Place) (bs : List Byte) :
    (s.hubWriteAs kind launch q bs).roster = s.roster := by
  cases q with
  | dev pa => exact roster_of_work ((settle_work _).trans (hubStore_work (s.accessAs kind launch) pa bs))
  | host ba => exact roster_of_work (hostPut_work s ba bs)
  | remote | spad => rfl

theorem hubChunks_roster (ctx : Nat) (rd wr : Bool) (i : HeldItem) (fuel va n : Nat) :
    (s.hubChunks ctx rd wr i fuel va n).1.roster = s.roster := by
  induction fuel generalizing s va n with
  | zero => rfl
  | succ fuel ih =>
    have hplace := hubPlace_roster s ctx va rd wr i
    rw [State.hubChunks]
    refine ite_roster_fst rfl ?_
    generalize s.hubPlace ctx va rd wr i = r at hplace ⊢
    obtain ⟨u, e | q⟩ := r
    · exact hplace
    · have hrest := (ih u (va + min n (4096 - va % 4096)) (n - min n (4096 - va % 4096))).trans hplace
      dsimp only
      generalize u.hubChunks ctx rd wr i fuel _ _ = r at hrest ⊢
      obtain ⟨w, e | l⟩ := r <;> exact hrest

theorem hubSpan_roster (ctx va n : Nat) (rd wr : Bool) (i : HeldItem) : (s.hubSpan ctx va n rd wr i).1.roster = s.roster :=
  hubChunks_roster s ctx rd wr i _ va n

theorem hubReadAll_roster (kind : AccessKind) (launch : Nat) (l : List (Place × Nat)) :
    (s.hubReadAll kind launch l).1.roster = s.roster := by
  induction l generalizing s with
  | nil => rfl
  | cons x rest ih => exact (ih _).trans (hubReadAs_roster s kind launch x.1 x.2)

theorem devPoison_roster (die n : Nat) : (s.devPoison die n).roster = s.roster :=
  roster_of_work (ite_work (fenceSense_work s n) (getM_work s die n false))

theorem hubPut_roster (p : Place) (bs : List (Byte × Bool)) : (s.hubPut p bs).roster = s.roster := by
  have hwrite := hubWriteAs_roster s .write 0 p (bs.map (fun b => b.1))
  cases p with
  | dev pa => exact ite_roster ((devPoison_roster _ _ _).trans hwrite) hwrite
  | host | remote | spad => exact hwrite

theorem controlWrite_roster (launch ctx va : Nat) (bs : List Byte) : (s.controlWrite launch ctx va bs).roster = s.roster := by
  unfold State.controlWrite
  generalize bs.length / 4096 + 2 = fuel
  induction fuel generalizing s va bs with
  | zero => rfl
  | succ fuel ih =>
    unfold State.controlWrites
    dsimp only
    refine ite_roster rfl ((ih _ _ _).trans ?_)
    have htr := hubTranslate_roster s launch ctx va false true
    generalize s.hubTranslate launch ctx va false true = r at htr ⊢
    obtain ⟨u, x⟩ := r
    cases x with
    | page e => exact (hubWriteAs_roster _ _ _ _ _).trans htr
    | absent | denied | ats => exact htr

/-! ### The start of a graph (R341 to R346) -/

theorem freeReserves_roster (launch : Nat) : (s.freeReserves launch).roster = s.roster :=
  foldl_roster (f := fun s k => s.onCore k (fun (c : Core) => c.freeReserves launch)) (fun _ _ => rfl) _ s

theorem failStart_roster (launch : Nat) : (s.failStart launch).roster = s.roster := by
  unfold State.failStart
  refine (onGraph_roster _ _ ?_).trans ((onLaunch_roster _ _ ?_).trans (freeReserves_roster s launch))
  · exact fun _ h => h
  · exact fun _ => rfl

theorem startStop_roster (launch : Nat) (e : HubStop) : (s.startStop launch e).roster = s.roster := by
  cases e with
  | wait => rfl
  | denied | silent => exact failStart_roster s launch

theorem takeGraph_roster (id poolSize : Nat) (h : GraphHead) (table : List Byte) : (s.takeGraph id poolSize h table).roster = s.roster :=
  ite_roster (failStart_roster s id) (onGraph_roster s id fun _ hg => hg)

theorem readNodes_roster (l : Launch) (g : Graph) (h : GraphHead) : (s.readNodes l g h).roster = s.roster := by
  have hspan := hubSpan_roster s l.ctx (l.kernelVa + h.nodeOff) (32 * h.nodes) true false (.packet (doneKey l.queue l.index))
  rw [State.readNodes]
  generalize s.hubSpan l.ctx _ _ true false _ = r at hspan ⊢
  obtain ⟨u, e | tab⟩ := r
  · exact (startStop_roster _ _ _).trans hspan
  · exact (takeGraph_roster _ _ _ _ _).trans ((hubReadAll_roster _ _ _ _).trans hspan)

theorem readGraph_roster (l : Launch) (g : Graph) : (s.readGraph l g).roster = s.roster := by
  have hafter : ∀ (u : State) (h : Option GraphHead), (u.afterHead l g h).roster = u.roster := fun u h => by
    cases h with
    | none => exact failStart_roster u _
    | some h => exact readNodes_roster u l g h
  have hhead : (s.readHead l).1.roster = s.roster := hubSpan_roster s _ _ _ _ _ _
  rw [State.readGraph]
  generalize s.readHead l = r at hhead ⊢
  obtain ⟨u, e | hd⟩ := r
  · exact (startStop_roster _ _ _).trans hhead
  · exact (hafter _ _).trans ((hubReadAll_roster _ _ _ _).trans hhead)

variable {s}

theorem reserveNode_roster {launch i : Nat} {n : GNode} {t : State} (h : s.reserveNode launch i n = some t) : t.roster = s.roster := by
  unfold State.reserveNode at h
  split at h
  · dsimp only at h
    split at h
    · exact absurd h (Option.some_ne_none t).symm
    · rw [← Option.some.inj h]
      rfl
  · obtain ⟨k, -, rfl⟩ := Option.map_eq_some_iff.1 h
    rfl

theorem reserveNodes_roster {launch i : Nat} {l : List GNode} {t : State} (h : s.reserveNodes launch i l = some t) :
    t.roster = s.roster := by
  induction l generalizing s i with
  | nil => rw [← Option.some.inj h]
  | cons n rest ih =>
    obtain ⟨u, hu, ht⟩ := Option.bind_eq_some_iff.1 h
    exact (ih ht).trans (reserveNode_roster hu)

theorem take_launch {g g' : Graph} {i u : Nat} (h : g.take i = some (u, g')) : g'.launch = g.launch := by
  unfold Graph.take at h
  split at h
  · exact absurd h (Option.some_ne_none _).symm
  · dsimp only at h
    split at h
    · rw [← (Prod.mk.inj (Option.some.inj h)).2]
      rfl
    · split at h
      · rw [← (Prod.mk.inj (Option.some.inj h)).2]
        rfl
      · exact absurd h (Option.some_ne_none _).symm

theorem takeSeeds_launch {g g' : Graph} {n : Nat} {us : List Nat} (h : g.takeSeeds n = some (us, g')) : g'.launch = g.launch := by
  induction n generalizing g us with
  | zero => rw [← (Prod.mk.inj (Option.some.inj h)).2]
  | succ n ih =>
    unfold Graph.takeSeeds at h
    split at h
    · exact absurd h (Option.some_ne_none _).symm
    next htake =>
      obtain ⟨r, hr, hpair⟩ := Option.map_eq_some_iff.1 h
      obtain ⟨-, rfl⟩ := Prod.mk.inj hpair
      exact (ih hr).trans (take_launch htake)

variable (s)

theorem copySeed_roster (places : List (Place × Nat)) (bs : List (Byte × Bool)) : (s.copySeed places bs).roster = s.roster := by
  induction places generalizing s bs with
  | nil => rfl
  | cons x rest ih => exact (ih _ _).trans (foldl_roster (fun u _ => hubPut_roster u _ _) _ s)

theorem enqueue_roster (launch i u depth : Nat) : (s.enqueue launch i u depth).roster = s.roster := by
  unfold State.enqueue
  split
  · refine (onGraph_roster _ _ ?_).trans (controlWrite_roster s _ _ _ _)
    exact fun _ hg => hg
  · rfl

/-- The seeds are taken, copied and enqueued, or the start waits or fails (R344). -/
theorem seedGraph_roster (l : Launch) {g : Graph} (hg : g.launch = l.id) : (s.seedGraph l g).roster = s.roster := by
  unfold State.seedGraph
  dsimp only
  split
  · exact failStart_roster s _
  · split
    · exact failStart_roster s _
    next units taken htake =>
      have htaken : taken.launch = l.id := (takeSeeds_launch htake).trans hg
      have hsrc := hubSpan_roster s l.ctx taken.seedsVa (taken.seeds * (((g.nodes[g.root]?).map GNode.record).getD 16)) true false (.seeds l.id)
      generalize s.hubSpan l.ctx taken.seedsVa _ true false _ = r at hsrc ⊢
      obtain ⟨v, e | src⟩ := r
      · exact (startStop_roster _ _ _).trans hsrc
      · dsimp only
        generalize hcopied : List.foldl _ (_, none) units.zipIdx = r
        have hdone : r.1.roster = s.roster := by
          rw [← hcopied]
          refine (foldl_fst_roster ?_ _ _).trans ((hubReadAll_roster _ _ _ _).trans hsrc)
          rintro ⟨u, _ | e⟩ ui
          · dsimp only
            have hdst := hubSpan_roster u l.ctx (taken.recordVa ui.1 0) (((g.nodes[g.root]?).map GNode.record).getD 16) false true
              (.seeds l.id)
            generalize u.hubSpan l.ctx _ _ false true _ = r at hdst ⊢
            obtain ⟨w, e | dst⟩ := r
            · exact hdst
            · exact (copySeed_roster _ _ _).trans hdst
          · rfl
        obtain ⟨u, _ | e⟩ := r
        · refine (foldl_roster (fun u _ => enqueue_roster u _ _ _ _) _ _).trans ((onGraph_roster _ _ ?_).trans hdone)
          exact fun _ _ => htaken
        · exact (startStop_roster _ _ _).trans hdone

theorem graphStart_roster (l : Launch) {g : Graph} (hg : g.launch = l.id) : (s.graphStart l g).roster = s.roster := by
  unfold State.graphStart
  refine ite_roster rfl (ite_roster (readGraph_roster s l g) (ite_roster (failStart_roster s _) (ite_roster rfl
    (ite_roster (failStart_roster s _) ?_))))
  split
  · split
    next hres => exact (seedGraph_roster _ l hg).trans (reserveNodes_roster hres)
    · rfl
  · exact seedGraph_roster s l hg

theorem launch_of_graph? {s : State} {id : Nat} {g : Graph} (h : s.graph? id = some g) : g.launch = id :=
  beq_iff_eq.1 (List.find?_some (p := fun g : Graph => g.launch == id) h)

/-- The graphs of a queue that have not started go on with their starts. -/
theorem graphStarts_roster (ls : List Launch) : (ls.foldl (fun s (l : Launch) =>
    match s.graph? l.id with
    | some g => if g.started then s else s.graphStart l g
    | none => s) s).roster = s.roster := by
  refine foldl_roster (fun u l => ?_) ls s
  split
  next g hfound => exact ite_roster rfl (graphStart_roster u l (launch_of_graph? hfound))
  · rfl

/-- A GRAPH packet that starts leaves its launch among the launches and its graph among the graphs, whatever the starts do (R405). -/
theorem execPacketGraph_of_packet {s u v : State} {q : Nat} {bs r : List Byte} {at_ : Place} (hmail : s.mailPost q 2 = none)
    (hstart : s.startable q 2 = some bs) (hroom : s.launchRoom (launchId q (s.queue q).nextPkt) = true)
    (hplace : s.hubPlace (s.queue q).ctx (bytesAt bs 16 8) true false (.packet q) = (u, .ok at_))
    (hread : u.hubRead at_ 128 = (v, r)) : ∃ t : State, execPacketGraph q s = .next t ∧
      (∃ l ∈ t.launches, l.id = launchId q (s.queue q).nextPkt ∧ l.graph = true) ∧
      ∃ g ∈ t.graphs, g.launch = launchId q (s.queue q).nextPkt := by
  have hroster : (((v.startGraph (s.packetPost q bs) r).startPacket q bs).rotate).roster =
      (v.roster.1 ++ [(launchId q (s.queue q).nextPkt, true)], v.roster.2 ++ [launchId q (s.queue q).nextPkt]) :=
    Prod.ext List.map_append List.map_append
  refine ⟨_, rfl, ?_⟩
  rw [takeRecord_of_packet hmail hstart hroom hplace hread]
  generalize (((v.startGraph (s.packetPost q bs) r).startPacket q bs).rotate) = w at hroster ⊢
  generalize ht : State.settle _ = t
  have hend : t.roster = w.roster := by
    rw [← ht]
    exact (roster_of_work (settle_work _)).trans (graphStarts_roster w _)
  obtain ⟨hlaunches, hgraphs⟩ := Prod.mk.inj (hend.trans hroster)
  obtain ⟨l, hl, hid⟩ := List.mem_map.1 (hlaunches ▸ List.mem_append_right _ List.mem_cons_self)
  obtain ⟨g, hg, hgl⟩ := List.mem_map.1 (hgraphs ▸ List.mem_append_right _ List.mem_cons_self)
  exact ⟨⟨l, hl, Prod.mk.inj hid⟩, g, hg, hgl⟩

end

end Sys2Proof.Machine
end

section
/-! Requests to stop and their ends, resumption, quanta, the launcher's tick and the end of graphs (spec 12 R343 to R360; 13 R383 to R389;
14 R405, R406; logs 25, 26 and 51), and O56. -/

namespace Sys2Proof.Machine

section
variable {s u : State} {id : Nat} {l : Launch} {g : Graph}

/-! ### Requests to stop (R383, R406) -/

theorem execLoadPreempt_of_victim (hl : s.launch? id = some l) (hgraph : l.graph = false) (hlive : s.completing l = false)
    (hruns : l.stopped = false) (hvictim : s.victims.any (fun (v : Launch) => v.id == id) = true) (hidle : l.preempt = 0)
    (hdepth : s.depthOf l = 2) : execLoadPreempt id s = .next (s.askStop l 2) := by
  simp only [execLoadPreempt, hl, hgraph, hlive, hruns, hvictim, hidle, hdepth, Bool.false_eq_true, or_self, if_false, OfNat.zero_ne_ofNat,
    Bool.not_false, and_self, if_true]

theorem execWorkgroupPreempt_of_victim (hl : s.launch? id = some l) (hgraph : l.graph = false) (hlive : s.completing l = false)
    (hruns : l.stopped = false) (hvictim : s.victims.any (fun (v : Launch) => v.id == id) = true) (hidle : l.preempt = 0)
    (hdepth : s.depthOf l = 1) : execWorkgroupPreempt id s = .next (s.askStop l 1) := by
  simp only [execWorkgroupPreempt, hl, hgraph, hlive, hruns, hvictim, hidle, hdepth, Bool.false_eq_true, or_self, if_false, zero_ne_one,
    Bool.not_false, and_self, if_true]

theorem execGraphPreempt_of_victim (hl : s.launch? id = some l) (hg : s.graph? id = some g) (hlive : s.completing l = false)
    (hopen : l.status = none) (hstarted : g.started = true) (hidle : l.preempt = 0) (hruns : l.stopped = false)
    (hvictim : s.victims.any (fun (v : Launch) => v.id == id) = true) :
    (s.depthOf l = 1 → execGraphPreempt id .workgroup s = .next (s.askStop l 1)) ∧
      (s.depthOf l = 2 → execGraphPreempt id .load s = .next (s.askStop l 2)) := by
  constructor <;> intro hdepth <;>
    simp only [execGraphPreempt, hl, hg, hlive, hopen, hstarted, hidle, hruns, hvictim, hdepth, Bool.not_true, Bool.false_eq_true,
      Option.isSome_none, OfNat.one_ne_ofNat, OfNat.ofNat_ne_zero, Nat.one_ne_zero, OfNat.zero_ne_ofNat, zero_ne_one, or_self, if_false,
      Bool.not_false, and_self, if_true]

theorem execLaunchPreempt_of_victim {q : Nat} (h : s.victims.any (fun (l : Launch) => l.queue == q && s.depthOf l == 0) = true) :
    execLaunchPreempt q s = .next (s.askQueue q) := if_pos h

/-! ### Ends of pre-emptions (R359, R383, R384) -/

theorem execLoadPreempt_of_drained {opened : Bool} (hl : s.launch? id = some l) (hgraph : l.graph = false) (hlive : s.completing l = false)
    (hasked : l.preempt = 2) (hdrained : (s.coresOf id).all (fun k => s.drainedFor k id) = true)
    (hareas : s.areasOpen l = (u, opened)) :
    execLoadPreempt id s = .next (if opened then (u.saveAll l).preempted l 2 else u).settle := by
  simp only [execLoadPreempt, hl, hgraph, hlive, hasked, hdrained, hareas, Bool.false_eq_true, or_self, if_false, if_true, Bool.not_true]
  cases opened <;> rfl

theorem execWorkgroupPreempt_of_retired (hl : s.launch? id = some l) (hgraph : l.graph = false) (hlive : s.completing l = false)
    (hasked : l.preempt = 1) (hretired : l.running = []) (hwrite : s.writeNextWg l = (u, true)) :
    execWorkgroupPreempt id s = .next (u.preempted l 1).settle := by
  simp only [execWorkgroupPreempt, hl, hgraph, hlive, hasked, hretired, hwrite, Bool.false_eq_true, or_self, if_false, if_true,
    List.isEmpty_nil, Bool.not_true]

theorem execGraphPreempt_of_retired (hl : s.launch? id = some l) (hg : s.graph? id = some g) (hlive : s.completing l = false)
    (hopen : l.status = none) (hstarted : g.started = true) (hasked : l.preempt = 1) (hretired : g.runningGroups = 0) :
    execGraphPreempt id .workgroup s = .next
      (((((s.onGraph id (fun (g : Graph) => { g with waiters := [], savedAt := s.time })).writeStats l g).freeReserves id).preempted
        l 1).settle) := by
  simp only [execGraphPreempt, hl, hg, hlive, hopen, hstarted, hasked, hretired]
  rfl

/-! ### Resumption and turns (R388, R406) -/

/-- A stopped launch that may run goes on, when every core restores what its save area holds. -/
theorem execRestore_of_areas {x t : State} {areas : List (Saved × AreaImage)} (hl : s.launch? id = some l) (hstopped : l.stopped = true)
    (hended : l.preempt = 0) (hmay : s.mayRun l = true)
    (hu : u = s.onQueue l.queue (fun (x : Queue) => { x with halted := false })) (hstill : u.mayRun l = true)
    (hheld : u.keyHeld (doneKey l.queue l.index) = false)
    (hread : (u.dropFenced id).readAreas l ((((u.dropFenced id).saved.filter (fun (x : Saved) => x.launch == id)).zipIdx).filter
      (fun x => !x.1.partsLeft.isEmpty)) = (x, some areas))
    (hgo : (x.restoreAll areas).bind (fun t => t.goOn l) = some t) :
    execRestore id s = .next ({ t with saved := t.saved.filter (fun (x : Saved) => x.launch != id) } : State).settle := by
  subst hu
  simp only [execRestore, hl, hmay, if_true, hstopped, hended, hstill, hheld, hread, hgo, Bool.not_true, ne_eq, not_true_eq_false,
    Bool.false_eq_true, or_self, if_false]

/-- A turn is over once its quantum has run and another queue of the priority waits. -/
theorem quantumOver_of_elapsed {q t0 : Nat} (hturn : (s.queue q).turnSince = some t0) (hlimit : natBits (s.queue q).quantum.toNat 31 0 ≠ 0)
    (hrun : t0 + 1700 * natBits (s.queue q).quantum.toNat 31 0 ≤ s.time)
    (hother : ∃ r ∈ s.rotation, r ≠ q ∧ (s.queue r).prio = (s.queue q).prio) : s.quantumOver q = true := by
  obtain ⟨r, hr, hne, hprio⟩ := hother
  have hwaits : s.rotation.any (fun r => r != q && (s.queue r).prio == (s.queue q).prio) = true :=
    List.any_eq_true.2 ⟨r, hr, by simp [hne, hprio]⟩
  simp only [State.quantumOver, hturn, hwaits, Option.elim_some, Bool.and_true, Bool.and_eq_true, bne_iff_ne, decide_eq_true_eq]
  exact ⟨hlimit, hrun⟩

theorem execQuantumExpiry_of_over {q : Nat} (h : s.quantumOver q = true) :
    execQuantumExpiry q s = .next
      ((let v := s.onQueue q (fun (x : Queue) => { x with turnSince := none })
        ({ v with rotation := v.rotation.filter (fun r => r != q) ++ [q] } : State).rotate).askQueue q) := by
  rw [execQuantumExpiry, h]
  rfl

/-! ### The launcher (R350, R360) -/

theorem execLauncherTick_of_due {die : Nat} (hdie : die < 8) (hdue : (s.lastTick.look die).getD 0 < s.time / 16 * 16) :
    execLauncherTick die s = .next (({ s with lastTick := s.lastTick.put die (s.time / 16 * 16) } : State).launchFirst die
      (s.time / 16 * 16) (if s.stopsNow then [] else s.launchOrder die)) := by
  simp only [execLauncherTick, hdie.not_ge, hdue.not_ge, or_self, if_false]

theorem launchFirst_of_eligible {die tick x size k : Nat} {n : GNode} {row : LaunchRow} {own : Option Reserve} (rest : List Nat)
    (hl : s.launch? (x / 64) = some l) (hg : s.graph? (x / 64) = some g) (hn : g.nodes[x % 64]? = some n)
    (hrow : n.eligible tick g.draining = some (row, size)) (hcore : s.groupCore l.id (x % 64) n size = some (k, own)) :
    s.launchFirst die tick (x :: rest) =
      { s.admitGroup l (x % 64) n row size k own with nextLauncher := s.nextLauncher.put die x } := by
  simp only [State.launchFirst, hl, hg, hn, hrow, hcore]

/-! ### Allocations that wait, and the end of a graph (R347, R355) -/

theorem execRecordPoolExhausted_of_late {k i : Nat} {p : Parked} (hp : (s.core k).parked[i]? = some p)
    (hg : s.graph? (s.ft p.f).launch = some g) (hwhy : p.why = .record) (hlate : p.since + 2 ^ g.poolWait ≤ s.time)
    (hnone : s.recordReady p.f = false) : execRecordPoolExhausted k i s = .next
      (((s.setCore k { s.core k with parked := (s.core k).parked.eraseIdx i }).onGraph g.launch (fun g => g.unwait p.f)).recFault
        p.f 0x50 .none ((g.waiters.find? (fun x => x.2.2.same p.f)).map (fun x => x.1))) := by
  simp only [execRecordPoolExhausted, hp, hg, hwhy, hlate, hnone, Bool.not_false, and_self, if_true]

theorem execGraphComplete_of_over (hl : s.launch? id = some l) (hg : s.graph? id = some g) (hover : g.over = true) (hopen : l.status = none)
    (hpacket : s.packetOver l = true) (hcopies : s.copies.any (fun y => y.1.launch == id) = false) :
    execGraphComplete id s = .next
      (let st := if l.aborted = 0 then 0 else 2
       (((s.writeStats l g).freeReserves id).onLaunch id (fun (l : Launch) => { l with status := some st })).finishLaunch
         { l with status := some st } st).settle := by
  simp only [execGraphComplete, hl, hg, hover, hopen, hpacket, hcopies, Bool.not_true, Bool.false_eq_true, Option.isSome_none, or_self,
    if_false]

end

end Sys2Proof.Machine

namespace Sys2Proof.Proofs
open Sys2Proof.Machine

/-- Settles O56: what each step does when its conditions hold; a graph that is taken in stays among the graphs through the starts that
follow (`execPacketGraph_of_packet`). -/
theorem preemptionAndGraphs : Obligations.PreemptionAndGraphs := by
  intro s
  refine ⟨fun id l hl hgraph hlive hruns hvictim => ⟨execLoadPreempt_of_victim hl hgraph hlive hruns hvictim,
      execWorkgroupPreempt_of_victim hl hgraph hlive hruns hvictim⟩,
    fun id l u hl hgraph hlive hasked hdrained => ⟨execLoadPreempt_of_drained hl hgraph hlive hasked hdrained,
      execLoadPreempt_of_drained hl hgraph hlive hasked hdrained⟩,
    fun id l u => execWorkgroupPreempt_of_retired, fun q => execLaunchPreempt_of_victim,
    fun id l x areas t hl hstopped hended hmay => execRestore_of_areas hl hstopped hended hmay rfl,
    fun q t0 hturn hlimit hrun hother => ⟨_, execQuantumExpiry_of_over (quantumOver_of_elapsed hturn hlimit hrun hother), rfl⟩,
    fun q bs at_ u v r => execPacketGraph_of_packet,
    fun die hdie hdue => ⟨execLauncherTick_of_due hdie hdue, ?tick⟩,
    fun k i p g => execRecordPoolExhausted_of_late, fun id l g => execGraphComplete_of_over,
    fun id l g hl hg hlive hopen hstarted => ⟨execGraphPreempt_of_victim hl hg hlive hopen hstarted,
      execGraphPreempt_of_retired hl hg hlive hopen hstarted⟩⟩
  case tick =>
    intro x rest l g n row size k own horder hl hg hn hrow hcore
    refine (execLauncherTick_of_due hdie hdue).trans (congrArg Host.Outcome.next ?_)
    rw [horder]
    exact launchFirst_of_eligible rest hl hg hn hrow hcore

end Sys2Proof.Proofs
end
